-- ==== Sys2Proof/Word.lean ====
section
/-! DEFINITION. The word types of the model and their plainest arithmetic. Everything a test could show wrong stands in `Machine/Bits.lean`. -/

namespace Sys2Proof

/-- One byte of memory. -/
abbrev Byte := BitVec 8
/-- One 32-bit register word. -/
abbrev Word := BitVec 32
/-- A 64-bit value: an address, a pair, a status double word. -/
abbrev DWord := BitVec 64
/-- A mask with one bit per lane of a warp (R1: 32 lanes). -/
abbrev LaneMask := BitVec 32
/-- A dirty-sector signature (R133: 512 bits). -/
abbrev Signature := BitVec 512

end Sys2Proof
end

