-- ==== Sys2Proof/Machine/Bits.lean ====
section
/-! DEFINITION. Bit fields, byte order, sign extension and lane masks. -/

namespace Sys2Proof.Machine

/-- Bits `[lo + n - 1 : lo]` of a value (R3: bit 0 is the least significant). -/
def field (x lo n : Nat) : Nat := x / 2 ^ lo % 2 ^ n

/-- One bit of a value. -/
def bit (x i : Nat) : Bool := x / 2 ^ i % 2 == 1

/-- The bytes of a value, lowest first (R3: little-endian). -/
def leBytes : (n : Nat) → Nat → List Byte
  | 0, _ => []
  | n + 1, x => BitVec.ofNat 8 x :: leBytes n (x / 256)

/-- The value of bytes, lowest first (R3). -/
def ofLe : List Byte → Nat
  | [] => 0
  | b :: t => b.toNat + 256 * ofLe t

/-- The signed reading of the low `n` bits of a value. -/
def signed (n x : Nat) : Int :=
  let y := x % 2 ^ n
  if 2 * y < 2 ^ n then (y : Int) else (y : Int) - (2 ^ n : Nat)

/-- An integer taken modulo `2 ^ n`. -/
def wrap (n : Nat) (x : Int) : Nat := (x % ((2 ^ n : Nat) : Int)).toNat

/-- Sign extension of the low `n` bits to `m` bits. -/
def sextNat (n m x : Nat) : Nat := wrap m (signed n x)

/-- The lanes of a mask from a first lane on, ascending. -/
def lanesFrom (m : LaneMask) : (n : Nat) → (lane : Nat) → List Nat
  | 0, _ => []
  | n + 1, l => if m.getLsbD l then l :: lanesFrom m n (l + 1) else lanesFrom m n (l + 1)

/-- The lanes of a mask, ascending. -/
def lanes (m : LaneMask) : List Nat := lanesFrom m 32 0

/-- The mask that holds exactly the listed lanes. -/
def maskOf : List Nat → LaneMask
  | [] => 0#32
  | l :: t => (1#32 <<< l) ||| maskOf t

/-- The lowest lane of a mask. -/
def lowestLane (m : LaneMask) : Option Nat := (lanes m).head?

/-- The mask of the lanes of `m` in which `f` holds. -/
def filterMask (m : LaneMask) (f : Nat → Bool) : LaneMask := maskOf ((lanes m).filter f)

/-- How many bits of a list of bits are set. -/
def countTrue : List Bool → Nat
  | [] => 0
  | b :: t => (if b then 1 else 0) + countTrue t

/-- Set bits among the low `n` bits of a value. -/
def popcount : (n : Nat) → Nat → Nat
  | 0, _ => 0
  | n + 1, x => x % 2 + popcount n (x / 2)

/-- Builds a value from its bits, given by position below `n`. -/
def fromBits (f : Nat → Bool) : (n : Nat) → Nat
  | 0 => 0
  | n + 1 => fromBits f n + (if f n then 2 ^ n else 0)

/-- Of `n` bytes, those that a byte mask picks from one value, and the others from another. -/
def blend (n mask a b : Nat) : Nat := fromBits (fun i => if bit mask (i / 8) then bit a i else bit b i) (8 * n)

/-- Bit reversal of the low `n` bits. -/
def bitReverse (n x : Nat) : Nat := fromBits (fun i => bit x (n - 1 - i)) n

/-- Leading zeros of an `n`-bit value; `n` for 0. -/
def clz (n x : Nat) : Nat := if x % 2 ^ n = 0 then n else n - 1 - Nat.log2 (x % 2 ^ n)

/-- Trailing zeros of the low `n` bits; `n` where they are all zero. -/
def ctz : (n : Nat) → Nat → Nat
  | 0, _ => 0
  | n + 1, x => if x % 2 = 1 then 0 else 1 + ctz n (x / 2)

/-- Rounds up to a multiple of a granule. -/
def roundUp (g x : Nat) : Nat := (x + g - 1) / g * g

/-- The quotient rounded up. -/
def ceilDiv (a b : Nat) : Nat := (a + b - 1) / b

/-- The least `i` below `n`, from `k` on, at which a test holds. -/
def findFrom (p : Nat → Bool) : (n : Nat) → (k : Nat) → Option Nat
  | 0, _ => none
  | n + 1, k => if p k then some k else findFrom p n (k + 1)

/-- `x` with the `n` bits from `lo` replaced. -/
def putField (x lo n v : Nat) : Nat :=
  x - field x lo n * 2 ^ lo + (v % 2 ^ n) * 2 ^ lo

/-- The head of a list that satisfies a test, with its index. -/
def findIdx (p : α → Bool) : List α → (k : Nat) → Option (Nat × α)
  | [], _ => none
  | a :: t, k => if p a then some (k, a) else findIdx p t (k + 1)

/-- The distinct elements of a list, each where it first stands. -/
def distinct (xs : List Nat) : List Nat := xs.foldl (fun acc x => if acc.contains x then acc else acc ++ [x]) []

/-- A list with the element at an index replaced. -/
def setAt (xs : List α) (i : Nat) (a : α) : List α := xs.set i a

/-- A list without the element at an index. -/
def dropAt (xs : List α) (i : Nat) : List α := xs.eraseIdx i

/-- Inserts into a list in ascending order of a key. -/
def insertBy (key : α → Nat) (a : α) : List α → List α
  | [] => [a]
  | b :: t => if key a ≤ key b then a :: b :: t else b :: insertBy key a t

/-- A list in ascending order of a key. -/
def sortBy (key : α → Nat) (xs : List α) : List α := xs.foldr (insertBy key) []

end Sys2Proof.Machine
end

