-- ==== Sys2Proof/Syntax.lean ====
section
/-! DEFINITION. The instructions of the cores and of the queue processor, and the steps of the module's other agents: one constructor per row of spec/opcode_table.json. -/

namespace Sys2Proof

/-- The 16-bit two-address form (R198): rd names v0 to v63, rs names v0 to v31 or holds imm5. -/
structure Form16 where
  rd : BitVec 6
  rs : BitVec 5
  deriving DecidableEq, Repr

/-- The 32-bit form (R200). -/
structure Form32 where
  rd : BitVec 7
  rs1 : BitVec 7
  rs2 : BitVec 7
  guard : BitVec 3
  deriving DecidableEq, Repr

/-- The 64-bit form (R202) with the modifier sub-fields of R205. -/
structure Form64 where
  rd : BitVec 8
  rs1 : BitVec 8
  rs2 : BitVec 8
  rs3 : BitVec 8
  guard : BitVec 4
  negate : Bool
  /-- Trap-on-empty bits: bit 2 for rs1, bit 1 for rs2, bit 0 for rs3 (R204). -/
  te : BitVec 3
  iv : BitVec 2
  uf : Bool
  c3 : BitVec 3
  rm : BitVec 2
  ty : BitVec 4
  deriving DecidableEq, Repr

/-- The R-type format of the queue processor's vendor instructions (R381). -/
structure FormR where
  rs2 : BitVec 5
  rs1 : BitVec 5
  funct3 : BitVec 3
  rd : BitVec 5
  deriving DecidableEq, Repr

/-- Who re-reads a shard map entry whose VERSION differs from VCHECK (R116). -/
inductive MapReader where
  /-- A frontier entry of a warp. -/
  | entry (core slot index : Nat)
  /-- A cairn that is opening. -/
  | cairn (unit slot : Nat)
  deriving DecidableEq, Repr

/-- Why a monitor fires (R282). -/
inductive MonitorCause where
  | write | invalidation | eviction
  deriving DecidableEq, Repr

/-- A register that REGISTER_WRITE names (R376, R377, R378, R382, R397, R406, R408, R412, R413, R415). -/
inductive RegTarget where
  /-- BAR0 of the physical function of a module, by byte offset. -/
  | pf (module offset : Nat)
  /-- BAR0 of a virtual function (1 to 31) of a module, by byte offset. -/
  | vf (module function offset : Nat)
  /-- The housekeeping control space of a module, by address. -/
  | control (module address : Nat)
  deriving DecidableEq, Repr

/-- One finding of the self-test (R400). -/
structure ReportEntry where
  cls : BitVec 8
  test : BitVec 8
  inst : BitVec 16
  result : BitVec 8
  spares : BitVec 16
  detail : DWord
  deriving DecidableEq, Repr

/-- What a DRAM training step measured (R406, R407). -/
structure TrainResult where
  zqdn : BitVec 6
  zqup : BitVec 6
  /-- Every byte lane found its edge (step 2) or the preamble was found (step 3). -/
  found : Bool
  wl : BitVec 32
  rg : BitVec 16
  reye : DWord
  weye : DWord
  /-- Codes at which steps 4 and 5 pass (step 6). -/
  passing : BitVec 64
  errors : Nat
  deriving DecidableEq, Repr

/-- What a fabric port saw in its training state (R408, R409). -/
structure LinkSeen where
  lanesOk : BitVec 8
  presets : BitVec 32
  codewords : Nat
  skew : Nat
  partnerModule : BitVec 5
  partnerHub : BitVec 2
  partnerPort : BitVec 4
  deriving DecidableEq, Repr

/-- Mode of the host or pool port after training (R375). -/
inductive PortMode where
  | down | pcie | cxl
  deriving DecidableEq, Repr

/-- One instruction of a core, one vendor instruction of the queue processor, or one step of another agent. The operands of such a step
(which core, which message, what the outside world supplies) stand in the machine's state, `State.args`: the opcode table gives it none. -/
inductive Instr where
  /-- `MOV_16` (R240). -/
  | mov16 (f : Form16)
  /-- `MOVI_16` (R240). -/
  | movi16 (f : Form16)
  /-- `IADD_16` (R234). -/
  | iadd16 (f : Form16)
  /-- `ISUB_16` (R234). -/
  | isub16 (f : Form16)
  /-- `IMUL_16` (R234). -/
  | imul16 (f : Form16)
  /-- `AND_16` (R234). -/
  | and16 (f : Form16)
  /-- `OR_16` (R234). -/
  | or16 (f : Form16)
  /-- `XOR_16` (R234). -/
  | xor16 (f : Form16)
  /-- `SHL_16` (R234). -/
  | shl16 (f : Form16)
  /-- `SHR_16` (R234). -/
  | shr16 (f : Form16)
  /-- `SAR_16` (R234). -/
  | sar16 (f : Form16)
  /-- `FADD_16` (R249). -/
  | fadd16 (f : Form16)
  /-- `FSUB_16` (R249). -/
  | fsub16 (f : Form16)
  /-- `FMUL_16` (R249). -/
  | fmul16 (f : Form16)
  /-- `FMIN_16` (R250). -/
  | fmin16 (f : Form16)
  /-- `FMAX_16` (R250). -/
  | fmax16 (f : Form16)
  /-- `IADD_32` (R234). -/
  | iadd32 (f : Form32)
  /-- `ISUB_32` (R234). -/
  | isub32 (f : Form32)
  /-- `IMUL_32` (R234). -/
  | imul32 (f : Form32)
  /-- `IMULH_I32_32` (R234). -/
  | imulhi32 (f : Form32)
  /-- `IMULH_N32_32` (R234). -/
  | imulhn32 (f : Form32)
  /-- `IMIN_I32_32` (R234). -/
  | imini32 (f : Form32)
  /-- `IMAX_I32_32` (R234). -/
  | imaxi32 (f : Form32)
  /-- `IMIN_N32_32` (R234). -/
  | iminn32 (f : Form32)
  /-- `IMAX_N32_32` (R234). -/
  | imaxn32 (f : Form32)
  /-- `AND_32` (R234). -/
  | and32 (f : Form32)
  /-- `OR_32` (R234). -/
  | or32 (f : Form32)
  /-- `XOR_32` (R234). -/
  | xor32 (f : Form32)
  /-- `SHL_32` (R234). -/
  | shl32 (f : Form32)
  /-- `SHR_32` (R234). -/
  | shr32 (f : Form32)
  /-- `SAR_32` (R234). -/
  | sar32 (f : Form32)
  /-- `ROT_32` (R234). -/
  | rot32 (f : Form32)
  /-- `FADD_32` (R249). -/
  | fadd32 (f : Form32)
  /-- `FSUB_32` (R249). -/
  | fsub32 (f : Form32)
  /-- `FMUL_32` (R249). -/
  | fmul32 (f : Form32)
  /-- `FMIN_32` (R250). -/
  | fmin32 (f : Form32)
  /-- `FMAX_32` (R250). -/
  | fmax32 (f : Form32)
  /-- `PFADD_32` (R257). -/
  | pfadd32 (f : Form32)
  /-- `PFMUL_32` (R257). -/
  | pfmul32 (f : Form32)
  /-- `PFMIN_32` (R257). -/
  | pfmin32 (f : Form32)
  /-- `PFMAX_32` (R257). -/
  | pfmax32 (f : Form32)
  /-- `DADD_32` (R258). -/
  | dadd32 (f : Form32)
  /-- `DMUL_32` (R258). -/
  | dmul32 (f : Form32)
  /-- `DMIN_32` (R258). -/
  | dmin32 (f : Form32)
  /-- `DMAX_32` (R258). -/
  | dmax32 (f : Form32)
  /-- `MOV_32` (R240). -/
  | mov32 (f : Form32)
  /-- `INEG_32` (R234). -/
  | ineg32 (f : Form32)
  /-- `IABS_32` (R234). -/
  | iabs32 (f : Form32)
  /-- `NOT_32` (R234). -/
  | not32 (f : Form32)
  /-- `POPC_32` (R234). -/
  | popc32 (f : Form32)
  /-- `CLZ_32` (R234). -/
  | clz32 (f : Form32)
  /-- `CTZ_32` (R234). -/
  | ctz32 (f : Form32)
  /-- `BREV_32` (R234). -/
  | brev32 (f : Form32)
  /-- `FRCP_32` (R255). -/
  | frcp32 (f : Form32)
  /-- `FRSQ_32` (R255). -/
  | frsq32 (f : Form32)
  /-- `FSQRT_32` (R255). -/
  | fsqrt32 (f : Form32)
  /-- `FEXP2_32` (R255). -/
  | fexp232 (f : Form32)
  /-- `FLOG2_32` (R255). -/
  | flog232 (f : Form32)
  /-- `BRA` (R226). -/
  | bra (f : Form64)
  /-- `BRX` (R226). -/
  | brx (f : Form64)
  /-- `CALL` (R226). -/
  | call (f : Form64)
  /-- `CALLX` (R226). -/
  | callx (f : Form64)
  /-- `RET` (R227). -/
  | ret (f : Form64)
  /-- `RECONV` (R19). -/
  | reconv (f : Form64)
  /-- `PRIO` (R230). -/
  | prio (f : Form64)
  /-- `YIELD` (R24). -/
  | yield (f : Form64)
  /-- `LOOP` (R231). -/
  | loop (f : Form64)
  /-- `NOP` (R232). -/
  | nop (f : Form64)
  /-- `EXIT` (R232). -/
  | exit (f : Form64)
  /-- `IADD_64` (R234). -/
  | iadd64 (f : Form64)
  /-- `ISUM` (R234). -/
  | isum (f : Form64)
  /-- `ISUB_64` (R234). -/
  | isub64 (f : Form64)
  /-- `INEG_64` (R234). -/
  | ineg64 (f : Form64)
  /-- `IABS_64` (R234). -/
  | iabs64 (f : Form64)
  /-- `IMUL_64` (R234). -/
  | imul64 (f : Form64)
  /-- `IMULH_64` (R234). -/
  | imulh64 (f : Form64)
  /-- `IMAD` (R234). -/
  | imad (f : Form64)
  /-- `IMADW` (R234). -/
  | imadw (f : Form64)
  /-- `IMIN_64` (R234). -/
  | imin64 (f : Form64)
  /-- `IMAX_64` (R234). -/
  | imax64 (f : Form64)
  /-- `ISAD` (R234). -/
  | isad (f : Form64)
  /-- `AND_64` (R234). -/
  | and64 (f : Form64)
  /-- `OR_64` (R234). -/
  | or64 (f : Form64)
  /-- `XOR_64` (R234). -/
  | xor64 (f : Form64)
  /-- `NOT_64` (R234). -/
  | not64 (f : Form64)
  /-- `BLUT` (R234). -/
  | blut (f : Form64)
  /-- `SHL_64` (R234). -/
  | shl64 (f : Form64)
  /-- `SHR_64` (R234). -/
  | shr64 (f : Form64)
  /-- `SAR_64` (R234). -/
  | sar64 (f : Form64)
  /-- `SHF` (R234). -/
  | shf (f : Form64)
  /-- `ROT_64` (R234). -/
  | rot64 (f : Form64)
  /-- `POPC_64` (R234). -/
  | popc64 (f : Form64)
  /-- `CLZ_64` (R234). -/
  | clz64 (f : Form64)
  /-- `CTZ_64` (R234). -/
  | ctz64 (f : Form64)
  /-- `BREV_64` (R234). -/
  | brev64 (f : Form64)
  /-- `BXTR` (R235). -/
  | bxtr (f : Form64)
  /-- `BINS` (R235). -/
  | bins (f : Form64)
  /-- `BSEL` (R235). -/
  | bsel (f : Form64)
  /-- `LEA` (R236). -/
  | lea (f : Form64)
  /-- `ICMP` (R234). -/
  | icmp (f : Form64)
  /-- `ISEL` (R234). -/
  | isel (f : Form64)
  /-- `PSET` (R237). -/
  | pset (f : Form64)
  /-- `PLUT` (R237). -/
  | plut (f : Form64)
  /-- `PMOV` (R237). -/
  | pmov (f : Form64)
  /-- `PGATH` (R238). -/
  | pgath (f : Form64)
  /-- `LPEER` (R239). -/
  | lpeer (f : Form64)
  /-- `MOV_64` (R240). -/
  | mov64 (f : Form64)
  /-- `MOVI_64` (R240). -/
  | movi64 (f : Form64)
  /-- `MOVW` (R240). -/
  | movw (f : Form64)
  /-- `S2V` (R240). -/
  | s2v (f : Form64)
  /-- `V2S` (R241). -/
  | v2s (f : Form64)
  /-- `LXCH` (R242). -/
  | lxch (f : Form64)
  /-- `SRR` (R243). -/
  | srr (f : Form64)
  /-- `SRW` (R243). -/
  | srw (f : Form64)
  /-- `FADD_64` (R249). -/
  | fadd64 (f : Form64)
  /-- `FSUB_64` (R249). -/
  | fsub64 (f : Form64)
  /-- `FMUL_64` (R249). -/
  | fmul64 (f : Form64)
  /-- `FFMA` (R249). -/
  | ffma (f : Form64)
  /-- `FMIN_64` (R250). -/
  | fmin64 (f : Form64)
  /-- `FMAX_64` (R250). -/
  | fmax64 (f : Form64)
  /-- `FCMP` (R251). -/
  | fcmp (f : Form64)
  /-- `FSEL` (R252). -/
  | fsel (f : Form64)
  /-- `FCLASS` (R253). -/
  | fclass (f : Form64)
  /-- `FRND` (R254). -/
  | frnd (f : Form64)
  /-- `FRCP_64` (R255). -/
  | frcp64 (f : Form64)
  /-- `FRSQ_64` (R255). -/
  | frsq64 (f : Form64)
  /-- `FSQRT_64` (R255). -/
  | fsqrt64 (f : Form64)
  /-- `FEXP2_64` (R255). -/
  | fexp264 (f : Form64)
  /-- `FLOG2_64` (R255). -/
  | flog264 (f : Form64)
  /-- `FSIN` (R255). -/
  | fsin (f : Form64)
  /-- `FCOS` (R255). -/
  | fcos (f : Form64)
  /-- `FTANH` (R255). -/
  | ftanh (f : Form64)
  /-- `PFADD_64` (R257). -/
  | pfadd64 (f : Form64)
  /-- `PFMUL_64` (R257). -/
  | pfmul64 (f : Form64)
  /-- `PFFMA` (R257). -/
  | pffma (f : Form64)
  /-- `PFMIN_64` (R257). -/
  | pfmin64 (f : Form64)
  /-- `PFMAX_64` (R257). -/
  | pfmax64 (f : Form64)
  /-- `DADD_64` (R258). -/
  | dadd64 (f : Form64)
  /-- `DMUL_64` (R258). -/
  | dmul64 (f : Form64)
  /-- `DFMA` (R258). -/
  | dfma (f : Form64)
  /-- `DMIN_64` (R258). -/
  | dmin64 (f : Form64)
  /-- `DMAX_64` (R258). -/
  | dmax64 (f : Form64)
  /-- `DCMP` (R258). -/
  | dcmp (f : Form64)
  /-- `CVT` (R260). -/
  | cvt (f : Form64)
  /-- `CVTQ` (R262). -/
  | cvtq (f : Form64)
  /-- `CVTD` (R261). -/
  | cvtd (f : Form64)
  /-- `PACK` (R263). -/
  | pack (f : Form64)
  /-- `UNPK` (R264). -/
  | unpk (f : Form64)
  /-- `LD` (R270). -/
  | ld (f : Form64)
  /-- `ST` (R270). -/
  | st (f : Form64)
  /-- `LDX` (R271). -/
  | ldx (f : Form64)
  /-- `STX` (R271). -/
  | stx (f : Form64)
  /-- `PREF` (R272). -/
  | pref (f : Form64)
  /-- `CCTL` (R273). -/
  | cctl (f : Form64)
  /-- `MAPS` (R274). -/
  | maps (f : Form64)
  /-- `UNMAPS` (R275). -/
  | unmaps (f : Form64)
  /-- `FLUSHS` (R275). -/
  | flushs (f : Form64)
  /-- `ATOM` (R277). -/
  | atom (f : Form64)
  /-- `ATOMC` (R278). -/
  | atomc (f : Form64)
  /-- `RED` (R279). -/
  | red (f : Form64)
  /-- `WAITV` (R280). -/
  | waitv (f : Form64)
  /-- `LMON` (R282). -/
  | lmon (f : Form64)
  /-- `LMWAIT` (R282). -/
  | lmwait (f : Form64)
  /-- `FENCE` (R283). -/
  | fence (f : Form64)
  /-- `BAR_INIT` (R285). -/
  | barInit (f : Form64)
  /-- `BAR_EXP` (R285). -/
  | barExp (f : Form64)
  /-- `BAR_ARV` (R285). -/
  | barArv (f : Form64)
  /-- `BAR_WAIT` (R285). -/
  | barWait (f : Form64)
  /-- `BAR_TEST` (R285). -/
  | barTest (f : Form64)
  /-- `CLAIM` (R287). -/
  | claim (f : Form64)
  /-- `TRES` (R291). -/
  | tres (f : Form64)
  /-- `TREL` (R292). -/
  | trel (f : Form64)
  /-- `TLD` (R295). -/
  | tld (f : Form64)
  /-- `TST` (R295). -/
  | tst (f : Form64)
  /-- `TWR` (R296). -/
  | twr (f : Form64)
  /-- `TRD` (R296). -/
  | trd (f : Form64)
  /-- `MAGREE` (R297). -/
  | magree (f : Form64)
  /-- `MSIGN` (R299). -/
  | msign (f : Form64)
  /-- `MMA` (R298). -/
  | mma (f : Form64)
  /-- `MMAQ` (R298). -/
  | mmaq (f : Form64)
  /-- `MMAS` (R298). -/
  | mmas (f : Form64)
  /-- `DMMA` (R298). -/
  | dmma (f : Form64)
  /-- `ACCZ` (R301). -/
  | accz (f : Form64)
  /-- `ACCRD` (R301). -/
  | accrd (f : Form64)
  /-- `ACCWR` (R301). -/
  | accwr (f : Form64)
  /-- `ACCRMAX` (R301). -/
  | accrmax (f : Form64)
  /-- `ACCSCL` (R301). -/
  | accscl (f : Form64)
  /-- `COPY` (R305). -/
  | copy (f : Form64)
  /-- `TXFER` (R307). -/
  | txfer (f : Form64)
  /-- `TRIG` (R310). -/
  | trig (f : Form64)
  /-- `SCBSET` (R302). -/
  | scbset (f : Form64)
  /-- `SCBCLR` (R302). -/
  | scbclr (f : Form64)
  /-- `FLOOD` (R313). -/
  | flood (f : Form64)
  /-- `ECHO` (R315). -/
  | echo (f : Form64)
  /-- `WAITF` (R316). -/
  | waitf (f : Form64)
  /-- `TESTF` (R316). -/
  | testf (f : Form64)
  /-- `CANCELF` (R317). -/
  | cancelf (f : Form64)
  /-- `FINFO` (R318). -/
  | finfo (f : Form64)
  /-- `CLAUSE` (R319). -/
  | clause (f : Form64)
  /-- `ROLE` (R322). -/
  | role (f : Form64)
  /-- `TXB` (R152). -/
  | txb (f : Form64)
  /-- `TXE` (R158). -/
  | txe (f : Form64)
  /-- `TXA` (R164). -/
  | txa (f : Form64)
  /-- `TXST` (R163). -/
  | txst (f : Form64)
  /-- `SYSCALL` (R330). -/
  | syscall (f : Form64)
  /-- `ERET` (R329). -/
  | eret (f : Form64)
  /-- `TRAP` (R330). -/
  | trap (f : Form64)
  /-- `BPT` (R330). -/
  | bpt (f : Form64)
  /-- `TLBI` (R331). -/
  | tlbi (f : Form64)
  /-- `QWAIT` (R381). -/
  | qwait (f : FormR)
  /-- `QSEED` (R381). -/
  | qseed (f : FormR)
  /-- `QENG` (R381). -/
  | qeng (f : FormR)
  /-- `QFENCE` (R381). -/
  | qfence (f : FormR)
  /-- `ILLEGAL_OPCODE` (R197). -/
  | illegalOpcode (len : Nat) (word : DWord)
  /-- `ILLEGAL_INSTRUCTION_EXCEPTION` (R381). -/
  | illegalInstructionException (word : Word)
  /-- `AGE_PROMOTION` (R23). -/
  | agePromotion
  /-- `RECONV_RELEASE` (R19). -/
  | reconvRelease
  /-- `HELD_SPLIT` (R20). -/
  | heldSplit
  /-- `VALUE_ARRIVAL` (R28). -/
  | valueArrival
  /-- `TARGET_FAULT_PARK` (R420). -/
  | targetFaultPark
  /-- `WARP_RETIRE` (R232). -/
  | warpRetire
  /-- `GROUP_PLACE` (R32). -/
  | groupPlace
  /-- `PREEMPT_REQUEST` (R33). -/
  | preemptRequest
  /-- `GROUP_RESUME` (R34). -/
  | groupResume
  /-- `LATE_RETURN` (R356). -/
  | lateReturn
  /-- `SLICE_EXPIRE` (R35). -/
  | sliceExpire
  /-- `SWAP_OUT` (R37). -/
  | swapOut
  /-- `WAKE_MESSAGE` (R38). -/
  | wakeMessage
  /-- `ROLE_SWITCH` (R30). -/
  | roleSwitch
  /-- `MATRIX_ISSUE` (R299). -/
  | matrixIssue
  /-- `MATRIX_STEP` (R300). -/
  | matrixStep
  /-- `FLOOD_MESSAGE_ARRIVE` (R52). -/
  | floodMessageArrive
  /-- `CAIRN_OPEN` (R51). -/
  | cairnOpen
  /-- `CLAUSE_DISPATCH` (R57). -/
  | clauseDispatch
  /-- `GATHER_TIMEOUT_CLOSE` (R60). -/
  | gatherTimeoutClose
  /-- `SPILL_CLAUSE_DRAIN` (R60). -/
  | spillClauseDrain
  /-- `CANCEL_ARRIVE` (R83). -/
  | cancelArrive
  /-- `ECHO_ARRIVE` (R67). -/
  | echoArrive
  /-- `CAIRN_ECHO` (R70). -/
  | cairnEcho
  /-- `CAIRN_FREE` (R51). -/
  | cairnFree
  /-- `SILENCE_EXPIRE` (R79). -/
  | silenceExpire
  /-- `MAP_REREAD` (R116). -/
  | mapReread
  /-- `SIGNATURE_ROLLOVER` (R137). -/
  | signatureRollover
  /-- `WAIT_WAKE` (R280). -/
  | waitWake
  /-- `WAIT_RECHECK` (R281). -/
  | waitRecheck
  /-- `MONITOR_FIRE` (R282). -/
  | monitorFire
  /-- `LMWAIT_TIMEOUT` (R282). -/
  | lmwaitTimeout
  /-- `BUCKET_WINDOW` (R101). -/
  | bucketWindow
  /-- `REMOTE_REQUEST` (R121). -/
  | remoteRequest
  /-- `FORWARD_RESPONSE` (R122). -/
  | forwardResponse
  /-- `PAGE_MIGRATE` (R124). -/
  | pageMigrate
  /-- `FOREIGN_WRITE` (R141). -/
  | foreignWrite
  /-- `BAR2_ACCESS` (R376). -/
  | bar2Access
  /-- `HUB_TIMEOUT` (R149). -/
  | hubTimeout
  /-- `TX_VALIDATE_CHECK` (R157). -/
  | txValidateCheck
  /-- `TOKEN_GRANT` (R166). -/
  | tokenGrant
  /-- `TOKEN_TIMEOUT` (R169). -/
  | tokenTimeout
  /-- `TILE_LANDING` (R295). -/
  | tileLanding
  /-- `ENGINE_COMPLETE` (R304). -/
  | engineComplete
  /-- `COLLECTIVE_REPORT` (R308). -/
  | collectiveReport
  /-- `TRIG_FIRE` (R310). -/
  | trigFire
  /-- `TRAP_ENTRY` (R327). -/
  | trapEntry
  /-- `FAULT_RECORD_FREE` (R120). -/
  | faultRecordFree
  /-- `FAULT_ENTRY_WRITE` (R388). -/
  | faultEntryWrite
  /-- `SCRUB_STEP` (R414). -/
  | scrubStep
  /-- `TAIL_DOORBELL` (R382). -/
  | tailDoorbell
  /-- `QCTL_ENABLE` (R382). -/
  | qctlEnable
  /-- `QCTL_STOP` (R382). -/
  | qctlStop
  /-- `QCTL_CLEAR` (R382). -/
  | qctlClear
  /-- `FDRESOLVE` (R389). -/
  | fdresolve
  /-- `ACK_PAUSED` (R391). -/
  | ackPaused
  /-- `REGISTER_WRITE` (R6). -/
  | registerWrite
  /-- `SEED_PACKET` (R387). -/
  | seedPacket
  /-- `COPY_PACKET` (R385). -/
  | copyPacket
  /-- `WAIT_PACKET` (R385). -/
  | waitPacket
  /-- `SIGNAL_PACKET` (R385). -/
  | signalPacket
  /-- `FENCE_PACKET` (R385). -/
  | fencePacket
  /-- `CANCEL_PACKET` (R385). -/
  | cancelPacket
  /-- `STAGE` (R397). -/
  | stage
  /-- `VERIFY` (R402). -/
  | verify
  /-- `ACTIVATE` (R391). -/
  | activate
  /-- `ACTIVATION_QUIESCE` (R391). -/
  | activationQuiesce
  /-- `RAISESVN` (R404). -/
  | raisesvn
  /-- `ENROL` (R404). -/
  | enrol
  /-- `KEYDIS` (R404). -/
  | keydis
  /-- `VENDOROFF` (R404). -/
  | vendoroff
  /-- `EXTEND` (R403). -/
  | extend
  /-- `SETPLIM` (R395). -/
  | setplim
  /-- `SETPOINT` (R395). -/
  | setpoint
  /-- `MIGRATE_OUT` (R392). -/
  | migrateOut
  /-- `MIGRATE_IN` (R392). -/
  | migrateIn
  /-- `RESYNC` (R417). -/
  | resync
  /-- `LINKTRAIN` (R409). -/
  | linktrain
  /-- `GET_VERSION` (R405). -/
  | getVersion
  /-- `GET_CAPABILITIES` (R405). -/
  | getCapabilities
  /-- `NEGOTIATE_ALGORITHMS` (R405). -/
  | negotiateAlgorithms
  /-- `GET_DIGESTS` (R405). -/
  | getDigests
  /-- `GET_CERTIFICATE` (R405). -/
  | getCertificate
  /-- `CHALLENGE` (R405). -/
  | challenge
  /-- `GET_MEASUREMENTS` (R405). -/
  | getMeasurements
  /-- `SET_CERTIFICATE` (R405). -/
  | setCertificate
  /-- `RAIL_STEP` (R393). -/
  | railStep
  /-- `RAIL_WINDOW_MISS` (R393). -/
  | railWindowMiss
  /-- `INPUT_LOSS` (R393). -/
  | inputLoss
  /-- `ROM_BOOT` (R401). -/
  | romBoot
  /-- `SELF_TEST` (R398). -/
  | selfTest
  /-- `POWER_SAMPLE` (R395). -/
  | powerSample
  /-- `POWER_WINDOW` (R395). -/
  | powerWindow
  /-- `DVFS_CHANGE` (R394). -/
  | dvfsChange
  /-- `TRAINING_START` (R406). -/
  | trainingStart
  /-- `TRAINING_ABORT` (R406). -/
  | trainingAbort
  /-- `TRAINING_STEP` (R407). -/
  | trainingStep
  /-- `TRAINING_STEP_TIMEOUT` (R407). -/
  | trainingStepTimeout
  /-- `LINK_START` (R408). -/
  | linkStart
  /-- `LINK_DOWN` (R408). -/
  | linkDown
  /-- `LINK_STATE_ADVANCE` (R409). -/
  | linkStateAdvance
  /-- `LINK_STATE_TIMEOUT` (R409). -/
  | linkStateTimeout
  /-- `LINK_LOSS` (R409). -/
  | linkLoss
  /-- `FUNCTION_RESET` (R391). -/
  | functionReset
  /-- `MODULE_RESET` (R6). -/
  | moduleReset
  /-- `STORE_ACKNOWLEDGEMENT` (R134). -/
  | storeAcknowledgement
  /-- `DIRTY_WRITE_BACK` (R92). -/
  | dirtyWriteBack
  /-- `ECC_ERROR` (R414). -/
  | eccError
  /-- `POWER_DOWN` (R393). -/
  | powerDown
  /-- `RAIL_LOSS` (R396). -/
  | railLoss
  /-- `PCIE_CXL_LINK_TRAINING` (R375). -/
  | pcieCxlLinkTraining
  /-- `CXL_MEM_REQUEST` (R375). -/
  | cxlMemRequest
  /-- `INVALID_PACKET_TYPE` (R386). -/
  | invalidPacketType
  /-- `BADCMD` (R397). -/
  | badcmd
  /-- `UNSUPPORTED_SPDM_REQUEST` (R405). -/
  | unsupportedSpdmRequest
  deriving DecidableEq, Repr

end Sys2Proof
end

