-- ==== Sys2Proof/Machine/Sig.lean ====
section
/-! DEFINITION. The field rules of every instruction (R198 to R223 and the modifier tables of the instruction chapters): which class each register field holds, which immediates and modifiers are legal. Decoding pulls the fields out; this file says what they mean as operands. -/

namespace Sys2Proof.Machine

/-- What a register field holds (R209). A run of `n` registers starts at a multiple of `align`. -/
inductive Slot where
  /-- The field must hold zero. -/
  | none
  /-- A run of vector registers. -/
  | v (n align : Nat)
  /-- A run of vector (0 to 191) or uniform (192 to 255) registers. -/
  | vs (n align : Nat)
  /-- A uniform register. -/
  | s
  | p | t | a | c
  /-- Extension bits: the field is legal exactly when the flag holds. -/
  | x (ok : Bool)
  deriving DecidableEq, Repr

/-- The kind of an immediate (R206); registers where there is none. -/
inductive Imm where
  | reg
  | s16
  | z16 (max : Nat)
  | h16
  | o16
  | s24
  | z24 (ok : Bool)
  | o24
  deriving DecidableEq, Repr

/-- The operand signature of an instruction. -/
structure Sig where
  rd : Slot := .none
  rs1 : Slot := .none
  rs2 : Slot := .none
  rs3 : Slot := .none
  /-- The rd field names a register that the instruction reads (R204). -/
  rdRead : Bool := false
  /-- The instruction writes the register that rd names. -/
  rdWrite : Bool := true
  /-- The legal immediate variants. -/
  ivs : List Imm := [.reg]
  /-- The modifier sub-fields hold values that the instruction accepts. -/
  mods : Bool := true
  /-- Marked W, U or P in the opcode map (R211). -/
  w : Bool := false
  u : Bool := false
  priv : Bool := false
  deriving DecidableEq, Repr

/-- The IV code of an immediate kind (R206). -/
def immCode : Imm → Nat
  | .reg => 0
  | .s16 | .z16 _ | .h16 | .o16 => 1
  | .s24 | .z24 _ | .o24 => 2

/-- The 16-bit immediate in bits [37:22] (R206): the rs2 and rs3 fields. -/
def imm16 (f : Form64) : Nat := f.rs2.toNat * 256 + f.rs3.toNat

/-- The 24-bit immediate in bits [45:22] (R206). -/
def imm24 (f : Form64) : Nat := f.rs1.toNat * 65536 + f.rs2.toNat * 256 + f.rs3.toNat

/-- A 16-bit form written as a 64-bit form: rd and a first source rd, second source rs, unguarded (R198). -/
def expand16 (f : Form16) (ty : Nat) : Form64 :=
  { rd := f.rd.setWidth 8, rs1 := f.rd.setWidth 8, rs2 := f.rs.setWidth 8, rs3 := 0#8, guard := 15#4, negate := false, te := 0#3,
    iv := 0#2, uf := false, c3 := 0#3, rm := 0#2, ty := BitVec.ofNat 4 ty }

/-- A 16-bit move written as a 64-bit form: the source is rs1 (R198, R240). -/
def expandMove16 (f : Form16) : Form64 :=
  { expand16 f 0 with rs1 := f.rs.setWidth 8, rs2 := 0#8 }

/-- A 16-bit MOVI written as a 64-bit form: imm5 sign-extended (R198, R240). -/
def expandImm16 (f : Form16) : Form64 :=
  let i := sextNat 5 24 f.rs.toNat
  { expand16 f 0 with rs1 := BitVec.ofNat 8 (i / 65536), rs2 := BitVec.ofNat 8 (i / 256), rs3 := BitVec.ofNat 8 i, iv := 2#2 }

/-- A 32-bit form written as a 64-bit form; guard value 7 selects p15 (R200). -/
def expand32 (f : Form32) (ty : Nat) : Form64 :=
  { rd := f.rd.setWidth 8, rs1 := f.rs1.setWidth 8, rs2 := f.rs2.setWidth 8, rs3 := 0#8,
    guard := if f.guard = 7#3 then 15#4 else f.guard.setWidth 4, negate := false, te := 0#3,
    iv := 0#2, uf := false, c3 := 0#3, rm := 0#2, ty := BitVec.ofNat 4 ty }

/-- Whether a modifier sub-field holds a listed value. -/
def among (n : Nat) (x : BitVec n) (l : List Nat) : Bool := l.contains x.toNat

/-- TY, C3 and RM hold listed values (R205); UF is judged by the U flag. -/
def modsIn (f : Form64) (ty c3 rm : List Nat) : Bool := among 4 f.ty ty && among 3 f.c3 c3 && among 2 f.rm rm

/-- Registers that an access of the type code needs (R209, R270): one up to 32 bits, two for 64, four for 128. -/
def tyRegs (ty : Nat) : Nat := if ty = 12 then 4 else if ty = 1 ∨ ty = 3 ∨ ty = 5 then 2 else 1

/-- Bytes of an access of the type code (R207, R270). -/
def tyBytes (ty : Nat) : Nat :=
  if ty = 6 ∨ ty = 8 ∨ ty = 10 then 1
  else if ty = 7 ∨ ty = 9 ∨ ty = 11 then 2
  else if ty = 1 ∨ ty = 3 ∨ ty = 5 then 8
  else if ty = 12 then 16 else 4

/-- A run of vector registers aligned to its own length. -/
def slotVn (n : Nat) : Slot := .v n n
/-- A run of vector or uniform registers aligned to its own length. -/
def slotVsn (n : Nat) : Slot := .vs n n

/-- A three-operand integer instruction with an optional 16-bit immediate. -/
def sigBin (f : Form64) (ivs : List Imm) (tys : List Nat) (rms : List Nat) : Sig :=
  { rd := .v 1 1, rs1 := .v 1 1, rs2 := .vs 1 1, ivs := ivs, mods := modsIn f tys [0] rms, u := true }

/-- A one-operand integer instruction. -/
def sigUn (f : Form64) (tys : List Nat) : Sig :=
  { rd := .v 1 1, rs1 := .v 1 1, mods := modsIn f tys [0] [0], u := true }

/-- A three-source integer instruction. -/
def sigTri (f : Form64) (tys c3s : List Nat) : Sig :=
  { rd := .v 1 1, rs1 := .v 1 1, rs2 := .vs 1 1, rs3 := .vs 1 1, mods := modsIn f tys c3s [0], u := true }

/-- Single-precision and packed two-source arithmetic (R246). -/
def sigF2 (f : Form64) (tys c3s rms : List Nat) (ivs : List Imm) : Sig :=
  { rd := .v 1 1, rs1 := .v 1 1, rs2 := .vs 1 1, ivs := ivs, mods := modsIn f tys c3s rms }

/-- Single-precision one-source operations (R246). -/
def sigF1 (f : Form64) (rms : List Nat) : Sig :=
  { rd := .v 1 1, rs1 := .v 1 1, mods := modsIn f [0] [0] rms }

/-- Double-precision two-source arithmetic on pairs (R258). -/
def sigD2 (f : Form64) (c3s rms : List Nat) : Sig :=
  { rd := .v 2 2, rs1 := .v 2 2, rs2 := .vs 2 2, mods := modsIn f [10] c3s rms }

/-- The four rounding-mode codes (R175). -/
def rms4 : List Nat := [0, 1, 2, 3]

/-- Width in bits of a special register, none for a number that names no register (R243). -/
def specialWidth (n : Nat) : Option Nat :=
  if n ≤ 0x008 then some 32
  else if n = 0x010 then some 64 else if n = 0x011 then some 32 else if n = 0x012 then some 64
  else if n = 0x013 then some 64 else if n = 0x014 then some 32 else if n = 0x015 then some 64
  else if n = 0x016 then some 32 else if n = 0x100 then some 32 else if n = 0x101 then some 64
  else if n = 0x102 then some 64 else if n = 0x103 then some 32 else if n = 0x104 then some 64
  else if n = 0x105 then some 32 else none

/-- The special registers that `SRW` may name: access RW (R243). -/
def specialWritable (n : Nat) : Bool :=
  n = 0x014 || n = 0x015 || n = 0x100 || n = 0x101 || n = 0x102 || n = 0x104

/-- The privileged special registers (R243, R326). -/
def specialPriv (n : Nat) : Bool := 0x100 ≤ n && n ≤ 0x105

/-- Registers of a special register's width. -/
def specialRegs (n : Nat) : Nat := match specialWidth n with | some 64 => 2 | _ => 1

/-- The rules of R259 on the x field of CVT and CVTD. -/
def cvtXOk (f : Form64) : Bool :=
  let x := f.rs3.toNat; let sf := field x 0 4; let ty := f.ty.toNat
  (!bit x 6 || ty == 7 || ty == 11) && (!bit x 5 || sf == 7 || sf == 11)

/-- The formats of CVT (R260). -/
def cvtFmts : List Nat := [0, 1, 2, 3, 4, 7, 11]

/-- Registers of a CVTD side: a pair for f64, and for a 64-bit integer under L (R259, R261). -/
def cvtdRegs (fmt : Nat) (l : Bool) : Nat := if fmt = 10 || (l && fmt = 11) then 2 else 1

/-- The pairs that CVTD converts (R261). -/
def cvtdOk (f : Form64) : Bool :=
  let x := f.rs3.toNat; let sf := field x 0 4; let ty := f.ty.toNat; let l := bit x 7
  cvtXOk f && (10 :: cvtFmts).contains ty && (10 :: cvtFmts).contains sf &&
    (if l then ty == 11 || sf == 11 else ty == 10 || sf == 10)

/-- The fields of CVTQ (R262). -/
def cvtqOk (f : Form64) : Bool :=
  let x := f.rs3.toNat
  [5, 6, 8, 9].contains f.ty.toNat && [0, 1, 2].contains (field x 0 4) && field x 5 3 == 0 && among 3 f.c3 [0, 1] &&
    (!(f.c3 == 1#3 && (f.ty == 8#4 || f.ty == 9#4)) || (f.rm == 0#2 && !bit x 4))

/-- The fields of PACK (R263). -/
def packOk (f : Form64) : Bool :=
  let x := f.rs3.toNat; let ty := f.ty.toNat
  [1, 2, 3, 4, 7].contains ty && field x 6 2 == 0 && f.c3 == 0#3 &&
    (if ty == 7 then field x 0 4 == 11 else field x 0 4 == 0) && !(bit x 5 && (ty == 1 || ty == 2))

/-- The fields of UNPK (R264). -/
def unpkOk (f : Form64) : Bool :=
  let x := f.rs3.toNat; let ty := f.ty.toNat
  [1, 2, 3, 4, 7].contains ty && field x 6 2 == 0 && !bit x 4 && f.c3 == 0#3 && f.rm == 0#2 &&
    (if ty == 7 then field x 0 4 == 0 || field x 0 4 == 11 else field x 0 4 == 0) && !(bit x 5 && (ty == 1 || ty == 2))

/-- The ordering sub-field of a memory access: the listed kinds, and a scope only with .acq or .rel (R267). -/
def ordOk (f : Form64) (kinds : List Nat) : Bool :=
  among 2 f.rm kinds && (f.rm == 1#2 || f.rm == 2#2 || f.c3 == 0#3)

/-- The operation field of ATOM and RED against the type (R276). -/
def atomOk (f : Form64) : Bool :=
  let x := f.rs3.toNat; let op := field x 0 4; let fl := bit x 4; let ty := f.ty.toNat
  ty ≤ 5 && field x 5 3 == 0 && op ≤ 8 && (!fl || (op ≤ 2 && ty ≤ 1)) && (fl || !((op == 1 || op == 2) && ty ≤ 1))

/-- The z24 of TRES: rows and columns nonzero, bit 23 zero (R291). -/
def tresImmOk (f : Form64) : Bool :=
  let i := imm24 f; field i 4 9 != 0 && field i 13 9 != 0 && !bit i 23

/-- The operand of ECHO by the combiner code (R314). -/
def echoSlot (code : Nat) : Slot :=
  if code = 0 ∨ code = 12 then .none
  else if code = 1 ∨ code = 3 ∨ code = 5 ∨ code = 6 ∨ code = 7 ∨ code = 8 then .vs 1 1 else .vs 2 2

/-- Block q of the accumulator instructions: modifier [9:8] at most `max`, the rest zero (R301). -/
def accMods (f : Form64) (max : Nat) : Bool := modsIn f [0] [0, 1, 2] [0] && f.c3.toNat ≤ max

/-- The 64-bit form as which an instruction executes (R198, R201); `none` for what is not a core instruction. -/
def formOf : Instr → Option Form64
  | .mov16 f => some (expandMove16 f) | .movi16 f => some (expandImm16 f)
  | .iadd16 f | .isub16 f | .imul16 f => some (expand16 f 2)
  | .and16 f | .or16 f | .xor16 f | .shl16 f | .shr16 f | .sar16 f => some (expand16 f 0)
  | .fadd16 f | .fsub16 f | .fmul16 f | .fmin16 f | .fmax16 f => some (expand16 f 0)
  | .iadd32 f | .isub32 f | .imul32 f | .imulhi32 f | .imini32 f | .imaxi32 f => some (expand32 f 2)
  | .imulhn32 f | .iminn32 f | .imaxn32 f => some (expand32 f 4)
  | .and32 f | .or32 f | .xor32 f | .shl32 f | .shr32 f | .sar32 f | .rot32 f => some (expand32 f 0)
  | .fadd32 f | .fsub32 f | .fmul32 f | .fmin32 f | .fmax32 f => some (expand32 f 0)
  | .pfadd32 f | .pfmul32 f | .pfmin32 f | .pfmax32 f => some (expand32 f 1)
  | .dadd32 f | .dmul32 f | .dmin32 f | .dmax32 f => some (expand32 f 10)
  | .mov32 f | .not32 f | .popc32 f | .clz32 f | .ctz32 f | .brev32 f => some (expand32 f 0)
  | .ineg32 f | .iabs32 f => some (expand32 f 2)
  | .frcp32 f | .frsq32 f | .fsqrt32 f | .fexp232 f | .flog232 f => some (expand32 f 0)
    | .bra f | .brx f | .call f | .callx f | .ret f | .reconv f | .prio f | .yield f | .loop f | .nop f | .exit f | .iadd64 f | .isum f | .isub64 f |
    .ineg64 f | .iabs64 f | .imul64 f | .imulh64 f | .imad f | .imadw f | .imin64 f | .imax64 f | .isad f | .and64 f | .or64 f | .xor64 f | .not64 f |
    .blut f | .shl64 f | .shr64 f | .sar64 f | .shf f | .rot64 f | .popc64 f | .clz64 f | .ctz64 f | .brev64 f | .bxtr f | .bins f | .bsel f | .lea f |
    .icmp f | .isel f | .pset f | .plut f | .pmov f | .pgath f | .lpeer f | .mov64 f | .movi64 f | .movw f | .s2v f | .v2s f | .lxch f | .srr f | .srw f |
    .fadd64 f | .fsub64 f | .fmul64 f | .ffma f | .fmin64 f | .fmax64 f | .fcmp f | .fsel f | .fclass f | .frnd f | .frcp64 f | .frsq64 f | .fsqrt64 f |
    .fexp264 f | .flog264 f | .fsin f | .fcos f | .ftanh f | .pfadd64 f | .pfmul64 f | .pffma f | .pfmin64 f | .pfmax64 f | .dadd64 f | .dmul64 f | .dfma
    f | .dmin64 f | .dmax64 f | .dcmp f | .cvt f | .cvtq f | .cvtd f | .pack f | .unpk f | .ld f | .st f | .ldx f | .stx f | .pref f | .cctl f | .maps f |
    .unmaps f | .flushs f | .atom f | .atomc f | .red f | .waitv f | .lmon f | .lmwait f | .fence f | .barInit f | .barExp f | .barArv f | .barWait f |
    .barTest f | .claim f | .tres f | .trel f | .tld f | .tst f | .twr f | .trd f | .magree f | .msign f | .mma f | .mmaq f | .mmas f | .dmma f | .accz f
    | .accrd f | .accwr f | .accrmax f | .accscl f | .copy f | .txfer f | .trig f | .scbset f | .scbclr f | .flood f | .echo f | .waitf f | .testf f |
    .cancelf f | .finfo f | .clause f | .role f | .txb f | .txe f | .txa f | .txst f | .syscall f | .eret f | .trap f | .bpt f | .tlbi f => some f
  | .qwait _ | .qseed _ | .qeng _ | .qfence _ | .agePromotion | .reconvRelease | .heldSplit | .valueArrival | .targetFaultPark |
    .warpRetire | .groupPlace | .preemptRequest | .groupResume | .lateReturn | .sliceExpire | .swapOut | .wakeMessage | .roleSwitch |
    .matrixIssue | .matrixStep | .floodMessageArrive | .cairnOpen | .clauseDispatch | .gatherTimeoutClose | .spillClauseDrain |
    .cancelArrive | .echoArrive | .cairnEcho | .cairnFree | .silenceExpire | .mapReread | .signatureRollover | .waitWake | .waitRecheck |
    .monitorFire | .lmwaitTimeout | .bucketWindow | .remoteRequest | .forwardResponse | .pageMigrate | .foreignWrite | .bar2Access |
    .hubTimeout | .txValidateCheck | .tokenGrant | .tokenTimeout | .tileLanding | .engineComplete | .collectiveReport | .trigFire |
    .trapEntry | .faultRecordFree | .faultEntryWrite | .scrubStep | .tailDoorbell | .qctlEnable | .qctlStop | .qctlClear | .fdresolve |
    .ackPaused | .registerWrite | .seedPacket | .copyPacket | .waitPacket | .signalPacket | .fencePacket | .cancelPacket | .stage |
    .verify | .activate | .activationQuiesce | .raisesvn | .enrol | .keydis | .vendoroff | .extend | .setplim | .setpoint | .migrateOut |
    .migrateIn | .resync | .linktrain | .getVersion | .getCapabilities | .negotiateAlgorithms | .getDigests | .getCertificate |
    .challenge | .getMeasurements | .setCertificate | .railStep | .railWindowMiss | .inputLoss | .romBoot | .selfTest | .powerSample |
    .powerWindow | .dvfsChange | .trainingStart | .trainingAbort | .trainingStep | .trainingStepTimeout | .linkStart | .linkDown |
    .linkStateAdvance | .linkStateTimeout | .linkLoss | .functionReset | .moduleReset | .illegalOpcode _ _ |
    .illegalInstructionException _ | .storeAcknowledgement | .dirtyWriteBack | .eccError | .powerDown | .railLoss | .pcieCxlLinkTraining |
    .cxlMemRequest | .invalidPacketType | .badcmd | .unsupportedSpdmRequest => none

/-- The constructor of the 64-bit form that an instruction executes as, over a given form (R198, R201). -/
def wideOf (i : Instr) (f : Form64) : Instr :=
  match i with
  | .mov16 _ | .mov32 _ => .mov64 f | .movi16 _ => .movi64 f
  | .iadd16 _ | .iadd32 _ => .iadd64 f | .isub16 _ | .isub32 _ => .isub64 f | .imul16 _ | .imul32 _ => .imul64 f
  | .imulhi32 _ | .imulhn32 _ => .imulh64 f | .imini32 _ | .iminn32 _ => .imin64 f | .imaxi32 _ | .imaxn32 _ => .imax64 f
  | .and16 _ | .and32 _ => .and64 f | .or16 _ | .or32 _ => .or64 f | .xor16 _ | .xor32 _ => .xor64 f
  | .shl16 _ | .shl32 _ => .shl64 f | .shr16 _ | .shr32 _ => .shr64 f | .sar16 _ | .sar32 _ => .sar64 f | .rot32 _ => .rot64 f
  | .fadd16 _ | .fadd32 _ => .fadd64 f | .fsub16 _ | .fsub32 _ => .fsub64 f | .fmul16 _ | .fmul32 _ => .fmul64 f
  | .fmin16 _ | .fmin32 _ => .fmin64 f | .fmax16 _ | .fmax32 _ => .fmax64 f
  | .pfadd32 _ => .pfadd64 f | .pfmul32 _ => .pfmul64 f | .pfmin32 _ => .pfmin64 f | .pfmax32 _ => .pfmax64 f
  | .dadd32 _ => .dadd64 f | .dmul32 _ => .dmul64 f | .dmin32 _ => .dmin64 f | .dmax32 _ => .dmax64 f
  | .ineg32 _ => .ineg64 f | .iabs32 _ => .iabs64 f | .not32 _ => .not64 f | .popc32 _ => .popc64 f
  | .clz32 _ => .clz64 f | .ctz32 _ => .ctz64 f | .brev32 _ => .brev64 f
  | .frcp32 _ => .frcp64 f | .frsq32 _ => .frsq64 f | .fsqrt32 _ => .fsqrt64 f | .fexp232 _ => .fexp264 f | .flog232 _ => .flog264 f
  | other => other

/-- The signature of a 64-bit form (R212 to R223, R233, R246, R267, R288, R311). -/
def sig64 : Instr → Option Sig
  -- control (R212, R226, R229 to R232)
  | .bra f | .call f => some { ivs := [.o24], mods := modsIn f [0] [0] [0], rdWrite := false }
  | .brx f | .callx f => some { rs1 := .vs 2 2, mods := modsIn f [0] [0] [0], rdWrite := false }
  | .ret f | .nop f | .exit f => some { mods := modsIn f [0] [0] [0], rdWrite := false }
  | .reconv f | .yield f => some { mods := modsIn f [0] [0] [0], w := true, rdWrite := false }
  | .prio f => some { ivs := [.z16 255], mods := modsIn f [0] [0] [0], rdWrite := false }
  | .loop f => some { rd := .v 1 1, rdRead := true, ivs := [.o16], mods := modsIn f [0] [0] [0] }
  -- integer and address (R213, R233)
  | .iadd64 f | .isub64 f => some (sigBin f [.reg, .s16] [2, 4] [0, 1])
  | .isum f | .imad f | .isad f => some (sigTri f [2, 4] [0])
  | .ineg64 f => some (sigUn f [2, 4])
  | .iabs64 f => some (sigUn f [2])
  | .imul64 f | .imulh64 f | .imin64 f | .imax64 f => some (sigBin f [.reg, .s16] [2, 4] [0])
  | .imadw f => some { rd := .v 2 2, rs1 := .v 1 1, rs2 := .vs 1 1, rs3 := .vs 2 2, mods := modsIn f [2, 4] [0] [0] }
  | .and64 f | .or64 f | .xor64 f => some (sigBin f [.reg, .s16] [0] [0])
  | .not64 f | .popc64 f | .clz64 f | .ctz64 f | .brev64 f => some (sigUn f [0])
  | .blut f => some { sigTri f [] [] with mods := f.c3.toNat < 4 }
  | .shl64 f | .shr64 f | .sar64 f | .rot64 f => some (sigBin f [.reg, .z16 63] [0] [0])
  | .shf f => some (sigTri f [0] [0, 1])
  | .bxtr f => some { sigTri f [2, 4] [0] with ivs := [.reg, .z16 0x7FF] }
  | .bins f | .bsel f => some (sigTri f [0] [0])
  | .lea f => some { rd := .v 2 2, rs1 := .vs 2 2, rs2 := .vs 1 1, rs3 := .x (f.rs3.toNat < 8), ivs := [.reg, .o24], mods := modsIn f [2, 4] [0] [0], u := true }
  | .icmp f => some { rd := .p, rs1 := .v 1 1, rs2 := .vs 1 1, ivs := [.reg, .s16], mods := modsIn f [2, 4] [0, 1, 2, 3, 4, 5] [0] }
  | .isel f => some { rd := .v 1 1, rs1 := .v 1 1, rs2 := .vs 1 1, rs3 := .p, mods := modsIn f [0] [0] [0] }
  -- predicates, votes, moves (R214, R237 to R243)
  | .pset f => some { rd := .p, rs1 := .vs 1 1, mods := modsIn f [0] [0, 1] [0] }
  | .plut f => some { rd := .p, rs1 := .p, rs2 := .p, rs3 := .p, mods := f.c3.toNat < 4 }
  | .pmov f => some { rd := .p, rs1 := .p, mods := modsIn f [0] [0, 1] [0] }
  | .pgath f => some { rd := .v 1 1, rs1 := .p, mods := modsIn f [0] [0, 1, 2, 3, 4, 5] [0], u := true }
  | .lpeer f => some { rd := .v 1 1, rs1 := .v 1 1, mods := modsIn f [0] [0, 1] [0] }
  | .mov64 f => some { rd := .v 1 1, rs1 := .vs 1 1, mods := modsIn f [0] [0] [0], u := true }
  | .movi64 f => some { rd := .v 1 1, ivs := [.s24], mods := modsIn f [0] [0] [0], u := true }
  | .movw f => some { rd := .v 1 1, rdRead := f.c3 == 1#3, ivs := [.z16 65535], mods := modsIn f [0] [0, 1] [0], u := true }
  | .s2v f => some { rd := .v 1 1, rs1 := .s, mods := modsIn f [0] [0] [0] }
  | .v2s f => some { rd := .s, rs1 := .v 1 1, rs2 := .vs 1 1, ivs := [.reg, .z16 31], mods := modsIn f [0] [0] [0] }
  | .lxch f => some { rd := .v 1 1, rs1 := .v 1 1, rs2 := .vs 1 1, rs3 := .vs 1 1, mods := modsIn f [0] [0, 1, 2, 3] [0] }
  | .srr f => some { rd := slotVn (specialRegs (imm16 f)), ivs := [.z16 65535], mods := modsIn f [0] [0] [0] && (specialWidth (imm16 f)).isSome, u := true, priv := specialPriv (imm16 f) }
  | .srw f => some { rs1 := slotVsn (specialRegs (imm16 f)), ivs := [.z16 65535], mods := modsIn f [0] [0] [0] && specialWritable (imm16 f), priv := specialPriv (imm16 f), rdWrite := false }
  -- single precision (R215, R246)
  | .fadd64 f | .fsub64 f | .fmul64 f => some (sigF2 f [0] [0] rms4 [.reg, .h16])
  | .ffma f => some { sigF2 f [0] [0] rms4 [.reg] with rs3 := .vs 1 1 }
  | .fmin64 f | .fmax64 f => some (sigF2 f [0] [0, 1] [0] [.reg, .h16])
  | .fcmp f => some { sigF2 f [0] [0, 1, 2, 3, 4, 5, 6, 7] [0] [.reg, .h16] with rd := .p }
  | .fsel f => some { sigF2 f [0] [0] [0] [.reg] with rs3 := .p }
  | .fclass f | .frsq64 f | .fexp264 f | .flog264 f | .fsin f | .fcos f | .ftanh f => some (sigF1 f [0])
  | .frnd f | .frcp64 f | .fsqrt64 f => some (sigF1 f rms4)
  -- packed and double precision (R216, R246)
  | .pfadd64 f | .pfmul64 f => some (sigF2 f [1, 2] [0] rms4 [.reg])
  | .pffma f => some { sigF2 f [1, 2] [0] rms4 [.reg] with rs3 := .vs 1 1 }
  | .pfmin64 f | .pfmax64 f => some (sigF2 f [1, 2] [0, 1] [0] [.reg])
  | .dadd64 f | .dmul64 f => some (sigD2 f [0] rms4)
  | .dfma f => some { sigD2 f [0] rms4 with rs3 := .vs 2 2 }
  | .dmin64 f | .dmax64 f => some (sigD2 f [0, 1] [0])
  | .dcmp f => some { sigD2 f [0, 1, 2, 3, 4, 5, 6, 7] [0] with rd := .p }
  -- conversion (R217, R259 to R264)
  | .cvt f => some { rd := .v 1 1, rs1 := .v 1 1, rs3 := .x (!bit f.rs3.toNat 7 && cvtXOk f && cvtFmts.contains (field f.rs3.toNat 0 4)), mods := modsIn f cvtFmts [0] rms4 }
  | .cvtq f => some { rd := .v 1 1, rs1 := .v 1 1, rs2 := .vs 1 1, rs3 := .x true, mods := cvtqOk f }
  | .cvtd f =>
    let l := bit f.rs3.toNat 7
    some { rd := slotVn (cvtdRegs f.ty.toNat l), rs1 := slotVn (cvtdRegs (field f.rs3.toNat 0 4) l), rs3 := .x (cvtdOk f), mods := f.c3 == 0#3 }
  | .pack f => some { rd := .v 1 1, rdRead := [3, 4, 7].contains f.ty.toNat, rs1 := .v 1 1, rs2 := .vs 1 1, rs3 := .x true, mods := packOk f }
  | .unpk f => some { rd := .v 2 2, rs1 := .v 1 1, rs3 := .x true, mods := unpkOk f }
  -- memory (R218, R267)
  | .ld f => some { rd := slotVn (tyRegs f.ty.toNat), rs1 := .vs 2 2, rs2 := .vs 1 1, ivs := [.reg, .s16], mods := f.ty.toNat ≤ 12 && ordOk f [0, 1] }
  | .st f => some { rd := slotVn (tyRegs f.ty.toNat), rdRead := true, rdWrite := false, rs1 := .vs 2 2, rs2 := .vs 1 1, ivs := [.reg, .s16], mods := f.ty.toNat ≤ 12 && ordOk f [0, 2] }
  | .ldx f => some { rd := .v 1 1, rs1 := .v 1 1, rs2 := .vs 1 1, ivs := [.reg, .z16 4095], mods := among 4 f.ty [0] && ordOk f [0, 1] }
  | .stx f => some { rd := .v 1 1, rdRead := true, rdWrite := false, rs1 := .v 1 1, rs2 := .vs 1 1, ivs := [.reg, .z16 4095], mods := among 4 f.ty [0] && ordOk f [0, 2] }
  | .pref f => some { rs1 := .vs 2 2, rs2 := .vs 1 1, ivs := [.reg, .s16], mods := modsIn f [0] [0, 1] [0], rdWrite := false }
  | .cctl f => some { rs1 := .vs 2 2, rs2 := .vs 1 1, ivs := [.reg, .s16], mods := modsIn f [0] [0, 1, 2, 3, 4, 5] [0], priv := f.c3 == 4#3 || f.c3 == 5#3, rdWrite := false }
  | .maps f => some { rs1 := .vs 2 2, rs2 := .vs 1 1, rs3 := .vs 1 1, mods := modsIn f [0] [0] [0], w := true, rdWrite := false }
  | .unmaps f | .flushs f => some { rs1 := .vs 1 1, rs2 := .vs 1 1, mods := modsIn f [0] [0] [0], w := true, rdWrite := false }
  -- atomics, barriers, waiting (R219, R267)
  | .atom f => let n := tyRegs f.ty.toNat; some { rd := slotVn n, rs1 := .vs 2 2, rs2 := slotVsn n, rs3 := .x (atomOk f), mods := ordOk f [0, 1, 2, 3] }
  | .atomc f => let n := tyRegs f.ty.toNat; some { rd := slotVn n, rs1 := .vs 2 2, rs2 := slotVsn n, rs3 := slotVsn n, mods := f.ty.toNat ≤ 5 && ordOk f [0, 1, 2, 3] }
  | .red f => let n := tyRegs f.ty.toNat; some { rs1 := .vs 2 2, rs2 := slotVsn n, rs3 := .x (atomOk f && field f.rs3.toNat 0 4 != 6), mods := ordOk f [0, 2, 3], rdWrite := false }
  | .waitv f => let n := tyRegs f.ty.toNat; some { rd := slotVn n, rs1 := .vs 2 2, rs2 := slotVsn n, rs3 := slotVsn n, mods := f.ty.toNat ≤ 5 && f.c3.toNat ≤ 5 }
  | .lmon f => some { rs1 := .vs 2 2, mods := modsIn f [0] [0] [0], rdWrite := false }
  | .lmwait f => some { mods := modsIn f [0] [0] [0], rdWrite := false }
  | .fence f => some { mods := (f.ty == 0#4 || (f.ty == 1#4 && 6 ≤ f.c3.toNat)), w := true, rdWrite := false }
  | .barInit f => some { rs1 := .vs 1 1, rs2 := .vs 1 1, rs3 := .vs 1 1, mods := modsIn f [0] [0] [0], w := true, rdWrite := false }
  | .barExp f => some { rs1 := .vs 1 1, rs2 := .vs 1 1, mods := modsIn f [0] [0] [0], w := true, rdWrite := false }
  | .barArv f | .barWait f => some { rs1 := .vs 1 1, mods := modsIn f [0] [0] [0], w := true, rdWrite := false }
  | .barTest f => some { rd := .p, rs1 := .vs 1 1, mods := modsIn f [0] [0] [0], w := true }
  | .claim f => some { rd := .v 2 2, rs1 := .vs 2 2, mods := modsIn f [0] [0] [0] }
  -- tiles and matrix (R220, R288)
  | .tres f => some { rd := .t, rs1 := .vs 2 2, ivs := [.reg, .z24 (tresImmOk f)], mods := modsIn f [0] [0] [0], w := true }
  | .trel f => some { rd := .t, mods := modsIn f [0] [0] [0], w := true }
  | .tld f | .tst f => some { rd := .t, rs1 := .vs 2 2, rs2 := .vs 1 1, rs3 := .x true, mods := !bit f.ty.toNat 0, w := true }
  | .twr f =>
    let ok := modsIn f [0] [0, 1] [0]
    if f.c3 = 1#3 then some { rd := .t, rs1 := .v 1 1, ivs := [.reg], mods := ok, w := true }
    else some { rd := .t, rs1 := .v 1 1, rs2 := .vs 1 1, ivs := [.reg, .z16 65535], mods := ok, w := true }
  | .trd f => some { rd := .v 1 1, rs1 := .t, rs2 := .vs 1 1, ivs := [.reg, .z16 65535], mods := modsIn f [0] [0] [0] }
  | .magree f => some { rd := .c, rs1 := .vs 1 1, ivs := [.reg, .z16 65535], mods := modsIn f [0] [0] [0], w := true }
  | .msign f => some { rs1 := .c, mods := modsIn f [0] [0] [0], rdWrite := false }
  | .mma f | .mmaq f | .mmas f => some { rd := .a, rs1 := .t, rs2 := .t, rs3 := .c, mods := f.ty.toNat ≤ 11 && f.c3 == 0#3 && f.rm == 0#2, w := true }
  | .dmma f => some { rd := .a, rs1 := .t, rs2 := .t, rs3 := .c, mods := modsIn f [10] [0] [0], w := true }
  | .accz f => some { rd := .a, mods := modsIn f [0] [0] [0], w := true }
  | .accrd f => some { rd := .v 1 1, rs1 := .a, rs2 := .vs 1 1, ivs := [.reg, .z16 127], mods := accMods f 2 }
  | .accwr f => some { rd := .a, rs1 := .v 1 1, rs2 := .vs 1 1, ivs := [.reg, .z16 127], mods := accMods f 2 }
  | .accrmax f => some { rd := .v 1 1, rs1 := .a, rs2 := .vs 1 1, ivs := [.reg, .z16 127], mods := accMods f 0 }
  | .accscl f => some { rd := .a, rs1 := .v 1 1, mods := accMods f 2, w := true }
  -- engines (R221)
  | .copy f | .scbset f | .scbclr f => some { rs1 := .vs 2 2, mods := modsIn f [0] [0] [0], w := true, rdWrite := false }
  | .txfer f | .trig f => some { rs1 := .vs 2 2, rs2 := .vs 2 2, mods := modsIn f [0] [0] [0], w := true, rdWrite := false }
  -- floods and scheduling (R222, R311)
  | .flood f => some { rd := .v 1 1, rs1 := .vs 2 2, ivs := [.reg, .s16], mods := modsIn f [0] [0] [0] }
  | .echo f => some { rs1 := echoSlot f.ty.toNat, mods := f.c3 == 0#3 && f.rm == 0#2, rdWrite := false }
  | .waitf f | .testf f => some { rd := .v 3 2, rs1 := .vs 1 1, mods := modsIn f [0] [0] [0] }
  | .cancelf f => some { rs1 := .vs 1 1, mods := modsIn f [0] [0] [0], rdWrite := false }
  | .finfo f =>
    let item := f.rs3.toNat
    some { rd := .v 1 1, rs1 := if item ≤ 3 then .vs 1 1 else .none, rs3 := .x (item ≤ 3 || (8 ≤ item && item ≤ 10)), mods := modsIn f [0] [0] [0] }
  | .clause f => some { rs1 := .v 12 1, rs2 := .vs 2 2, rs3 := .x (f.rs3.toNat < 2), mods := modsIn f [0] [0] [0] && f.rs1.toNat ≤ 244, rdWrite := false }
  | .role f => some { rs1 := .vs 2 2, mods := modsIn f [0] [0] [0], w := true, rdWrite := false }
  -- transactions and system (R223, R311)
  | .txb f => some { ivs := [.o16], mods := modsIn f [0] [0] [0] && (imm16 f != 0 && imm16 f < 32768), rdWrite := false }
  | .txe f => some { rd := .p, mods := modsIn f [0] [0] [0] }
  | .txa f => some { ivs := [.z16 255], mods := modsIn f [0] [0] [0], rdWrite := false }
  | .txst f => some { rd := .v 1 1, mods := modsIn f [0] [0, 1] [0] }
  | .syscall f | .trap f => some { ivs := [.z16 65535], mods := modsIn f [0] [0] [0], rdWrite := false }
  | .eret f => some { mods := modsIn f [0] [0] [0], w := true, priv := true, rdWrite := false }
  | .bpt f => some { mods := modsIn f [0] [0] [0], rdWrite := false }
  | .tlbi f => some { rs1 := .vs 2 2, rs2 := if f.rm == 0#2 then .vs 2 2 else .none, mods := among 4 f.ty [0] && 2 ≤ f.c3.toNat && f.rm.toNat ≤ 2, w := true, priv := true, rdWrite := false }
  | _ => none

/-- The signature of a core instruction, through the 64-bit form it executes as. -/
def sigOf (i : Instr) : Option Sig :=
  match formOf i with
  | some f => sig64 (wideOf i f)
  | none => none

/-- A field's value is legal for its class (R209), in the uniform form or not (R210). -/
def slotOk (uf : Bool) (k : Slot) (x : BitVec 8) : Bool :=
  let n := x.toNat
  match k with
  | .none => n == 0
  | .v _ al => if uf then n < 64 && n % al == 0 else n % al == 0
  | .vs _ al => if uf then n < 64 && n % al == 0 else if n < 192 then n % al == 0 else (n - 192) % al == 0
  | .s => n < 64
  | .p => n < 16
  | .t => n < 16
  | .a => n < 4
  | .c => n < 16
  | .x ok => ok

/-- A slot that a trap-on-empty bit may name: a vector or uniform source register (R204). -/
def slotTe : Slot → Bool
  | .v _ _ | .vs _ _ | .s => true
  | _ => false

/-- The immediate kind that the IV field selects, if the opcode map lists it (R206). -/
def immOf (g : Sig) (f : Form64) : Option Imm := g.ivs.find? (fun k => immCode k == f.iv.toNat)

/-- The immediate respects its limit (R206). -/
def immOk (f : Form64) : Imm → Bool
  | .z16 max => imm16 f ≤ max
  | .z24 ok => ok
  | _ => true

/-- Whether the rs1, rs2 and rs3 fields hold registers under an immediate kind (R206). -/
def regFields : Imm → Bool × Bool × Bool
  | .reg => (true, true, true)
  | .s16 | .z16 _ | .h16 | .o16 => (true, false, false)
  | .s24 | .z24 _ | .o24 => (false, false, false)

/-- The field rules of a 64-bit form under its signature (R197 step 3, R203 to R210). -/
def fieldsOk (g : Sig) (f : Form64) : Bool :=
  match immOf g f with
  | none => false
  | some k =>
    let (r1, r2, r3) := regFields k
    immOk f k && g.mods && (!f.uf || g.u) &&
    (!g.w || (f.guard == 15#4 && !f.negate)) &&
    slotOk f.uf g.rd f.rd &&
    (!r1 || slotOk f.uf g.rs1 f.rs1) && (!r2 || slotOk f.uf g.rs2 f.rs2) && (!r3 || slotOk f.uf g.rs3 f.rs3) &&
    (!f.te.getLsbD 2 || (r1 && slotTe g.rs1)) && (!f.te.getLsbD 1 || (r2 && slotTe g.rs2)) && (!f.te.getLsbD 0 || (r3 && slotTe g.rs3))

/-- The field rules of a core instruction; events and vendor instructions have none here. -/
def fieldsLegal (i : Instr) : Bool :=
  match formOf i, sigOf i with
  | some f, some g => fieldsOk g f
  | _, _ => true

/-- Operand ranges of the forms whose fields the encoding does not judge: the 16-bit parcel 0x0000 (R199), and the comparison codes
and fence scopes of the vendor instructions (R381). -/
def operandsLegal : Instr → Bool
  | .mov16 f => f.rd.toNat != 0 || f.rs.toNat != 0
  | .qwait f => f.funct3.toNat ≤ 3
  | .qseed f => f.funct3 == 0#3
  | .qeng f => f.funct3 == 0#3
  | .qfence f => 3 ≤ f.funct3.toNat && f.rd == 0#5 && f.rs1 == 0#5 && f.rs2 == 0#5
  | .illegalOpcode len _ => len == 2 || len == 4 || len == 8
  | _ => true

end Sys2Proof.Machine
end

