-- ==== Sys2Proof/WellFormed.lean ====
section
/-! DEFINITION. Which instructions are well-formed: the field rules of the encoding (Machine/Sig.lean, where a repair may mend them), and the ranges of the operands of the other agents' steps. -/

namespace Sys2Proof

open Machine

/-- The field rules of an instruction (R197 step 3, R199, R203 to R210, R381) and the operand ranges of a step. -/
def Instr.wf (i : Instr) : Bool := fieldsLegal i && operandsLegal i

end Sys2Proof
end

