-- ==== Sys2Proof/Decode.lean ====
section
/-! DEFINITION. Decoding bytes to instructions, total on any bytes, and the encoder written from the same layouts (R195 to R202, R211 to R223, R381). -/

namespace Sys2Proof

open Machine

/-- Why bytes are no instruction. -/
inductive DecodeError where
  /-- Fewer bytes than the first parcel asks for (R195). -/
  | tooShort
  /-- An opcode that no table assigns, or the parcel 0x0000 (R199, R201, R211); the machine traps ILLEGAL_OPCODE (R197). -/
  | unassigned (len : Nat) (word : DWord)
  /-- No vendor instruction of the queue processor (R381). -/
  | notVendor (word : Word)
  deriving DecidableEq, Repr

/-- The 16-bit opcodes in order (R198). -/
def table16 : List (Form16 → Instr) :=
  [
    .mov16, .movi16, .iadd16, .isub16, .imul16, .and16, .or16, .xor16, .shl16, .shr16, .sar16, .fadd16, .fsub16, .fmul16, .fmin16, .fmax16
  ]

/-- The 32-bit opcodes in order (R201). -/
def table32 : List (Form32 → Instr) :=
  [
    .iadd32, .isub32, .imul32, .imulhi32, .imulhn32, .imini32, .imaxi32, .iminn32, .imaxn32, .and32, .or32, .xor32, .shl32, .shr32, .sar32,
    .rot32, .fadd32, .fsub32, .fmul32, .fmin32, .fmax32, .pfadd32, .pfmul32, .pfmin32, .pfmax32, .dadd32, .dmul32, .dmin32, .dmax32,
    .mov32, .ineg32, .iabs32, .not32, .popc32, .clz32, .ctz32, .brev32, .frcp32, .frsq32, .fsqrt32, .fexp232, .flog232
  ]

/-- The opcodes of the block "control", in order from 0x000 (R211). -/
def blockControl : List (Form64 → Instr) :=
  [
    .bra, .brx, .call, .callx, .ret, .reconv, .prio, .yield, .loop, .nop, .exit
  ]

/-- The opcodes of the block "integer and address", in order from 0x040 (R211). -/
def blockIntegerAndAddress : List (Form64 → Instr) :=
  [
    .iadd64, .isum, .isub64, .ineg64, .iabs64, .imul64, .imulh64, .imad, .imadw, .imin64, .imax64, .isad, .and64, .or64, .xor64, .not64,
    .blut, .shl64, .shr64, .sar64, .shf, .rot64, .popc64, .clz64, .ctz64, .brev64, .bxtr, .bins, .bsel, .lea, .icmp, .isel
  ]

/-- The opcodes of the block "predicates, votes, moves", in order from 0x080 (R211). -/
def blockPredicatesVotesMoves : List (Form64 → Instr) :=
  [
    .pset, .plut, .pmov, .pgath, .lpeer, .mov64, .movi64, .movw, .s2v, .v2s, .lxch, .srr, .srw
  ]

/-- The opcodes of the block "FP32 vector", in order from 0x0C0 (R211). -/
def blockFp32Vector : List (Form64 → Instr) :=
  [
    .fadd64, .fsub64, .fmul64, .ffma, .fmin64, .fmax64, .fcmp, .fsel, .fclass, .frnd, .frcp64, .frsq64, .fsqrt64, .fexp264, .flog264,
    .fsin, .fcos, .ftanh
  ]

/-- The opcodes of the block "packed 16-bit and FP64 vector", in order from 0x100 (R211). -/
def blockPackedAndFp64Vector : List (Form64 → Instr) :=
  [
    .pfadd64, .pfmul64, .pffma, .pfmin64, .pfmax64, .dadd64, .dmul64, .dfma, .dmin64, .dmax64, .dcmp
  ]

/-- The opcodes of the block "conversion", in order from 0x140 (R211). -/
def blockConversion : List (Form64 → Instr) :=
  [
    .cvt, .cvtq, .cvtd, .pack, .unpk
  ]

/-- The opcodes of the block "memory", in order from 0x180 (R211). -/
def blockMemory : List (Form64 → Instr) :=
  [
    .ld, .st, .ldx, .stx, .pref, .cctl, .maps, .unmaps, .flushs
  ]

/-- The opcodes of the block "atomics, barriers, waiting", in order from 0x1C0 (R211). -/
def blockAtomicsBarriersWaiting : List (Form64 → Instr) :=
  [
    .atom, .atomc, .red, .waitv, .lmon, .lmwait, .fence, .barInit, .barExp, .barArv, .barWait, .barTest, .claim
  ]

/-- The opcodes of the block "tiles and matrix", in order from 0x200 (R211). -/
def blockTilesAndMatrix : List (Form64 → Instr) :=
  [
    .tres, .trel, .tld, .tst, .twr, .trd, .magree, .msign, .mma, .mmaq, .mmas, .dmma, .accz, .accrd, .accwr, .accrmax, .accscl
  ]

/-- The opcodes of the block "engines", in order from 0x240 (R211). -/
def blockEngines : List (Form64 → Instr) :=
  [
    .copy, .txfer, .trig, .scbset, .scbclr
  ]

/-- The opcodes of the block "floods and scheduling", in order from 0x280 (R211). -/
def blockFloodsAndScheduling : List (Form64 → Instr) :=
  [
    .flood, .echo, .waitf, .testf, .cancelf, .finfo, .clause, .role
  ]

/-- The opcodes of the block "transactions", in order from 0x2C0 (R211). -/
def blockTransactions : List (Form64 → Instr) :=
  [
    .txb, .txe, .txa, .txst
  ]

/-- The opcodes of the block "system", in order from 0x300 (R211). -/
def blockSystem : List (Form64 → Instr) :=
  [
    .syscall, .eret, .trap, .bpt, .tlbi
  ]

/-- The blocks of 64 opcodes, by opcode bits [9:6]; an absent block is wholly unassigned (R211). -/
def table64 : List (List (Form64 → Instr)) :=
  [
    blockControl, blockIntegerAndAddress, blockPredicatesVotesMoves, blockFp32Vector, blockPackedAndFp64Vector, blockConversion,
    blockMemory, blockAtomicsBarriersWaiting, blockTilesAndMatrix, blockEngines, blockFloodsAndScheduling, blockTransactions, blockSystem
  ]

/-- The 16-bit fields (R198). -/
def form16Of (w : Nat) : Form16 := { rd := BitVec.ofNat 6 (field w 6 6), rs := BitVec.ofNat 5 (field w 1 5) }

/-- The 32-bit fields (R200). -/
def form32Of (w : Nat) : Form32 :=
  { rd := BitVec.ofNat 7 (field w 19 7), rs1 := BitVec.ofNat 7 (field w 12 7), rs2 := BitVec.ofNat 7 (field w 5 7),
    guard := BitVec.ofNat 3 (field w 2 3) }

/-- The 64-bit fields (R202, R205). -/
def form64Of (w : Nat) : Form64 :=
  { rd := BitVec.ofNat 8 (field w 46 8), rs1 := BitVec.ofNat 8 (field w 38 8), rs2 := BitVec.ofNat 8 (field w 30 8),
    rs3 := BitVec.ofNat 8 (field w 22 8), guard := BitVec.ofNat 4 (field w 18 4), negate := bit w 17,
    te := BitVec.ofNat 3 (field w 14 3), iv := BitVec.ofNat 2 (field w 12 2), uf := bit w 11,
    c3 := BitVec.ofNat 3 (field w 8 3), rm := BitVec.ofNat 2 (field w 6 2), ty := BitVec.ofNat 4 (field w 2 4) }

/-- The R-type fields (R381). -/
def formROf (w : Nat) : FormR :=
  { rs2 := BitVec.ofNat 5 (field w 20 5), rs1 := BitVec.ofNat 5 (field w 15 5), funct3 := BitVec.ofNat 3 (field w 12 3),
    rd := BitVec.ofNat 5 (field w 7 5) }

/-- The instruction of a 16-bit parcel (R198); the parcel 0x0000 is none (R199). -/
def decode16 (w : Nat) : Option Instr :=
  if w % 65536 = 0 then none else (table16[field w 12 4]?).map (fun k => k (form16Of w))

/-- The instruction of a 32-bit word (R201). -/
def decode32 (w : Nat) : Option Instr := (table32[field w 26 6]?).map (fun k => k (form32Of w))

/-- The instruction of a 64-bit word (R211 to R223). -/
def decode64 (w : Nat) : Option Instr :=
  ((table64[field w 60 4]?).bind (fun b => b[field w 54 6]?)).map (fun k => k (form64Of w))

/-- Length in bytes, from the first parcel (R195). -/
def lengthOf (w : Nat) : Nat := if w % 2 = 0 then 2 else if w % 4 = 1 then 4 else 8

/-- The instruction of a word of a length. -/
def decodeWord (len w : Nat) : Option Instr :=
  if len = 2 then decode16 w else if len = 4 then decode32 w else decode64 w

/-- Decoding from the lowest address: the instruction with its length in bytes, or why there is none. -/
def decode (bytes : List Byte) : Except DecodeError (Instr × Nat) :=
  match bytes with
  | [] => .error .tooShort
  | b :: _ =>
    let len := lengthOf b.toNat
    if bytes.length < len then .error .tooShort
    else
      let w := ofLe (bytes.take len)
      match decodeWord len w with
      | some i => .ok (i, len)
      | none => .error (.unassigned len (BitVec.ofNat 64 w))

/-- The vendor instruction of a word of the queue processor: opcode custom-0, the operation in funct7 (R381). -/
def decodeVendor (w : Nat) : Except DecodeError Instr :=
  if field w 0 7 = 0x0B then
    match field w 25 7 with
    | 0 => .ok (.qwait (formROf w))
    | 1 => .ok (.qseed (formROf w))
    | 2 => .ok (.qeng (formROf w))
    | 3 => .ok (.qfence (formROf w))
    | _ => .error (.notVendor (BitVec.ofNat 32 w))
  else .error (.notVendor (BitVec.ofNat 32 w))

/-- The 16-bit parcel (R198). -/
def word16 (op : Nat) (f : Form16) : Nat := op * 2 ^ 12 + f.rd.toNat * 2 ^ 6 + f.rs.toNat * 2

/-- The 32-bit word (R200). -/
def word32 (op : Nat) (f : Form32) : Nat :=
  op * 2 ^ 26 + f.rd.toNat * 2 ^ 19 + f.rs1.toNat * 2 ^ 12 + f.rs2.toNat * 2 ^ 5 + f.guard.toNat * 2 ^ 2 + 1

/-- The modifier field [13:2] and the bits below it (R205). -/
def modWord (f : Form64) : Nat :=
  f.iv.toNat * 2 ^ 12 + f.uf.toNat * 2 ^ 11 + f.c3.toNat * 2 ^ 8 + f.rm.toNat * 2 ^ 6 + f.ty.toNat * 2 ^ 2 + 3

/-- The 64-bit word (R202). -/
def word64 (op : Nat) (f : Form64) : Nat :=
  op * 2 ^ 54 + f.rd.toNat * 2 ^ 46 + f.rs1.toNat * 2 ^ 38 + f.rs2.toNat * 2 ^ 30 + f.rs3.toNat * 2 ^ 22 +
    f.guard.toNat * 2 ^ 18 + f.negate.toNat * 2 ^ 17 + f.te.toNat * 2 ^ 14 + modWord f

/-- The R-type word (R381). -/
def wordR (funct7 : Nat) (f : FormR) : Nat :=
  funct7 * 2 ^ 25 + f.rs2.toNat * 2 ^ 20 + f.rs1.toNat * 2 ^ 15 + f.funct3.toNat * 2 ^ 12 + f.rd.toNat * 2 ^ 7 + 0x0B

/-- The words of an instruction, with the length in bytes: none for a step of another agent, which has no encoding. -/
def encodeWord (i : Instr) : Option (Nat × Nat) :=
  match i with
  | .mov16 f => some (2, word16 0 f)
  | .movi16 f => some (2, word16 1 f)
  | .iadd16 f => some (2, word16 2 f)
  | .isub16 f => some (2, word16 3 f)
  | .imul16 f => some (2, word16 4 f)
  | .and16 f => some (2, word16 5 f)
  | .or16 f => some (2, word16 6 f)
  | .xor16 f => some (2, word16 7 f)
  | .shl16 f => some (2, word16 8 f)
  | .shr16 f => some (2, word16 9 f)
  | .sar16 f => some (2, word16 10 f)
  | .fadd16 f => some (2, word16 11 f)
  | .fsub16 f => some (2, word16 12 f)
  | .fmul16 f => some (2, word16 13 f)
  | .fmin16 f => some (2, word16 14 f)
  | .fmax16 f => some (2, word16 15 f)
  | .iadd32 f => some (4, word32 0 f)
  | .isub32 f => some (4, word32 1 f)
  | .imul32 f => some (4, word32 2 f)
  | .imulhi32 f => some (4, word32 3 f)
  | .imulhn32 f => some (4, word32 4 f)
  | .imini32 f => some (4, word32 5 f)
  | .imaxi32 f => some (4, word32 6 f)
  | .iminn32 f => some (4, word32 7 f)
  | .imaxn32 f => some (4, word32 8 f)
  | .and32 f => some (4, word32 9 f)
  | .or32 f => some (4, word32 10 f)
  | .xor32 f => some (4, word32 11 f)
  | .shl32 f => some (4, word32 12 f)
  | .shr32 f => some (4, word32 13 f)
  | .sar32 f => some (4, word32 14 f)
  | .rot32 f => some (4, word32 15 f)
  | .fadd32 f => some (4, word32 16 f)
  | .fsub32 f => some (4, word32 17 f)
  | .fmul32 f => some (4, word32 18 f)
  | .fmin32 f => some (4, word32 19 f)
  | .fmax32 f => some (4, word32 20 f)
  | .pfadd32 f => some (4, word32 21 f)
  | .pfmul32 f => some (4, word32 22 f)
  | .pfmin32 f => some (4, word32 23 f)
  | .pfmax32 f => some (4, word32 24 f)
  | .dadd32 f => some (4, word32 25 f)
  | .dmul32 f => some (4, word32 26 f)
  | .dmin32 f => some (4, word32 27 f)
  | .dmax32 f => some (4, word32 28 f)
  | .mov32 f => some (4, word32 29 f)
  | .ineg32 f => some (4, word32 30 f)
  | .iabs32 f => some (4, word32 31 f)
  | .not32 f => some (4, word32 32 f)
  | .popc32 f => some (4, word32 33 f)
  | .clz32 f => some (4, word32 34 f)
  | .ctz32 f => some (4, word32 35 f)
  | .brev32 f => some (4, word32 36 f)
  | .frcp32 f => some (4, word32 37 f)
  | .frsq32 f => some (4, word32 38 f)
  | .fsqrt32 f => some (4, word32 39 f)
  | .fexp232 f => some (4, word32 40 f)
  | .flog232 f => some (4, word32 41 f)
  | .bra f => some (8, word64 0x000 f)
  | .brx f => some (8, word64 0x001 f)
  | .call f => some (8, word64 0x002 f)
  | .callx f => some (8, word64 0x003 f)
  | .ret f => some (8, word64 0x004 f)
  | .reconv f => some (8, word64 0x005 f)
  | .prio f => some (8, word64 0x006 f)
  | .yield f => some (8, word64 0x007 f)
  | .loop f => some (8, word64 0x008 f)
  | .nop f => some (8, word64 0x009 f)
  | .exit f => some (8, word64 0x00A f)
  | .iadd64 f => some (8, word64 0x040 f)
  | .isum f => some (8, word64 0x041 f)
  | .isub64 f => some (8, word64 0x042 f)
  | .ineg64 f => some (8, word64 0x043 f)
  | .iabs64 f => some (8, word64 0x044 f)
  | .imul64 f => some (8, word64 0x045 f)
  | .imulh64 f => some (8, word64 0x046 f)
  | .imad f => some (8, word64 0x047 f)
  | .imadw f => some (8, word64 0x048 f)
  | .imin64 f => some (8, word64 0x049 f)
  | .imax64 f => some (8, word64 0x04A f)
  | .isad f => some (8, word64 0x04B f)
  | .and64 f => some (8, word64 0x04C f)
  | .or64 f => some (8, word64 0x04D f)
  | .xor64 f => some (8, word64 0x04E f)
  | .not64 f => some (8, word64 0x04F f)
  | .blut f => some (8, word64 0x050 f)
  | .shl64 f => some (8, word64 0x051 f)
  | .shr64 f => some (8, word64 0x052 f)
  | .sar64 f => some (8, word64 0x053 f)
  | .shf f => some (8, word64 0x054 f)
  | .rot64 f => some (8, word64 0x055 f)
  | .popc64 f => some (8, word64 0x056 f)
  | .clz64 f => some (8, word64 0x057 f)
  | .ctz64 f => some (8, word64 0x058 f)
  | .brev64 f => some (8, word64 0x059 f)
  | .bxtr f => some (8, word64 0x05A f)
  | .bins f => some (8, word64 0x05B f)
  | .bsel f => some (8, word64 0x05C f)
  | .lea f => some (8, word64 0x05D f)
  | .icmp f => some (8, word64 0x05E f)
  | .isel f => some (8, word64 0x05F f)
  | .pset f => some (8, word64 0x080 f)
  | .plut f => some (8, word64 0x081 f)
  | .pmov f => some (8, word64 0x082 f)
  | .pgath f => some (8, word64 0x083 f)
  | .lpeer f => some (8, word64 0x084 f)
  | .mov64 f => some (8, word64 0x085 f)
  | .movi64 f => some (8, word64 0x086 f)
  | .movw f => some (8, word64 0x087 f)
  | .s2v f => some (8, word64 0x088 f)
  | .v2s f => some (8, word64 0x089 f)
  | .lxch f => some (8, word64 0x08A f)
  | .srr f => some (8, word64 0x08B f)
  | .srw f => some (8, word64 0x08C f)
  | .fadd64 f => some (8, word64 0x0C0 f)
  | .fsub64 f => some (8, word64 0x0C1 f)
  | .fmul64 f => some (8, word64 0x0C2 f)
  | .ffma f => some (8, word64 0x0C3 f)
  | .fmin64 f => some (8, word64 0x0C4 f)
  | .fmax64 f => some (8, word64 0x0C5 f)
  | .fcmp f => some (8, word64 0x0C6 f)
  | .fsel f => some (8, word64 0x0C7 f)
  | .fclass f => some (8, word64 0x0C8 f)
  | .frnd f => some (8, word64 0x0C9 f)
  | .frcp64 f => some (8, word64 0x0CA f)
  | .frsq64 f => some (8, word64 0x0CB f)
  | .fsqrt64 f => some (8, word64 0x0CC f)
  | .fexp264 f => some (8, word64 0x0CD f)
  | .flog264 f => some (8, word64 0x0CE f)
  | .fsin f => some (8, word64 0x0CF f)
  | .fcos f => some (8, word64 0x0D0 f)
  | .ftanh f => some (8, word64 0x0D1 f)
  | .pfadd64 f => some (8, word64 0x100 f)
  | .pfmul64 f => some (8, word64 0x101 f)
  | .pffma f => some (8, word64 0x102 f)
  | .pfmin64 f => some (8, word64 0x103 f)
  | .pfmax64 f => some (8, word64 0x104 f)
  | .dadd64 f => some (8, word64 0x105 f)
  | .dmul64 f => some (8, word64 0x106 f)
  | .dfma f => some (8, word64 0x107 f)
  | .dmin64 f => some (8, word64 0x108 f)
  | .dmax64 f => some (8, word64 0x109 f)
  | .dcmp f => some (8, word64 0x10A f)
  | .cvt f => some (8, word64 0x140 f)
  | .cvtq f => some (8, word64 0x141 f)
  | .cvtd f => some (8, word64 0x142 f)
  | .pack f => some (8, word64 0x143 f)
  | .unpk f => some (8, word64 0x144 f)
  | .ld f => some (8, word64 0x180 f)
  | .st f => some (8, word64 0x181 f)
  | .ldx f => some (8, word64 0x182 f)
  | .stx f => some (8, word64 0x183 f)
  | .pref f => some (8, word64 0x184 f)
  | .cctl f => some (8, word64 0x185 f)
  | .maps f => some (8, word64 0x186 f)
  | .unmaps f => some (8, word64 0x187 f)
  | .flushs f => some (8, word64 0x188 f)
  | .atom f => some (8, word64 0x1C0 f)
  | .atomc f => some (8, word64 0x1C1 f)
  | .red f => some (8, word64 0x1C2 f)
  | .waitv f => some (8, word64 0x1C3 f)
  | .lmon f => some (8, word64 0x1C4 f)
  | .lmwait f => some (8, word64 0x1C5 f)
  | .fence f => some (8, word64 0x1C6 f)
  | .barInit f => some (8, word64 0x1C7 f)
  | .barExp f => some (8, word64 0x1C8 f)
  | .barArv f => some (8, word64 0x1C9 f)
  | .barWait f => some (8, word64 0x1CA f)
  | .barTest f => some (8, word64 0x1CB f)
  | .claim f => some (8, word64 0x1CC f)
  | .tres f => some (8, word64 0x200 f)
  | .trel f => some (8, word64 0x201 f)
  | .tld f => some (8, word64 0x202 f)
  | .tst f => some (8, word64 0x203 f)
  | .twr f => some (8, word64 0x204 f)
  | .trd f => some (8, word64 0x205 f)
  | .magree f => some (8, word64 0x206 f)
  | .msign f => some (8, word64 0x207 f)
  | .mma f => some (8, word64 0x208 f)
  | .mmaq f => some (8, word64 0x209 f)
  | .mmas f => some (8, word64 0x20A f)
  | .dmma f => some (8, word64 0x20B f)
  | .accz f => some (8, word64 0x20C f)
  | .accrd f => some (8, word64 0x20D f)
  | .accwr f => some (8, word64 0x20E f)
  | .accrmax f => some (8, word64 0x20F f)
  | .accscl f => some (8, word64 0x210 f)
  | .copy f => some (8, word64 0x240 f)
  | .txfer f => some (8, word64 0x241 f)
  | .trig f => some (8, word64 0x242 f)
  | .scbset f => some (8, word64 0x243 f)
  | .scbclr f => some (8, word64 0x244 f)
  | .flood f => some (8, word64 0x280 f)
  | .echo f => some (8, word64 0x281 f)
  | .waitf f => some (8, word64 0x282 f)
  | .testf f => some (8, word64 0x283 f)
  | .cancelf f => some (8, word64 0x284 f)
  | .finfo f => some (8, word64 0x285 f)
  | .clause f => some (8, word64 0x286 f)
  | .role f => some (8, word64 0x287 f)
  | .txb f => some (8, word64 0x2C0 f)
  | .txe f => some (8, word64 0x2C1 f)
  | .txa f => some (8, word64 0x2C2 f)
  | .txst f => some (8, word64 0x2C3 f)
  | .syscall f => some (8, word64 0x300 f)
  | .eret f => some (8, word64 0x301 f)
  | .trap f => some (8, word64 0x302 f)
  | .bpt f => some (8, word64 0x303 f)
  | .tlbi f => some (8, word64 0x304 f)
  | .qwait f => some (4, wordR 0 f)
  | .qseed f => some (4, wordR 1 f)
  | .qeng f => some (4, wordR 2 f)
  | .qfence f => some (4, wordR 3 f)
  | .illegalOpcode len word => some (len, word.toNat)
  | .illegalInstructionException word => some (4, word.toNat)
  | .agePromotion | .reconvRelease | .heldSplit | .valueArrival | .targetFaultPark | .warpRetire | .groupPlace | .preemptRequest |
    .groupResume | .lateReturn | .sliceExpire | .swapOut | .wakeMessage | .roleSwitch | .matrixIssue | .matrixStep | .floodMessageArrive |
    .cairnOpen | .clauseDispatch | .gatherTimeoutClose | .spillClauseDrain | .cancelArrive | .echoArrive | .cairnEcho | .cairnFree |
    .silenceExpire | .mapReread | .signatureRollover | .waitWake | .waitRecheck | .monitorFire | .lmwaitTimeout | .bucketWindow |
    .remoteRequest | .forwardResponse | .pageMigrate | .foreignWrite | .bar2Access | .hubTimeout | .txValidateCheck | .tokenGrant |
    .tokenTimeout | .tileLanding | .engineComplete | .collectiveReport | .trigFire | .trapEntry | .faultRecordFree | .faultEntryWrite |
    .scrubStep | .tailDoorbell | .qctlEnable | .qctlStop | .qctlClear | .fdresolve | .ackPaused | .registerWrite | .seedPacket |
    .copyPacket | .waitPacket | .signalPacket | .fencePacket | .cancelPacket | .stage | .verify | .activate | .activationQuiesce |
    .raisesvn | .enrol | .keydis | .vendoroff | .extend | .setplim | .setpoint | .migrateOut | .migrateIn | .resync | .linktrain |
    .getVersion | .getCapabilities | .negotiateAlgorithms | .getDigests | .getCertificate | .challenge | .getMeasurements |
    .setCertificate | .railStep | .railWindowMiss | .inputLoss | .romBoot | .selfTest | .powerSample | .powerWindow | .dvfsChange |
    .trainingStart | .trainingAbort | .trainingStep | .trainingStepTimeout | .linkStart | .linkDown | .linkStateAdvance |
    .linkStateTimeout | .linkLoss | .functionReset | .moduleReset | .storeAcknowledgement | .dirtyWriteBack | .eccError | .powerDown |
    .railLoss | .pcieCxlLinkTraining | .cxlMemRequest | .invalidPacketType | .badcmd | .unsupportedSpdmRequest => none

/-- The bytes of an instruction, lowest address first (R3, R195). -/
def encode (i : Instr) : Option (List Byte) :=
  match encodeWord i with
  | some (len, w) => some (leBytes len w)
  | none => none

/-- The instruction that the decoder reads from a word numbered as spec/opcode_table.json numbers it; the vendor instructions are the
32-bit words whose low seven bits are custom-0 (R381), which no core encoding has (R195: such a first parcel starts a 64-bit form). -/
def decodeTableWord (nbits w : Nat) : Option Instr :=
  if nbits = 32 ∧ field w 0 7 = 0x0B then
    match decodeVendor w with
    | .ok i => some i
    | .error _ => none
  else
    match decode (leBytes 8 (w % 2 ^ nbits)) with
    | .ok (i, _) => some i
    | .error _ => none

end Sys2Proof
end

