-- ==== Sys2Proof/Config.lean ====
section
/-! DEFINITION. What the specification leaves open and the model keeps free: constants with no body, so that nothing can be proved of their values. -/

namespace Sys2Proof

/-- A free 64-bit value for the n-th open choice of a run (log 5). -/
opaque Config.freeValue : Nat → BitVec 64

/-- A free choice for the n-th open yes-or-no of a run (log 5). -/
opaque Config.freeBool : Nat → Bool

/-- The signature that a module's device identity key makes over a digest (R405: the private half never leaves the crypto block; log 12). -/
opaque Config.deviceSignature : Nat → BitVec 384 → BitVec 768

/-- The vendor's public key, x then y (R402, R404; not stated). -/
opaque Config.vendorKey : BitVec 768

/-- The digest of the key manifest that slot 1 records, by the slot states, the key hashes and VENDOROFF (R403; the manifest's layout is not stated). -/
opaque Config.manifestDigest : List Nat → BitVec 384

/-- The digest of the fused V-f table and the strap values that slot 3 records (R403; not stated), by the straps MODID and KEYEN. -/
opaque Config.fuseDigest : Nat → Bool → BitVec 384

/-- Bytes of a module's chain in certificate slot 0. -/
opaque Config.vendorChainLength : Nat → Nat

/-- A module's chain in certificate slot 0, byte by byte (R405: vendor-issued, contents not stated; log 12). -/
opaque Config.vendorChain : Nat → Nat → BitVec 8

/-- The part revision of IDENT (R411; not stated). -/
opaque Config.partRevision : BitVec 32

/-- SHA-384 of the mask ROM (R401: published with each revision; not stated). -/
opaque Config.romDigest : BitVec 384

end Sys2Proof
end

