-- ==== Sys2Proof/Machine/SMap.lean ====
section
/-! DEFINITION. Sparse maps: lists of (key, value) in ONE canonical form (keys strictly rising, no entry equal to the default), so that equal maps are equal data. Every register file, every memory and every table of the machine is one. -/

namespace Sys2Proof

/-- A sparse map from `Nat` keys; a key that is not listed reads the default its user names. -/
abbrev SMap (α : Type) := List (Nat × α)

namespace Machine

/-- The value at a key, the default `d` where the key is not listed. -/
def SMap.get {α : Type} (d : α) : SMap α → Nat → α
  | [], _ => d
  | (k0, v0) :: t, k => if k < k0 then d else if k = k0 then v0 else SMap.get d t k

/-- Drops the leading entries whose key is at most `k`. -/
def SMap.dropLe {α : Type} (k : Nat) : SMap α → SMap α
  | [] => []
  | (k0, v0) :: t => if k0 ≤ k then SMap.dropLe k t else (k0, v0) :: t

/-- The entry for a value at a key, in front of a tail: none when the value is the default. -/
def SMap.entry {α : Type} [DecidableEq α] (d : α) (k : Nat) (v : α) (t : SMap α) : SMap α :=
  if v = d then t else (k, v) :: t

/-- Writes a value at a key, keeping the canonical form: writing the default removes the entry. -/
def SMap.set {α : Type} [DecidableEq α] (d : α) : SMap α → Nat → α → SMap α
  | [], k, v => SMap.entry d k v []
  | (k0, v0) :: t, k, v =>
    if k < k0 then SMap.entry d k v ((k0, v0) :: t)
    else if k = k0 then SMap.entry d k v (SMap.dropLe k t)
    else (k0, v0) :: SMap.set d t k v

/-- Every key is above `lo` and rising, and no value is the default. -/
def SMap.wfAbove {α : Type} [DecidableEq α] (d : α) (lo : Nat) : SMap α → Bool
  | [] => true
  | (k, v) :: t => decide (lo < k) && decide (v ≠ d) && SMap.wfAbove d k t

/-- The canonical form: keys strictly rising, no entry equal to the default. -/
def SMap.wf {α : Type} [DecidableEq α] (d : α) : SMap α → Bool
  | [] => true
  | (k, v) :: t => decide (v ≠ d) && SMap.wfAbove d k t

/-- The listed keys, in rising order. -/
def SMap.keys {α : Type} (m : SMap α) : List Nat := m.map Prod.fst

end Machine
end Sys2Proof
end

