-- ==== Sys2Proof/Machine/State.lean ====
section
/-! DEFINITION. Everything the specification gives the machine, as plain data: warps, groups, cores, regions, cairns, home slices, hubs, memory, contexts, queues and the housekeeping complex of every module of a domain, and the machine right after reset. -/

namespace Sys2Proof.Machine

/-- Why the model stops where the machine itself never does. -/
inductive Fault where
  /-- Raised when a core instruction, or a vendor instruction, is executed in a state in which no warp, or no queue thread, holds the step. Safe: nothing is claimed to happen. -/
  | noIssuer
  deriving DecidableEq, Repr

/-- Why a step has no next state. -/
inductive Refusal where
  /-- Raised by an arm of `exec` whose instruction has no meaning yet. Safe: nothing is claimed to happen. -/
  | notModelled (mnemonic : String)
  /-- Raised by a step of another agent in a state in which the specification does not let that step happen (no such timer runs, no such message waits). Safe: nothing is claimed to happen. -/
  | notEnabled (step : String)
  /-- Raised when a queue thread fetches a word that is not of the vendor opcode custom-0: the base instruction set of the queue processor is
  outside this specification, which gives only the vendor instructions (R381). Safe: nothing is claimed to happen. -/
  | baseInstruction
  deriving DecidableEq, Repr

/-- Where an access is served (R88, R89): domain memory, the host or pool port of a module, or the stash of a core. -/
inductive Place where
  | dom (pa : Nat)
  | port (module pa : Nat)
  | stash (core off : Nat)
  deriving DecidableEq, Repr

/-! ### Frontier entries (R16 to R25) -/

/-- The state of an entry (R16). -/
inductive EntryState where
  | ready | waiting | parked | promoted
  deriving DecidableEq, Repr

/-- Why an entry waits (R16): the codes 0 to 5. -/
inductive WaitCause where
  | reconv | fullFrontier | emptyRegister | wait | agreement | token
  deriving DecidableEq, Repr

/-- One part of a split: where its lanes go (R18). -/
structure SplitPart where
  pc : Nat
  prio : Nat
  mask : LaneMask
  deriving DecidableEq, Repr

/-- What a fault record tells about one access (R120). -/
structure FaultInfo where
  cause : Nat := 0
  pc : Nat := 0
  fva : Nat := 0
  lanes : LaneMask := 0#32
  mapver : Nat := 0
  mapid : Nat := 0
  level : Nat := 15
  acc : Nat := 0
  kind : Nat := 0
  coord : List Nat := []
  deriving DecidableEq, Repr

/-- One access in flight, or kept with a parked entry (R356, R420). -/
structure InFlight where
  /-- The instruction's parcels and its length in bytes. -/
  insn : Nat
  len : Nat
  pc : Nat
  /-- KIND 2: an atomic, whose late return is kept. -/
  late : Bool
  /-- DCLASS 1: a uniform destination. -/
  uniform : Bool
  dreg : Nat
  /-- Destination bytes per lane. -/
  width : Nat
  /-- Lanes whose value is missing. -/
  pend : LaneMask
  /-- Lanes whose access belongs to an open transaction (R155 step 2). -/
  txLanes : LaneMask := 0#32
  /-- Lanes whose access is not yet performed: a held peer access (R90) or a remote one (R121). -/
  unperformed : LaneMask := 0#32
  /-- Lanes that another module serves and whose request is under way (R121). -/
  remote : LaneMask := 0#32
  /-- Re-issues made by R122, and the place that the last forwarding pointer names, per lane. -/
  reissues : SMap Nat := []
  pointer : SMap (Option Place) := []
  /-- Effective addresses, values and, for stores and atomics, data per lane. -/
  addr : SMap Nat := []
  val : SMap Nat := []
  data : SMap Nat := []
  data2 : SMap Nat := []
  /-- The scope at which the access acquires, and at which it carries a release; 0 for none (R134, R135). -/
  acq : Nat := 0
  rel : Nat := 0
  /-- Where each unperformed lane's access goes, and whether its page is WTI or SYSATOM. -/
  place : SMap (Option Place) := []
  wti : LaneMask := 0#32
  sysatom : LaneMask := 0#32
  /-- Lanes whose outcome at the target is a trap (R90, R268), and its fault. -/
  trapLanes : LaneMask := 0#32
  trap : FaultInfo := {}
  /-- The fault that parks the lanes of a record in `Warp.targetFaults` (R420). -/
  fault : FaultInfo := {}
  /-- Tile loads that must still land before a TRD reads (R293). -/
  ahead : Nat := 0
  /-- CLOCK when the instruction issued (R149). -/
  issued : Nat := 0
  deriving DecidableEq, Repr

/-- One entry of a frontier (R16). -/
structure Entry where
  pc : BitVec 57
  prio : BitVec 8
  mask : LaneMask
  state : EntryState := .ready
  cause : Option WaitCause := none
  age : Nat := 0
  frec : BitVec 16 := 0#16
  /-- The entry has issued in this core cycle, so that the cycle does not count for its age (R23). -/
  fresh : Bool := false
  /-- The entry's instruction has found in this core cycle that it must still wait, and is issued again in a later one. -/
  stalled : Bool := false
  /-- YIELD demotes the entry until another entry of the warp issues (R24). -/
  yielded : Bool := false
  /-- The split held for want of frontier slots (R20). -/
  held : List SplitPart := []
  /-- The lanes that replay when the whole entry parked for want of a slot (R21), and the kept access (R420). -/
  replay : LaneMask := 0#32
  kept : Option InFlight := none
  /-- The fault that parked the entry, until a record is free (R120). -/
  fault : Option FaultInfo := none
  /-- What the handler has decided on the fault of an entry whose group is saved: replay or kill, when the group returns (R389). -/
  fate : Option Bool := none
  deriving DecidableEq, Repr

/-! ### Transactions (R151 to R169) -/

/-- The transaction state of a lane (R151). -/
inductive TxState where
  | idle | queued | opened | committing
  deriving DecidableEq, Repr

/-- A read-log or write-log entry: the aligned 8-byte word, its bytes and, for a write, the byte mask (R153). -/
structure TxWord where
  pa : Nat
  value : DWord
  mask : BitVec 8
  deriving DecidableEq, Repr

/-- The transaction of a lane (R151, R163). -/
structure LaneTx where
  state : TxState := .idle
  reads : List TxWord := []
  writes : List TxWord := []
  /-- The recorded TXE address (R152). -/
  txe : Nat := 0
  cause : BitVec 4 := 0#4
  esc : Bool := false
  aborts : BitVec 4 := 0#4
  fcause : BitVec 8 := 0#8
  ucode : BitVec 8 := 0#8
  /-- Instructions issued since TXB or the last check (R157). -/
  issued : Nat := 0
  deriving DecidableEq, Repr

/-! ### Warps -/

/-- The flood identity of a lane (R312): the cairn (region × 256 + slot) that counts its clause; none for a seeded thread. -/
structure Ident where
  cairn : Option Nat := none
  clause : Nat := 0
  handle : Word := 0#32
  fcb : Word := 0#32
  depth : Nat := 0
  echoed : Bool := false
  key : DWord := 0#64
  deriving DecidableEq, Repr

/-- A store waiting in a warp's store queue (R132). -/
structure StoreOp where
  place : Place
  size : Nat
  data : Nat
  lane : Nat
  /-- Sent to its target without the L1 (R134 step 3), and a WTI store (R139). -/
  uncached : Bool
  wti : Bool
  /-- The scope at which the store releases, held back by a halted peer group; 0 for none (R90, R134). -/
  rel : Nat := 0
  /-- CLOCK when the instruction issued, and the instruction's lanes before this one whose target refused them, with the first one's address: they trap
  once its last lane has completed (R268). -/
  issued : Nat := 0
  refused : LaneMask := 0#32
  refusedVa : Nat := 0
  /-- The virtual address and the instruction, for the fault of a peer that has gone (R90, R420). -/
  va : Nat
  insn : Nat
  len : Nat
  pc : Nat
  deriving DecidableEq, Repr

/-- What a tile, matrix or engine instruction waits for with wcause 4 before it executes (R291 to R293, R297, R299, R301, R310). -/
inductive EngineWait where
  /-- No issued operation, tile load, tile store or TRD uses a tile. -/
  | tileIdle (t : Nat)
  /-- Every tile load into a tile has landed. -/
  | tileLanded (t : Nat)
  /-- No issued operation reads a tile. -/
  | tileUnread (t : Nat)
  /-- Both. -/
  | tileOpen (t : Nat)
  /-- The instruction's turn in a tile's order. -/
  | tileTurn (t : Nat)
  /-- An agreement register is not issued. -/
  | agrIdle (c : Nat)
  /-- The operation of an agreement register has issued, or its checks have failed. -/
  | signed (c : Nat)
  /-- The instruction's turn in the order of an accumulator. -/
  | accTurn (a : Nat)
  /-- A trigger slot is free. -/
  | slotFree
  deriving DecidableEq, Repr

/-- What a lane waits for (R280, R282, R285, R316, R331). -/
inductive WaitKind where
  | value (place : Place) (width : Nat) (mask expected : Nat) (cmp : Nat) (signed : Bool) (scope : Nat) (dreg : Nat)
  | flood (handle : Word) (dreg : Nat)
  | barrier (off : Nat) (parity : Bool)
  | monitor
  /-- The 160 bytes of the role descriptor that the warp has read (R322). -/
  | role (desc : Nat)
  | engine (w : EngineWait)
  | invalidate (scope : Nat)
  deriving DecidableEq, Repr

/-- One lane's wait; a warp-level wait stands under the lowest lane of its entry. -/
structure Wait where
  lane : Nat
  kind : WaitKind
  pc : Nat
  len : Nat
  /-- The waiting instruction's parcels. -/
  insn : Nat := 0
  /-- The virtual address of the element that a WAITV waits for. -/
  va : Nat := 0
  /-- The condition has been met, with the value read and the status word (R280, R316). -/
  done : Bool := false
  value : Nat := 0
  status : Nat := 0
  /-- A satisfying write has sent a wake (R280), and the CLOCK at which the wait began or was last re-checked. -/
  woken : Bool := false
  since : Nat := 0
  /-- The wait holds an entry of its home slice's table of 512, or of its stash unit's table of 64 (R281). -/
  held : Bool := false
  /-- The trap that the lane owes when the entry's wait ends (R268). -/
  trap : Option FaultInfo := none
  deriving DecidableEq, Repr

/-- The warp's monitor (R282). -/
structure Monitor where
  line : Place
  /-- A cause that has occurred and has not yet fired the monitor. -/
  hit : Option MonitorCause := none
  fired : Bool := false
  deriving DecidableEq, Repr

/-- The trap that a warp is in (R327): the lanes of the trapping entry that have neither exited nor returned. -/
structure TrapState where
  lanes : LaneMask
  /-- The frame's fault record, until it is sent, once per trap. -/
  record : FaultInfo
  sent : Bool
  deriving DecidableEq, Repr

/-- A trap that waits for an instruction boundary (R156, R268, R295). -/
structure PendingTrap where
  cause : Nat
  lanes : LaneMask
  pc : Nat
  insn : Nat
  len : Nat
  info : FaultInfo
  /-- EPC where it is not by R327: the recorded TXE address (R156). -/
  epc : Option Nat
  /-- EXTRA of the trap frame (R358). -/
  extra : Nat := 0
  /-- The access is one of the handler of the trap that the lanes are in, so that its trap is a double trap (R328). -/
  handler : Bool := false
  deriving DecidableEq, Repr

/-- A warp resident on a core, or saved with its group. -/
structure Warp where
  /-- The group's number on its core, and the warp's index in the group (GWARP). -/
  group : Nat := 0
  windex : Nat := 0
  frontier : List Entry := []
  /-- Vector registers by 32 × register + lane, and empty lanes by register (R28). -/
  v : SMap Word := []
  vEmpty : SMap LaneMask := []
  /-- Uniform registers and their empty bits. -/
  s : SMap Word := []
  sEmpty : BitVec 64 := 0#64
  /-- p0 to p14 as lane masks; p15 reads true (R209). -/
  p : SMap LaneMask := []
  /-- Held return addresses, newest first, and RSDEPTH, per lane (R227). -/
  rstack : SMap (List Nat) := []
  depth : SMap Nat := []
  tx : SMap LaneTx := []
  ident : SMap Ident := []
  spillb : DWord := 0#64
  fstat : Word := 0#32
  privst : Word := 0#32
  epc : DWord := 0#64
  ecause : Word := 0#32
  eframe : DWord := 0#64
  tvec : DWord := 0#64
  storeq : List StoreOp := []
  inflight : List InFlight := []
  targetFaults : List InFlight := []
  /-- The scope of a fence's pending acquire, and of the release that the next store carries (R283). -/
  acq : Option Nat := none
  rel : Option Nat := none
  monitor : Option Monitor := none
  trapping : Option TrapState := none
  pending : List PendingTrap := []
  waits : List Wait := []
  /-- The cycle of the last issue, or of placement, resume or restore (R26). -/
  lastIssue : Nat := 0
  /-- Cycles for which the warp's last instruction still holds one of the core's two issue slots (R26, R265). -/
  busy : Nat := 0
  /-- DEFERC has turned p14 true (R85). -/
  deferred : Bool := false
  /-- Stores declared lost that the next fence reports, the lowest module and a port among their peers, and the lowest module that FSTAT has shown
  since PEER_LOST was last cleared (R149). -/
  lost : Nat := 0
  lostModule : Option Nat := none
  lostHost : Bool := false
  lostShown : Option Nat := none
  deriving DecidableEq, Repr

/-! ### Groups and cores -/

/-- The declared allotment of an entry address (R27, R342). -/
structure Allot where
  entry : Nat := 0
  vregs : Nat := 8
  sregs : Nat := 8
  tregs : Nat := 0
  acc : Nat := 0
  agr : Nat := 0
  tbytes : Nat := 0
  sbytes : Nat := 0
  warps : Nat := 1
  deriving DecidableEq, Repr

/-- The state of an agreement register (R29). -/
inductive AgrState where
  | idle | opened | proposed | issued
  deriving DecidableEq, Repr

/-- An agreement register (R29, R354): participants and signed lanes by warp index. -/
structure Agr where
  state : AgrState := .idle
  warps : BitVec 16 := 0#16
  lanes : SMap LaneMask := []
  signed : SMap LaneMask := []
  /-- The proposal's encoding, and the instruction that made it: its warp's index, its address and its lanes, which take a data error of the operands (R414). -/
  proposal : Option Nat := none
  proposer : Option (Nat × Nat × LaneMask) := none
  steps : Nat := 0
  deriving DecidableEq, Repr

/-- A stash-mapped range (R92, R274): sectors by index, each with its filled flag and byte dirty mask. -/
structure MapSector where
  filled : Bool := false
  dirty : BitVec 256 := 0#256
  deriving DecidableEq, Repr

/-- A stash-mapped range (R92, R274). -/
structure MapRange where
  gaddr : Nat
  soff : Nat
  len : Nat
  /-- The mode of the warp that made the range (R419). -/
  priv : Bool
  sectors : SMap MapSector
  deriving DecidableEq, Repr

/-- A run of bits that a tile load or store moves: its first bit within the reservation, its place in memory with the bit of the first byte, and,
for padding and for a store, the bits themselves (R295). -/
structure TileRun where
  off : Nat
  bits : Nat
  place : Option Place
  /-- The virtual address that gave the place. -/
  va : Nat := 0
  nib : Nat := 0
  data : Nat := 0
  deriving DecidableEq, Repr

/-- A tile load or store in flight (R295): runs still to move. -/
structure Landing where
  /-- A load lands bytes in the operand buffer, a store writes memory. -/
  load : Bool
  tile : Nat
  /-- BASE of the reservation at issue, and bytes still to move. -/
  base : Nat
  left : Nat
  /-- The barrier offset bound to the command, if any, and the scoreboard bit. -/
  barrier : Option Nat
  sbit : Option Nat
  runs : List TileRun
  /-- The issuing warp's index, and the instruction with its length. -/
  warp : Nat
  pc : Nat
  insn : Nat
  len : Nat
  lanes : LaneMask
  /-- The signature of the destination sectors written so far (R143). -/
  sig : Signature := 0#512
  deriving DecidableEq, Repr

/-- How far a command has come: a TXFER's report is under way, has reached the home agent, or the sequence has been decided (R308); the folded
elements of a reducing one stand at their destinations (R309). -/
inductive CmdState where
  | reporting | reported | proceeds | mismatch | written
  deriving DecidableEq, Repr

/-- An engine command accepted by a region's copy engine or reported to a collective home agent (R303 to R309). -/
structure EngineCmd where
  /-- KIND TXFER rather than COPY, and the record's 64 bytes as read once at issue, with their address. -/
  txfer : Bool
  record : Nat
  va : Nat
  ctx : Nat
  module : Nat
  priv : Bool
  state : CmdState
  /-- Who issued it: a group of a core with the fields of the fault record of a failure, or a queue. -/
  group : Option (Nat × Nat) := none
  fcb : Word := 0#32
  handle : Word := 0#32
  slot : Nat := 0
  info : FaultInfo := {}
  queue : Option (Nat × Nat) := none
  /-- The source and destination descriptors, the group's GID, the sequence number and MEMBERS (R306, R307). -/
  src : Nat := 0
  dst : Nat := 0
  gid : Nat := 0
  seq : Nat := 0
  members : Nat := 0
  /-- The folded elements, once every member's source has been read, or the fault that the command has met (R309). -/
  fold : Nat := 0
  failed : Option FaultInfo := none
  deriving DecidableEq, Repr

/-- An armed trigger slot (R310): the mask, and the command as checked at `TRIG`. -/
structure Trigger where
  vm : DWord
  cmd : EngineCmd
  deriving DecidableEq, Repr

/-- An accumulator access in issue order (R301): a matrix operation by its agreement register; an access of a warp by its index, the
instruction's address and lanes, with the destination register of a read. -/
structure AccOp where
  acc : Nat
  agr : Option Nat := none
  warp : Nat := 0
  pc : Nat := 0
  lanes : LaneMask := 0#32
  dreg : Option Nat := none
  deriving DecidableEq, Repr

/-- A tile command that has issued and waits for its turn on a tile (R293): its warp's index, its address and its lanes. -/
structure TileOp where
  tile : Nat
  warp : Nat
  pc : Nat
  lanes : LaneMask
  deriving DecidableEq, Repr

/-- A save that has begun: STATE and base of the area it has taken (R34, R353), and whether the group stays saved when it is done (R391, R392). -/
structure Halt where
  st : Nat
  base : Nat
  held : Bool := false
  deriving DecidableEq, Repr

/-- A thread group resident on a core, or saved (R27). -/
structure Group where
  ctx : Nat := 0
  fcb : Word := 0#32
  cls : Nat := 0
  /-- PROMISE, DEFERC and SWAPTH of the FCB when the group was placed (R25, R37, R85). -/
  promise : Bool := true
  deferc : Bool := false
  swapth : Nat := 0
  allot : Allot := {}
  stashBase : Nat := 0
  /-- Warp slots by warp index. -/
  slots : List Nat := []
  tiles : SMap (BitVec 256) := []
  opbuf : SMap Byte := []
  acc : SMap Word := []
  agr : SMap Agr := []
  tscb : DWord := 0#64
  /-- Scoreboard bits set in the core's current cycle, which a clear of that cycle leaves set (R302). -/
  tscbNow : DWord := 0#64
  /-- The signature that a completed engine command delivered with its scoreboard bit, and with the barrier at a stash offset (R143). -/
  tscbSig : SMap Signature := []
  barSig : SMap Signature := []
  maps : List MapRange := []
  /-- The eight trigger slots (R310). -/
  trig : SMap (Option Trigger) := []
  landings : List Landing := []
  accOrder : List AccOp := []
  /-- Tile commands that have issued and wait, in issue order (R291 to R293). -/
  tileOrder : List TileOp := []
  /-- CLOCK since which every live warp has only waited (R37), if so. -/
  idleSince : Option Nat := none
  /-- The queue whose SEED packet made the group's thread, and the packet's index (R385, R387). -/
  seededBy : Option (Nat × Nat) := none
  /-- A save of the group found no room in the arena: it is tried again when an area of the context frees (R357). -/
  refused : Bool := false
  /-- A pre-emption has found no area for the group: the save is tried again each time an area of the context frees (R357). -/
  unsaved : Bool := false
  /-- The group has halted and its stores drain (R34). -/
  halting : Option Halt := none
  deriving DecidableEq, Repr

/-- One cached translation (R107). -/
structure TlbEntry where
  ctx : Nat
  /-- Base and size of the virtual range, and the physical base. -/
  va : Nat
  size : Nat
  pa : Nat
  w : Bool
  x : Bool
  priv : Bool
  dirty : Bool
  shard : Bool
  wti : Bool
  sysatom : Bool
  deriving DecidableEq, Repr

/-- A cached shard map entry (R108): its 128 bytes. -/
structure MapCopy where
  ctx : Nat
  id : Nat
  entry : Nat
  deriving DecidableEq, Repr

/-- A 256-byte sector of an L1 line (R95): invalid, full, or partial with exactly the dirty bytes valid. -/
structure Sector where
  full : Bool := false
  data : BitVec 2048 := 0#2048
  dirty : BitVec 256 := 0#256
  /-- The copy has an error that its ECC cannot correct (R414). -/
  bad : Bool := false
  deriving DecidableEq, Repr

/-- A 1,024-byte line of an L1 (R94). -/
structure Line where
  /-- Physical line number pa[51:10]. -/
  line : Nat
  sectors : SMap Sector
  wti : Bool
  /-- Lanes (slot × 32 + lane) whose open transaction holds speculative sectors of the line. -/
  spec : List Nat
  deriving DecidableEq, Repr

/-- An issued matrix operation (R300): the group and its agreement register, which counts the steps. -/
structure MatOp where
  group : Nat
  agr : Nat
  deriving DecidableEq, Repr

/-- A saved group (R353 to R357): where its save area lies and its structured image. -/
structure Saved where
  /-- The group's number on its core, which no other group takes meanwhile. -/
  number : Nat
  /-- Where the area's first byte stands in memory, once it has been written. -/
  header : Option Nat := none
  base : Nat
  len : Nat
  /-- STATE of R353: 0 halted by pre-emption, 1 swapped out, 2 wake pending. -/
  state : Nat
  group : Group
  warps : List Warp
  stash : SMap Byte
  latepend : Nat
  /-- Activation or migration holds the group until RESUME (R391, R392). -/
  held : Bool := false
  deriving DecidableEq, Repr

/-- A core (R1). -/
structure Core where
  clock : DWord := 0#64
  warps : SMap (Option Warp) := []
  groups : SMap (Option Group) := []
  stash : SMap Byte := []
  stashSig : Signature := 0#512
  /-- Most recently touched line first (R94). -/
  l1 : List Line := []
  sig : SMap Signature := []
  tlb : List TlbEntry := []
  tileTlb : List TlbEntry := []
  maps : List MapCopy := []
  tileMaps : List MapCopy := []
  /-- Parcels held by the instruction cache, by physical address / 2 (R196, R273). -/
  icache : SMap (Option (BitVec 16)) := []
  matq : List MatOp := []
  saved : List Saved := []
  /-- The fault domain whose slice runs: its number · 1,024 + its context. -/
  domain : Option Nat := none
  sliceLeft : Nat := 0
  deriving DecidableEq, Repr

/-! ### Floods (R40 to R86) -/

/-- A flood message (R51, R52): what the emitter's descriptor and the FCB give every cairn of the flood. -/
structure FloodMsg where
  handle : Word
  depth : Nat
  ctx : Nat
  fcb : Word
  entry : Nat
  regmask : Word
  modmask : Word
  grain : Nat
  mapv : Bool
  mapid : Nat
  args : List Byte
  arglen : Nat
  comb : Nat
  uid : Bool
  ident : DWord
  silence : Nat
  cls : Nat
  deferc : Bool
  promise : Bool
  maxwarps : Nat
  scope : Nat
  sig : Signature
  deriving DecidableEq, Repr

/-- An echo's content (R70). -/
structure EchoVal where
  /-- The folded value and the least start key. -/
  value : DWord := 0#64
  key : DWord := 0#64
  partly : Bool := false
  cancelled : Bool := false
  faulted : Bool := false
  silent : Nat := 0
  faults : Nat := 0
  sig : Signature := 0#512
  deriving DecidableEq, Repr

/-- A message of the flood network under way (R52, R53). Units: region r of the domain is r, its origin cairns 1024 + r, hub h 2048 + h. -/
inductive NetMsg where
  | flood (dest : Nat) (parentUnit parentSlot child : Nat) (m : FloodMsg)
  | cancel (dest : Nat) (handle : Word) (cls : Nat) (parentUnit parentSlot child : Nat)
  | echo (parentUnit parentSlot child : Nat) (handle : Word) (ctx scope : Nat) (e : EchoVal)
  deriving DecidableEq, Repr

/-- The state of a cairn (R50). -/
inductive CairnState where
  | free | opened | dispatch | drain | echo
  deriving DecidableEq, Repr

/-- A cairn (R50): rope, origin or hub. -/
structure Cairn where
  state : CairnState := .free
  msg : Option FloodMsg := none
  parentUnit : Nat := 0
  parentSlot : Nat := 0
  /-- The child's number in its parent's order. -/
  childNo : Nat := 0
  /-- Children in child order: (unit, module for the MISSING mask, region or 32 for a hub cairn, rope height). -/
  children : List (Nat × Nat × Nat × Nat) := []
  answered : SMap (Option EchoVal) := []
  silent : List Nat := []
  /-- Local time at which the flood message was sent to the children (R78). -/
  sentAt : Nat := 0
  work : Nat := 0
  /-- The dispatch cursor: next shard index and next element offset within that shard (R50, R56). -/
  shard : Nat := 0
  offset : Nat := 0
  mapver : Nat := 0
  /-- The shard map entry as read on opening (R58). -/
  map : Option Nat := none
  /-- Clause numbers given out, and the contributions by clause number (R66, R67). -/
  clauses : Nat := 0
  contrib : SMap (Option EchoVal) := []
  /-- Handler warps held against MAXWARPS (R57). -/
  warps : Nat := 0
  partly : Bool := false
  cancelled : Bool := false
  faulted : Bool := false
  silentCount : Nat := 0
  faultCount : Nat := 0
  deriving DecidableEq, Repr

/-- A clause on its way to a warp (R59). -/
structure Clause where
  entry : Nat
  ctx : Nat
  fcb : Word
  cls : Nat
  bprio : Nat
  last : Bool
  deferc : Bool
  /-- The start values of v0 to v11 and s0 to s11 (R62). -/
  v : List Word
  s : List Word
  /-- CLAUSE clauses and dispatched clauses of one key are kept apart (R60). -/
  byClause : Bool
  /-- The queue whose SEED packet made the thread, and the packet's index (R387). -/
  seed : Option (Nat × Nat) := none
  ident : Ident
  scope : Nat
  sig : Signature
  /-- The entry of the spill ring that holds a spilled clause (R60). -/
  ring : Nat := 0
  deriving DecidableEq, Repr

/-- An open warp of the gatherer (R60). -/
structure OpenWarp where
  clauses : List Clause
  since : Nat
  deriving DecidableEq, Repr

/-- A closed warp waiting for placement (R32). -/
structure ClosedWarp where
  clauses : List Clause
  /-- Closed by LAST or by the 2,048-cycle close: a flush of its key. -/
  flush : Bool
  deriving DecidableEq, Repr

/-- An entry whose next instruction is a FLOOD (R43): where it stands, the depth classes of which its lanes need cairns, and whether nothing but
their want keeps it from issue. -/
structure OriginRequest where
  core : Nat
  slot : Nat
  pc : Nat
  mask : LaneMask
  classes : List Nat
  now : Bool
  deriving DecidableEq, Repr

/-- A child that has been marked silent and whose echo has not come (R80, R82): the cairn that waited for it, by unit, slot and handle, the child's number
there and what it is, and the local time of the mark. -/
structure LateChild where
  unit : Nat
  slot : Nat
  handle : Word
  no : Nat
  child : Nat × Nat × Nat × Nat
  at_ : Nat
  deriving DecidableEq, Repr

/-- A region (R1). -/
structure Region where
  useCount : SMap Nat := []
  /-- Per depth class, the slots of the class in the order in which they were freed; `none` is the order at reset (R73). -/
  freeOrder : SMap (Option (List Nat)) := []
  /-- Waiting flood messages by class, with the cycle in which each arrived (R52). -/
  wait : SMap (List (Nat × NetMsg)) := []
  /-- Entries that want origin cairns, in the order in which they first became otherwise issuable (R43). -/
  requests : List OriginRequest := []
  opened : List OpenWarp := []
  closed : List ClosedWarp := []
  /-- CLAUSE clauses in the spill ring, oldest first (R60). -/
  spill : List Clause := []
  /-- The number of the next entry of the spill ring that is written. -/
  ringNext : Nat := 0
  copyq : List EngineCmd := []
  sequencer : Signature := 0#512
  deriving DecidableEq, Repr

/-! ### Hubs, slices and ports -/

/-- A forwarding record (R121). -/
structure Forward where
  ctx : Nat
  page : Nat
  dest : Place
  deriving DecidableEq, Repr

/-- A hub: one per die (R121, R283). -/
structure Hub where
  /-- Waiting flood messages by class, with the cycle in which each arrived (R52). -/
  wait : SMap (List (Nat × NetMsg)) := []
  fwd : List Forward := []
  /-- Pages (4 KiB physical page numbers) that have left the module. -/
  gone : List Nat := []
  /-- The sequencers of .di, .mo, .dm and .sy fences, by scope (R283). -/
  sequencer : SMap Signature := []
  deriving DecidableEq, Repr

/-- The sideband of a home-slice line (R136). -/
structure Sideband where
  sig : Signature := 0#512
  scope : Nat := 0
  deriving DecidableEq, Repr

/-- A home slice (R96, R136, R142, R281). -/
structure Slice where
  side : SMap Sideband := []
  overflow : Signature := 0#512
  /-- Lines that a core owns exclusively. -/
  owner : SMap (Option Nat) := []
  /-- Commutative-update partials: (core, word address, width, operation, value) (R147). -/
  partials : List (Nat × Nat × Nat × Nat × Nat) := []
  /-- Lines that a reducing TXFER holds, with its operator and type (R147), coded as OP + 16 · F + 32 · TY of a RED. -/
  reducing : List (Nat × Nat) := []
  deriving DecidableEq, Repr

/-- A token bucket (R101): tokens left and tokens borrowed in this window. -/
structure Bucket where
  tokens : Nat := 0
  borrowed : Nat := 0
  deriving DecidableEq, Repr

/-- A port with token buckets (R101): home-slice, host or pool port. -/
structure Port where
  bucket : SMap Bucket := []
  pool : Nat := 0
  deriving DecidableEq, Repr

/-! ### Contexts and queues (R376 to R392) -/

/-- A context: one per function of a module, with its register block (R378, R379, R412). -/
structure Ctx where
  regs : SMap DWord := []
  /-- Fault records in use (R120), and held fault entries per domain as 128-byte images (R388). -/
  records : List Nat := []
  heldFaults : SMap (List Nat) := []
  /-- Write index of each fault domain's ring (R388), and whether FAULTQ_FULL has been posted for the full ring. -/
  faultWidx : SMap Nat := []
  faultFull : List Nat := []
  /-- The save areas in use: (base, length) (R357). -/
  areas : List (Nat × Nat) := []
  /-- Activation has paused the function (R391), and it has acknowledged. -/
  paused : Bool := false
  acked : Bool := false
  migrated : Bool := false
  deriving DecidableEq, Repr

/-- The state of a queue (R382). -/
inductive QState where
  | disabled | idle | running | waiting | stopped | paused
  deriving DecidableEq, Repr

/-- A packet that has been read and not completed (R385): its 64 bytes. -/
structure Packet where
  index : Nat
  bytes : Nat
  deriving DecidableEq, Repr

/-- A queue and its hardware thread (R380 to R387). -/
structure Queue where
  qbase : DWord := 0#64
  qsize : DWord := 0#64
  ridxaddr : DWord := 0#64
  state : QState := .disabled
  qerr : DWord := 0#64
  tail : DWord := 0#64
  ridx : DWord := 0#64
  current : Option Packet := none
  /-- Packet indices of the engine commands that are not yet done and of the seeded threads that have not yet retired, and the FENCE packets that
  have started and not completed, oldest first (R385). -/
  copies : List Nat := []
  seeds : List Nat := []
  fences : List Nat := []
  /-- Signatures that the thread has acquired, which its next releases carry on (R135). -/
  sig : Signature := 0#512
  /-- Registers of the thread: x1 to x31, pc, and the control and status registers (R381). -/
  x : SMap DWord := []
  pc : DWord := 0#64
  qctx : DWord := 0#64
  qfstat : DWord := 0#64
  mepc : DWord := 0#64
  mcause : DWord := 0#64
  mtval : DWord := 0#64
  mtvec : DWord := 0#64
  mstatus : DWord := 0#64
  waiting : Bool := false
  /-- The thread waits in a `QSEED` for the placement of what it has seeded (R381). -/
  seeding : Bool := false
  /-- Stores of the thread declared lost (R149, R381). -/
  lost : Bool := false
  deriving DecidableEq, Repr

/-! ### Modules: ports, housekeeping, training (R375, R393 to R418) -/

/-- The DRAM PHY block of a channel (R406). -/
structure Phy where
  first : Nat := 0
  last : Nat := 0
  running : Bool := false
  done : Bool := false
  fail : Bool := false
  step : Nat := 0
  failstep : Nat := 0
  errcnt : Nat := 0
  zqup : Nat := 32
  zqdn : Nat := 32
  wl : Word := 0#32
  rg : BitVec 16 := 0#16
  reye : DWord := 0#64
  weye : DWord := 0#64
  vref : Nat := 30
  aborting : Bool := false
  deriving DecidableEq, Repr

/-- A fabric port block (R408). -/
structure FabricPort where
  autoeq : Bool := true
  state : Nat := 0
  laneok : BitVec 8 := 0#8
  skew : Nat := 0
  retries : Nat := 0
  leq : Word := 0#32
  /-- The state that a failed or absent port had reached (R400), and that it retrains after a loss (R409). -/
  reached : Nat := 0
  retrain : Bool := false
  pvalid : Bool := false
  pmod : Nat := 0
  phub : Nat := 0
  pport : Nat := 0
  deriving DecidableEq, Repr

/-- An SPDM connection (R405). -/
structure Spdm where
  version : Bool := false
  capabilities : Bool := false
  algorithms : Bool := false
  /-- The connection's transcripts: version, capabilities and algorithms; digests and certificates; measurements. -/
  opening : List Byte := []
  certs : List Byte := []
  measured : List Byte := []
  deriving DecidableEq, Repr

/-- A firmware image in a flash bank (R401, R402). -/
structure Bank where
  bytes : SMap Byte := []
  len : Nat := 0
  deriving DecidableEq, Repr

/-- A die's operating point (R394, R395). -/
structure Die where
  point : Nat := 0
  target : Nat := 0
  cap : Nat := 0
  stretched : Bool := false
  deriving DecidableEq, Repr

/-- What a module is doing about activation or migration (R391, R392). -/
inductive Lifecycle where
  | none
  | activating (targets : List Nat)
  | migratingOut (function : Nat)
  deriving DecidableEq, Repr

/-- A module (R1). -/
structure Module where
  /-- Registers of the physical function's block, by byte offset, that hold what was written (R377, R412, R413). -/
  pf : SMap DWord := []
  /-- Error and event counters (R415, R416). -/
  counters : SMap Nat := []
  errlog : List (Nat × Nat) := []
  foreign : Signature := 0#512
  hostSig : Signature := 0#512
  poolSig : Signature := 0#512
  /-- The escalation token: holder and queue of lanes (core, slot, lane), and the holder's tenure start (R165, R166). -/
  holder : Option (Nat × Nat × Nat) := none
  tenure : Nat := 0
  tokenQueue : List (Nat × Nat × Nat) := []
  /-- Words (physical addresses) that the escalation holder pins at their home slices (R167). -/
  pins : List Nat := []
  /-- Peers declared lost: module numbers, 32 for the host port, 33 for the pool port (R149). -/
  lost : List Nat := []
  /-- The device's last read and write of a word of host memory on a page with SYSATOM = 0: its key, its bytes and what was read (R144, R150). -/
  hostRmw : Option (Nat × Nat × Nat) := none
  hostPort : PortMode := .down
  poolPort : PortMode := .down
  poolBytes : DWord := 0#64
  /-- Power sequencing (R393): rails raised, rails good, stopped. -/
  railsUp : Nat := 0
  railsGood : Word := 0#32
  railFault : Option Nat := none
  /-- The mask ROM has started, and has handed over to the housekeeping image (R401). -/
  romStarted : Bool := false
  booted : Bool := false
  /-- Status window (R396): stage, first bad rail, flags and versions. -/
  keyidx : Nat := 0
  keyen : Bool := false
  updok : Bool := false
  safe : Bool := false
  fallback : Bool := false
  stage : Nat := 0
  firstbad : Nat := 15
  pavg : Nat := 0
  plim : Nat := 3200
  plimNext : Option Nat := none
  hksvn : Nat := 0
  qpsvn : Nat := 0
  /-- Security version of the training tables in use (R404). -/
  ttsvn : Nat := 0
  /-- VFs enabled, as the IDENT entry shows it from the end of the self-test on (R410, R411). -/
  vfs : Nat := 0
  report : List ReportEntry := []
  dies : SMap Die := []
  /-- Power sampling (R395): sum and number of samples in the window, windows below 90 % in a row. -/
  powerSum : Nat := 0
  powerCount : Nat := 0
  quiet : Nat := 0
  /-- Mailbox (R397). -/
  mbLen : Nat := 0
  mbCode : Nat := 0
  mbBusy : Bool := false
  /-- The running command is ACTIVATE, which completes when its activation does (R391). -/
  mbHeld : Bool := false
  mbResult : Nat := 0
  mbRlen : Nat := 0
  mbData : SMap Byte := []
  /-- Measurements, keys and flash (R401 to R404). -/
  slots : SMap (BitVec 384) := []
  keys : SMap (Option (BitVec 768)) := []
  keyOff : List Nat := []
  vendorOff : Bool := false
  minSvn : SMap Nat := []
  banks : SMap Bank := []
  activeBank : Nat := 0
  spdm : SMap Spdm := []
  certificate : List Byte := []
  phy : SMap Phy := []
  fabric : SMap FabricPort := []
  lifecycle : Lifecycle := .none
  /-- Firmware instruction memory of the queue processor (R380). -/
  firmware : SMap Byte := []
  deriving DecidableEq, Repr

/-- A word with bit errors (R414): one error is corrected, two are not. -/
inductive BitError where
  | clean | single | double
  deriving DecidableEq, Repr

/-! ### The machine -/

/-- The operands of a step of another agent: which part of the machine it concerns, and what the outside world or an open choice supplies.
Each step names the fields it reads. -/
structure StepArgs where
  core : Nat := 0
  slot : Nat := 0
  entry : Nat := 0
  lane : Nat := 0
  record : Nat := 0
  group : Nat := 0
  warp : Nat := 0
  agreement : Nat := 0
  index : Nat := 0
  unit : Nat := 0
  child : Nat := 0
  cls : Nat := 0
  scope : Nat := 0
  region : Nat := 0
  module : Nat := 0
  hub : Nat := 0
  peer : Nat := 0
  ctx : Nat := 0
  domain : Nat := 0
  queue : Nat := 0
  port : Nat := 0
  channel : Nat := 0
  die : Nat := 0
  point : Nat := 0
  rail : Nat := 0
  bytes : Nat := 0
  pa : Nat := 0
  va : Nat := 0
  offset : Nat := 0
  size : Nat := 0
  watts : Nat := 0
  hottest : Nat := 0
  coolest : Nat := 0
  lanes : LaneMask := 0#32
  value : DWord := 0#64
  write : Option DWord := none
  data : List Byte := []
  flag : Bool := false
  flag2 : Bool := false
  doe : Bool := false
  cause : MonitorCause := .write
  reader : Option MapReader := none
  target : Option RegTarget := none
  report : List ReportEntry := []
  train : Option TrainResult := none
  link : Option LinkSeen := none
  mode : PortMode := .down
  nonce : BitVec 256 := 0#256
  deriving DecidableEq, Repr

/-- Whose turn the next step is. -/
inductive Turn where
  | issue (core : Nat)
  | queue (q : Nat)
  | event (i : Instr) (a : StepArgs)
  deriving DecidableEq, Repr

/-- Who holds the step: a warp's entry, with the length and the parcels of its instruction, or a queue thread. -/
inductive Issuer where
  | idle
  | warp (core slot entry : Nat)
  | queue (q : Nat)
  deriving DecidableEq, Repr

/-- An output that the outside world sees: an event posted by R390 (with its context), or an MSI-X vector. -/
inductive Output where
  | event (ctx : Nat) (code : Nat) (data : Nat)
  | vector (ctx : Nat) (number : Nat)
  | spdm (module : Nat) (doe : Bool) (message : List Byte)
  /-- Bytes that a host access has read (R375, R376). -/
  | data (module : Nat) (bytes : List Byte)
  deriving DecidableEq, Repr

/-- The state of a domain. Global numbers: core = module × 512 + n, region = module × 32 + r, hub = module × 4 + h,
slice = module × 512 + channel, context = module × 32 + function, queue = module × 32 + q. -/
structure State where
  mem : List Host.Cell := []
  ecc : SMap BitError := []
  cores : SMap Core := []
  regions : SMap Region := []
  cairns : SMap Cairn := []
  hubs : SMap Hub := []
  slices : SMap Slice := []
  ports : SMap Port := []
  contexts : SMap Ctx := []
  queues : SMap Queue := []
  modules : SMap Module := []
  net : List NetMsg := []
  /-- Children marked silent whose echoes have not come (R80, R82). -/
  late : List LateChild := []
  agenda : List Turn := []
  cur : Issuer := .idle
  args : StepArgs := {}
  free : Nat := 0
  log : List Output := []
  deriving DecidableEq, Repr

/-- The machine right after reset: every field at the value of the rule that names it, or of log 1, 3, 4, 5 or 6; the memory lists nothing. -/
def State.reset : State := {}

end Sys2Proof.Machine
end

