-- ==== Sys2Proof/Machine/Access.lean ====
section
/-! DEFINITION. Reading and writing the parts of the state, and the register file of a warp. Every register has one home and is reached through these operations. -/

namespace Sys2Proof.Machine

/-! ### Parts of the state -/

/-- Core `c` of the domain. -/
def State.core (s : State) (c : Nat) : Core := SMap.get {} s.cores c
/-- Replaces core `c`. -/
def State.setCore (s : State) (c : Nat) (k : Core) : State := { s with cores := SMap.set {} s.cores c k }
/-- Region `r` of the domain. -/
def State.region (s : State) (r : Nat) : Region := SMap.get {} s.regions r
/-- Replaces region `r`. -/
def State.setRegion (s : State) (r : Nat) (k : Region) : State := { s with regions := SMap.set {} s.regions r k }
/-- Cairn `slot` of a unit. -/
def State.cairn (s : State) (u slot : Nat) : Cairn := SMap.get {} s.cairns (u * 256 + slot)
/-- Replaces a cairn. -/
def State.setCairn (s : State) (u slot : Nat) (k : Cairn) : State := { s with cairns := SMap.set {} s.cairns (u * 256 + slot) k }
/-- Hub `h` of the domain. -/
def State.hub (s : State) (h : Nat) : Hub := SMap.get {} s.hubs h
/-- Replaces hub `h`. -/
def State.setHub (s : State) (h : Nat) (k : Hub) : State := { s with hubs := SMap.set {} s.hubs h k }
/-- Home slice `n` of the domain. -/
def State.slice (s : State) (n : Nat) : Slice := SMap.get {} s.slices n
/-- Replaces home slice `n`. -/
def State.setSlice (s : State) (n : Nat) (k : Slice) : State := { s with slices := SMap.set {} s.slices n k }
/-- Context `x` of the domain. -/
def State.ctx (s : State) (x : Nat) : Ctx := SMap.get {} s.contexts x
/-- Replaces context `x`. -/
def State.setCtx (s : State) (x : Nat) (k : Ctx) : State := { s with contexts := SMap.set {} s.contexts x k }
/-- Queue `q` of the domain. -/
def State.queue (s : State) (q : Nat) : Queue := SMap.get {} s.queues q
/-- Replaces queue `q`. -/
def State.setQueue (s : State) (q : Nat) (k : Queue) : State := { s with queues := SMap.set {} s.queues q k }
/-- Module `m`. -/
def State.module (s : State) (m : Nat) : Module := SMap.get {} s.modules m
/-- Replaces module `m`. -/
def State.setModule (s : State) (m : Nat) (k : Module) : State := { s with modules := SMap.set {} s.modules m k }
/-- Port `p`: home slice `n` of module `m` is 512·m + n, a host port is 2^20 + 2·m and a pool port 2^20 + 2·m + 1. -/
def State.port (s : State) (p : Nat) : Port := SMap.get {} s.ports p
/-- Replaces port `p`. -/
def State.setPort (s : State) (p : Nat) (k : Port) : State := { s with ports := SMap.set {} s.ports p k }

/-- The warp in a slot of a core, if one is resident. -/
def Core.warp (k : Core) (slot : Nat) : Option Warp := SMap.get none k.warps slot
/-- Replaces the warp of a slot. -/
def Core.setWarp (k : Core) (slot : Nat) (w : Option Warp) : Core := { k with warps := SMap.set none k.warps slot w }
/-- A group of a core. -/
def Core.group (k : Core) (g : Nat) : Option Group := SMap.get none k.groups g
/-- Replaces a group of a core. -/
def Core.setGroup (k : Core) (g : Nat) (x : Option Group) : Core := { k with groups := SMap.set none k.groups g x }

/-- The warp in a slot; a vacant slot reads as a warp with no lanes. -/
def State.warp (s : State) (c slot : Nat) : Warp := ((s.core c).warp slot).getD {}
/-- Replaces the warp in a slot. -/
def State.setWarp (s : State) (c slot : Nat) (w : Warp) : State := s.setCore c ((s.core c).setWarp slot (some w))
/-- The group of a warp slot. -/
def State.groupOf (s : State) (c slot : Nat) : Group := ((s.core c).group (s.warp c slot).group).getD {}
/-- A group of a core; an absent one reads as an empty group. -/
def State.group (s : State) (c g : Nat) : Group := ((s.core c).group g).getD {}
/-- Replaces a group of a core. -/
def State.setGroup (s : State) (c g : Nat) (x : Group) : State := s.setCore c ((s.core c).setGroup g (some x))

/-! ### Numbering (R1, R88) -/

/-- The module of a core. -/
def coreModule (c : Nat) : Nat := c / 512
/-- The region of the domain that holds a core: sixteen cores a region. -/
def coreRegion (c : Nat) : Nat := coreModule c * 32 + c % 512 / 16
/-- The die of a core within its module: eight regions a die. -/
def coreDie (c : Nat) : Nat := c % 512 / 128
/-- The cores of a module, region or die instance, as a first core and a count. -/
def scopeCores (scope c : Nat) : Nat × Nat :=
  if scope ≤ 2 then (c, 1)
  else if scope = 3 then (c / 16 * 16, 16)
  else if scope = 4 then (c / 128 * 128, 128)
  else if scope = 5 then (c / 512 * 512, 512)
  else (0, 16384)
/-- A core lies in another core's instance of a scope (R126). -/
def inScope (scope c d : Nat) : Bool := let (a, n) := scopeCores scope c; a ≤ d && d < a + n

/-- The modules of a module's domain: DOMMASK, or the module alone (R377, R379). -/
def State.domMask (s : State) (m : Nat) : Nat :=
  let v := (SMap.get 0#64 (s.module m).pf 0x230).toNat % 2 ^ 32
  if v = 0 then 2 ^ m else v ||| 2 ^ m

/-- HUBTMO (R413): 20 until it is written. -/
def Module.hubTmo (z : Module) : Nat := let v := (SMap.get 0#64 z.pf 0x220).toNat; if v = 0 then 20 else v

/-- M of R61: the modules set in DOMMASK, or 1 when it is 0. -/
def State.domCount (s : State) (m : Nat) : Nat :=
  let v := (SMap.get 0#64 (s.module m).pf 0x230).toNat % 2 ^ 32
  if v = 0 then 1 else popcount 32 v

/-- The modules of a context's domain: CDOM within DOMMASK, its own bit set (R378, R379). -/
def State.cdom (s : State) (x : Nat) : Nat := ((SMap.get 0#64 (s.ctx x).regs 0x0B0).toNat &&& s.domMask (x / 32)) ||| 2 ^ (x / 32)

/-- The lowest module of a context's domain. -/
def State.lowestModule (s : State) (x : Nat) : Nat := (findFrom (fun i => bit (s.cdom x) i) 32 0).getD 0

/-- The local time of a region (log 1): the furthest CLOCK of its cores. -/
def State.regionClock (s : State) (r : Nat) : Nat :=
  s.cores.foldl (fun t k => if coreRegion k.1 = r then max t k.2.clock.toNat else t) 0

/-- The local time of a module's hubs, home slices, port agents and escalation unit (log 1): the furthest CLOCK of its cores. -/
def State.moduleClock (s : State) (m : Nat) : Nat :=
  s.cores.foldl (fun t k => if coreModule k.1 = m then max t k.2.clock.toNat else t) 0

/-! ### Registers of a warp (R27, R28, R209) -/

/-- A named register: vector or uniform. -/
inductive RegRef where
  | v (r : Nat)
  | s (r : Nat)
  deriving DecidableEq, Repr

/-- The register that lies `k` above a register. -/
def RegRef.plus (r : RegRef) (k : Nat) : RegRef :=
  match r with
  | .v n => .v (n + k)
  | .s n => .s (n + k)

/-- Reads a register in a lane. -/
def Warp.get (w : Warp) (r : RegRef) (lane : Nat) : Word :=
  match r with
  | .v n => SMap.get 0#32 w.v (32 * n + lane)
  | .s n => SMap.get 0#32 w.s n

/-- Writes a register in a lane. -/
def Warp.put (w : Warp) (r : RegRef) (lane : Nat) (x : Word) : Warp :=
  match r with
  | .v n => { w with v := SMap.set 0#32 w.v (32 * n + lane) x }
  | .s n => { w with s := SMap.set 0#32 w.s n x }

/-- A run of `n` registers as one value, the first register lowest (R209). -/
def Warp.getRun (w : Warp) (r : RegRef) (lane : Nat) : (n : Nat) → Nat
  | 0 => 0
  | n + 1 => (w.get r lane).toNat + 2 ^ 32 * Warp.getRun w (r.plus 1) lane n

/-- Writes a run of `n` registers. -/
def Warp.putRun (w : Warp) (r : RegRef) (lane : Nat) : (n : Nat) → Nat → Warp
  | 0, _ => w
  | n + 1, x => Warp.putRun (w.put r lane (BitVec.ofNat 32 x)) (r.plus 1) lane n (x / 2 ^ 32)

/-- The even-odd pair at a register (R209). -/
def Warp.pair (w : Warp) (r : RegRef) (lane : Nat) : Nat := w.getRun r lane 2

/-- Whether a register is empty in a lane (R28). -/
def Warp.isEmpty (w : Warp) (r : RegRef) (lane : Nat) : Bool :=
  match r with
  | .v n => (SMap.get 0#32 w.vEmpty n).getLsbD lane
  | .s n => w.sEmpty.getLsbD n

/-- Marks a register empty in the lanes of a mask (R28). -/
def Warp.markEmpty (w : Warp) (r : RegRef) (m : LaneMask) : Warp :=
  match r with
  | .v n => { w with vEmpty := SMap.set 0#32 w.vEmpty n (SMap.get 0#32 w.vEmpty n ||| m) }
  | .s n => { w with sEmpty := w.sEmpty ||| (if m = 0#32 then 0#64 else 1#64 <<< n) }

/-- Marks a register full in the lanes of a mask (R28). -/
def Warp.markFull (w : Warp) (r : RegRef) (m : LaneMask) : Warp :=
  match r with
  | .v n => { w with vEmpty := SMap.set 0#32 w.vEmpty n (SMap.get 0#32 w.vEmpty n &&& ~~~m) }
  | .s n => { w with sEmpty := w.sEmpty &&& ~~~(if m = 0#32 then 0#64 else 1#64 <<< n) }

/-- Marks a run of registers empty. -/
def Warp.markEmptyRun (w : Warp) (r : RegRef) (m : LaneMask) : (n : Nat) → Warp
  | 0 => w
  | n + 1 => Warp.markEmptyRun (w.markEmpty r m) (r.plus 1) m n

/-- Marks a run of registers full. -/
def Warp.markFullRun (w : Warp) (r : RegRef) (m : LaneMask) : (n : Nat) → Warp
  | 0 => w
  | n + 1 => Warp.markFullRun (w.markFull r m) (r.plus 1) m n

/-- A predicate in a lane; p15 reads true (R209). -/
def Warp.pred (w : Warp) (p lane : Nat) : Bool := if p = 15 then true else (SMap.get 0#32 w.p p).getLsbD lane

/-- The lanes in which a predicate is true. -/
def Warp.predMask (w : Warp) (p : Nat) : LaneMask := if p = 15 then 0xFFFFFFFF#32 else SMap.get 0#32 w.p p

/-- Writes a predicate in the lanes of a mask; writes to p15, and to p14 once a deferred cancel has set it (R85), are ignored. -/
def Warp.putPred (w : Warp) (p : Nat) (m val : LaneMask) : Warp :=
  if p = 15 ∨ (p = 14 ∧ w.deferred) then w
  else { w with p := SMap.set 0#32 w.p p ((SMap.get 0#32 w.p p &&& ~~~m) ||| (val &&& m)) }

/-- The live lanes of a warp: those that some entry holds (R16). -/
def Warp.live (w : Warp) : LaneMask := w.frontier.foldl (fun m e => m ||| e.mask) 0#32

/-- A lane's transaction. -/
def Warp.laneTx (w : Warp) (lane : Nat) : LaneTx := SMap.get {} w.tx lane
/-- Replaces a lane's transaction. -/
def Warp.setTx (w : Warp) (lane : Nat) (t : LaneTx) : Warp := { w with tx := SMap.set {} w.tx lane t }
/-- A lane's flood identity. -/
def Warp.laneIdent (w : Warp) (lane : Nat) : Ident := SMap.get {} w.ident lane
/-- Replaces a lane's flood identity. -/
def Warp.setIdent (w : Warp) (lane : Nat) (t : Ident) : Warp := { w with ident := SMap.set {} w.ident lane t }

/-- Whether a lane's transaction is open (R151). -/
def Warp.isOpen (w : Warp) (lane : Nat) : Bool := (w.laneTx lane).state == .opened

/-- The warp runs in privileged mode (R244). -/
def Warp.privileged (w : Warp) : Bool := w.privst.getLsbD 0

/-! ### Contexts (R378) -/

/-- A register of a context block by its offset. -/
def State.ctxReg (s : State) (x off : Nat) : Nat := (SMap.get 0#64 (s.ctx x).regs off).toNat

/-- The global number of a warp's context. -/
def State.ctxOf (s : State) (c slot : Nat) : Nat := (s.groupOf c slot).ctx

/-! ### Free values (log 5) -/

/-- Takes a fresh free value. -/
def State.takeFree (s : State) : DWord × State := (Config.freeValue s.free, { s with free := s.free + 1 })

/-- Takes a fresh free choice. -/
def State.takeBool (s : State) : Bool × State := (Config.freeBool s.free, { s with free := s.free + 1 })

/-! ### Bytes of memory -/

/-- What a byte of memory that nothing has written reads as (log 3). -/
def unlisted : Byte := 0#8

/-- The key of a place of memory: domain memory by physical address, port memory apart by requesting module. -/
def memKey : Place → Nat
  | .dom pa => pa
  | .port m pa => pa + m * 2 ^ 52
  | .stash c off => 2 ^ 60 + c * 2 ^ 19 + off

/-- One byte at a key. -/
def readByte (m : List Host.Cell) (k : Nat) : Byte := SMap.get unlisted m k
/-- Writes one byte at a key. -/
def writeByte (m : List Host.Cell) (k : Nat) (b : Byte) : List Host.Cell := SMap.set unlisted m k b

/-- The canonical form of memory: keys strictly rising, no entry equal to what an unlisted byte reads as. -/
abbrev Memory.wf (m : List Host.Cell) : Prop := SMap.wf unlisted m = true

/-- `n` bytes from a key on, as a little-endian value (R3). -/
def readBytes (m : List Host.Cell) (k : Nat) : (n : Nat) → Nat
  | 0 => 0
  | n + 1 => (readByte m k).toNat + 256 * readBytes m (k + 1) n

/-- Writes `n` bytes of a little-endian value from a key on (R3). -/
def writeBytes (m : List Host.Cell) (k : Nat) : (n : Nat) → Nat → List Host.Cell
  | 0, _ => m
  | n + 1, x => writeBytes (writeByte m k (BitVec.ofNat 8 x)) (k + 1) n (x / 256)

/-- Writes the bytes of a little-endian value whose mask bit is set. -/
def writeMasked (m : List Host.Cell) (k : Nat) : (n : Nat) → (mask x : Nat) → List Host.Cell
  | 0, _, _ => m
  | n + 1, mask, x => writeMasked (if mask % 2 = 1 then writeByte m k (BitVec.ofNat 8 x) else m) (k + 1) n (mask / 2) (x / 256)

end Sys2Proof.Machine
end

