-- ==== Sys2Proof/Machine/Float.lean ====
section
/-! DEFINITION. The element formats and the one rounding discipline (R171 to R181): exact values, decoding, rounding, integer conversion, sums. -/

namespace Sys2Proof.Machine

/-- An exact value: NaN, an infinity, or (−1)^neg · m · 2^e; zero keeps its sign. -/
inductive FVal where
  | nan
  | inf (neg : Bool)
  | fin (neg : Bool) (m : Nat) (e : Int)
  deriving DecidableEq, Repr

/-- A floating-point encoding (R173): exponent and fraction widths, bias. `top` tells what the all-ones exponent holds: 0 infinity and NaN,
1 NaN only at the all-ones fraction (e4m3), 2 neither (e2m1). -/
structure Fmt where
  ebits : Nat
  mbits : Nat
  bias : Nat
  top : Nat
  deriving DecidableEq, Repr

/-- The formats of R173 by format code; code 5 stands for its element e2m1 and code 6 for its element e4m3 (R171). -/
def fmtOf (code : Nat) : Fmt :=
  match code with
  | 1 => ⟨5, 10, 15, 0⟩
  | 2 => ⟨8, 7, 127, 0⟩
  | 3 | 6 => ⟨4, 3, 7, 1⟩
  | 4 => ⟨5, 2, 15, 0⟩
  | 5 => ⟨2, 1, 1, 2⟩
  | 10 => ⟨11, 52, 1023, 0⟩
  | _ => ⟨8, 23, 127, 0⟩

/-- Bits of an element of a format code (R171). -/
def fmtBits (code : Nat) : Nat :=
  match code with
  | 1 | 2 => 16
  | 3 | 4 | 6 | 7 | 8 => 8
  | 5 | 9 => 4
  | 10 => 64
  | _ => 32

/-- The codes of floating-point formats whose elements carry no scale (R171). -/
def floatCode (code : Nat) : Bool := [0, 1, 2, 3, 4, 10].contains code

/-- Width of an encoding. -/
def Fmt.width (f : Fmt) : Nat := 1 + f.ebits + f.mbits
/-- The all-ones exponent. -/
def Fmt.emax (f : Fmt) : Nat := 2 ^ f.ebits - 1
/-- The magnitude bits of +∞, or of what would follow the largest finite value. -/
def Fmt.infBits (f : Fmt) : Nat := f.emax * 2 ^ f.mbits
/-- The magnitude bits of the largest finite value (R173). -/
def Fmt.maxBits (f : Fmt) : Nat :=
  match f.top with
  | 0 => f.infBits - 1
  | 1 => f.infBits + 2 ^ f.mbits - 2
  | _ => f.infBits + 2 ^ f.mbits - 1
/-- The canonical NaN (R173); e2m1 has none and takes 0 (R178). -/
def Fmt.canon (f : Fmt) : Nat :=
  match f.top with
  | 0 => f.infBits + 2 ^ (f.mbits - 1)
  | 1 => f.infBits + 2 ^ f.mbits - 1
  | _ => 0
/-- An encoding with a sign. -/
def Fmt.signed (f : Fmt) (neg : Bool) (mag : Nat) : Nat := (if neg then 2 ^ (f.ebits + f.mbits) else 0) + mag

/-- Decodes the low bits of a value (R173). -/
def Fmt.decode (f : Fmt) (x : Nat) : FVal :=
  let neg := bit x (f.ebits + f.mbits); let e := field x f.mbits f.ebits; let m := field x 0 f.mbits
  if e = 0 then .fin neg m (1 - (f.bias : Int) - f.mbits)
  else if e = f.emax ∧ f.top = 0 then (if m = 0 then .inf neg else .nan)
  else if e = f.emax ∧ f.top = 1 ∧ m = 2 ^ f.mbits - 1 then .nan
  else .fin neg (2 ^ f.mbits + m) ((e : Int) - f.bias - f.mbits)

/-! ### Exact arithmetic -/

/-- Sign of a value as a factor. -/
def FVal.isNeg : FVal → Bool
  | .nan => false | .inf n => n | .fin n _ _ => n
/-- The negated value. -/
def FVal.neg : FVal → FVal
  | .nan => .nan | .inf n => .inf (!n) | .fin n m e => .fin (!n) m e
/-- Zero of either sign. -/
def FVal.isZero : FVal → Bool
  | .fin _ m _ => m == 0 | _ => false

/-- A signed integer times a power of two, as a value; an exact zero takes the sign of the flag (R176 step 3). -/
def ofScaled (zneg : Bool) (n e : Int) : FVal :=
  if n = 0 then .fin zneg 0 0 else .fin (n < 0) n.natAbs e

/-- The value in units of 2^e, for an `e` not above its exponent. -/
def FVal.units (v : FVal) (e : Int) : Int :=
  match v with
  | .fin n m x => let k : Int := (m * 2 ^ (x - e).toNat : Nat); if n then -k else k
  | _ => 0

/-- The exponent of a value in a sum; zeros do not lower it. -/
def FVal.expo : FVal → Option Int
  | .fin _ m e => if m = 0 then none else some e
  | _ => none

/-- The least exponent of the terms of a sum. -/
def leastExpo : List FVal → Option Int
  | [] => none
  | v :: t => match v.expo, leastExpo t with
    | some a, some b => some (min a b)
    | some a, none => some a
    | none, r => r

/-- The exact sum of values (R176, R184): NaN where a term is NaN or infinities of both signs meet, else an infinity that is present, else the sum.
An exact zero is +0, −0 under .rdn, and −0 where every term is −0 (R176 step 3, log 13). -/
def exactSum (vs : List FVal) (rm : Nat) : FVal :=
  if vs.contains .nan || (vs.contains (.inf true) && vs.contains (.inf false)) then .nan
  else if vs.contains (.inf true) then .inf true
  else if vs.contains (.inf false) then .inf false
  else
    match leastExpo vs with
    | none => .fin (rm == 2 || (!vs.isEmpty && vs.all (fun v => v.isNeg))) 0 0
    | some e => ofScaled (rm == 2) ((vs.map (fun v => v.units e)).foldl (· + ·) 0) e

/-- The exact product (R178: 0 × ∞ is NaN). -/
def FVal.mul (a b : FVal) : FVal :=
  match a, b with
  | .nan, _ => .nan
  | _, .nan => .nan
  | .inf n, .inf k => .inf (n != k)
  | .inf n, .fin k m _ => if m = 0 then .nan else .inf (n != k)
  | .fin n m _, .inf k => if m = 0 then .nan else .inf (n != k)
  | .fin n m e, .fin k j x => .fin (n != k) (m * j) (e + x)

/-- How two values that are not NaN compare: less, equal or greater; zeros are equal. -/
def FVal.compare (a b : FVal) : Int :=
  match a, b with
  | .inf n, .inf k => if n = k then 0 else if n then -1 else 1
  | .inf n, _ => if n then -1 else 1
  | _, .inf k => if k then 1 else -1
  | a, b =>
    match leastExpo [a, b] with
    | none => 0
    | some e => (a.units e - b.units e).sign

/-- A quotient of natural numbers as a value close enough to round: 200 bits of the quotient and a sticky bit below them. -/
def ratio (neg : Bool) (n d : Nat) : FVal :=
  let k := 200 + Nat.log2 (d + 1)
  let q := n * 2 ^ k / d
  .fin neg (2 * q + (if n * 2 ^ k % d = 0 then 0 else 1)) (-(k : Int) - 1)

/-- The exact quotient of finite values with a nonzero divisor, with a sticky bit. -/
def FVal.quot (a b : FVal) : FVal :=
  match a, b with
  | .fin n m e, .fin k j x =>
    match ratio (n != k) m j with
    | .fin s q r => .fin s q (r + e - x)
    | v => v
  | _, _ => .nan

/-! ### Rounding (R175 to R178) -/

/-- Rounds n / 2^sh to an integer in a mode (R175). -/
def roundShift (neg : Bool) (n sh rm : Nat) : Nat :=
  let q := n / 2 ^ sh; let r := n % 2 ^ sh
  let up := match rm with
    | 0 => 2 * r > 2 ^ sh || (2 * r == 2 ^ sh && q % 2 == 1)
    | 1 => false
    | 2 => neg && r != 0
    | _ => !neg && r != 0
  if up then q + 1 else q

/-- The mode rounds a value of a sign away from zero on overflow (R176 step 4). -/
def roundsAway (neg : Bool) (rm : Nat) : Bool := rm == 0 || (rm == 3 && !neg) || (rm == 2 && neg)

/-- What an overflow becomes (R176 step 4). -/
def Fmt.overflow (f : Fmt) (neg : Bool) (rm : Nat) (sat : Bool) : Nat :=
  if sat || f.top = 2 || !roundsAway neg rm then f.signed neg f.maxBits
  else if f.top = 1 then f.canon else f.signed neg f.infBits

/-- Rounds an exact value to a format (R176 to R178): once, at the fraction width, or at the subnormal quantum below the smallest normal. -/
def Fmt.round (f : Fmt) (v : FVal) (rm : Nat) (sat : Bool) : Nat :=
  match v with
  | .nan => f.canon
  | .inf neg => if sat then f.signed neg f.maxBits else if f.top = 0 then f.signed neg f.infBits else if f.top = 1 then f.canon else f.signed neg f.maxBits
  | .fin neg m e =>
    if m = 0 then f.signed neg 0
    else
      let qmin : Int := 1 - (f.bias : Int) - f.mbits
      -- the quantum: the fraction's last place, no finer than the subnormal one
      let q : Int := max (e + (Nat.log2 m : Int) - f.mbits) qmin
      let n := if q ≤ e then m * 2 ^ (e - q).toNat else roundShift neg m (q - e).toNat rm
      let (n, q) := if n = 2 ^ (f.mbits + 1) then (2 ^ f.mbits, q + 1) else (n, q)
      -- magnitude bits: exponent field and fraction together
      let mag := if n < 2 ^ f.mbits then n else ((q - qmin).toNat + 1) * 2 ^ f.mbits + (n - 2 ^ f.mbits)
      if mag > f.maxBits then f.overflow neg rm sat else f.signed neg mag

/-- Rounds a value to an integer (R192). -/
def FVal.toInt (v : FVal) (rm : Nat) : Int :=
  match v with
  | .fin neg m e =>
    let n := if 0 ≤ e then m * 2 ^ e.toNat else roundShift neg m (-e).toNat rm
    if neg then -(n : Int) else n
  | _ => 0

/-- Conversion to an integer of `n` bits (R192, R260): clamped with .sat, else modulo 2^n; NaN is 0; ±∞ is the range's end with .sat, else 0. -/
def intConvert (n : Nat) (unsigned : Bool) (v : FVal) (rm : Nat) (sat : Bool) : Nat :=
  let lo : Int := if unsigned then 0 else -(2 ^ (n - 1) : Nat)
  let hi : Int := if unsigned then (2 ^ n - 1 : Nat) else (2 ^ (n - 1) - 1 : Nat)
  match v with
  | .nan => 0
  | .inf neg => if sat then wrap n (if neg then lo else hi) else 0
  | v =>
    let x := v.toInt rm
    if sat then wrap n (if x < lo then lo else if x > hi then hi else x) else wrap n x

/-- An integer as a value. -/
def ofInt (x : Int) : FVal := ofScaled false x 0

/-- Decodes an element of an unscaled format, integers by their signedness (R172, R173, R260). -/
def decodeElem (code : Nat) (unsigned : Bool) (x : Nat) : FVal :=
  if code = 7 ∨ code = 11 then
    let n := fmtBits code
    ofInt (if unsigned then ((x % 2 ^ n : Nat) : Int) else signed n x)
  else (fmtOf code).decode x

/-! ### Operations -/

/-- a + b, a · b and a · b + c, each rounded once (R176, R249). -/
def Fmt.add (f : Fmt) (a b : FVal) (rm : Nat) : Nat := f.round (exactSum [a, b] rm) rm false
/-- The product, rounded once. -/
def Fmt.mul (f : Fmt) (a b : FVal) (rm : Nat) : Nat := f.round (a.mul b) rm false
/-- The product not rounded, added and rounded once. -/
def Fmt.fma (f : Fmt) (a b c : FVal) (rm : Nat) : Nat := f.round (exactSum [a.mul b, c] rm) rm false

/-- −0 counts as less than +0 (R250). -/
def FVal.lessOrdered (a b : FVal) : Bool := a.compare b == -1 || (a.isZero && b.isZero && a.isNeg && !b.isNeg)

/-- The smaller or the larger of two encodings, with the NaN rule of R250. -/
def Fmt.pick (f : Fmt) (largest pnan : Bool) (x y : Nat) : Nat :=
  let a := f.decode x; let b := f.decode y
  if a = .nan then (if b = .nan || pnan then f.canon else y)
  else if b = .nan then (if pnan then f.canon else x)
  else if largest then (if a.lessOrdered b then y else x) else (if b.lessOrdered a then y else x)

/-! ### Scaled formats (R174, R179 to R181) -/

/-- Scales a value by 2^k. -/
def FVal.scale (v : FVal) (k : Int) : FVal :=
  match v with
  | .fin n m e => .fin n m (e + k)
  | v => v

/-- An element of an mx4 or mx8 block under its E8M0 scale (R179). -/
def decodeMx (code : Nat) (E x : Nat) : FVal := if E % 256 = 0xFF then .nan else ((fmtOf code).decode x).scale ((E % 256 : Int) - 127)

/-- The zero point of a scale word: q4 uses four bits (R181). -/
def zeroPoint (code word : Nat) : Nat := if code = 9 then field word 16 4 else field word 16 8

/-- A q8 or q4 element under its scale word: σ × (q − z) (R180). -/
def decodeQ (code word x : Nat) : FVal := ((fmtOf 1).decode word).mul (ofInt ((x % 2 ^ fmtBits code : Nat) - (zeroPoint code word : Int)))

/-- A scaled element under its scale word or byte (R179, R180). -/
def decodeScaled (code word x : Nat) : FVal := if code = 5 ∨ code = 6 then decodeMx code word x else decodeQ code word x

/-- Rounds value / 2^(E − 127) to an mx4 or mx8 element; a finite overflow saturates (R193, R262). -/
def encodeMx (code E : Nat) (v : FVal) (rm : Nat) (sat : Bool) : Nat :=
  let f := fmtOf code
  match v.scale (127 - (E : Int)) with
  | .fin n m e => f.round (.fin n m e) rm true
  | v => f.round v rm sat

/-- Clamp(RoundNearestEven(x / σ) + z, 0, 2^b − 1) for a finite nonzero σ (R194, R262). -/
def encodeQ (code word : Nat) (v : FVal) : Nat :=
  let sg := (fmtOf 1).decode word; let z : Int := zeroPoint code word; let hi : Int := (2 ^ fmtBits code - 1 : Nat)
  match v with
  | .nan => 0
  | .inf n => if n != sg.isNeg then 0 else hi.toNat
  | v => (max 0 (min hi ((v.quot sg).toInt 0 + z))).toNat

end Sys2Proof.Machine
end

