-- ==== Sys2Proof/Machine/Rmw.lean ====
section
/-! DEFINITION. What an atomic makes of its element (R31, R276, R278, R287). -/

namespace Sys2Proof.Machine

/-- Bytes of an atomic's element by TY (R276). -/
def atomWidth (ty : Nat) : Nat := if ty % 2 = 1 then 8 else 4

/-- The new value of ATOM and RED from old o and operand b (R276). -/
def atomNew (op : Nat) (fl : Bool) (ty o b : Nat) : Nat :=
  let n := 8 * atomWidth ty; let f := fmtOf (if ty % 2 = 1 then 10 else 0)
  let less (u v : Nat) : Bool := if ty = 2 ∨ ty = 3 then signed n u < signed n v else u < v
  match op with
  | 0 => if fl then f.add (f.decode o) (f.decode b) 0 else (o + b) % 2 ^ n
  | 1 => if fl then f.pick false false o b else if less b o then b else o
  | 2 => if fl then f.pick true false o b else if less o b then b else o
  | 3 => o &&& b
  | 4 => o ||| b
  | 5 => o ^^^ b
  | 6 => b
  | 7 => if o ≥ b then 0 else o + 1
  | _ => if o = 0 ∨ o > b then b else o - 1

/-- The identity from which a partial starts (R147): of add, min and max. -/
def atomIdentity (op : Nat) (fl : Bool) (ty : Nat) : Nat :=
  let n := 8 * atomWidth ty; let f := fmtOf (if ty % 2 = 1 then 10 else 0)
  let sg := ty = 2 ∨ ty = 3
  match op with
  | 1 => if fl then f.infBits else if sg then 2 ^ (n - 1) - 1 else 2 ^ n - 1
  | 2 => if fl then f.signed true f.infBits else if sg then 2 ^ (n - 1) else 0
  | _ => 0

/-- A chunk claimed from a counter object of 16 bytes (R31, R287): the object after the claim, and start and count. -/
def claimNew (o : Nat) : Nat × Nat :=
  let next := field o 0 32; let rem := field o 32 32; let cl := max 1 (field o 64 32); let mc := max 1 (field o 96 32)
  let count := min rem (max mc (ceilDiv rem (2 * cl)))
  (putField (putField o 0 32 (next + count)) 32 32 (rem - count), next + count * 2 ^ 32)

/-- The kinds of read-modify-write: by operation, compare and swap, and chunk claim. -/
inductive Rmw where
  | atom (op : Nat) (fl : Bool) (ty : Nat)
  | cas (ty : Nat)
  | claim
  deriving DecidableEq, Repr

/-- Bytes of the element. -/
def Rmw.width : Rmw → Nat
  | .atom _ _ ty => atomWidth ty | .cas ty => atomWidth ty | .claim => 16

/-- Bytes of the returned value. -/
def Rmw.result : Rmw → Nat
  | .claim => 8 | r => r.width

/-- The element written, if any, and the value returned, from the old element and the operands. -/
def Rmw.apply (r : Rmw) (o b c : Nat) : Option Nat × Nat :=
  match r with
  | .atom op fl ty => (some (atomNew op fl ty o b), o)
  | .cas _ => (if o = b then some c else none, o)
  | .claim => let (n, v) := claimNew o; (some n, v)

end Sys2Proof.Machine
end

