-- ==== Sys2Proof/Machine/Translate.lean ====
section
/-! DEFINITION. From a virtual address to the place that serves it: the address spaces of R87, the page walk of R102 to R105, stripe sets, and the translation caches of R107. -/

namespace Sys2Proof.Machine

/-- The kind of an access, as the fault record's ACC field codes it (R120). -/
inductive Acc where
  | load | store | atomic | fetch | tileRead | tileWrite | mapRead
  deriving DecidableEq, Repr

/-- The ACC code (R120). -/
def Acc.code : Acc → Nat
  | .load => 0 | .store => 1 | .atomic => 2 | .fetch => 3 | .tileRead => 4 | .tileWrite => 5 | .mapRead => 6

/-- Accesses that need W = 1 (R105). -/
def Acc.writes : Acc → Bool
  | .store | .atomic | .tileWrite => true
  | _ => false

/-- What a translation gives: a place with the page's modes, a fault that parks, or a refused access with its KIND and LEVEL (R105, R120). -/
inductive Xlat where
  | ok (place : Place) (wti sysatom shard : Bool)
  | fault (kind level : Nat)
  | perm (kind level : Nat)
  deriving DecidableEq, Repr

/-- The serving agent of a physical address for a requesting module (R88). -/
def placeOf (m pa : Nat) : Place := if bit pa 51 then .port m pa else .dom pa

/-- The module that holds a domain address (R88). -/
def paModule (pa : Nat) : Nat := field pa 39 5

/-- The home slice of a domain address, numbered in the domain (R88). -/
def sliceOf (pa : Nat) : Nat := paModule pa * 512 + (if bit pa 38 then field pa 29 9 else field pa 10 9)

/-- A physical address that is never used: bit 51 clear with a bit of [50:44] set (R88). -/
def badPa (pa : Nat) : Bool := !bit pa 51 && field pa 44 7 != 0

/-! ### Recall (R145)

A default atomic leaves its line owned by the core that executed it; an access that reaches the home writes that core's dirty bytes
of the line back first. -/

/-- A tile store of the group still has bytes to move to some of `n` bytes of domain memory. -/
def Group.storesTo (g : Group) (pa n : Nat) : Bool :=
  g.landings.any (fun l => !l.load && l.runs.any (fun r => match r.place with
    | some (.dom p) => p < pa + n && pa < p + ceilDiv (r.nib + r.bits) 8
    | _ => false))

/-- A tile store of some group, resident or saved, still has bytes to move there. -/
def State.storesTo (s : State) (pa n : Nat) : Bool :=
  s.cores.any (fun k => k.2.groups.any (fun g => g.2.any (fun g => g.storesTo pa n)) || k.2.saved.any (fun v => v.group.storesTo pa n))

/-- A tile engine owns a line of domain memory at its home, from the issue of its store until the store's last byte there (R142, R295). A pinned word in
the line comes first: the engine waits for it (R168). The copy engines and the home agents do the work of a command in one step (log 86). -/
def State.engineOwns (s : State) (line : Nat) : Bool :=
  s.storesTo (line * 1024) 1024 &&
    !(s.module (line / 2 ^ 29 % 32)).pins.any (fun a => a / 1024 == line)

/-- The bytes of a sector, by its number pa[51:8], that threads' write-backs may not reach: an engine owns the line (R142), or escalated transactions pin
them (R167, R168). -/
def State.pinMask (s : State) (sn : Nat) : BitVec 256 :=
  if s.engineOwns (sn / 4) then BitVec.allOnes 256
  else (s.module (sn / 2 ^ 31 % 32)).pins.foldl (fun m a => if a / 256 = sn then m ||| (0xFF#256 <<< (a % 256)) else m) 0#256

/-- The sector after a fill: dirty bytes are kept, the others come from the home (R95). -/
def Sector.fill (x : Sector) (home : Nat) : Sector :=
  let m := fromBits (fun i => x.dirty.getLsbD (i / 8)) 2048
  { full := true, dirty := x.dirty, bad := x.bad, data := (x.data &&& BitVec.ofNat 2048 m) ||| (BitVec.ofNat 2048 home &&& ~~~(BitVec.ofNat 2048 m)) }

/-- The dirty bytes of a sector that a write-back takes to the home: a write to a pinned byte waits (R168). -/
def Sector.leaving (x : Sector) (pins : BitVec 256) : Sector := { x with dirty := x.dirty &&& ~~~pins }

/-- The dirty bytes of a sector that a write-back leaves. -/
def Sector.staying (x : Sector) (pins : BitVec 256) : Sector :=
  if x.dirty &&& pins = 0#256 then {} else { x with dirty := x.dirty &&& pins }

/-- Merges the dirty bytes of a sector into memory; the sector's base is its physical address. Bytes with an uncorrectable error are lost (R414). -/
def mergeSector (mem : List Host.Cell) (base : Nat) (x : Sector) : List Host.Cell :=
  if x.bad then mem else writeMasked mem base 256 x.dirty.toNat x.data.toNat

/-- Writes back a sector, by its number, but for pinned bytes: the memory, and the sector full with what the home now holds (R95, R134, R168). -/
def writeBackOf (pins : Nat → BitVec 256) (mem : List Host.Cell) (sn : Nat) (x : Sector) : List Host.Cell × Sector :=
  let mem := mergeSector mem (256 * sn) (x.leaving (pins sn))
  (mem, (x.staying (pins sn)).fill (readBytes mem (256 * sn) 256))

/-- Writes back the dirty sectors of one line. -/
def writeBackLine (pins : Nat → BitVec 256) (mem : List Host.Cell) (l : Line) : (n : Nat) → List Host.Cell × Line
  | 0 => (mem, l)
  | n + 1 =>
    let x := SMap.get {} l.sectors n
    if x.dirty = 0#256 then writeBackLine pins mem l n
    else
      let (mem, y) := writeBackOf pins mem (l.line * 4 + n) x
      writeBackLine pins mem { l with sectors := SMap.set {} l.sectors n y } n

/-- Writes back every dirty sector of a list of lines. -/
def writeBackLines (pins : Nat → BitVec 256) (mem : List Host.Cell) : List Line → List Host.Cell × List Line
  | [] => (mem, [])
  | l :: t =>
    let (mem, l1) := writeBackLine pins mem l 4
    let (mem, t1) := writeBackLines pins mem t
    (mem, l1 :: t1)

/-- The line of a core, if its L1 holds it. -/
def Core.findLine (k : Core) (line : Nat) : Option Line := k.l1.find? (fun l => l.line == line)

/-- Replaces or adds a line as the most recently touched one (R94). -/
def Core.touchLine (k : Core) (l : Line) : Core := { k with l1 := l :: k.l1.filter (fun x => x.line != l.line) }

/-- Merges one commutative-update partial into its element (R147); the operation is coded as OP + 16 · F + 32 · TY. -/
def mergePartial (mem : List Host.Cell) (p : Nat × Nat × Nat × Nat × Nat) : List Host.Cell :=
  let (_, pa, width, op, v) := p
  writeBytes mem pa width (atomNew (op % 16) (bit op 4) (op / 32) (readBytes mem pa width) v)

/-- Inserts a partial in ascending order of its core: module, then core number (R147). -/
def insertPartial (p : Nat × Nat × Nat × Nat × Nat) : List (Nat × Nat × Nat × Nat × Nat) → List (Nat × Nat × Nat × Nat × Nat)
  | [] => [p]
  | q :: t => if p.1 < q.1 then p :: q :: t else q :: insertPartial p t

/-- Merges the partials of a slice that a test picks (R147). -/
def State.mergeWhere (s : State) (n : Nat) (pick : Nat × Nat × Nat × Nat × Nat → Bool) : State :=
  let z := s.slice n
  let ps := z.partials.filter pick
  if ps.isEmpty then s
  else
    let ps := ps.foldl (fun acc p => insertPartial p acc) []
    { s with mem := ps.foldl mergePartial s.mem }.setSlice n { z with partials := z.partials.filter (fun p => !pick p) }

/-- Before any other access to a line is served, its partials are merged (R147), and the directory recalls a line that a core owns exclusively,
unless the reader is that core (R145). -/
def State.recall (s : State) (reader : Option Nat) (place : Place) : State :=
  match place with
  | .dom pa =>
    let s := s.mergeWhere (sliceOf pa) (fun p => p.2.1 / 1024 == pa / 1024)
    let n := sliceOf pa; let line := pa / 1024
    match SMap.get none (s.slice n).owner line with
    | some c =>
      if reader = some c then s
      else
        let s := s.setSlice n { s.slice n with owner := SMap.set none (s.slice n).owner line none }
        match (s.core c).findLine line with
        | some l =>
          let (mem, l') := writeBackLine s.pinMask s.mem l 4
          let s := { s with mem := mem }
          s.setCore c { s.core c with l1 := (s.core c).l1.map (fun x => if x.line = line then l' else x) }
        | none => s
    | none => s
  | _ => s

/-- The lines that a range of a place touches. -/
def Place.lines (p : Place) (n : Nat) : List Place :=
  match p with
  | .dom pa => (List.range ((pa % 1024 + n + 1023) / 1024)).map (fun i => .dom ((pa / 1024 + i) * 1024))
  | _ => []

/-- Every line of a range is recalled. -/
def State.recallRange (s : State) (reader : Option Nat) (place : Place) (n : Nat) : State :=
  (place.lines n).foldl (fun s p => s.recall reader p) s

/-- Reads `n` bytes at the home, after any recall. -/
def State.homeRead (s : State) (reader : Option Nat) (place : Place) (n : Nat) : Nat × State :=
  let s := s.recallRange reader place n
  (readBytes s.mem (memKey place) n, s)

/-! ### The page walk (R102 to R105) -/

/-- The index of a virtual address at a level (R102). -/
def levelIndex (level va : Nat) : Nat :=
  match level with
  | 3 => field va 42 14
  | 2 => field va 30 12
  | 1 => field va 21 9
  | _ => field va 12 9

/-- Address bits that a leaf at a level maps (R102). -/
def leafBits (level : Nat) : Nat :=
  match level with
  | 2 => 30
  | 1 => 21
  | _ => 12

/-- Bytes of the table at a level, to which it is aligned (R102). -/
def tableBytes (level : Nat) : Nat :=
  match level with
  | 3 => 131072
  | 2 => 32768
  | _ => 4096

/-- A leaf that the walk has found: the entry, its address, its level and the bits that it maps. -/
structure Leaf where
  e : Nat
  ea : Nat
  level : Nat
  bits : Nat
  deriving DecidableEq, Repr

/-- The physical address that an entry's PPN names (R103). -/
def ptePpn (e : Nat) : Nat := field e 12 40 * 4096

/-- All sixteen entries of a 64 KiB group equal one entry in every bit except A and D (R104). -/
def groupSame (s : State) (m base want : Nat) : (n : Nat) → Bool
  | 0 => true
  | n + 1 =>
    let e := readBytes s.mem (memKey (placeOf m (base + 8 * n))) 8
    putField e 5 2 0 == want && groupSame s m base want n

/-- One table after another from the root down (R105: the first entry that decides ends the walk). -/
def walkLevels (s : State) (m va : Nat) : (levels : List Nat) → (table : Nat) → State × Except (Nat × Nat) Leaf
  | [], _ => (s, .error (1, 0))
  | n :: rest, table =>
    let ea := table + 8 * levelIndex n va
    let (e, s) := s.homeRead none (placeOf m ea) 8
    if !bit e 0 then (s, .error (0, n))
    else if field e 56 8 != 0 || field e 8 4 != 0 then (s, .error (1, n))
    else if !bit e 1 then
      if n == 0 || field e 52 4 != 0 || field e 2 6 != 0 then (s, .error (1, n))
      else
        let next := ptePpn e
        if next % tableBytes (n - 1) != 0 || badPa next then (s, .error (1, n))
        else walkLevels s m va rest next
    else if n == 3 then (s, .error (1, n))
    else if bit e 7 then
      if n != 0 then (s, .error (1, n))
      else
        let base := ea - ea % 128
        if !groupSame s m base (putField e 5 2 0) 16 then (s, .error (1, n))
        else if !bit e 54 && (ptePpn e % 65536 != 0 || badPa (ptePpn e)) then (s, .error (1, n))
        else (s, .ok { e := e, ea := base, level := n, bits := 16 })
    else if !bit e 54 && (ptePpn e % 2 ^ leafBits n != 0 || badPa (ptePpn e)) then (s, .error (1, n))
    else (s, .ok { e := e, ea := ea, level := n, bits := leafBits n })

/-- Sets bits of one entry, or of a 64 KiB group of sixteen, by an atomic OR at its home (R104). -/
def orEntries (mem : List Host.Cell) (m ea bits : Nat) : (n : Nat) → List Host.Cell
  | 0 => mem
  | n + 1 =>
    let k := memKey (placeOf m (ea + 8 * n))
    let e := readBytes mem k 1
    orEntries (writeBytes mem k 1 (e ||| bits)) m ea bits n

/-- The walker sets A on the first use and D on the first store (R103, R104). -/
def setUsed (s : State) (m : Nat) (l : Leaf) (store : Bool) : State :=
  let want := if store then 0x60 else 0x20
  if l.e &&& want = want ∧ l.bits ≠ 16 then s
  else { s with mem := orEntries s.mem m l.ea want (if l.bits = 16 then 16 else 1) }

/-- The members of a stripe set up to the first with V = 0 (R109). -/
def stripeMembers (s : State) (place : Nat → Place) : (n k : Nat) → List Nat
  | 0, _ => []
  | n + 1, k =>
    let e := readBytes s.mem (memKey (place k)) 8
    if bit e 63 then e :: stripeMembers s place n (k + 1) else []

/-- The access checks of a leaf (R105, R419): W, X and PRIV in that order. -/
def leafCheck (e : Nat) (acc : Acc) (priv : Bool) (level : Nat) : Option Xlat :=
  if acc.writes && !bit e 2 then some (.perm 2 level)
  else if acc == .fetch && !bit e 3 then some (.perm 3 level)
  else if bit e 4 && !priv then some (.perm 4 level)
  else none

/-- A translated granule: physical address, and the virtual base and size of what one cache entry may hold (R107). -/
structure Granule where
  pa : Nat
  va : Nat
  size : Nat
  e : Nat
  level : Nat
  /-- The stripe member, and its record, for a STRIPE page (R110). -/
  member : Nat
  record : Nat
  deriving DecidableEq, Repr

/-- Walks for a virtual address of the global space; a STRIPE leaf reads its set at SSETBASE, which translates in the same way (R109, R110).
`fuel` bounds stripe sets that lie in striped pages; past it the entry counts as one with an empty set. The check of
reserved bits is made on the member that the address selects and on no other, by the choice of log 96. -/
def walkPage (x : Nat) : (fuel : Nat) → State → (va : Nat) → State × Except (Nat × Nat) (Granule × Leaf)
  | 0, s, _ => (s, .error (1, 0))
  | fuel + 1, s, va =>
    let m := x / 32
    let root := s.ctxReg x 0x000
    if root = 0 then (s, .error (0, 3))
    else
      match walkLevels s m va [3, 2, 1, 0] root with
      | (s, .error k) => (s, .error k)
      | (s, .ok l) =>
        let pb := va - va % 2 ^ l.bits
        if !bit l.e 54 then
          (s, .ok ({ pa := ptePpn l.e + va % 2 ^ l.bits, va := pb, size := 2 ^ l.bits, e := l.e, level := l.level, member := 0, record := 0 }, l))
        else
          let rec0 := s.ctxReg x 0x010 + 256 * field l.e 12 8
          match walkPage x fuel s rec0 with
          | (s, .error k) => (s, .error k)
          | (s, .ok (g, set)) =>
            let s := setUsed s m set false
            let ms := stripeMembers s (fun k => placeOf m (g.pa + 8 * k)) 32 0
            if ms.isEmpty then (s, .error (1, l.level))
            else
              let k := field l.e 20 32 + (va - pb) / 4096
              let mem := k % ms.length
              let r := (ms[mem]?).getD 0
              let pa := field r 12 40 * 4096 + k / ms.length * 4096 + va % 4096
              if field r 57 6 != 0 || field r 0 12 != 0 || badPa pa || badPa (field r 12 40 * 4096) then (s, .error (1, l.level))
              else
                (s, .ok ({ pa := pa, va := va - va % 4096, size := 4096, e := l.e, level := l.level, member := mem, record := r }, l))

/-- The result of a translated granule for one access. -/
def Granule.xlat (g : Granule) (m : Nat) : Xlat :=
  let p := placeOf m g.pa
  .ok p (bit g.e 52) (bit g.e 53) (bit g.e 55)

/-- Translates for an agent without a translation cache, with `priv` where the access ignores PRIV or is privileged (R419). -/
def State.walk (s : State) (x va : Nat) (acc : Acc) (priv : Bool) : Xlat × State :=
  match walkPage x 3 s va with
  | (s, .error (k, l)) => (.fault k l, s)
  | (s, .ok (g, l)) =>
    match leafCheck g.e acc priv l.level with
    | some r => (r, s)
    | none => (g.xlat (x / 32), setUsed s (x / 32) l acc.writes)

/-! ### Virtual addresses (R87) -/

/-- The three regions of a 64-bit address (R87). -/
inductive Space where
  | global | stash (core off : Nat) | reserved
  deriving DecidableEq, Repr

/-- Where an address lies, seen from a module (R87, R89). -/
def spaceOf (m ea : Nat) : Space :=
  if ea < 2 ^ 56 then .global
  else if ea < 2 ^ 56 + 2 ^ 28 then .stash (m * 512 + (ea - 2 ^ 56) / 2 ^ 19) ((ea - 2 ^ 56) % 2 ^ 19)
  else .reserved

/-- Translates for a context's own tables (R419: PRIV ignored) and other agents without a core. -/
def State.xlatCtx (s : State) (x va : Nat) (acc : Acc) : Xlat × State :=
  match spaceOf (x / 32) va with
  | .global => s.walk x va acc true
  | _ => (.perm 10 15, s)

/-! ### The core TLB (R107) -/

/-- The cached translation of an address. -/
def findTlb (t : List TlbEntry) (x va : Nat) : Option TlbEntry := t.find? (fun e => e.ctx == x && e.va ≤ va && va < e.va + e.size)

/-- The cached entry of a granule. -/
def tlbOf (x : Nat) (g : Granule) (store : Bool) : TlbEntry :=
  { ctx := x, va := g.va, size := g.size, pa := g.pa - (g.pa % g.size), w := bit g.e 2, x := bit g.e 3, priv := bit g.e 4,
    dirty := bit g.e 6 || store, shard := bit g.e 55, wti := bit g.e 52, sysatom := bit g.e 53 }

/-- The access checks on a cached translation. -/
def tlbCheck (e : TlbEntry) (acc : Acc) (priv : Bool) : Option Nat :=
  if acc.writes && !e.w then some 2
  else if acc == .fetch && !e.x then some 3
  else if e.priv && !priv then some 4
  else none

/-- The level of the page size of a cached translation (R102). -/
def sizeLevel (size : Nat) : Nat := if size = 2 ^ 30 then 2 else if size = 2 ^ 21 then 1 else 0

/-- Keeps the newest `n` entries of a cache. -/
def capped {α : Type} (n : Nat) (xs : List α) : List α := xs.take n

/-- Drops the last element that meets a test. -/
def dropLastOf {α : Type} (p : α → Bool) : List α → List α
  | [] => []
  | y :: t => if p y && !t.any p then t else y :: dropLastOf p t

/-- The set of a cached translation among the core TLB's 256: its page number at its own size (log 30). -/
def TlbEntry.set (e : TlbEntry) : Nat := e.va / e.size % 256

/-- Caches a translation as the newest: in the core TLB of 2,048 entries the oldest of the set's eight ways gives way, in the tile engine's of 512 entries
the oldest of all (R107, log 30). -/
def cacheTlb (cap : Nat) (e : TlbEntry) (t : List TlbEntry) : List TlbEntry :=
  if cap = 2048 then e :: (if (t.filter (fun y => y.set == e.set)).length < 8 then t else dropLastOf (fun y => y.set == e.set) t) else capped cap (e :: t)

/-- Translates through a cache of at most `cap` entries: a hit whose page is clean walks again on a store, so that the walker sets D. -/
def xlatVia (s : State) (t : List TlbEntry) (cap x va : Nat) (acc : Acc) (priv : Bool) : Xlat × State × List TlbEntry :=
  match findTlb t x va with
  | some e =>
    match tlbCheck e acc priv with
    | some k => (.perm k (sizeLevel e.size), s, t)
    | none =>
      if acc.writes && !e.dirty then
        match walkPage x 3 s va with
        | (s, .error (k, l)) => (.fault k l, s, t)
        | (s, .ok (g, l)) =>
          match leafCheck g.e acc priv l.level with
          | some r => (r, s, t)
          | none => (g.xlat (x / 32), setUsed s (x / 32) l true, cacheTlb cap (tlbOf x g true) (t.filter (fun y => y != e)))
      else (.ok (placeOf (x / 32) (e.pa + (va - e.va))) e.wti e.sysatom e.shard, s, t)
  | none =>
    match walkPage x 3 s va with
    | (s, .error (k, l)) => (.fault k l, s, t)
    | (s, .ok (g, l)) =>
      match leafCheck g.e acc priv l.level with
      | some r => (r, s, t)
      | none => (g.xlat (x / 32), setUsed s (x / 32) l acc.writes, cacheTlb cap (tlbOf x g acc.writes) t)

/-- Translates a per-lane access of core `c` in context `x` (R107). -/
def State.xlatCore (s : State) (c x va : Nat) (acc : Acc) (priv : Bool) : Xlat × State :=
  let (r, s, t) := xlatVia s (s.core c).tlb 2048 x va acc priv
  (r, if t = (s.core c).tlb then s else s.setCore c { s.core c with tlb := t })

/-- Translates for the tile engine of core `c` (R107). -/
def State.xlatTile (s : State) (c x va : Nat) (acc : Acc) (priv : Bool) : Xlat × State :=
  let (r, s, t) := xlatVia s (s.core c).tileTlb 512 x va acc priv
  (r, if t = (s.core c).tileTlb then s else s.setCore c { s.core c with tileTlb := t })

/-- Translates any address of a warp's access: the stash window needs no translation, and what R87 refuses is refused here. -/
def State.xlatLane (s : State) (c x ea : Nat) (acc : Acc) (priv : Bool) : Xlat × State :=
  match spaceOf (coreModule c) ea with
  | .global => s.xlatCore c x ea acc priv
  | .stash k off => if acc == .fetch then (.perm 10 15, s) else (.ok (.stash k off) false false false, s)
  | .reserved => (.perm 10 15, s)

end Sys2Proof.Machine
end

