-- ==== Sys2Proof/Machine/Memory.lean ====
section
/-! DEFINITION. The L1, the stash, home slices and ports as accesses see them: hits, fills, write-backs, dirty-sector signatures, release and acquire (R89 to R96, R132 to R145, R269). -/

namespace Sys2Proof.Machine

/-! ### Signatures (R133) -/

/-- Rotation of a 9-bit value left. -/
def rot9 (c k : Nat) : Nat := (c * 2 ^ k + c / 2 ^ (9 - k)) % 512

/-- The two bit positions of a sector number (R133). -/
def sigBits (sn : Nat) : Nat × Nat :=
  let c0 := field sn 0 9; let c1 := field sn 9 9; let c2 := field sn 18 9; let c3 := field sn 27 9; let c4 := field sn 36 8
  (c0 ^^^ c1 ^^^ c2 ^^^ c3 ^^^ c4, rot9 c0 1 ^^^ rot9 c1 3 ^^^ rot9 c2 5 ^^^ rot9 c3 7 ^^^ rot9 c4 2)

/-- Inserts a sector into a signature (R133). -/
def sigInsert (g : Signature) (sn : Nat) : Signature := let (a, b) := sigBits sn; g ||| (1#512 <<< a) ||| (1#512 <<< b)

/-- A sector matches a signature (R133). -/
def sigMatch (g : Signature) (sn : Nat) : Bool := let (a, b) := sigBits sn; g.getLsbD a && g.getLsbD b

/-- A core's signature of a scope (3 .rg to 7 .sy). -/
def Core.sigOf (k : Core) (scope : Nat) : Signature := SMap.get 0#512 k.sig scope

/-- ORs a signature into the signatures of the listed scopes. -/
def orSigs (m : SMap Signature) (g : Signature) : List Nat → SMap Signature
  | [] => m
  | sc :: t => orSigs (SMap.set 0#512 m sc (SMap.get 0#512 m sc ||| g)) g t

/-- A written sector enters all five signatures of its core (R133). -/
def Core.noteWrite (k : Core) (sn : Nat) : Core := { k with sig := orSigs k.sig (sigInsert 0#512 sn) [3, 4, 5, 6, 7] }

/-! ### Wakes (R280 to R282) -/

/-- The comparison codes 0 to 5 on two values (R208). -/
def cmpNat (code : Nat) (a b : Int) : Bool :=
  match code with
  | 0 => a == b
  | 1 => a != b
  | 2 => a < b
  | 3 => a ≤ b
  | 4 => a > b
  | 5 => a ≥ b
  | _ => false

/-- The condition of a wait on a value (R280). -/
def waitHolds (width mask expected cmp : Nat) (sgn : Bool) (x : Nat) : Bool :=
  let y := x &&& mask
  if sgn then cmpNat cmp (signed (8 * width) y) (signed (8 * width) expected) else cmpNat cmp (y : Int) (expected % 2 ^ (8 * width) : Nat)

/-- Two byte ranges of one storage meet. -/
def placesMeet (p : Place) (n : Nat) (q : Place) (m : Nat) : Bool :=
  match p, q with
  | .dom a, .dom b => a < b + m && b < a + n
  | .port i a, .port j b => i == j && a < b + m && b < a + n
  | .stash i a, .stash j b => i == j && a < b + m && b < a + n
  | _, _ => false

/-- A place `k` bytes above a place. -/
def Place.plus (p : Place) (k : Nat) : Place :=
  match p with
  | .dom a => .dom (a + k)
  | .port m a => .port m (a + k)
  | .stash c o => .stash c (o + k)

/-- One byte of a place's storage. -/
def State.byteAt (s : State) (p : Place) : Byte :=
  match p with
  | .stash c off => SMap.get 0#8 (s.core c).stash off
  | _ => readByte s.mem (memKey p)

/-- `n` bytes of a place's storage (for memory, what its home holds). -/
def State.bytesAt (s : State) (p : Place) : (n : Nat) → Nat
  | 0 => 0
  | n + 1 => (s.byteAt p).toNat + 256 * State.bytesAt s (p.plus 1) n

/-- Two places lie in one 1,024-byte line. -/
def Place.sameLine (p q : Place) : Bool :=
  match p, q with
  | .dom a, .dom b => a / 1024 == b / 1024
  | _, _ => false

/-- Marks the lanes of a warp that a write of `n` bytes at a place wakes (R280, R281): a wait in a table by a write that satisfies it, a wait on domain
memory outside a full table by every write to its line, which is watched. The wake is a hint. -/
def wakeWarp (s : State) (p : Place) (n : Nat) (w : Warp) : Warp :=
  { w with waits := w.waits.map (fun x =>
      match x.kind with
      | .value q width mask expected cmp sgn _ _ =>
        let hit := if x.held then placesMeet p n q width && waitHolds width mask expected cmp sgn (s.bytesAt q width) else p.sameLine q
        if hit && !x.done then { x with woken := true } else x
      | _ => x) }

/-- Hits the monitor of a warp on a line (R282). -/
def hitMonitor (p : Place) (n : Nat) (why : MonitorCause) (w : Warp) : Warp :=
  match w.monitor with
  | some m => if placesMeet p n m.line 1024 && m.hit.isNone then { w with monitor := some { m with hit := some why } } else w
  | none => w

/-- Applies a change to every resident warp of a core. -/
def Core.mapWarps (k : Core) (f : Nat → Warp → Warp) : Core :=
  { k with warps := k.warps.map (fun x => (x.1, x.2.map (f x.1))) }

/-- Applies a change to every core that the state lists. -/
def State.mapCores (s : State) (f : Nat → Core → Core) : State :=
  { s with cores := (s.cores.map (fun x => (x.1, f x.1 x.2))).filter (fun x => decide (x.2 ≠ ({} : Core))) }

/-- Whether a wait or a monitor of the warp concerns a place. -/
def Warp.watches (w : Warp) (p : Place) (n : Nat) : Bool :=
  w.waits.any (fun x => match x.kind with | .value q width _ _ _ _ _ _ => placesMeet p n q width || p.sameLine q | _ => false) ||
    (match w.monitor with | some m => placesMeet p n m.line 1024 | none => false)

/-- Whether any resident warp watches a place. -/
def State.watched (s : State) (p : Place) (n : Nat) : Bool :=
  s.cores.any (fun x => x.2.warps.any (fun y => match y.2 with | some w => w.watches p n | none => false))

/-- A saved group enters a state of R353: 1 swapped out, 2 wake pending. The header of its area shows it in bits [263:261], beside GSIZE. -/
def State.setSavedState (s : State) (c number st : Nat) : State :=
  let k := s.core c
  match k.saved.find? (fun v => v.number == number) with
  | none => s
  | some v =>
    let s := s.setCore c { k with saved := k.saved.map (fun x => if x.number = number then { x with state := st } else x) }
    match v.header with
    | some h => { s with mem := writeByte s.mem (h + 32) (BitVec.ofNat 8 (v.group.slots.length + 32 * st)) }
    | none => s

/-- The saved groups that swap-out has put aside, as core and number. -/
def State.swappedOut (s : State) (p : Warp → Bool) : List (Nat × Nat) :=
  s.cores.flatMap (fun k => (k.2.saved.filter (fun v => v.state == 1 && v.warps.any p)).map (fun v => (k.1, v.number)))

/-- A swapped-out group that waits for an event is woken by message (R37, R38): it becomes queued for restore. -/
def State.wakeSaved (s : State) (p : Warp → Bool) : State :=
  (s.swappedOut p).foldl (fun s x => s.setSavedState x.1 x.2 2) s

/-- A wait of a warp that a write of `n` bytes at a place satisfies (R37). -/
def Warp.satisfied (s : State) (p : Place) (n : Nat) (w : Warp) : Bool :=
  (wakeWarp s p n w).waits.any (fun x => x.woken && !x.done)

/-- What follows a write that has reached its home or stash: satisfied waits are woken, those of swapped-out groups by message (R37), and monitors
of other agents are hit. -/
def State.notify (s : State) (writer : Option (Nat × Nat)) (p : Place) (n : Nat) : State :=
  let s := if s.cores.any (fun k => !k.2.saved.isEmpty) then s.wakeSaved (Warp.satisfied s p n) else s
  if s.watched p n then
    s.mapCores (fun c k => k.mapWarps (fun slot w =>
      let w := wakeWarp s p n w
      let own := match p, writer with
        | .stash _ _, some (a, b) => a == c && b == slot
        | _, some (a, _) => a == c
        | _, none => false
      if own then w else hitMonitor p n .write w))
  else s

/-- Bits [8i, 8i + 8) of a byte mask all set: a full write of an ECC word replaces its contents (R414; words of eight bytes, log 14). -/
def eccWords (k n mask : Nat) (w : Nat) : Bool := k ≤ 8 * w && 8 * w + 8 ≤ k + n && field mask (8 * w - k) 8 == 255

/-- A write ends the bit errors of the ECC words that it covers whole (R414). -/
def State.eccWrite (s : State) (k n mask : Nat) : State :=
  if s.ecc.isEmpty then s else { s with ecc := s.ecc.filter (fun x => !eccWords k n mask x.1) }

/-- The worst bit error among the ECC words of a byte range of memory (R414). -/
def State.eccAt (s : State) (p : Place) (n : Nat) : BitError :=
  let k := memKey p
  let hit := s.ecc.filter (fun x => 8 * x.1 < k + n && k < 8 * x.1 + 8)
  if hit.any (fun x => x.2 == .double) then .double else if hit.isEmpty then .clean else .single

/-- Adds to a counter of a module, saturating (R415). -/
def State.count (s : State) (m off n : Nat) : State :=
  let z := s.module m
  s.setModule m { z with counters := SMap.set 0 z.counters off (min 0xFFFFFFFF (SMap.get 0 z.counters off + n)) }

/-- The structure that holds a place: DRAM or a stash (R415). -/
def eccStruct : Place → Nat
  | .stash _ _ => 2 | _ => 8

/-- The module that keeps the counters of a place. -/
def eccModule (m : Nat) : Place → Nat
  | .dom pa => paModule pa | .stash c _ => c / 512 | _ => m

/-- An entry of the uncorrectable-error log (R416): the structure, what came of it, where, and the context; counted once. -/
def eccEntry (st at_ addr outcome ctx : Nat) : Nat :=
  st + outcome * 2 ^ 8 + at_ * 2 ^ 16 + ctx % 2 ^ 32 * 2 ^ 32 + addr * 2 ^ 64 + 2 ^ 128

/-- Counts and logs an uncorrectable error of a structure of a module: a further error at the newest entry's location raises that entry's count (R416). -/
def State.logWord (s : State) (e st at_ addr outcome ctx : Nat) : State :=
  let s := s.count e (16 * st + 8) 1
  let z := s.module e; let v := eccEntry st at_ addr outcome ctx
  let new : State := let z := (s.count e 0x600 1).module e; (s.count e 0x600 1).setModule e { z with errlog := ((SMap.get 0 z.counters 0x600 - 1, v) :: z.errlog).take 16 }
  match z.errlog with
  | (i, u) :: t => if u % 256 = v % 256 ∧ field u 64 64 = field v 64 64 then s.setModule e { z with errlog := (i, u + 2 ^ 128) :: t } else new
  | [] => new

/-- The first of the 2^17 ECC words of a group: those of its operand buffer, eight bytes each (log 14), and from 2^16 on the cells of its accumulators. -/
def groupWords (c gi : Nat) : Nat := 2 ^ 96 + gi * 2 ^ 31 + c * 2 ^ 17

/-- The word of a group, by its number there, that a key names. -/
def groupWord (c gi key : Nat) : Option Nat :=
  if groupWords c gi ≤ key ∧ key < groupWords c gi + 2 ^ 17 then some (key - groupWords c gi) else none

/-- A read of some words of a group by a core's instruction, matrix unit or tile engine meets their bit errors (R414 to R416): single ones are corrected
and counted; the uncorrectable ones are logged and named. -/
def State.meetErrors (s : State) (c gi ctx : Nat) (reads : Nat → Bool) : List Nat × State :=
  if s.ecc.isEmpty then ([], s)
  else
    let met (y : Nat × BitError) : Bool := (groupWord c gi y.1).any reads
    let hits := (s.ecc.filter met).map (fun y => (y.1 - groupWords c gi, y.2))
    let s := hits.foldl (fun s y =>
      let st := if y.1 < 2 ^ 16 then 4 else 5
      if y.2 = .double then s.logWord (c / 512) st (c % 512) (if y.1 < 2 ^ 16 then 8 * y.1 else 4 * (y.1 - 2 ^ 16)) 1 (ctx % 32) else s.count (c / 512) (16 * st) 1) s
    ((hits.filter (fun y => y.2 == .double)).map Prod.fst, { s with ecc := s.ecc.filter (fun y => y.2 == .double || !met y) })

/-- A full write of some words of a group ends their errors (R414). -/
def State.healWords (s : State) (c gi : Nat) (writes : Nat → Bool) : State :=
  if s.ecc.isEmpty then s else { s with ecc := s.ecc.filter (fun y => !(groupWord c gi y.1).any writes) }

/-- Logs an uncorrectable error of a place in the module that keeps it (R416). -/
def State.logError (s : State) (m : Nat) (p : Place) (outcome ctx : Nat) : State :=
  let at_ := match p with | .dom pa => sliceOf pa % 512 | .stash c _ => c % 512 | .port _ _ => m
  let addr := match p with | .stash _ off => off | _ => memKey p % 2 ^ 52
  s.logWord (eccModule m p) (eccStruct p) at_ addr outcome ctx

/-- A read of a byte range meets its bit errors (R414): single ones are corrected, written back and counted; a double one is counted and logged,
and the flag says that the data is bad. -/
def State.eccRead (s : State) (m ctx outcome : Nat) (p : Place) (n : Nat) : Bool × State :=
  if s.ecc.isEmpty then (false, s)
  else
    let k := memKey p; let e := eccModule m p
    let ones := (s.ecc.filter (fun x => x.2 == .single && 8 * x.1 < k + n && k < 8 * x.1 + 8)).length
    let bad := s.eccAt p n == .double
    let s := { s with ecc := s.ecc.filter (fun x => !(x.2 == .single && 8 * x.1 < k + n && k < 8 * x.1 + 8)) }
    let s := if ones = 0 then s else s.count e (16 * eccStruct p) ones
    if bad then (true, s.logError m p outcome ctx)
    else (false, s)

/-- Writes masked bytes at a place's storage and sends the wakes; a write to a line that another core owns recalls it first (R145). -/
def State.homeWrite (s : State) (writer : Option (Nat × Nat)) (p : Place) (n mask x : Nat) : State :=
  match p with
  | .stash c off =>
    let k := s.core c
    ((s.setCore c { k with stash := writeMasked k.stash off n mask x }).eccWrite (memKey p) n mask).notify writer p n
  | _ =>
    let s := s.recallRange (writer.map Prod.fst) p n
    ({ s with mem := writeMasked s.mem (memKey p) n mask x }.eccWrite (memKey p) n mask).notify writer p n

/-- All `n` bytes. -/
def fullMask (n : Nat) : Nat := 2 ^ n - 1

/-! ### The L1 (R94, R95) -/

/-- Bytes [off, off + n) of a sector are all dirty. -/
def Sector.allDirty (x : Sector) (off n : Nat) : Bool := field x.dirty.toNat off n == fullMask n

/-- The sector after an invalidation: dirty bytes are kept (R95). -/
def Sector.invalidate (x : Sector) : Sector := if x.dirty = 0#256 then {} else { x with full := false }

/-- The sector after a store of `n` bytes. -/
def Sector.store (x : Sector) (off n v : Nat) (dirty : Bool) : Sector :=
  { full := x.full, bad := x.bad,
    data := BitVec.ofNat 2048 (putField x.data.toNat (8 * off) (8 * n) v),
    dirty := if dirty then x.dirty ||| BitVec.ofNat 256 (fullMask n * 2 ^ off) else x.dirty }

/-- A byte of a range lies in a word that an escalated transaction pins (R167). -/
def State.pinned (s : State) (p : Place) (n : Nat) : Bool :=
  match p with
  | .dom pa => (s.module (paModule pa)).pins.any (fun a => a < pa + n && pa < a + 8)
  | _ => false

/-- Another lane's pins meet a byte range (R168). -/
def State.pinnedByOther (s : State) (c slot lane : Nat) (p : Place) (n : Nat) : Bool :=
  match p with
  | .dom pa =>
    let z := s.module (paModule pa)
    z.holder != some (c, slot, lane) && z.pins.any (fun a => a < pa + n && pa < a + 8)
  | _ => false

/-- An access at the home of a word must wait: another lane pins it (R168), or an engine owns its line (R142). -/
def State.keptFrom (s : State) (c slot lane : Nat) (p : Place) (n : Nat) : Bool :=
  s.pinnedByOther c slot lane p n || (match p with | .dom pa => s.engineOwns (pa / 1024) | _ => false)

/-- Before dirty bytes of lines reach their homes, any other core that owns a line exclusively is recalled (R145). -/
def State.recallLines (s : State) (c : Nat) : List Line → State
  | [] => s
  | l :: t => State.recallLines (if l.sectors.any (fun x => x.2.dirty != 0#256) then s.recall (some c) (.dom (l.line * 1024)) else s) c t

/-- A dirty byte of a line lies in a word that an escalated transaction pins, so that its write-back waits (R168). -/
def State.pinsLine (s : State) (l : Line) : Bool := l.sectors.any (fun x => x.2.dirty &&& s.pinMask (l.line * 4 + x.1) != 0#256)

/-- Room for a line in its set (R94): the core with room, or none where every way holds speculative sectors or, by the choice of log 80, dirty bytes
that a pin keeps from their home. Evicted dirty bytes go to the home, and a monitor on the evicted line is hit (R282). -/
def State.makeRoom (s : State) (c line : Nat) : Option State :=
  let k := s.core c
  if (k.findLine line).isSome then some s
  else
    let set := k.l1.filter (fun l => l.line % 32 == line % 32)
    if set.length < 10 then some s
    else
      match (set.reverse.filter (fun l => l.spec.isEmpty && !s.pinsLine l)).head? with
      | none => none
      | some l =>
        let s := s.recallLines c [l]
        let k := s.core c
        let (mem, _) := writeBackLine s.pinMask s.mem l 4
        let dirty := l.sectors.any (fun x => x.2.dirty != 0#256)
        let k := { k with l1 := k.l1.filter (fun x => x.line != l.line) }
        let k := k.mapWarps (fun _ w => hitMonitor (.dom (l.line * 1024)) 1024 .eviction w)
        let s := { s.setCore c k with mem := mem }
        some (if dirty then s.notify (some (c, 64)) (.dom (l.line * 1024)) 1024 else s)

/-- The line of an address, new if the L1 does not hold it. -/
def Core.lineFor (k : Core) (line : Nat) (wti : Bool) : Line := (k.findLine line).getD { line := line, sectors := [], wti := wti, spec := [] }

/-- Replaces a sector of an L1 line and touches the line. -/
def Core.putSector (k : Core) (pa : Nat) (wti : Bool) (x : Sector) : Core :=
  let l := k.lineFor (pa / 1024) wti
  k.touchLine { l with sectors := SMap.set {} l.sectors (pa / 256 % 4) x }

/-- The sector of an address as the L1 holds it. -/
def Core.sector (k : Core) (pa : Nat) : Sector :=
  match k.findLine (pa / 1024) with
  | some l => SMap.get {} l.sectors (pa / 256 % 4)
  | none => {}

/-- Bytes of a sector. -/
def Sector.bytes (x : Sector) (off n : Nat) : Nat := field x.data.toNat (8 * off) (8 * n)

/-- The L1 copy of a sector shows an uncorrectable error to its reader (R414): the copy is dropped and logged; a clean one is fetched again, the bytes
of a dirty one are lost and the flag says so. -/
def State.l1Check (s : State) (c ctx pa : Nat) : Bool × State :=
  let k := s.core c; let x := k.sector pa
  if !x.bad then (false, s)
  else
    let dirty := x.dirty != 0#256
    let s := s.setCore c (k.putSector pa (k.lineFor (pa / 1024) false).wti {})
    (dirty, s.logWord (coreModule c) 3 (c % 512) pa (if dirty then 1 else 3) ctx)

/-- A plain load of domain memory through the L1 (R94, R95): a hit, a fill, or a read at the home where the set has no way. -/
def State.l1Load (s : State) (c pa n : Nat) (wti : Bool) : Nat × State :=
  let x := (s.core c).sector pa
  if x.full || x.allDirty (pa % 256) n then
    let k := s.core c
    (x.bytes (pa % 256) n, s.setCore c (k.touchLine (k.lineFor (pa / 1024) wti)))
  else
    match s.makeRoom c (pa / 1024) with
    | none => s.homeRead (some c) (.dom pa) n
    | some s =>
      let (h, s) := s.homeRead (some c) (.dom (pa - pa % 256)) 256
      let y := ((s.core c).sector pa).fill h
      (y.bytes (pa % 256) n, s.setCore c ((s.core c).putSector pa wti y))

/-- A plain store of domain memory (R95, R133): into the sector with its dirty bits, or to the home at once where the set has no way (R94). -/
def State.l1Store (s : State) (c slot pa n v : Nat) : State :=
  match s.makeRoom c (pa / 1024) with
  | none => s.homeWrite (some (c, slot)) (.dom pa) n (fullMask n) v
  | some s =>
    let k := s.core c
    s.setCore c ((k.putSector pa false ((k.sector pa).store (pa % 256) n v true)).noteWrite (pa / 256))

/-- Writes back what a core's own L1 holds dirty of a line, so that an access of the core at the home sees its earlier stores (R128: two accesses
of one thread to the same byte are kept). -/
def State.syncLine (s : State) (c : Nat) (p : Place) : State :=
  match p with
  | .dom pa =>
    match (s.core c).findLine (pa / 1024) with
    | some l =>
      if l.sectors.any (fun x => x.2.dirty != 0#256) then
        let s := s.recallLines c [l]
        let (mem, l') := writeBackLine s.pinMask s.mem l 4
        let s := { s with mem := mem }
        (s.setCore c { s.core c with l1 := (s.core c).l1.map (fun x => if x.line = pa / 1024 then l' else x) }).notify (some (c, 64)) (.dom (pa / 1024 * 1024)) 1024
      else s
    | none => s
  | _ => s

/-- Bytes of a range of storage with those laid over that a core's own L1 holds dirty (R128: two accesses of one thread to a byte are kept). -/
def State.overDirty (s : State) (c : Nat) (p : Place) (n v : Nat) : Nat :=
  match p with
  | .dom pa =>
    let x := (s.core c).sector pa; let m := field x.dirty.toNat (pa % 256) n
    if m = 0 then v else blend n m (x.bytes (pa % 256) n) v
  | _ => v

/-- Writes back what a core's own L1 holds dirty of one aligned word, pinned or not (R158: the holder's own phase 1 treats its pins as its own locks). -/
def State.writeBackWord (s : State) (c wa : Nat) : State :=
  let x := (s.core c).sector wa; let m := field x.dirty.toNat (wa % 256) 8
  if m = 0 ∨ x.bad then s
  else
    let s := s.homeWrite (some (c, 64)) (.dom wa) 8 m (x.bytes (wa % 256) 8)
    let k := s.core c; let base := wa - wa % 256
    let y := Sector.fill { x with dirty := x.dirty &&& ~~~(0xFF#256 <<< (wa % 256)) } (readBytes s.mem base 256)
    s.setCore c { k with l1 := k.l1.map (fun l => if l.line = wa / 1024 then { l with sectors := SMap.set {} l.sectors (wa / 256 % 4) y } else l) }

/-- Updates the bytes of a clean copy that a core's own L1 holds, when the core writes them at their home. -/
def Core.patch (k : Core) (pa n v : Nat) : Core :=
  let x := k.sector pa
  if x.full then { k with l1 := k.l1.map (fun l => if l.line = pa / 1024 then { l with sectors := SMap.set {} l.sectors (pa / 256 % 4) (x.store (pa % 256) n v false) } else l) }
  else k

/-- A store that a core performs at the home and never in its L1 (R134 step 4, R269): its own copy of the bytes follows. -/
def State.homeStore (s : State) (c slot : Nat) (p : Place) (n v : Nat) : State :=
  let s := (s.syncLine c p).homeWrite (some (c, slot)) p n (fullMask n) v
  match p with
  | .dom pa => s.setCore c ((s.core c).patch pa n v)
  | _ => s

/-- A physical page still backs the page of a virtual address for a context (R121). -/
def State.backs (s : State) (x va pa : Nat) : Bool :=
  match (walkPage x 3 s va).2 with
  | .ok (g, _) => g.pa / 4096 == pa / 4096
  | .error _ => false

/-- The answer to a request, which carries its context and virtual page, for a page that has left (R121): the pointer of the forwarding record, if
the hub holds one; none where the page still backs the request. In the requester's own module no hub is asked: there the request meets only what a
migration has left (R124). -/
def State.forwardOf (s : State) (x va : Nat) (p : Place) : Option (Option Place) :=
  match p with
  | .dom pa =>
    let h := s.hub (paModule pa * 4)
    if (paModule pa != x / 32 || h.gone.contains (pa / 4096)) && !s.backs x va pa then
      some ((h.fwd.find? (fun f => f.ctx % 32 == x % 32 && f.page == pa / 4096)).map (fun f => f.dest.plus (pa % 4096)))
    else none
  | _ => none

/-- Follows forwarding pointers, at most `fuel` re-issues (R122); none where the page is stale or a further pointer would be needed. -/
def State.chase (s : State) (x va : Nat) : (fuel : Nat) → Place → Option Place
  | 0, p => match s.forwardOf x va p with | none => some p | some _ => none
  | n + 1, p =>
    match s.forwardOf x va p with
    | none => some p
    | some none => none
    | some (some q) => State.chase s x va n q

/-- A core drops its cached translations of an address, as a requester does after a stale-page answer (R122). -/
def State.dropTlb (s : State) (c x va : Nat) : State :=
  let k := s.core c
  let keep (e : TlbEntry) : Bool := !(e.ctx == x && e.va ≤ va && va < e.va + e.size)
  s.setCore c { k with tlb := k.tlb.filter keep, tileTlb := k.tileTlb.filter keep }

/-- The peer behind a port, beside the modules: 32 the host, 33 the pool (R88, R149). -/
def portPeer (pa : Nat) : Nat := if bit pa 50 then 33 else 32

/-- The peer that a place's accesses need and that the core's module has declared lost (R149): a module, or that of a port. -/
def State.lostPeer (s : State) (c : Nat) (p : Place) : Option Nat :=
  let gone := (s.module (coreModule c)).lost
  match p with
  | .dom pa => if paModule pa ≠ coreModule c ∧ gone.contains (paModule pa) then some (paModule pa) else none
  | .port _ pa => if gone.contains (portPeer pa) then some (portPeer pa) else none
  | .stash _ _ => none

/-- The module of a place refuses a request of core `c` for context `x`: the context's CDOM there lacks the requesting module (R379). -/
def State.refusesModule (s : State) (c x : Nat) (p : Place) : Bool :=
  match p with
  | .dom pa => paModule pa != coreModule c && !bit (s.cdom (paModule pa * 32 + x % 32)) (coreModule c)
  | _ => false

/-- Counts stores of a warp declared lost at a peer, a module or that of a port, for the warp's next fence (R149). -/
def Warp.countLost (w : Warp) (peer : Nat) (n : Nat := 1) : Warp :=
  { w with lost := w.lost + n, lostHost := w.lostHost || 32 ≤ peer,
           lostModule := if 32 ≤ peer then w.lostModule else some (match w.lostModule with | some m => min m peer | none => peer) }

/-- A WTI store: any cached copy is updated, and the home is written at once, with no dirty mask and no signature (R139). -/
def State.wtiStore (s : State) (c slot pa n v : Nat) : State :=
  let k := s.core c
  let s := if (k.findLine (pa / 1024)).isSome && ((k.sector pa).full || (k.sector pa).dirty != 0#256)
    then s.setCore c (k.putSector pa true ((k.sector pa).store (pa % 256) n v false)) else s
  s.homeWrite (some (c, slot)) (.dom pa) n (fullMask n) v

/-! ### The stash (R89, R90, R92) -/

/-- The live allocation of a core's stash that holds a range: its group's number (R89). -/
def Core.stashOwner (k : Core) (off n : Nat) : Option Nat :=
  (k.groups.find? (fun x => match x.2 with
    | some g => g.stashBase ≤ off && off + n ≤ g.stashBase + g.allot.sbytes
    | none => false)).map Prod.fst

/-- A saved allocation that holds a range: the saved group (R90). -/
def Core.savedOwner (k : Core) (off n : Nat) : Option Saved :=
  k.saved.find? (fun v => v.group.stashBase ≤ off && off + n ≤ v.group.stashBase + v.group.allot.sbytes)

/-- The outcome of an access that arrives at a stash unit (R90). -/
inductive StashReply where
  | served (group : Nat)
  | denied
  | heldBack
  | gone
  /-- The page has left its module, and no pointer leads on (R122). -/
  | stale
  deriving DecidableEq, Repr

/-- The check at the owning core's stash unit on arrival (R90); `x` is the accessing context. -/
def State.stashCheck (s : State) (x c off n : Nat) : StashReply :=
  let k := s.core c
  match k.stashOwner off n with
  | some g => if (s.group c g).ctx % 32 == x % 32 && (s.group c g).ctx / 32 == x / 32 then .served g else .denied
  | none =>
    match k.savedOwner off n with
    | some v => if v.state = 0 then .heldBack else .gone
    | none => .gone

/-- The mapped range and sector of a group that hold a stash offset (R92): range index, sector index, offset within the sector. -/
def Group.mapAt (g : Group) (off : Nat) : Option (Nat × Nat × Nat) :=
  match findIdx (fun r => g.stashBase + r.soff ≤ off && off < g.stashBase + r.soff + r.len) g.maps 0 with
  | some (i, r) => let d := off - (g.stashBase + r.soff); some (i, d / 256, d % 256)
  | none => none

/-- Replaces a sector of a mapped range. -/
def Group.putMapSector (g : Group) (i j : Nat) (x : MapSector) : Group :=
  match g.maps[i]? with
  | some r => { g with maps := setAt g.maps i { r with sectors := SMap.set {} r.sectors j x } }
  | none => g

/-- A sector of a mapped range, by the numbers of both. -/
def Group.mapSector (g : Group) (i j : Nat) : MapSector := match g.maps[i]? with | some r => SMap.get {} r.sectors j | none => {}

/-- What a fill or a write-back of a mapped sector meets (R274). -/
inductive MapReply where
  | ok
  | fault (va kind level : Nat)
  | perm (va kind level : Nat)
  deriving DecidableEq, Repr

/-- Translates the global address of a mapped sector through the core TLB (R274); what R87 refuses is refused here, and so is a page in host or pool
memory. -/
def State.xlatMapped (s : State) (c x va : Nat) (acc : Acc) (priv : Bool) : Xlat × State :=
  match spaceOf (coreModule c) va with
  | .global =>
    (match s.xlatCore c x va acc priv with
     | (.ok (.port _ _) _ _ _, s) => (.perm 10 15, s)
     | r => r)
  | _ => (.perm 10 15, s)

/-- Lays the home's bytes over the bytes of a mapped sector that are not dirty: the sector is full (R92, R95). -/
def State.takeSector (s : State) (c gi i j : Nat) (p : Place) (dirty : BitVec 256) : State :=
  let g := s.group c gi
  match g.maps[i]? with
  | none => s
  | some r =>
    let (h, s) := s.homeRead (some c) p 256
    let k := s.core c
    let s := s.setCore c { k with stash := writeMasked k.stash (g.stashBase + r.soff + 256 * j) 256 (2 ^ 256 - 1 - dirty.toNat) h }
    s.setGroup c gi ((s.group c gi).putMapSector i j { filled := true, dirty := dirty })

/-- Fills an unfilled mapped sector from global memory, keeping its dirty bytes (R92, R274). A fill is a read: its faults carry ACC 0. -/
def State.fillMapped (s : State) (c gi i j : Nat) : MapReply × State :=
  let g := s.group c gi; let x := g.mapSector i j
  match g.maps[i]? with
  | none => (.ok, s)
  | some r =>
    if x.filled then (.ok, s)
    else
      let va := r.gaddr + 256 * j
      match s.xlatMapped c g.ctx va .load r.priv with
      | (.fault k l, s) => (.fault va k l, s)
      | (.perm k l, s) => (.perm va k l, s)
      | (.ok p _ _ _, s) => (.ok, s.takeSector c gi i j p x.dirty)

/-- Writes back the dirty bytes of a mapped sector, but for those in pinned words (R92, R168, R274); the sector becomes full (R134 step 2). -/
def State.flushMapped (s : State) (c gi i j : Nat) : MapReply × State :=
  let g := s.group c gi; let x := g.mapSector i j
  match g.maps[i]? with
  | none => (.ok, s)
  | some r =>
    if x.dirty = 0#256 then (.ok, s)
    else
      let va := r.gaddr + 256 * j
      match s.xlatMapped c g.ctx va .store r.priv with
      | (.fault k l, s) => (.fault va k l, s)
      | (.perm k l, s) => (.perm va k l, s)
      | (.ok p _ _ _, s) =>
        let stay := match p with | .dom pa => x.dirty &&& s.pinMask (pa / 256) | _ => 0#256
        let data := readBytes (s.core c).stash (g.stashBase + r.soff + 256 * j) 256
        (.ok, (s.homeWrite (some (c, 64)) p 256 (x.dirty &&& ~~~stay).toNat data).takeSector c gi i j p stay)

/-- The first refusal of a list of write-backs; the sectors after it keep their dirty bytes. -/
def State.flushSectors (s : State) (c gi i : Nat) : List Nat → MapReply × State
  | [] => (.ok, s)
  | j :: t =>
    match s.flushMapped c gi i j with
    | (.ok, s) => State.flushSectors s c gi i t
    | r => r

/-- Writes back every mapped sector of a group, range by range; refused ones stay dirty. -/
def State.flushRanges (s : State) (c gi : Nat) : (n : Nat) → State
  | 0 => s
  | n + 1 =>
    let s := State.flushRanges s c gi n
    match (s.group c gi).maps[n]? with
    | some r => (s.flushSectors c gi n (r.sectors.map Prod.fst)).2
    | none => s

/-- Writes back the mapped ranges of every group of a core (R134 step 2). -/
def State.flushGroups (s : State) (c : Nat) : List Nat → State
  | [] => s
  | g :: t => State.flushGroups (s.flushRanges c g (s.group c g).maps.length) c t

/-- The parts of a stash range that lie in one 256-byte sector each: offset and length. -/
def sectorPieces (off n : Nat) : List (Nat × Nat) :=
  (List.range ((off % 256 + n + 255) / 256)).map (fun i =>
    let a := max off ((off / 256 + i) * 256)
    (a, min (off + n) ((off / 256 + i + 1) * 256) - a))

/-- Fills the mapped sectors of listed parts that a load touches; the first refusal ends it. -/
def State.fillPieces (s : State) (c gi : Nat) : List (Nat × Nat) → MapReply × State
  | [] => (.ok, s)
  | (off, n) :: t =>
    match (s.group c gi).mapAt off with
    | none => State.fillPieces s c gi t
    | some (i, j, o) =>
      let x := (s.group c gi).mapSector i j
      if x.filled || field x.dirty.toNat o n == fullMask n then State.fillPieces s c gi t
      else
        match s.fillMapped c gi i j with
        | (.ok, s) => State.fillPieces s c gi t
        | r => r

/-- Loads `n` bytes from a live stash range, filling the mapped sectors that it touches (R92). -/
def State.stashLoad (s : State) (c gi off n : Nat) : MapReply × Nat × State :=
  let (r, s) := s.fillPieces c gi (sectorPieces off n)
  (r, s.bytesAt (.stash c off) n, s)

/-- The physical sector of a mapped sector, for the signatures (R133). -/
def State.mappedSector (s : State) (c gi i j : Nat) : Option Nat :=
  match (s.group c gi).maps[i]? with
  | none => none
  | some r =>
    match (s.xlatMapped c (s.group c gi).ctx (r.gaddr + 256 * j) .load true).1 with
    | .ok (.dom pa) _ _ _ => some (pa / 256)
    | _ => none

/-- A store to part of one sector: a mapped sector records the bytes in its dirty mask and its core's signatures (R92, R133). -/
def State.markMapped (s : State) (c gi : Nat) (y : Nat × Nat) : State :=
  match (s.group c gi).mapAt y.1 with
  | none => s
  | some (i, j, o) =>
    let x := (s.group c gi).mapSector i j
    let sn := s.mappedSector c gi i j
    let s := s.setGroup c gi ((s.group c gi).putMapSector i j { x with dirty := x.dirty ||| BitVec.ofNat 256 (fullMask y.2 * 2 ^ o) })
    match sn with
    | some sn => s.setCore c ((s.core c).noteWrite sn)
    | none => s

/-- Stores `n` bytes into a live stash range, with the marks of every mapped sector that it touches (R92, R133). -/
def State.stashStore (s : State) (writer : Option (Nat × Nat)) (c gi off n v : Nat) : State :=
  ((sectorPieces off n).foldl (fun s y => s.markMapped c gi y) s).homeWrite writer (.stash c off) n (fullMask n) v

/-! ### Sidebands (R136, R141, R269) -/

/-- ORs a releasing core's signature into the sideband of the released location (R134 step 4, R136, R269). A slice keeps sidebands for at most
the 20 lines of a set; the line with the lowest number gives way and its sideband enters the overflow signature. -/
def State.attach (s : State) (p : Place) (g : Signature) (scope : Nat) : State :=
  match p with
  | .dom pa =>
    let n := sliceOf pa; let z := s.slice n; let line := pa / 1024
    let old := SMap.get {} z.side line
    let side := SMap.set {} z.side line { sig := old.sig ||| g, scope := max old.scope scope }
    let set := side.filter (fun x => x.1 % 256 == line % 256)
    if set.length ≤ 20 then s.setSlice n { z with side := side }
    else
      match set.find? (fun x => x.1 != line) with
      | some (l, b) => s.setSlice n { z with side := SMap.set {} side l {}, overflow := z.overflow ||| b.sig }
      | none => s.setSlice n { z with side := side }
  | .port m pa =>
    let z := s.module m
    if bit pa 50 then s.setModule m { z with poolSig := z.poolSig ||| g } else s.setModule m { z with hostSig := z.hostSig ||| g }
  | .stash c _ => s.setCore c { s.core c with stashSig := (s.core c).stashSig ||| g }

/-- The foreign signatures of the modules of a domain: a write from outside becomes visible to every thread that holds its line (R141). -/
def State.foreignOf (s : State) (m : Nat) : Signature :=
  s.modules.foldl (fun g z => if z.1 = m ∨ bit (s.domMask m) z.1 then g ||| z.2.foreign else g) 0#512

/-- The signature that an acquire of a location receives (R135 step 2, R136, R141, R269); `m` is the acquirer's module. -/
def State.received (s : State) (m : Nat) (p : Place) (scope : Nat) : Signature :=
  let g := match p with
    | .dom pa => (SMap.get {} (s.slice (sliceOf pa)).side (pa / 1024)).sig ||| (s.slice (sliceOf pa)).overflow
    | .port n pa => if bit pa 50 then (s.module n).poolSig else (s.module n).hostSig
    | .stash c _ => (s.core c).stashSig
  if scope = 7 then g ||| s.foreignOf m else g

/-- Invalidates the L1 sectors that match a signature, and every WTI line (R135 steps 3 and 4). -/
def invalidateLines (g : Signature) (ls : List Line) : List Line :=
  (ls.filter (fun l => !l.wti)).map (fun l =>
    let xs := l.sectors.map (fun x => (x.1, if sigMatch g (l.line * 4 + x.1) then x.2.invalidate else x.2))
    { l with sectors := xs.filter (fun x => decide (x.2 ≠ ({} : Sector))) })

/-- The lines that an invalidation changes, for the monitors (R282). -/
def changedLines (g : Signature) (ls : List Line) : List Nat :=
  (ls.filter (fun l => l.wti || l.sectors.any (fun x => sigMatch g (l.line * 4 + x.1)))).map (fun l => l.line)

/-- Hits the monitors of a core's warps on listed lines. -/
def Core.hitLines (k : Core) : List Nat → Core
  | [] => k
  | l :: t => Core.hitLines (k.mapWarps (fun _ w => hitMonitor (.dom (l * 1024)) 1024 .invalidation w)) t

/-- The mapped sectors of a range that match a signature become unfilled; dirty bytes are kept (R135 step 3). -/
def invalidateMapped (s : State) (c gi i : Nat) (g : Signature) : List Nat → Group → Group
  | [], x => x
  | j :: t, x =>
    let hit := match s.mappedSector c gi i j with | some sn => sigMatch g sn | none => true
    invalidateMapped s c gi i g t (if hit then x.putMapSector i j { x.mapSector i j with filled := false } else x)

/-- All ranges of a group. -/
def invalidateRanges (s : State) (c gi : Nat) (g : Signature) : (n : Nat) → Group → Group
  | 0, x => x
  | n + 1, x =>
    let x := invalidateRanges s c gi g n x
    match x.maps[n]? with
    | some r => invalidateMapped s c gi n g (r.sectors.map Prod.fst) x
    | none => x

/-- All groups of a core that hold mapped ranges. -/
def State.invalidateGroups (s : State) (c : Nat) (g : Signature) : List Nat → State
  | [] => s
  | gi :: t =>
    let x := s.group c gi
    State.invalidateGroups (if x.maps.isEmpty then s else s.setGroup c gi (invalidateRanges s c gi g x.maps.length x)) c g t

/-- Steps 3 to 5 of an acquire: matching sectors and WTI lines are invalidated, and the signature enters all five of the core's own (R135). -/
def State.applySig (s : State) (c : Nat) (g : Signature) : State :=
  let k := s.core c
  let changed := changedLines g k.l1
  let k := { k with l1 := invalidateLines g k.l1, sig := orSigs k.sig g [3, 4, 5, 6, 7] }
  let s := s.setCore c (k.hitLines changed)
  s.invalidateGroups c g (SMap.keys (s.core c).groups)

/-- An acquire of a location at a scope (R135); at .co and narrower there is nothing to invalidate (R132). -/
def State.acquire (s : State) (c : Nat) (p : Place) (scope : Nat) : State :=
  if scope < 3 then s else s.applySig c (s.received (coreModule c) p scope)

/-! ### Release (R134) -/

/-- Performs one queued store whose place stands in memory. -/
def State.performAt (s : State) (c slot : Nat) (o : StoreOp) (p : Place) : State :=
  match p with
  | .dom pa =>
    if o.wti then s.wtiStore c slot pa o.size o.data
    else if o.uncached then s.homeStore c slot p o.size o.data
    else s.l1Store c slot pa o.size o.data
  | _ => s.homeWrite (some (c, slot)) p o.size (fullMask o.size) o.data

/-- A store goes to its home: it is sent uncached, to a WTI page, or its L1 set has no way (R94, R134 step 3, R139). -/
def State.storesHome (s : State) (c : Nat) (o : StoreOp) (q : Place) : Bool :=
  o.uncached || o.wti || (match q with | .dom pa => (s.makeRoom c (pa / 1024)).isNone | _ => false)

/-- Performs one queued store; a releasing one attaches the core's signature of its scope (R134 step 4). A store that finds no live range in a peer
stash (R90), or whose page has left its module for good (R122), is returned; a store to a lost peer may or may not be performed, by a free choice
(R149). -/
def State.performStore (s : State) (c slot : Nat) (x : Nat) (o : StoreOp) : State × Option (StoreOp × StashReply) :=
  let signed (s : State) (q : Place) : State := if o.rel < 3 then s else s.attach q ((s.core c).sigOf o.rel) o.rel
  match o.place with
  | .stash k off =>
    match s.stashCheck x k off o.size with
    | .served g => (signed (s.stashStore (some (c, slot)) k g off o.size o.data) o.place, none)
    | r => (s, some (o, r))
  | p =>
    match s.chase x o.va 2 p with
    | none => (s.dropTlb c x o.va, some (o, .stale))
    | some q =>
      let home := s.storesHome c o q
      if s.refusesModule c x q then (s, some (o, .denied))
      else if home && s.keptFrom c slot o.lane q o.size then (s, some (o, .heldBack))
      else match s.lostPeer c q with
      | none => (signed (s.performAt c slot o q) q, none)
      | some m =>
        if home then
          let s := s.setWarp c slot ((s.warp c slot).countLost m)
          let (b, s) := s.takeBool
          (if b then signed (s.performAt c slot o q) q else s, none)
        else (signed (s.performAt c slot o q) q, none)

/-- The record of a store whose peer stash has gone, or whose page is stale (R420). -/
def storeFault (o : StoreOp) (r : StashReply) : InFlight :=
  { insn := o.insn, len := o.len, pc := o.pc, late := false, uniform := false, dreg := 0, width := o.size, pend := 1#32 <<< o.lane,
    addr := [(o.lane, o.va)], data := [(o.lane, o.data)],
    fault := { cause := if r = .stale then 0x10 else 0x12, pc := o.pc, fva := o.va, lanes := 1#32 <<< o.lane, acc := 1, kind := if r = .stale then 6 else 7 } }

/-- The trap of a store whose lanes reached another context's stash range or a module that does not serve the context (R90, R268, R379). -/
def storeTrap (o : StoreOp) (m : LaneMask) (va : Nat) : PendingTrap :=
  { cause := 0x11, lanes := m, pc := o.pc, insn := o.insn, len := o.len, epc := none,
    info := { cause := 0x11, pc := o.pc, fva := va, lanes := m, acc := 1, kind := 10 } }

/-- A queued store belongs to the same instruction as the one before it, whose lanes enter the queue in ascending order. -/
def StoreOp.follows (y o : StoreOp) : Bool := y.pc == o.pc && y.issued == o.issued && o.lane < y.lane

/-- Performs the oldest store of a warp's queue; `rest` are those behind it. The store is kept where a halted peer group holds it back (R90). The lanes
that the target refused trap with the instruction's last lane (R268), and until then are handed on to its next one. -/
def State.storeStep (s : State) (c slot : Nat) (o : StoreOp) (rest : List StoreOp) : State × Option StoreOp × LaneMask × Nat :=
  match s.performStore c slot (s.ctxOf c slot) o with
  | (s, some (o, .heldBack)) => (s, some o, 0#32, 0)
  | (s, out) =>
    let (s, m, va) := match out with
      | some (o, .denied) => (s, o.refused ||| (1#32 <<< o.lane), if o.refused = 0#32 then o.va else o.refusedVa)
      | some (o, r) =>
        let w := s.warp c slot
        (s.setWarp c slot { w with targetFaults := w.targetFaults ++ [storeFault o r] }, o.refused, o.refusedVa)
      | none => (s, o.refused, o.refusedVa)
    if m = 0#32 ∨ rest.head?.any (fun y => y.follows o) then (s, none, m, va)
    else
      let w := s.warp c slot
      (s.setWarp c slot { w with pending := w.pending ++ [{ storeTrap o m va with handler := w.trapping.any (fun t => t.lanes &&& m != 0#32) }] }, none, 0#32, 0)

/-- A store takes over the refused lanes of its instruction's earlier ones. -/
def StoreOp.takeRefused (o : StoreOp) (m : LaneMask) (va : Nat) : StoreOp := if m = 0#32 then o else { o with refused := m, refusedVa := va }

/-- Performs queued stores in order (R132), with the refused lanes that the first one takes over. A store held back by a halted peer group stays at the
head of the queue. -/
def State.drainList (s : State) (c slot : Nat) (m : LaneMask) (va : Nat) : List StoreOp → State
  | [] => s.setWarp c slot { s.warp c slot with storeq := [] }
  | o :: t =>
    match s.storeStep c slot (o.takeRefused m va) t with
    | (s, some o, _) => s.setWarp c slot { s.warp c slot with storeq := o :: t }
    | (s, none, m, va) => State.drainList s c slot m va t

/-- Drains a warp's store queue (R134 step 1). -/
def State.drain (s : State) (c slot : Nat) : State :=
  if (s.warp c slot).storeq.isEmpty then s else s.drainList c slot 0#32 0 (s.warp c slot).storeq

/-- Dirty lines whose module the core's module has declared lost (R149). -/
def lostLines (lost : List Nat) (ls : List Line) : List Line :=
  ls.filter (fun l => lost.contains (l.line / 2 ^ 29 % 32) && l.sectors.any (fun x => x.2.dirty != 0#256))

/-- Writes back every dirty sector of a core's L1 and mapped ranges (R134 step 2), waking what waits on the written lines. Stores to a lost
peer may or may not be performed there, by a free choice each (R149), and are counted for the warp's next fence. -/
def State.writeBackAll (s : State) (c slot : Nat) : State :=
  let s := s.slices.foldl (fun s z => s.mergeWhere z.1 (fun p => p.1 == c)) s
  let s := s.recallLines c (s.core c).l1
  let k := s.core c
  let lostMods := (s.module (coreModule c)).lost
  let gone := lostLines lostMods k.l1
  let dirty := k.l1.filter (fun l => l.sectors.any (fun x => x.2.dirty != 0#256))
  let (performed, s) := if gone.isEmpty then (true, s) else s.takeBool
  let keep := if performed then k.l1 else k.l1.filter (fun l => !(gone.any (fun x => x.line == l.line)))
  let (mem, ls) := writeBackLines s.pinMask s.mem keep
  let s := { s with mem := mem }
  let s := s.setCore c { s.core c with l1 := ls }
  let s := dirty.foldl (fun s l => s.notify (some (c, 64)) (.dom (l.line * 1024)) 1024) s
  let s := if gone.isEmpty || ((s.core c).warp slot).isNone then s
    else
      s.setWarp c slot ((s.warp c slot).countLost (gone.foldl (fun a l => min a (l.line / 2 ^ 29 % 32)) 31) gone.length)
  s.flushGroups c (SMap.keys (s.core c).groups)

/-- Steps 1 to 3 of a release at a scope by a warp (R134): steps 2 and 3 are omitted at .co and narrower. -/
def State.releaseSteps (s : State) (c slot scope : Nat) : State :=
  let s := s.drain c slot
  if scope < 3 then s else s.writeBackAll c slot

/-- Some module's escalated transaction pins a word (R167), or some tile store is under way (R142). -/
def State.anyPins (s : State) : Bool :=
  s.modules.any (fun z => !z.2.pins.isEmpty) ||
    s.cores.any (fun k => k.2.groups.any (fun g => g.2.any (fun g => g.landings.any (fun l => !l.load))) || k.2.saved.any (fun v => v.group.landings.any (fun l => !l.load)))

/-- A dirty byte of a mapped sector lies in a pinned word (R168). -/
def State.mapPinned (s : State) (c gi i j : Nat) : Bool :=
  let x := (s.group c gi).mapSector i j
  s.anyPins && x.dirty != 0#256 && (match s.mappedSector c gi i j with | some sn => x.dirty &&& s.pinMask sn != 0#256 | none => false)

/-- Some mapped sector of a group has a dirty byte in a pinned word. -/
def State.groupPinned (s : State) (c gi : Nat) : Bool :=
  let g := s.group c gi
  (List.range g.maps.length).any (fun i => match g.maps[i]? with
    | some r => r.sectors.any (fun x => s.mapPinned c gi i x.1)
    | none => false)

/-- Loads and atomics of listed lanes that are not yet performed, or whose late fault has not yet parked them. -/
def Warp.unperformed (w : Warp) (m : LaneMask) : Bool :=
  w.inflight.any (fun r => r.unperformed &&& m != 0#32) || w.targetFaults.any (fun r => r.pend &&& m != 0#32)

/-- A dirty byte of a core's L1 or mapped ranges lies in a word that an escalated transaction pins (R168). -/
def State.corePinned (s : State) (c : Nat) : Bool :=
  s.anyPins && ((s.core c).l1.any s.pinsLine || (s.core c).groups.any (fun g => s.groupPinned c g.1))

/-- A release cannot complete yet: an earlier access of the warp is not performed (R129, R130), a store waits for a halted peer group (R90) or a pinned
word, or a dirty byte waits for one (R168). -/
def State.releaseBlocked (s : State) (c slot scope : Nat) : Bool :=
  (s.warp c slot).unperformed 0xFFFFFFFF#32 ||
    (let s := s.drain c slot
     !(s.warp c slot).storeq.isEmpty || (scope ≥ 3 && s.corePinned c))

/-- What the write-backs of a release of a warp meet in its own group's mapped ranges (R274): the first refusal. Refused bytes of other groups of the
core stay dirty (log 81). -/
def State.releaseMaps (s : State) (c slot scope : Nat) : MapReply :=
  if scope < 3 then .ok
  else
    let s := s.drain c slot; let gi := (s.warp c slot).group; let g := s.group c gi
    (List.range g.maps.length).foldl (fun r i =>
      match r with
      | .ok => (s.flushSectors c gi i (((g.maps[i]?).map (fun y => SMap.keys y.sectors)).getD [])).1
      | r => r) .ok

/-- A release can be made now, and no write-back of its is refused. -/
def State.releaseReady (s : State) (c slot scope : Nat) : Bool := !s.releaseBlocked c slot scope && s.releaseMaps c slot scope == .ok

/-! ### Accesses under way (R108) -/

/-- The warps resident in a scope instance. -/
def State.warpsIn (s : State) (c scope : Nat) : List (Nat × Nat) :=
  s.cores.flatMap (fun k => if inScope scope c k.1 then k.2.warps.map (fun w => (k.1, w.1)) else [])

/-- A warp's accesses that were translated and have not completed at their targets: queued stores, and unperformed loads and atomics. -/
def Warp.underWay (w : Warp) : Bool := !w.storeq.isEmpty || w.inflight.any (fun r => r.unperformed != 0#32)

/-- Accesses of a scope instance that were translated and have not completed at their targets (R108): those of its warps, the
atomics of saved groups, and the pieces of tile loads and stores. -/
def State.tlbiPending (s : State) (c scope : Nat) : Bool :=
  s.cores.any (fun k => inScope scope c k.1 &&
    (k.2.warps.any (fun w => w.2.any Warp.underWay) || k.2.groups.any (fun g => g.2.any (fun g => !g.landings.isEmpty)) ||
     k.2.saved.any (fun v => v.warps.any (fun w => w.inflight.any (fun r => r.late && r.unperformed != 0#32)))))

/-! ### Rollover (R137) -/

/-- Bits set in a signature. -/
def sigCount (g : Signature) : Nat := popcount 512 g.toNat

/-- One core's part of a rollover: write back, invalidate every sector, clear the signatures of the scope and narrower ones (R137) and the sideband of
the core's stash unit, which every instance of the core holds (R269). -/
def State.rolloverCore (s : State) (scope : Nat) (c : Nat) : State :=
  let s := s.writeBackAll c 64
  let k := s.core c
  let lines := k.l1.map (fun l => l.line)
  let k := { k with l1 := [], sig := k.sig.filter (fun x => decide (scope < x.1)), stashSig := 0#512 }
  let s := s.setCore c (k.hitLines lines)
  s.invalidateGroups c (BitVec.allOnes 512) (SMap.keys (s.core c).groups)

/-- A home slice's part of a rollover (R137). -/
def Slice.rollover (z : Slice) (scope : Nat) : Slice :=
  { z with side := z.side.filter (fun x => decide (scope < x.2.scope)), overflow := if scope = 7 then 0#512 else z.overflow }

end Sys2Proof.Machine
end

