-- ==== Sys2Proof/Machine/Faults.lean ====
section
/-! DEFINITION. Accesses to a context's own tables, fault records, fault queues and events (R74, R75, R120, R388, R390), and the block-priority table (R15). -/

namespace Sys2Proof.Machine

/-! ### A context's own tables (R419: PRIV is ignored) -/

/-- Reads `n` bytes at a virtual address of a context's own tables; none where the address does not translate. -/
def State.ctxRead (s : State) (x va n : Nat) : Option Nat × State :=
  let first := min n (4096 - va % 4096)
  match s.xlatCtx x va .load with
  | (.ok p _ _ _, s) =>
    let (a, s) := s.homeRead none p first
    if first = n then (some a, s)
    else
      match s.xlatCtx x (va + first) .load with
      | (.ok q _ _ _, s) =>
        let (b, s) := s.homeRead none q (n - first)
        (some (a + b * 2 ^ (8 * first)), s)
      | (_, s) => (none, s)
  | (_, s) => (none, s)

/-- Reads `n` bytes of a context's own tables as `State.ctxRead` does, and tells where and how a translation is refused. -/
def State.ctxLoad (s : State) (x va n : Nat) : Except (Nat × Xlat) Nat × State :=
  let first := min n (4096 - va % 4096)
  match s.xlatCtx x va .mapRead with
  | (.ok _ _ _ _, s) =>
    if first = n then (match s.ctxRead x va n with | (r, s) => (.ok (r.getD 0), s))
    else
      match s.xlatCtx x (va + first) .mapRead with
      | (.ok _ _ _ _, s) => (match s.ctxRead x va n with | (r, s) => (.ok (r.getD 0), s))
      | (r, s) => (.error (va + first, r), s)
  | (r, s) => (.error (va, r), s)

/-- Writes `n` bytes at a virtual address of a context's own tables; what refuses the translation is returned. -/
def State.ctxWrite (s : State) (x va n v : Nat) : Option Xlat × State :=
  let first := min n (4096 - va % 4096)
  match s.xlatCtx x va .store with
  | (.ok p _ _ _, s) =>
    if first = n then (none, s.homeWrite none p n (fullMask n) v)
    else
      match s.xlatCtx x (va + first) .store with
      | (.ok q _ _ _, s) =>
        (none, (s.homeWrite none p first (fullMask first) v).homeWrite none q (n - first) (fullMask (n - first)) (v / 2 ^ (8 * first)))
      | (r, s) => (some r, s)
  | (r, s) => (some r, s)

/-- The virtual address of an FCB (R74). -/
def State.fcbAddr (s : State) (x : Nat) (fcb : Word) : Nat := s.ctxReg x 0x018 + 512 * fcb.toNat

/-- A field of an FCB, by its bits (R75); 0 where the FCB does not translate (log 7). -/
def State.fcbField (s : State) (x : Nat) (fcb : Word) (lo n : Nat) : Nat :=
  field (((s.ctxRead x (s.fcbAddr x fcb + lo / 8) ((lo % 8 + n + 7) / 8)).1).getD 0) (lo % 8) n

/-- Writes bytes of an FCB. -/
def State.fcbWrite (s : State) (x : Nat) (fcb : Word) (byte n v : Nat) : State := (s.ctxWrite x (s.fcbAddr x fcb + byte) n v).2

/-! ### Pages that agents without a translation cache use (R103, R104) -/

/-- The walker sets A on the first use of each of `n` pages that one of the module's agents reads, up to one that does not translate. -/
def State.touchPages (s : State) (x va : Nat) : (n : Nat) → State
  | 0 => s
  | n + 1 =>
    match s.xlatCtx x va .load with
    | (.ok _ _ _ _, s) => State.touchPages s x (va + 4096) n
    | (_, s) => s

/-- The pages of `n` bytes at an address. -/
def State.touch (s : State) (x va n : Nat) : State := if n = 0 then s else s.touchPages x (va - va % 4096) ((va + n - 1) / 4096 - va / 4096 + 1)

/-- The pages of an FCB that is read (R74). -/
def State.touchFcb (s : State) (x : Nat) (fcb : Word) : State := s.touch x (s.fcbAddr x fcb) 512

/-- The pages of the block-priority table (R15, R378). -/
def State.touchBlocks (s : State) (x : Nat) : State := s.touch x (s.ctxReg x 0x0A0) (16 * s.ctxReg x 0x0A8)

/-- The pages of the entry table (R342, R378). -/
def State.touchEntries (s : State) (x : Nat) : State := s.touch x (s.ctxReg x 0x090) (32 * s.ctxReg x 0x098)

/-- The page of a fault domain's entry (R388). -/
def State.touchDomain (s : State) (x d : Nat) : State := if d < s.ctxReg x 0x068 then s.touch x (s.ctxReg x 0x060 + 32 * d) 32 else s

/-! ### Fault records (R120) -/

/-- The coordinates of a record, coordinate 0 lowest. -/
def coordBits : List Nat → Nat
  | [] => 0
  | k :: t => k % 2 ^ 32 + 2 ^ 32 * coordBits t

/-- The 64 bytes of a fault record (R120), RESOLVE pending. -/
def recordBits (i : FaultInfo) (fcb handle : Word) (core slot : Nat) : Nat :=
  coordBits i.coord * 2 ^ 32 + i.cause % 256 * 2 ^ 208 + i.kind % 16 * 2 ^ 218 + i.acc % 8 * 2 ^ 222 + slot % 64 * 2 ^ 225 +
    core % 512 * 2 ^ 231 + i.level % 16 * 2 ^ 240 + i.mapid % 4096 * 2 ^ 244 + i.mapver % 2 ^ 32 * 2 ^ 256 + handle.toNat * 2 ^ 288 +
    fcb.toNat * 2 ^ 320 + i.lanes.toNat * 2 ^ 352 + i.fva % 2 ^ 64 * 2 ^ 384 + i.pc % 2 ^ 64 * 2 ^ 448

/-! ### Events (R390) -/

/-- Posts an event of a context: the 16 bytes go to slot i mod the queue's size with a release, the write index advances and the vector fires. -/
def State.postEvent (s : State) (x type queue tag index : Nat) : State :=
  let ctl := s.ctxReg x 0x078
  let i := field ctl 32 32
  let size := 2 ^ field ctl 0 5
  let s := (s.ctxWrite x (s.ctxReg x 0x070 + 16 * (i % size)) 16 (type + queue * 2 ^ 8 + tag % 2 ^ 32 * 2 ^ 32 + index % 2 ^ 64 * 2 ^ 64)).2
  let k := s.ctx x
  let s := s.setCtx x { k with regs := SMap.set 0#64 k.regs 0x078 (BitVec.ofNat 64 (putField ctl 32 32 (i + 1))) }
  { s with log := s.log ++ [.event x type index, .vector x (field ctl 8 8)] }

/-! ### Fault queues (R388) -/

/-- The 32-byte entry of a fault domain; none where the index is not below FDTCOUNT or the table does not translate. -/
def State.domainEntry (s : State) (x d : Nat) : Option Nat :=
  if d < s.ctxReg x 0x068 then (s.ctxRead x (s.ctxReg x 0x060 + 32 * d) 32).1 else none

/-- A fault domain is assigned (R388). -/
def State.domainAssigned (s : State) (x d : Nat) : Bool :=
  match s.domainEntry x d with | some e => field e 232 8 != 0 | none => false

/-- The ring of a domain has room for another entry (R388). -/
def State.domainRoom (s : State) (x d e : Nat) : Bool :=
  let widx := SMap.get 0 (s.ctx x).faultWidx d
  let ridx := ((s.ctxRead x (field e 128 64) 8).1).getD 0
  widx - ridx < 2 ^ field e 224 8

/-- Writes one entry into its domain's ring, publishes the write index and fires the vector (R388). -/
def State.writeFaultEntry (s : State) (x d e entry : Nat) : State :=
  let widx := SMap.get 0 (s.ctx x).faultWidx d
  let s := (s.ctxWrite x (field e 0 64 + 128 * (widx % 2 ^ field e 224 8)) 128 entry).2
  let s := (s.ctxWrite x (field e 64 64) 8 (widx + 1)).2
  let k := s.ctx x
  let s := s.setCtx x { k with faultWidx := SMap.set 0 k.faultWidx d (widx + 1), faultFull := k.faultFull.filter (· != d) }
  { s with log := s.log ++ [.vector x (field e 240 8)] }

/-- Holds an entry for its domain, in order (R388). -/
def State.holdFault (s : State) (x d entry : Nat) : State :=
  let k := s.ctx x
  s.setCtx x { k with heldFaults := SMap.set [] k.heldFaults d (SMap.get [] k.heldFaults d ++ [entry]) }

/-- A fault record goes to the queue of a fault domain; it is held while the domain is unassigned or its ring is full (R388). -/
def State.postFault (s : State) (x d : Nat) (record : Nat) (index : BitVec 16) : State :=
  let entry := record + index.toNat * 2 ^ 512
  let s := s.touchDomain x d
  match s.domainEntry x d with
  | some e =>
    if field e 232 8 = 0 then s.holdFault x d entry
    else if s.domainRoom x d e && (SMap.get [] (s.ctx x).heldFaults d).isEmpty then s.writeFaultEntry x d e entry
    else
      let s := s.holdFault x d entry
      if (s.ctx x).faultFull.contains d then s
      else
        let k := s.ctx x
        (s.setCtx x { k with faultFull := d :: k.faultFull }).postEvent x 4 0 d 0
  | none => s.holdFault x d entry

/-- The fault domain of a warp: FDOM of its FCB (R75, R86). -/
def State.faultDomain (s : State) (x : Nat) (fcb : Word) : Nat := s.fcbField x fcb 80 16

/-- A free index of the fault record array, 0xFFFF where all 65,535 are in use (R120). -/
def freeRecord (used : List Nat) : Nat := (findFrom (fun i => !used.contains i) (used.length + 1) 0).getD 0xFFFF

/-- Writes a record of the array and posts its fault entry; index 0xFFFF waits for a record to free (R120). -/
def State.recordFault (s : State) (x : Nat) (fcb handle : Word) (core slot : Nat) (i : FaultInfo) : State × BitVec 16 :=
  let s := s.touchFcb x fcb
  let k := s.ctx x
  let n := freeRecord k.records
  if n < 0xFFFF then
    let r := recordBits i fcb handle core slot
    let s := s.setCtx x { k with records := n :: k.records }
    let s := (s.ctxWrite x (s.ctxReg x 0x030 + 64 * n) 64 r).2
    (s.postFault x (s.faultDomain x fcb) r (BitVec.ofNat 16 n), BitVec.ofNat 16 n)
  else (s, 0xFFFF#16)

/-- Frees a record (R389). -/
def State.freeRecordAt (s : State) (x n : Nat) : State :=
  let k := s.ctx x
  s.setCtx x { k with records := k.records.filter (· != n) }

/-! ### Block priorities (R15) -/

/-- The block that holds an address among `n` entries from entry `k` on: the last whose start is not above it, as start and priority. -/
def State.blockFrom (s : State) (x pc : Nat) : (n k : Nat) → Option (Nat × Nat) → Option (Nat × Nat)
  | 0, _, best => best
  | n + 1, k, best =>
    match (s.ctxRead x (s.ctxReg x 0x0A0 + 16 * k) 16).1 with
    | some e => if field e 0 64 ≤ pc then State.blockFrom s x pc n (k + 1) (some (field e 0 64, field e 64 8)) else best
    | none => best

/-- The block of an address in the context's table (R15, R378). -/
def State.blockOf (s : State) (x pc : Nat) : Option (Nat × Nat) := s.blockFrom x pc (s.ctxReg x 0x0A8) 0 none

/-- The priority after a move: kept within a block, looked up on entering another (R15); kept where the table names no block (log 8). The lookup sets no A
bit (log 95). -/
def State.prioAt (s : State) (x old new : Nat) (prio : BitVec 8) : BitVec 8 :=
  if s.ctxReg x 0x0A8 = 0 then prio
  else
    match s.blockOf x new with
    | some (b, p) => if (s.blockOf x old).map Prod.fst = some b then prio else BitVec.ofNat 8 p
    | none => prio

/-- The entry record of an entry address in the context's entry table (R342, R378), among `n` records from record `k` on. -/
def State.entryFrom (s : State) (x entry : Nat) : (n k : Nat) → Option Nat
  | 0, _ => none
  | n + 1, k =>
    match (s.ctxRead x (s.ctxReg x 0x090 + 32 * k) 32).1 with
    | some r => if field r 192 64 = entry then some r else State.entryFrom s x entry n (k + 1)
    | none => none

/-- The entry record of an entry address. -/
def State.entryRecord (s : State) (x entry : Nat) : Option Nat := s.entryFrom x entry (s.ctxReg x 0x098) 0

/-- The allotment that an entry record declares, rounded up to the granules of R27. -/
def allotOf (r : Nat) : Allot :=
  { entry := field r 192 64, sbytes := field r 160 32, tbytes := roundUp 4096 (field r 128 32), vregs := roundUp 8 (max 8 (field r 48 16)),
    sregs := roundUp 8 (max 8 (field r 40 8)), agr := field r 35 5, acc := field r 32 3, tregs := field r 27 5, warps := max 1 (field r 22 5) }

end Sys2Proof.Machine
end

