-- ==== Sys2Proof/Machine/Ops.lean ====
section
/-! DEFINITION. What every core instruction shares: lanes that exit, abort, park or trap, the moves of the frontier, TAKING A TRAP and returning from one, and the checks of R197 in their order. -/

namespace Sys2Proof.Machine

/-! ### Units of the flood network -/

/-- Units of the flood network: the rope cairns of region r of the domain are unit r, its origin cairns unit 1024 + r, the cairns of hub h unit 2048 + h. -/
def originUnit (r : Nat) : Nat := 1024 + r
/-- The unit of a hub. -/
def hubUnit (h : Nat) : Nat := 2048 + h
/-- The module of a unit. -/
def unitModule (u : Nat) : Nat := if u < 1024 then u / 32 else if u < 2048 then (u - 1024) / 32 else (u - 2048) / 4
/-- The region whose router, clock and spill ring serve a unit; a hub's is the lowest of its die (R52). -/
def unitRegion (u : Nat) : Nat := if u < 1024 then u else if u < 2048 then u - 1024 else (u - 2048) / 4 * 32 + (u - 2048) % 4 * 8
/-- A unit is a hub. -/
def isHub (u : Nat) : Bool := 2048 ≤ u

/-- The router of a unit: a region's serves its rope and its origin cairns. -/
def unitRouter (u : Nat) : Nat := if isHub u then u else unitRegion u

/-! ### The spill ring (R61, R377) -/

/-- The reserve of a region's ring in a domain of M modules. -/
def ringReserve (modules r : Nat) : Nat := if r % 8 = 0 then 32768 * modules + 57088 else 16384 * modules + 49152

/-- The entries of a region's ring; 0 where SPRSIZE breaks its rules (R377). -/
def State.ringSize (s : State) (r : Nat) : Nat :=
  let v := (SMap.get 0#64 (s.module (r / 32)).pf (8 + 16 * (r % 32))).toNat
  if (List.range 9).any (fun i => v == 2 ^ (16 + i)) && ringReserve (s.domCount (r / 32)) (r % 32) ≤ v then v else 0

/-- The entry of a ring that is written next: the first from the running number on that holds no spilled clause (log 51). -/
def Region.ringEntry (r : Region) (size : Nat) : Nat :=
  (r.ringNext + (findFrom (fun i => !r.spill.any (fun c => c.ring == (r.ringNext + i) % size)) (r.spill.length + 1) 0).getD 0) % size

/-- Where an entry of a region's ring stands (R60, R377). -/
def State.ringPlace (s : State) (r i : Nat) : Place := placeOf (r / 32) ((SMap.get 0#64 (s.module (r / 32)).pf (16 * (r % 32))).toNat + 64 * i)

/-- Writes the next entry of a region's ring: its number. -/
def State.ringWrite (s : State) (r bits : Nat) : Nat × State :=
  let size := s.ringSize r
  if size = 0 then (0, s)
  else
    let i := (s.region r).ringEntry size
    (i, (s.setRegion r { s.region r with ringNext := (i + 1) % size }).homeWrite none (s.ringPlace r i) 64 (fullMask 64) bits)

/-- A free value of `n` words of 64 bits. -/
def State.freeWords (s : State) : (n : Nat) → Nat × State
  | 0 => (0, s)
  | n + 1 => let (v, s) := s.takeFree; let (w, s) := State.freeWords s n; (v.toNat + 2 ^ 64 * w, s)

/-- A flood message or a belay value spills into the ring of its unit's region (R52, R67). The spec lays out no record of one: the entry's bytes are a
free value (log 51), and what it stands for stays in the unit's lists. -/
def State.spillFree (s : State) (u : Nat) : State :=
  let (v, s) := s.freeWords 8
  (s.ringWrite (unitRegion u) v).2

/-! ### Cairns seen from a lane -/

/-- The values of a cairn that have arrived ahead of their turn in the order of R66: those beyond its longest complete prefix (R67). -/
def Cairn.ahead (k : Cairn) : Nat :=
  let clauses := (findFrom (fun i => (SMap.get none k.contrib i).isNone) k.clauses 0).getD k.clauses
  let children := if clauses = k.clauses ∧ k.work = 0 then
      (findFrom (fun i => (SMap.get none k.answered i).isNone && !k.silent.contains i) k.children.length 0).getD k.children.length
    else 0
  (k.contrib.filter (fun y => clauses ≤ y.1)).length + (k.answered.filter (fun y => children ≤ y.1)).length

/-- Values that the router of a unit buffers. -/
def State.buffered (s : State) (u : Nat) : Nat :=
  s.cairns.foldl (fun n y => if unitRouter (y.1 / 256) = unitRouter u then n + y.2.ahead else n) 0

/-- A value has come to the belay of a unit's router: one that its buffer of 64 entries does not hold spills (R67). -/
def State.spillBelay (s : State) (u : Nat) : State := if s.buffered u ≤ 64 then s else s.spillFree u

/-- A contribution enters the belay of a cairn at a clause number (R66, R67, R70). -/
def State.contribute (s : State) (cairn clause : Nat) (e : EchoVal) : State :=
  let k := SMap.get {} s.cairns cairn
  if k.state = .free then s
  else { s with cairns := SMap.set {} s.cairns cairn { k with contrib := SMap.set none k.contrib clause (some e) } }.spillBelay (cairn / 256)

/-- The identity of a combiner, with IDENT in place of its value under UID (R63, R65). -/
def identityOf (comb : Nat) (uid : Bool) (ident : DWord) : DWord × DWord :=
  let key : DWord := if comb = 15 then BitVec.allOnes 64 else 0#64
  let v : Nat := match comb with
    | 3 => 0x80000000 | 4 => 0x8000000000000000 | 5 => 0x7FFFFFFF | 6 => 0x80000000 | 7 => 0x7F800000 | 8 => 0xFF800000
    | 9 => 0xFFFFFFFFFFFFFFFF | 13 => 0xFFFFFFFF7F800000 | 14 => 0xFFFFFFFFFF800000 | _ => 0
  if uid then (if comb = 1 ∨ comb = 3 then BitVec.ofNat 64 (ident.toNat % 2 ^ 32) else ident, key) else (BitVec.ofNat 64 v, key)

/-- The identity that a cairn contributes for its flood. -/
def Cairn.identity (k : Cairn) : EchoVal :=
  match k.msg with
  | some m => let (v, key) := identityOf m.comb m.uid m.ident; { value := v, key := key }
  | none => {}

/-- A lane that ends without having echoed contributes the identity at its clause number (R84, R86, R232 step 4). Its key under code 15 is the key it
started with, which R64 gives for a lane that has exited; that a lane ended by a cancel keeps it too is log 83. -/
def State.contributeIdentity (s : State) (i : Ident) : State :=
  match i.cairn with
  | none => s
  | some c =>
    if i.echoed then s
    else
      let k := SMap.get {} s.cairns c
      let e := k.identity
      let uid := match k.msg with | some m => m.uid | none => false
      let comb := match k.msg with | some m => m.comb | none => 0
      s.contribute c i.clause (if comb = 15 && !uid then { e with key := i.key } else e)

/-- Adds a fault to a cairn: its count and the FAULTED mark of its echo (R86). -/
def State.faultCairn (s : State) (cairn : Nat) : State :=
  let k := SMap.get {} s.cairns cairn
  if k.state = .free then s
  else { s with cairns := SMap.set {} s.cairns cairn { k with faulted := true, faultCount := k.faultCount + 1 } }

/-- The distinct cairns of the lanes of a mask. -/
def Warp.cairnsOf (w : Warp) (m : LaneMask) : List Nat := distinct ((lanes m).filterMap (fun l => (w.laneIdent l).cairn))

/-! ### Pending loads -/

/-- Registers that a record writes per lane. -/
def InFlight.regs (r : InFlight) : Nat := (r.width + 3) / 4

/-- The first destination of a record. -/
def InFlight.dst (r : InFlight) : RegRef := if r.uniform then .s r.dreg else .v r.dreg

/-- Delivers the values of a record to listed lanes: written and made full (R28). -/
def Warp.deliver (w : Warp) (r : InFlight) : List Nat → Warp
  | [] => w
  | l :: t => Warp.deliver ((w.putRun r.dst l r.regs (SMap.get 0 r.val l)).markFullRun r.dst (1#32 <<< l) r.regs) r t

/-- Takes lanes off a record. -/
def InFlight.without (r : InFlight) (m : LaneMask) : InFlight :=
  { r with pend := r.pend &&& ~~~m, unperformed := r.unperformed &&& ~~~m, remote := r.remote &&& ~~~m, trapLanes := r.trapLanes &&& ~~~m }

/-- Lanes that the warp's trap handler holds: what they raise is a double trap (R328). -/
def Warp.handling (w : Warp) (m : LaneMask) : Bool := w.trapping.any (fun t => t.lanes &&& m != 0#32)

/-- A record whose last value has arrived, with trapping lanes left: the trap is taken at the next boundary (R268), its registers become full. -/
def Warp.recordTraps (w : Warp) (r : InFlight) : Warp :=
  let i := { r.trap with pc := r.pc, lanes := r.trapLanes }
  let w := if r.width = 0 then w else w.markFullRun r.dst r.trapLanes r.regs
  { w with pending := w.pending ++ [{ cause := i.cause, lanes := r.trapLanes, pc := r.pc, insn := r.insn, len := r.len, info := i, epc := none, handler := w.handling r.trapLanes }] }

/-- What is left of a warp's records: those that still await a value keep their slots (R356), and one that only owes a trap takes it at the next
boundary (R268). -/
def Warp.putRecords (w : Warp) (rs : List InFlight) : Warp :=
  (rs.filter (fun r => r.pend == 0#32 && r.trapLanes != 0#32)).foldl Warp.recordTraps { w with inflight := rs.filter (fun r => r.pend != 0#32) }

/-- An atomic that lanes have issued and leave: it is still performed, and its returns go to no register (R84, R232 step 2). -/
def InFlight.unreturned (r : InFlight) (m : LaneMask) : InFlight :=
  let n := if r.late then r.pend &&& r.unperformed &&& m else 0#32
  { r with width := 0, pend := n, unperformed := n, remote := r.remote &&& n, trapLanes := 0#32 }

/-- Drops the pending values of lanes: their registers become full with value zero (R155 step 2, R232 step 2). -/
def Warp.dropPending (w : Warp) (m : LaneMask) (only : InFlight → LaneMask) : Warp :=
  let w := w.inflight.foldl (fun w r =>
    let d := r.pend &&& m &&& only r
    w.deliver { r with val := [] } (lanes d)) w
  w.putRecords (w.inflight.map (fun r => r.without (m &&& only r)) ++ w.inflight.map (fun r => r.unreturned (m &&& only r)))

/-- Two records are of one instruction at one address: the lanes of an access that a late fault has parked stand for no record of their own while others of
it are under way. -/
def InFlight.sameInstr (q r : InFlight) : Bool := q.pc == r.pc && q.insn == r.insn

/-- The in-flight records that a warp's instructions take (R356): those under way, and those of accesses that have only late faults left, which are issued
again. -/
def Warp.records (w : Warp) : Nat :=
  let kept := (w.targetFaults ++ w.frontier.filterMap (fun e => e.kept)).filter (fun r => r.fault.acc != 1 && !w.inflight.any (fun q => q.sameInstr r))
  w.inflight.length + (distinct (kept.map (fun r => r.pc * 2 ^ 64 + r.insn))).length

/-- Nothing of a warp is left: its lanes have ended, its stores and atomics are performed, and no late fault waits (R232). -/
def Warp.over (w : Warp) : Bool :=
  w.frontier.isEmpty && w.storeq.isEmpty && w.targetFaults.isEmpty && w.inflight.all (fun r => r.unperformed == 0#32)

/-- The registers that lanes of a mask left empty for a late fault or a late trap become full with value zero (R232 step 2): those of an access whose fault
has not yet parked its lanes, of one kept with a parked entry, and of lanes that owe a trap. -/
def Warp.dropLate (w : Warp) (m : LaneMask) : Warp :=
  let zero (w : Warp) (r : InFlight) (n : LaneMask) : Warp := w.deliver { r with val := [] } (lanes (n &&& m))
  let w := w.inflight.foldl (fun w r => zero w r r.trapLanes) w
  let w := w.targetFaults.foldl (fun w r => zero w r r.pend) w
  w.frontier.foldl (fun w e => match e.kept with | some r => zero w r r.pend | none => w) w

/-- Delivers every performed value that the lanes of a mask still await (R327 step 2). -/
def Warp.completePending (w : Warp) (m : LaneMask) : Warp :=
  let w := w.inflight.foldl (fun w r => w.deliver r (lanes (r.pend &&& m &&& ~~~r.unperformed))) w
  w.putRecords (w.inflight.map (fun r => { r with pend := r.pend &&& ~~~(m &&& ~~~r.unperformed) }))

/-- The warp's store queue drains, and every performed value that the lanes of a mask still await is delivered (R327, R332). -/
def State.completeLanes (s : State) (c slot : Nat) (m : LaneMask) : State :=
  let s := s.drain c slot
  s.setWarp c slot ((s.warp c slot).completePending m)

/-- Registers that a wait marks empty. -/
def Wait.regs (x : Wait) : Option (Nat × Nat) :=
  match x.kind with
  | .value _ width _ _ _ _ _ d => some (d, (width + 3) / 4)
  | .flood _ d => some (d, 3)
  | _ => none

/-- Waits that each lane has for itself; the others stand for their whole entry, under its lowest lane. -/
def Wait.perLane (x : Wait) : Bool := match x.kind with | .value _ _ _ _ _ _ _ _ | .flood _ _ => true | _ => false

/-- The lane under which an entry's wait goes on when lanes leave it. -/
def Warp.waitHeir (w : Warp) (m : LaneMask) (lane : Nat) : Option Nat :=
  match w.frontier.find? (fun e => e.mask.getLsbD lane) with
  | some e => lowestLane (e.mask &&& ~~~m)
  | none => none

/-- Drops the waits of lanes; the destinations they left empty become full with value zero (R232 step 2). -/
def Warp.dropWaits (w : Warp) (m : LaneMask) : Warp :=
  let w := w.waits.foldl (fun w x =>
    if m.getLsbD x.lane then
      match x.regs with
      | some (d, n) => if x.done && (match x.kind with | .flood _ _ => true | _ => false) then w
                       else (w.putRun (.v d) x.lane n 0).markFullRun (.v d) (1#32 <<< x.lane) n
      | none => w
    else w) w
  { w with waits := w.waits.filterMap (fun x =>
      if m.getLsbD x.lane then (if x.perLane then none else (w.waitHeir m x.lane).map (fun l => { x with lane := l })) else some x) }

/-- Lanes leave what they wait for, and will issue the waiting instruction again: the destinations are full as they were. -/
def Warp.leaveWaits (w : Warp) (m : LaneMask) : Warp :=
  let full (w : Warp) (y : Wait) : Warp :=
    match y.regs with | some (d, n) => if m.getLsbD y.lane then w.markFullRun (.v d) (1#32 <<< y.lane) n else w | none => w
  { w.waits.foldl full w with waits := w.waits.filter (fun y => !m.getLsbD y.lane) }

/-! ### Transactions that end (R155, R162, R163) -/

/-- Causes that add 1 to ABORTS, and those that clear it (R162). -/
def countAborts (cause : Nat) (old : BitVec 4) : BitVec 4 :=
  if 2 ≤ cause ∧ cause ≤ 5 then 0#4 else if old = 15#4 then old else old + 1#4

/-- The speculative sectors of a lane are discarded (R155 step 1). -/
def Core.dropSpec (k : Core) (id : Nat) : Core :=
  if k.l1.any (fun l => l.spec.contains id) then { k with l1 := k.l1.map (fun l => { l with spec := l.spec.filter (· != id) }) } else k

/-- A lane that holds or awaits the escalation token gives it up, and its pins go (R155 step 4, R166, R169). -/
def State.releaseToken (s : State) (c slot lane : Nat) : State :=
  let m := coreModule c; let z := s.module m
  if z.holder = some (c, slot, lane) then s.setModule m { z with holder := none, pins := [] }
  else if z.tokenQueue.contains (c, slot, lane) then s.setModule m { z with tokenQueue := z.tokenQueue.filter (· != (c, slot, lane)) }
  else s

/-- Steps 1 to 4 of an abort (R155); the lane's pc is moved by the caller. FCAUSE keeps the cause of the last FAULT abort (R163). -/
def State.abortLane (s : State) (c slot lane cause fcause ucode : Nat) : State :=
  let w := s.warp c slot
  let t := w.laneTx lane
  let t' : LaneTx := { txe := t.txe, cause := BitVec.ofNat 4 cause, esc := t.esc, aborts := countAborts cause t.aborts,
                       fcause := if cause = 9 then BitVec.ofNat 8 fcause else t.fcause, ucode := BitVec.ofNat 8 ucode }
  let w := (w.dropPending (1#32 <<< lane) (fun r => r.txLanes)).setTx lane t'
  let s := s.setWarp c slot w
  let s := s.setCore c ((s.core c).dropSpec (slot * 32 + lane))
  s.releaseToken c slot lane

/-- Aborts listed lanes with one cause. -/
def State.abortLanes (s : State) (c slot cause fcause ucode : Nat) : List Nat → State
  | [] => s
  | l :: t => State.abortLanes (s.abortLane c slot l cause fcause ucode) c slot cause fcause ucode t

/-- The listed lanes with their recorded TXE addresses, where an abort moves them (R155 step 5). -/
def Warp.txeMoves (w : Warp) (ls : List Nat) : SMap Nat := ls.map (fun l => (l, (w.laneTx l).txe))

/-! ### Lanes that exit (R232) -/

/-- The agreements of a group without a warp's exiting lanes among the participants that have not signed (R29, R232 step 1), and the order of
accumulator accesses without theirs (R301). -/
def Group.leaveAgreements (g : Group) (windex : Nat) (m : LaneMask) : Group :=
  let left (o : AccOp) : AccOp := if o.agr.isNone && o.warp == windex then { o with lanes := o.lanes &&& ~~~m } else o
  { g with
    accOrder := (g.accOrder.map left).filter (fun o => o.agr.isSome || o.lanes != 0#32)
    tileOrder := g.tileOrder.filterMap (fun o => let o := if o.warp = windex then { o with lanes := o.lanes &&& ~~~m } else o; if o.lanes = 0#32 then none else some o)
    agr := g.agr.map (fun x =>
      let sg := SMap.get 0#32 x.2.signed windex
      let ls := SMap.get 0#32 x.2.lanes windex
      (x.1, { x.2 with lanes := SMap.set 0#32 x.2.lanes windex (ls &&& ~~~(m &&& ~~~sg)) })) }

/-- Lanes of a warp give up the places that their waiting instructions hold in the orders of accumulators and tiles: they will issue them again. -/
def Group.leaveOrders (g : Group) (windex : Nat) (m : LaneMask) : Group :=
  let mine (w : Nat) (ls : LaneMask) : Bool := w == windex && ls &&& m != 0#32
  { g with accOrder := g.accOrder.filter (fun o => o.agr.isSome || o.dreg.isSome || !mine o.warp o.lanes)
           tileOrder := g.tileOrder.filter (fun o => !mine o.warp o.lanes) }

/-- Identities and tokens of listed exiting lanes (R232 steps 3 and 4). -/
def State.exitEach (s : State) (c slot : Nat) : List Nat → State
  | [] => s
  | l :: t =>
    let w := s.warp c slot
    let s := if (w.laneTx l).state = .idle then s
      else
        let s := s.setWarp c slot (w.setTx l {})
        (s.setCore c ((s.core c).dropSpec (slot * 32 + l))).releaseToken c slot l
    let i := (s.warp c slot).laneIdent l
    let s := s.contributeIdentity i
    let w := s.warp c slot
    State.exitEach (s.setWarp c slot (w.setIdent l { i with echoed := i.echoed || i.cairn.isSome })) c slot t

/-- The fault record of a trap goes to the fault domain when the first of the trapping entry's lanes exits in privileged mode; it counts once
for each cairn concerned (R86, R327). -/
def State.sendTrapRecord (s : State) (c slot : Nat) (m : LaneMask) : State :=
  let w := s.warp c slot
  match w.trapping with
  | some t =>
    if m &&& t.lanes = 0#32 then s
    else
      let s := if t.sent then s
        else
          let g := s.groupOf c slot
          let lane := (lowestLane (m &&& t.lanes)).getD 0
          let r := recordBits t.record g.fcb (w.laneIdent lane).handle c slot
          let s := s.postFault g.ctx (s.faultDomain g.ctx g.fcb) r 0xFFFF#16
          (w.cairnsOf (1#32 <<< lane)).foldl State.faultCairn s
      let left := t.lanes &&& ~~~m
      let w := s.warp c slot
      s.setWarp c slot (if left = 0#32 then { w with trapping := none, privst := w.privst &&& ~~~3#32 }
        else { w with trapping := some { t with lanes := left, sent := true } })
  | none => s

/-- Every step of R232 for the lanes of a mask, but for their leaving the frontier. -/
def State.exitLanes (s : State) (c slot : Nat) (m : LaneMask) : State :=
  if m = 0#32 then s
  else
    let s := s.sendTrapRecord c slot m
    let w := s.warp c slot
    let s := s.setGroup c w.group ((s.group c w.group).leaveAgreements w.windex m)
    let s := s.setWarp c slot ((((s.warp c slot).dropLate m).dropPending m (fun _ => 0xFFFFFFFF#32)).dropWaits m)
    s.exitEach c slot (lanes m)

/-- Takes lanes out of every frontier entry; an entry left without lanes goes. -/
def Warp.leaveFrontier (w : Warp) (m : LaneMask) : Warp :=
  { w with frontier := (w.frontier.map (fun e =>
      { e with mask := e.mask &&& ~~~m, replay := e.replay &&& ~~~m,
               held := (e.held.map (fun p => { p with mask := p.mask &&& ~~~m })).filter (fun p => p.mask != 0#32) })).filter (fun e => e.mask != 0#32) }

/-- Ends the lanes of a mask wherever they stand (R22, R84, R328). -/
def State.killLanes (s : State) (c slot : Nat) (m : LaneMask) : State :=
  let s := s.exitLanes c slot m
  s.setWarp c slot ((s.warp c slot).leaveFrontier m)

/-! ### The frontier (R16 to R22) -/

/-- The entry of a warp's frontier. -/
def Warp.entry (w : Warp) (i : Nat) : Option Entry := w.frontier[i]?

/-- Puts entries in the place of one. -/
def Warp.replaceEntry (w : Warp) (i : Nat) (new : List Entry) : Warp := { w with frontier := w.frontier.take i ++ new ++ w.frontier.drop (i + 1) }

/-- Adds lanes to the part of a split that goes to an address. -/
def addPart (pc lane : Nat) : List SplitPart → List SplitPart
  | [] => [{ pc := pc, prio := 0, mask := 1#32 <<< lane }]
  | p :: t => if p.pc = pc then { p with mask := p.mask ||| (1#32 <<< lane) } :: t else p :: addPart pc lane t

/-- The parts of a split: lanes gathered by the address each goes to, in ascending order of their lowest lanes (R18). -/
def partsOf (target : Nat → Nat) : List Nat → List SplitPart → List SplitPart
  | [], ps => ps
  | l :: t, ps => partsOf target t (addPart (target l) l ps)

/-- A part as a ready entry that has just issued. -/
def SplitPart.toEntry (p : SplitPart) : Entry := { pc := BitVec.ofNat 57 p.pc, prio := BitVec.ofNat 8 p.prio, mask := p.mask, fresh := true }

/-- A part of an entry as an entry: a demotion by YIELD goes on until another entry issues (R24). -/
def SplitPart.entryOf (p : SplitPart) (e : Entry) : Entry := { p.toEntry with yielded := e.yielded }

/-- An entry holds a split for want of frontier slots (R20); one that is parked whole, or replays, only keeps where its other lanes go (R21). -/
def Entry.holdsSplit (e : Entry) : Bool := !e.held.isEmpty && e.replay == 0#32 && e.state != .parked

/-- What an instruction leaves for the frontier: lanes whose next address is not the next instruction, lanes that park with their fault, and
lanes that have exited. -/
structure Out where
  s : State
  go : SMap (Option Nat) := []
  park : LaneMask := 0#32
  info : FaultInfo := {}
  exits : LaneMask := 0#32

/-- Moves of lanes as a sparse map. -/
def sortGo (m : List (Nat × Option Nat)) : SMap (Option Nat) := m.foldl (fun acc x => SMap.set none acc x.1 x.2) []

/-- Where the lanes of an entry stand after an instruction: parts with the priority of R15. -/
def Out.parts (o : Out) (x : Nat) (e : Entry) (len : Nat) : List SplitPart :=
  let rest := lanes (e.mask &&& ~~~o.exits &&& ~~~o.park)
  let target (l : Nat) : Nat :=
    match SMap.get none o.go l with
    | some pc => pc
    | none => if e.replay ≠ 0#32 ∧ e.replay.getLsbD l = false
              then (match e.held.find? (fun p => p.mask.getLsbD l) with | some p => p.pc | none => e.pc.toNat + len)
              else e.pc.toNat + len
  (partsOf target rest []).map (fun p => { p with prio := (o.s.prioAt x e.pc.toNat p.pc e.prio).toNat })

/-- The entry moves on as the parts that its lanes form: whole, as a split (R18), or holding the split back for want of slots (R20). -/
def Out.advance (o : Out) (c slot idx : Nat) (e : Entry) (ps : List SplitPart) : State :=
  let w := o.s.warp c slot
  match ps with
  | [] => o.s.setWarp c slot (w.replaceEntry idx [])
  | [p] => o.s.setWarp c slot (w.replaceEntry idx [p.entryOf e])
  | _ =>
    if w.frontier.length - 1 + ps.length ≤ 8 then o.s.setWarp c slot (w.replaceEntry idx (ps.map (fun p => p.entryOf e)))
    else o.s.setWarp c slot (w.replaceEntry idx
      [{ e with state := .ready, cause := some .fullFrontier, age := 0, mask := e.mask &&& ~~~o.exits, replay := 0#32, held := ps }])

/-- Lanes park with their fault, in an entry of their own beside the parts of the others, or with the whole entry where the frontier has no slot (R21). -/
def Out.parkLanes (o : Out) (c slot idx len : Nat) (e : Entry) (ps : List SplitPart) : State :=
  let g := o.s.groupOf c slot
  let (s, frec) := o.s.recordFault g.ctx g.fcb ((o.s.warp c slot).laneIdent ((lowestLane o.park).getD 0)).handle c slot o.info
  let w := s.warp c slot
  if w.frontier.length - 1 + ps.length + 1 ≤ 8 then
    let parked : Entry := { pc := e.pc, prio := e.prio, mask := o.park, state := .parked, frec := frec, fault := some o.info }
    s.setWarp c slot (w.replaceEntry idx (ps.map (fun p => p.entryOf e) ++ [parked]))
  else
    let away := ps.filter (fun p => p.pc != e.pc.toNat + len)
    s.setWarp c slot (w.replaceEntry idx
      [{ e with state := .parked, cause := none, age := 0, frec := frec, mask := e.mask &&& ~~~o.exits, replay := o.park, held := away, fault := some o.info }])

/-- Moves the lanes of an entry after an instruction of a length: a plain advance or a split (R18, R20), or lanes that park (R21). -/
def Out.finish (o : Out) (c slot idx len : Nat) : State :=
  match (o.s.warp c slot).entry idx with
  | none => o.s
  | some e =>
    let ps := o.parts (o.s.groupOf c slot).ctx e len
    if o.park = 0#32 then o.advance c slot idx e ps else o.parkLanes c slot idx len e ps

/-! ### Taking a trap (R327, R328, R358) -/

/-- A trap that an instruction raises. -/
structure TrapReq where
  cause : Nat
  /-- The lanes the trap concerns. -/
  lanes : LaneMask
  pc : Nat
  insn : Nat
  len : Nat
  info : FaultInfo
  extra : Nat := 0
  /-- EPC where it is not by R327 (R156). -/
  epc : Option Nat := none

/-- The 256-byte trap frame (R358). -/
def frameBits (record : Nat) (t : TrapReq) (e : Entry) (fstat : Word) : Nat :=
  record + t.insn % 2 ^ 64 * 2 ^ 512 + e.mask.toNat * 2 ^ 608 + t.lanes.toNat * 2 ^ 640 + fstat.toNat * 2 ^ 672 + t.len % 256 * 2 ^ 704 +
    e.prio.toNat * 2 ^ 712 + t.extra % 2 ^ 32 * 2 ^ 736

/-- A double trap: every live lane of the warp exits, one fault record goes to the fault domain, and the echo of each killed handler lane is
marked FAULTED (R328). -/
def State.doubleTrap (s : State) (c slot : Nat) (i : FaultInfo) : State :=
  let w := s.warp c slot
  let g := s.groupOf c slot
  let live := w.live
  let r := recordBits { i with lanes := live } g.fcb (w.laneIdent ((lowestLane live).getD 0)).handle c slot
  let s := s.postFault g.ctx (s.faultDomain g.ctx g.fcb) r 0xFFFF#16
  let s := (w.cairnsOf live).foldl State.faultCairn s
  let s := s.setWarp c slot { s.warp c slot with trapping := none, pending := [] }
  s.killLanes c slot live

/-- The cause of a refused access (R359). -/
def Xlat.cause : Xlat → Nat
  | .ok _ _ _ _ => 0
  | .fault _ _ => 0x10
  | .perm _ _ => 0x11

/-- The KIND and LEVEL of a refused access (R120). -/
def Xlat.where_ : Xlat → Nat × Nat
  | .ok _ _ _ _ => (0, 15)
  | .fault k l => (k, l)
  | .perm k l => (k, l)

/-- A trap as one that waits. -/
def TrapReq.later (t : TrapReq) : PendingTrap :=
  { cause := t.cause, lanes := t.lanes, pc := t.pc, insn := t.insn, len := t.len, info := t.info, epc := t.epc, extra := t.extra }

/-- TAKES A TRAP for an entry of a warp (R327): the warp's stores drain and the entry's earlier accesses complete, the frame is written at EFRAME,
ECAUSE, EPC and PRIVST change, and the entry moves to TVEC with its lanes. While a store is held back, or an access of the entry is not yet performed,
the trap waits (step 2). In privileged mode, with a misaligned EFRAME, or when the frame cannot be written, it is a double trap (R328, R358), and so it
is where TVEC is no address of an instruction (R196, log 82). -/
def State.takeTrap (s : State) (c slot idx : Nat) (t : TrapReq) : State :=
  let w := s.warp c slot
  match w.entry idx with
  | none => s
  | some e =>
    if w.privileged then s.doubleTrap c slot { t.info with cause := t.cause, pc := t.pc }
    else
      let s := s.completeLanes c slot e.mask
      let w := (s.warp c slot).leaveWaits e.mask
      let s := (s.setWarp c slot w).setGroup c w.group ((s.group c w.group).leaveOrders w.windex e.mask)
      let g := s.groupOf c slot
      let frame := w.eframe.toNat
      if !w.storeq.isEmpty || w.unperformed e.mask then s.setWarp c slot { w with pending := t.later :: w.pending }
      else if frame % 64 ≠ 0 then s.doubleTrap c slot { cause := 0x06, pc := t.pc, fva := frame, acc := 1, kind := 0 }
      else if w.tvec.getLsbD 0 then s.doubleTrap c slot { cause := 0x06, pc := t.pc, fva := w.tvec.toNat, acc := 3 }
      else if field w.tvec.toNat 57 7 ≠ 0 then s.doubleTrap c slot { cause := 0x11, pc := t.pc, fva := w.tvec.toNat, acc := 3, kind := 10 }
      else
        let info := { t.info with cause := t.cause, pc := t.pc }
        let record := recordBits info g.fcb (w.laneIdent ((lowestLane t.lanes).getD 0)).handle c slot
        match s.ctxWrite g.ctx frame 256 (frameBits record t e w.fstat) with
        | (some r, s) => s.doubleTrap c slot { cause := r.cause, pc := t.pc, fva := frame, acc := 1, kind := r.where_.1, level := r.where_.2 }
        | (none, s) =>
          let w := s.warp c slot
          let epc := match t.epc with
            | some a => a
            | none => if t.cause = 0x70 ∨ t.cause = 0x7F then t.pc + t.len else t.pc
          let prio := s.prioAt g.ctx e.pc.toNat w.tvec.toNat e.prio
          let e' : Entry := { pc := w.tvec.setWidth 57, prio := prio, mask := e.mask }
          s.setWarp c slot ({ w with ecause := BitVec.ofNat 32 t.cause, epc := BitVec.ofNat 64 epc, privst := 1#32,
                                     trapping := some { lanes := e.mask, record := info, sent := false } }.replaceEntry idx [e'])

/-- The entry of a warp that holds the most of some lanes: the first that holds any. -/
def Warp.entryOf (w : Warp) (m : LaneMask) : Option (Nat × Entry) := findIdx (fun e => e.mask &&& m != 0#32) w.frontier 0

/-- Takes a trap for the entry that holds some lanes; where that entry still holds a split back (R20), the trap waits for the split. -/
def State.trapLanes (s : State) (c slot : Nat) (m : LaneMask) (t : TrapReq) : State :=
  let w := s.warp c slot
  match w.entryOf m with
  | none => s
  | some (i, e) =>
    if e.holdsSplit then s.setWarp c slot { w with pending := t.later :: w.pending } else s.takeTrap c slot i t

/-- Takes the waiting trap at an index (R156, R268, R295): the lanes it concerns stand in some entry, or have ended. -/
def State.takePending (s : State) (c slot i : Nat) : State :=
  let w := s.warp c slot
  match w.pending[i]? with
  | none => s
  | some p =>
    let s := s.setWarp c slot { w with pending := dropAt w.pending i }
    s.trapLanes c slot p.lanes { cause := p.cause, lanes := p.lanes, pc := p.pc, insn := p.insn, len := p.len, info := p.info, epc := p.epc, extra := p.extra }

/-- Aborts by R156 that end with the abort: causes raised by memory access. -/
def memoryCause (cause : Nat) : Bool := [0x11, 0x06, 0x13, 0x14, 0x20, 0x41, 0x16].contains cause

/-- A trap of an entry with open lanes among those it concerns (R156): the open lanes abort with FAULT and split off at their TXE; where the cause
is not one raised by memory access, the trap is taken for the rest at once and for those at their TXE before they issue it. `mem` tells that the
cause was raised by a memory access. -/
def State.raise (s : State) (c slot idx : Nat) (t : TrapReq) (mem : Bool) : State :=
  let w := s.warp c slot
  match w.entry idx with
  | none => s
  | some e =>
    let opened := filterMask (t.lanes &&& e.mask) w.isOpen
    if opened = 0#32 then s.takeTrap c slot idx t
    else
      let moves := w.txeMoves (lanes opened)
      let s := s.abortLanes c slot 9 t.cause 0 (lanes opened)
      let ends := mem && memoryCause t.cause
      let closed := t.lanes &&& ~~~opened
      -- one trap for the entry at each recorded TXE
      let traps := (distinct (moves.map Prod.snd)).map (fun a =>
        let m := maskOf ((moves.filter (fun y => y.2 == a)).map Prod.fst)
        { t with lanes := m, info := { t.info with lanes := m }, epc := some a })
      let o : Out := { s := s, go := (lanes e.mask).map (fun l => (l, some (if opened.getLsbD l then SMap.get 0 moves l else e.pc.toNat))) }
      let s := o.finish c slot idx t.len
      let wait (s : State) (ts : List TrapReq) : State :=
        if ends then s else s.setWarp c slot { s.warp c slot with pending := (s.warp c slot).pending ++ ts.map TrapReq.later }
      if closed ≠ 0#32 then (wait s traps).trapLanes c slot (e.mask &&& ~~~opened) { t with lanes := closed }
      else
        match traps with
        | [] => s
        | a :: rest => if ends then s else (wait s rest).trapLanes c slot a.lanes a

/-- RETURNS FROM A TRAP (R329): EPC is checked, the entry moves there, PRIV ← PREVPRIV, PREVPRIV ← 0, and the warp's stopped entries resume with age 0. -/
def State.returnTrap (s : State) (c slot idx : Nat) (pc : Nat) : State :=
  let w := s.warp c slot
  match w.entry idx with
  | none => s
  | some e =>
    if w.epc.getLsbD 0 then s.doubleTrap c slot { cause := 0x06, pc := pc, fva := w.epc.toNat }
    else if field w.epc.toNat 57 7 ≠ 0 then s.doubleTrap c slot { cause := 0x11, pc := pc, fva := w.epc.toNat }
    else
      let g := s.groupOf c slot
      let e' : Entry := { pc := w.epc.setWidth 57, prio := s.prioAt g.ctx e.pc.toNat w.epc.toNat e.prio, mask := e.mask }
      let others := w.frontier.map (fun x => { x with age := 0 })
      let privst := if w.privst.getLsbD 1 then 1#32 else 0#32
      s.setWarp c slot ({ w with frontier := others, privst := privst, trapping := none }.replaceEntry idx [e'])

end Sys2Proof.Machine
end

