-- ==== Sys2Proof/Machine/Operands.lean ====
section
/-! DEFINITION. The operand forms of the core instructions (R203 to R210, R224), what makes an entry issuable (R17, R28, R43, R356), and the one pipeline through which every core instruction runs: the checks of R197, readiness, EMPTY_READ, the instruction's own effect, and the moves of the frontier. -/

namespace Sys2Proof.Machine

/-- An issued core instruction: who issues it, its 64-bit form and signature, and the lanes that take part. -/
structure Iss where
  core : Nat
  slot : Nat
  idx : Nat
  i : Instr
  f : Form64
  g : Sig
  len : Nat
  insn : Nat
  e : Entry

/-- The address of the instruction. -/
def Iss.pc (x : Iss) : Nat := x.e.pc.toNat

/-- The lanes in which the instruction executes: all of the entry's, or those that replay (R21). -/
def Iss.act (x : Iss) : LaneMask := if x.e.replay = 0#32 then x.e.mask else x.e.replay

/-- The guard over the lanes (R203). -/
def Iss.guard (x : Iss) (w : Warp) : LaneMask :=
  let m := w.predMask x.f.guard.toNat
  if x.f.negate then ~~~m else m

/-- The participating lanes (R203, R224). -/
def Iss.part (x : Iss) (w : Warp) : LaneMask := x.act &&& x.guard w

/-- The immediate kind in force (R206). -/
def Iss.imm (x : Iss) : Imm := (immOf x.g x.f).getD .reg

/-- The register that a field names under its class (R209, R210). -/
def refOf (uf : Bool) (k : Slot) (n : Nat) : RegRef :=
  match k with
  | .s => .s n
  | .vs _ _ => if uf then .s n else if n < 192 then .v n else .s (n - 192)
  | _ => if uf then .s n else .v n

/-- The registers named by rd, rs1, rs2 and rs3. -/
def Iss.rd (x : Iss) : RegRef := refOf x.f.uf x.g.rd x.f.rd.toNat
/-- The register named by rs1. -/
def Iss.r1 (x : Iss) : RegRef := refOf x.f.uf x.g.rs1 x.f.rs1.toNat
/-- The register named by rs2. -/
def Iss.r2 (x : Iss) : RegRef := refOf x.f.uf x.g.rs2 x.f.rs2.toNat
/-- The register named by rs3. -/
def Iss.r3 (x : Iss) : RegRef := refOf x.f.uf x.g.rs3 x.f.rs3.toNat

/-- The 32-bit value of an immediate (R206). -/
def immValue (k : Imm) (f : Form64) : Nat :=
  match k with
  | .reg => 0
  | .s16 | .o16 => sextNat 16 32 (imm16 f)
  | .z16 _ => imm16 f
  | .h16 => imm16 f * 65536
  | .s24 | .o24 => sextNat 24 32 (imm24 f)
  | .z24 _ => imm24 f

/-- Operand a: rs1 in a lane (R224). -/
def Iss.a (x : Iss) (w : Warp) (l : Nat) : Nat := (w.get x.r1 l).toNat
/-- Operand b: rs2 in a lane, or the immediate (R206, R224). -/
def Iss.b (x : Iss) (w : Warp) (l : Nat) : Nat := if x.imm = .reg then (w.get x.r2 l).toNat else immValue x.imm x.f
/-- Operand c: rs3 in a lane (R224). -/
def Iss.c (x : Iss) (w : Warp) (l : Nat) : Nat := (w.get x.r3 l).toNat
/-- The pair at rs1 in a lane. -/
def Iss.a64 (x : Iss) (w : Warp) (l : Nat) : Nat := w.pair x.r1 l
/-- The pair at rs2 in a lane. -/
def Iss.b64 (x : Iss) (w : Warp) (l : Nat) : Nat := w.pair x.r2 l
/-- The pair at rs3 in a lane. -/
def Iss.c64 (x : Iss) (w : Warp) (l : Nat) : Nat := w.pair x.r3 l

/-- The target of an o16 or o24 immediate: the instruction's address plus twice the immediate (R206). -/
def Iss.target (x : Iss) : Nat :=
  match x.imm with
  | .o16 => wrap 57 ((x.pc : Int) + 2 * signed 16 (imm16 x.f))
  | _ => wrap 57 ((x.pc : Int) + 2 * signed 24 (imm24 x.f))

/-! ### Runs of registers that an instruction names -/

/-- The length of the run in a slot that holds registers (R209). -/
def slotRun : Slot → Nat
  | .v n _ => n
  | .vs n _ => n
  | .s => 1
  | _ => 0

/-- The source runs: register, length, and whether its trap-on-empty bit is set (R204). -/
def Iss.sources (x : Iss) : List (RegRef × Nat × Bool) :=
  let (h1, h2, h3) := regFields x.imm
  (if h1 && slotRun x.g.rs1 != 0 then [(x.r1, slotRun x.g.rs1, x.f.te.getLsbD 2)] else []) ++
    (if h2 && slotRun x.g.rs2 != 0 then [(x.r2, slotRun x.g.rs2, x.f.te.getLsbD 1)] else []) ++
    (if h3 && slotRun x.g.rs3 != 0 then [(x.r3, slotRun x.g.rs3, x.f.te.getLsbD 0)] else []) ++
    (if x.g.rdRead && slotRun x.g.rd != 0 then [(x.rd, slotRun x.g.rd, false)] else [])

/-- The destination run. -/
def Iss.dests (x : Iss) : List (RegRef × Nat) :=
  if x.g.rdWrite && slotRun x.g.rd != 0 then [(x.rd, slotRun x.g.rd)] else []

/-- A run lies within the warp's allotment (R27). -/
def runAllotted (a : Allot) (r : RegRef) (n : Nat) : Bool :=
  match r with
  | .v k => k + n ≤ a.vregs
  | .s k => k + n ≤ a.sregs

/-- A tile, accumulator or agreement field lies within the group's allotment (R27). -/
def fieldAllotted (a : Allot) (k : Slot) (n : Nat) : Bool :=
  match k with
  | .t => n < a.tregs
  | .a => n < a.acc
  | .c => n < a.agr
  | _ => true

/-- Every register that the instruction names lies within the allotment (R197 step 5). -/
def Iss.allotted (x : Iss) (a : Allot) : Bool :=
  let (h1, h2, h3) := regFields x.imm
  x.sources.all (fun r => runAllotted a r.1 r.2.1) && x.dests.all (fun r => runAllotted a r.1 r.2) &&
    fieldAllotted a x.g.rd x.f.rd.toNat && (!h1 || fieldAllotted a x.g.rs1 x.f.rs1.toNat) &&
    (!h2 || fieldAllotted a x.g.rs2 x.f.rs2.toNat) && (!h3 || fieldAllotted a x.g.rs3 x.f.rs3.toNat)

/-! ### Readiness (R17, R28) -/

/-- The lanes of a mask in which some register of a run is empty. -/
def Warp.emptyLanes (w : Warp) (r : RegRef) (m : LaneMask) : (n : Nat) → LaneMask
  | 0 => 0#32
  | n + 1 =>
    let here := match r with
      | .v k => SMap.get 0#32 w.vEmpty k &&& m
      | .s k => if w.sEmpty.getLsbD k then m else 0#32
    here ||| Warp.emptyLanes w (r.plus 1) m n

/-- Operands without a trap-on-empty bit and destinations are full in the active lanes (R17). -/
def Iss.operandsFull (x : Iss) (w : Warp) : Bool :=
  x.sources.all (fun r => r.2.2 || w.emptyLanes r.1 x.act r.2.1 == 0#32) && x.dests.all (fun r => w.emptyLanes r.1 x.act r.2 == 0#32)

/-- The participating lanes that read an empty register through a set trap-on-empty bit (R28, R203, R204). -/
def Iss.emptyReads (x : Iss) (w : Warp) : LaneMask :=
  x.sources.foldl (fun m r => if r.2.2 then m ||| w.emptyLanes r.1 (x.part w) r.2.1 else m) 0#32

/-- Instructions that hold one of the 32 in-flight records (R356). -/
def usesRecord : Instr → Bool
  | .ld _ | .ldx _ | .atom _ | .atomc _ | .claim _ | .trd _ | .accrd _ | .accrmax _ | .testf _ => true
  | .finfo f => f.rs3.toNat ≤ 3
  | _ => false

/-- The flood depth of a lane's next flood (R42). -/
def Ident.nextDepth (i : Ident) : Nat := if i.cairn.isNone then 0 else i.depth + 1

/-- Free origin cairns of a depth class in a region (R43). -/
def State.freeOrigins (s : State) (r d : Nat) : Nat :=
  ((List.range 32).filter (fun i => (s.cairn (1024 + r) (32 * d + i)).state == .free)).length

/-- How many origin cairns of a depth class a FLOOD needs: one for each active lane (R43); a depth above 7 is refused by R42 and needs none. -/
def Iss.originNeed (x : Iss) (w : Warp) (d : Nat) : Nat := ((lanes x.act).filter (fun l => (w.laneIdent l).nextDepth == d)).length

/-- The requests of a region for origin cairns of a class that come before this entry's own: all, where it has none yet (R43). -/
def Iss.originAhead (x : Iss) (s : State) (d : Nat) : Bool :=
  ((s.region (coreRegion x.core)).requests.takeWhile (fun q => !(q.core == x.core && q.slot == x.slot && q.pc == x.pc && q.mask == x.e.mask))).any
    (fun q => q.now && q.classes.contains d)

/-- FLOOD needs as many free origin cairns of each lane's class as the instruction has active lanes of that class, and its turn among the requests of the
class (R43). -/
def Iss.originsFree (x : Iss) (s : State) : Bool :=
  match x.i with
  | .flood _ =>
    let w := s.warp x.core x.slot
    (List.range 8).all (fun d => x.originNeed w d == 0 || (x.originNeed w d ≤ s.freeOrigins (coreRegion x.core) d && !x.originAhead s d))
  | _ => true

/-- V2S waits for the register of the lane that it reads, while that lane is live (R224, R241). -/
def Iss.v2sLane (x : Iss) (w : Warp) : Nat := (if x.imm = .reg then x.b w ((lowestLane (x.part w)).getD 0) else immValue x.imm x.f) % 32

/-- A register that V2S reads from another lane is empty, and that lane is live (R241). -/
def Iss.foreignEmpty (x : Iss) (w : Warp) : LaneMask :=
  match x.i with
  | .v2s _ => if x.part w = 0#32 then 0#32 else w.emptyLanes x.r1 ((1#32 <<< x.v2sLane w) &&& w.live) 1
  | _ => 0#32

/-- What an instruction counts as in the ordering matrices (R129, R130, R332): an access or a release, which every earlier load and atomic of its lanes
comes before; an engine command or a tile access, which only earlier acquires come before; or nothing. A RET loads and a CALL stores (R227). -/
inductive OrderRole where
  | access | engine | none
  deriving DecidableEq, Repr

/-- The role of an instruction. -/
def roleOf : Instr → OrderRole
  | .ld _ | .ldx _ | .st _ | .stx _ | .atom _ | .atomc _ | .red _ | .claim _ | .waitv _ | .fence _ | .call _ | .callx _ | .ret _ | .unmaps _ | .flushs _
  | .barInit _ | .barExp _ | .barArv _ | .barWait _ | .barTest _ | .flood _ | .echo _ | .clause _ | .waitf _ | .testf _ | .txe _ | .eret _ | .tlbi _
  | .maps _ | .cctl _ => .access
  | .copy _ | .txfer _ | .tld _ | .tst _ | .trig _ => .engine
  | _ => .none

/-- Every earlier load and atomic of the entry's lanes that the matrices keep before the instruction is performed (R128 to R132). -/
def Iss.inOrder (x : Iss) (w : Warp) : Bool :=
  match roleOf x.i with
  | .access => !w.unperformed x.act
  | .engine => !{ w with inflight := w.inflight.filter (fun r => r.acq != 0) }.unperformed x.act
  | .none => true

/-- The registers that the next instruction reads and writes are full, those aside whose emptiness traps (R17, R241). -/
def Iss.registersFull (x : Iss) (s : State) : Bool :=
  let w := s.warp x.core x.slot
  x.operandsFull w && (x.foreignEmpty w == 0#32 || x.f.te.getLsbD 2)

/-- The next instruction of an entry is issuable: its registers are full, and it finds a record and origin cairns free (R17, R43, R356). -/
def Iss.ready (x : Iss) (s : State) : Bool :=
  x.registersFull s && (!usesRecord x.i || (s.warp x.core x.slot).records < 32) && x.originsFree s

/-- The next instruction of an entry is issuable, and the accesses that stay before it are performed (R17, R128 to R132). -/
def Iss.issuable (x : Iss) (s : State) : Bool := x.ready s && x.inOrder (s.warp x.core x.slot)

/-! ### Issue -/

/-- Core cycles for which an instruction occupies its issue slot (R265). -/
def issueCycles : Instr → Nat
  | .dadd64 _ | .dmul64 _ | .dfma _ | .dmin64 _ | .dmax64 _ | .dcmp _ | .cvtd _ | .dadd32 _ | .dmul32 _ | .dmin32 _ | .dmax32 _
  | .frcp64 _ | .frsq64 _ | .fsqrt64 _ | .fexp264 _ | .flog264 _ | .frcp32 _ | .frsq32 _ | .fsqrt32 _ | .fexp232 _ | .flog232 _ => 2
  | .fsin _ | .fcos _ | .ftanh _ => 4
  | _ => 1

/-- Every open lane of a mask counts an issued instruction (R157). -/
def Warp.countIssue (w : Warp) : List Nat → Warp
  | [] => w
  | l :: t =>
    let x := w.laneTx l
    Warp.countIssue (if x.state = .opened then w.setTx l { x with issued := x.issued + 1 } else w) t

/-- An entry issues (R23, R24, R26): its age is 0, a promoted entry returns to ready, other entries' YIELD ends, and the warp holds an issue slot. -/
def Warp.noteIssue (w : Warp) (idx : Nat) (e : Entry) (clock cycles : Nat) : Warp :=
  let others := w.frontier.map (fun x => { x with yielded := false })
  let w := { w with frontier := others, lastIssue := clock, busy := cycles }
  (w.replaceEntry idx [{ e with age := 0, state := .ready, cause := none, fresh := true }]).countIssue (lanes e.mask)

/-- Notes the issue of an instruction. -/
def Iss.note (x : Iss) (s : State) : State :=
  s.setWarp x.core x.slot ((s.warp x.core x.slot).noteIssue x.idx x.e (s.core x.core).clock.toNat (issueCycles x.i))

/-- An entry that is not issuable stays as it is, and shows wcause 2 where an empty register holds it (R17). -/
def Iss.showEmpty (x : Iss) (s : State) : State :=
  s.setWarp x.core x.slot ((s.warp x.core x.slot).replaceEntry x.idx
    [{ x.e with stalled := true, cause := if x.registersFull s then x.e.cause else some .emptyRegister }])

/-- What the effect of an instruction comes to. -/
inductive Res where
  /-- The effect is done; the lanes move on. -/
  | done (o : Out)
  /-- A trap, with the lanes already sent elsewhere by an abort; `mem` tells a cause raised by a memory access (R156). -/
  | trap (o : Out) (t : TrapReq) (mem : Bool)
  /-- The lanes that stay wait at the instruction. -/
  | wait (o : Out) (cause : WaitCause)
  /-- Nothing has happened yet: the instruction is issued again. -/
  | stall (s : State)
  /-- The effect is done, and the frontier with it. -/
  | placed (s : State)

/-- A trap request of this instruction; EXTRA is the first failing lane for FLOOD and CLAUSE (R358). -/
def Iss.trapReq (x : Iss) (cause : Nat) (m : LaneMask) (info : FaultInfo := {}) : TrapReq :=
  { cause := cause, lanes := m, pc := x.pc, insn := x.insn, len := x.len, info := { info with cause := cause, pc := x.pc, lanes := m },
    extra := match x.i with | .flood _ | .clause _ => (lowestLane m).getD 0 | _ => 0 }

/-- A trap with no effect before it. -/
def Iss.trap (x : Iss) (s : State) (cause : Nat) (m : LaneMask) (info : FaultInfo := {}) (mem : Bool := false) : Res :=
  .trap { s := s } (x.trapReq cause m info) mem

/-- Parks and aborted lanes leave the entry; the rest waits at the instruction (R280, R285, R316). -/
def Out.finishWait (o : Out) (c slot idx len : Nat) (cause : WaitCause) : State :=
  match (o.s.warp c slot).entry idx with
  | none => o.s
  | some e =>
    let stay := (lanes (e.mask &&& ~~~o.exits &&& ~~~o.park)).filter (fun l => (SMap.get none o.go l).isNone)
    let o := { o with go := (lanes e.mask).map (fun l => (l, some ((SMap.get none o.go l).getD e.pc.toNat))) }
    let s := o.finish c slot idx len
    let w := s.warp c slot
    match w.entryOf (maskOf stay) with
    | none => s
    | some (i, x) =>
      if x.state = .parked ∨ x.holdsSplit then s
      else s.setWarp c slot (w.replaceEntry i [{ x with state := .waiting, cause := some cause, prio := e.prio, age := 0 }])

/-- Open lanes of a mask take back the count of an instruction that has not gone on (R157). -/
def Warp.uncountIssue (w : Warp) : List Nat → Warp
  | [] => w
  | l :: t =>
    let x := w.laneTx l
    Warp.uncountIssue (if x.state = .opened then w.setTx l { x with issued := x.issued - 1 } else w) t

/-- An instruction that must still wait has not issued: `w` is the warp before it tried. The entry tries again in a later cycle, so that others issue
meanwhile (R17, R23, R26, R157). -/
def Iss.retry (x : Iss) (w : Warp) (s : State) : State :=
  let w' := (s.warp x.core x.slot).uncountIssue (lanes x.e.mask)
  s.setWarp x.core x.slot ({ w' with frontier := w.frontier, lastIssue := w.lastIssue, busy := w.busy }.replaceEntry x.idx [{ x.e with stalled := true }])

/-- The state after an effect; `w` is the warp before the instruction issued. -/
def Res.finish (r : Res) (x : Iss) (w : Warp) : State :=
  match r with
  | .done o => o.finish x.core x.slot x.idx x.len
  | .wait o cause => o.finishWait x.core x.slot x.idx x.len cause
  | .stall s => x.retry w s
  | .placed s => s
  | .trap o t mem =>
    if o.go.isEmpty && o.park == 0#32 && o.exits == 0#32 then o.s.raise x.core x.slot x.idx t mem
    else
      -- aborted and parked lanes leave first; the trap is taken for the rest
      let stay := x.e.mask &&& ~~~o.exits &&& ~~~o.park &&& ~~~(maskOf (o.go.map Prod.fst))
      let o := { o with go := (lanes x.e.mask).map (fun l => (l, some ((SMap.get none o.go l).getD x.pc))) }
      let s := o.finish x.core x.slot x.idx x.len
      match (s.warp x.core x.slot).entryOf stay with
      | none => s
      | some (i, e) => if e.holdsSplit then s.trapLanes x.core x.slot stay t else s.raise x.core x.slot i t mem

/-! ### Bit errors of registers (R414) -/

/-- The ECC word of a register of a warp slot: 32 bits of a lane, or a uniform register. -/
def regWord (c slot : Nat) (r : RegRef) (lane : Nat) : Nat :=
  2 ^ 80 + (c * 64 + slot) * 2 ^ 17 + (match r with | .v k => 32 * k + lane | .s k => 2 ^ 16 + k)

/-- The words of runs in listed lanes. -/
def Iss.words (x : Iss) (ls : List Nat) (rs : List (RegRef × Nat)) : List Nat :=
  ls.flatMap (fun l => rs.flatMap (fun r => (List.range r.2).map (fun i => regWord x.core x.slot (r.1.plus i) l)))

/-- The participating lanes that read an uncorrectable register word; the errors met are corrected and counted, or logged (R414 to R416). -/
def Iss.badReads (x : Iss) (s : State) : LaneMask × State :=
  if s.ecc.isEmpty then (0#32, s)
  else
    let ls := lanes (x.part (s.warp x.core x.slot)); let rs := x.sources.map (fun r => (r.1, r.2.1))
    let met := x.words ls rs; let m := coreModule x.core
    let hits := s.ecc.filter (fun y => met.contains y.1)
    let s := hits.foldl (fun s y =>
      let st := if bit y.1 16 then 1 else 0
      if y.2 = .double then s.logWord m st (x.core % 512) (4 * (y.1 % 2 ^ 17)) 1 (s.ctxOf x.core x.slot % 32) else s.count m (16 * st) 1) s
    let bad := ls.filter (fun l => (x.words [l] rs).any (fun k => s.ecc.any (fun y => y.1 == k && y.2 == .double)))
    (maskOf bad, { s with ecc := s.ecc.filter (fun y => y.2 == .double || !met.contains y.1) })

/-- A written destination register word ends its error (R414). -/
def Iss.heal (x : Iss) (s : State) : State :=
  if s.ecc.isEmpty then s
  else
    let put := x.words (lanes (x.part (s.warp x.core x.slot))) x.dests
    { s with ecc := s.ecc.filter (fun y => !put.contains y.1) }

/-- An instruction of the entry that holds the step, through every check of R197 that follows fetch and opcode, then readiness and EMPTY_READ (R28). -/
def Iss.run (x : Iss) (eff : Iss → State → Res) (s : State) : State :=
  let w := s.warp x.core x.slot
  if !x.i.wf then (x.trap (x.note s) 0x02 x.e.mask).finish x w
  else if x.g.priv && !w.privileged then (x.trap (x.note s) 0x05 x.e.mask).finish x w
  else if !x.allotted (s.groupOf x.core x.slot).allot then (x.trap (x.note s) 0x03 x.e.mask).finish x w
  else if !x.issuable s then x.showEmpty s
  else
    let s := x.note s
    let m := x.emptyReads w ||| (if x.f.te.getLsbD 2 && x.foreignEmpty w != 0#32 then x.part w else 0#32)
    if m ≠ 0#32 then (x.trap s 0x04 m).finish x w
    else
      match x.badReads s with
      | (bad, s) =>
        if bad ≠ 0#32 then (x.trap s 0x16 bad {} true).finish x w
        else
          match eff x s with
          | .done o => (Res.done { o with s := x.heal o.s }).finish x w
          | r => r.finish x w

/-- The issued instruction of the warp that holds the step. -/
def issOf (i : Instr) (s : State) : Option Iss :=
  match s.cur, encodeWord i, formOf i, sigOf i with
  | .warp c slot idx, some (len, w), some f, some g =>
    match (s.warp c slot).entry idx with
    | some e => some { core := c, slot := slot, idx := idx, i := i, f := f, g := g, len := len, insn := w, e := e }
    | none => none
  | _, _, _, _ => none

/-- Runs a core instruction; without a warp that holds the step there is no machine to run it. -/
def runCore (i : Instr) (eff : Iss → State → Res) (s : State) : Host.Outcome State Fault Refusal :=
  match issOf i s with
  | some x => .next (x.run eff s)
  | none => .fault .noIssuer

/-! ### Page faults (R21, R156) -/

/-- Lanes that meet a page fault: lanes outside a transaction park; open lanes abort with FAULT, and their record goes to the fault domain as a
fault entry only (R156). -/
def State.pageFault (s : State) (c slot : Nat) (m : LaneMask) (info : FaultInfo) : State × SMap (Option Nat) × LaneMask :=
  let w := s.warp c slot
  let opened := filterMask m w.isOpen
  if opened = 0#32 then (s, [], m)
  else
    let g := s.groupOf c slot
    let r := recordBits { info with lanes := opened } g.fcb (w.laneIdent ((lowestLane opened).getD 0)).handle c slot
    let s := s.postFault g.ctx (s.faultDomain g.ctx g.fcb) r 0xFFFF#16
    (s.abortLanes c slot 9 0x10 0 (lanes opened), (w.txeMoves (lanes opened)).map (fun y => (y.1, some y.2)), m &&& ~~~opened)

/-! ### Register-only effects (R224) -/

/-- The lanes for which a result is computed: the participating lanes, or the lowest of them once in the uniform form (R210). -/
def Iss.exec (x : Iss) (w : Warp) : List Nat := if x.f.uf then (lanes (x.part w)).take 1 else lanes (x.part w)

/-- Writes a run of registers in listed lanes, each value taken from the warp before any write. -/
def Warp.writeLanes (w : Warp) (r : RegRef) (n : Nat) (val : Nat → Nat) : List Nat → Warp
  | [] => w
  | l :: t => Warp.writeLanes (w.putRun r l n (val l)) r n val t

/-- Changes the issuing warp. -/
def Iss.withWarp (x : Iss) (s : State) (w : Warp) : State := s.setWarp x.core x.slot w

/-- An instruction that computes `n` registers per lane from the warp's registers (R224). -/
def laneOp (n : Nat) (val : Iss → Warp → Nat → Nat) (x : Iss) (s : State) : Res :=
  let w := s.warp x.core x.slot
  .done { s := x.withWarp s (w.writeLanes x.rd n (val x w) (x.exec w)) }

/-- An instruction that computes a predicate per lane (R209: a write to p15 is ignored). -/
def predOp (val : Iss → Warp → Nat → Bool) (x : Iss) (s : State) : Res :=
  let w := s.warp x.core x.slot
  .done { s := x.withWarp s (w.putPred x.f.rd.toNat (x.part w) (filterMask (x.part w) (val x w))) }

/-- The open lanes among the participating ones (R154). -/
def Iss.openPart (x : Iss) (w : Warp) : LaneMask := filterMask (x.part w) w.isOpen

/-- Open participating lanes abort before the instruction has any effect in them (R154); the effect runs for the others. `part` gives the lanes
that remain. -/
def Iss.abortOpen (x : Iss) (s : State) (cause : Nat) (m : LaneMask) : State × SMap (Option Nat) :=
  let w := s.warp x.core x.slot
  if m = 0#32 then (s, [])
  else (s.abortLanes x.core x.slot cause 0 0 (lanes m), (w.txeMoves (lanes m)).map (fun y => (y.1, some y.2)))

/-- Joins moves made before an effect (lanes that aborted) with the effect's own. -/
def Res.join (r : Res) (x : Iss) (go : SMap (Option Nat)) : Res :=
  let j (o : Out) : Out := { o with go := sortGo (go ++ o.go) }
  match r with
  | .done o => .done (j o)
  | .trap o t mem => .trap (j o) t mem
  | .wait o cause => .wait (j o) cause
  | .stall s =>
    if go.isEmpty then .stall s
    else
      let stay := x.e.mask &&& ~~~(maskOf (go.map Prod.fst))
      .done { s := s, go := sortGo (go ++ (lanes stay).map (fun l => (l, some x.pc))) }
  | .placed s => .placed s

/-- The frame of an instruction without per-lane addresses that an open lane may not execute (R154): the open participating lanes abort with
UNSUPPORTED, and the effect runs for the others. -/
def Iss.closed (x : Iss) (s : State) (eff : LaneMask → State → Res) : Res :=
  let m := x.openPart (s.warp x.core x.slot)
  let rest := x.part (s.warp x.core x.slot) &&& ~~~m
  let (s, go) := x.abortOpen s 6 m
  (if rest = 0#32 then .done { s := s } else eff rest s).join x go

/-- Runs the rest of an instruction that releases at a scope once the release can be made, and its steps 1 to 3 have been taken (R134). `m` are the
lanes that release: a write-back of the warp's own mapped ranges that is refused traps in them, and one that meets a page fault parks them (R274, R275). -/
def Iss.release (x : Iss) (s : State) (scope : Nat) (m : LaneMask) (k : State → Res) : Res :=
  if s.releaseBlocked x.core x.slot scope then .stall s
  else
    match s.releaseMaps x.core x.slot scope with
    | .ok => k (s.releaseSteps x.core x.slot scope)
    | .perm va kd lv => x.trap s 0x11 m { fva := va, acc := 1, kind := kd, level := lv } true
    | .fault va kd lv =>
      .done { s := s, park := m, info := { cause := 0x10, pc := x.pc, fva := va, lanes := m, acc := 1, kind := kd, level := lv } }

/-- Operands of a W instruction held in vector registers are taken from the lowest active lane (R274, R285). -/
def Iss.warpLane (_x : Iss) (m : LaneMask) : Nat := (lowestLane m).getD 0

end Sys2Proof.Machine
end

