-- ==== Sys2Proof/Machine/Flags.lean ====
section
/-! DEFINITION. The status words of the machine and how they change: the transaction status word (R163), FSTAT (R149), PRIVST (R244), the tile scoreboard and the flood status word (R72), and the special registers that show them (R243). -/

namespace Sys2Proof.Machine

/-- The transaction status word of a lane (R163). -/
def LaneTx.status (t : LaneTx) : Nat :=
  t.cause.toNat + (if t.state = .opened ∨ t.state = .queued then 2 ^ 10 else 0) + (if t.esc then 2 ^ 11 else 0) + t.aborts.toNat * 2 ^ 12 +
    t.fcause.toNat * 2 ^ 16 + t.ucode.toNat * 2 ^ 24

/-- The flood status word from its parts (R72). -/
def floodStatus (complete partly cancelled faulted late : Bool) (silent faults lates : Nat) : Nat :=
  complete.toNat + 2 * partly.toNat + 4 * cancelled.toNat + 8 * faulted.toNat + 16 * late.toNat + min silent 255 * 2 ^ 8 +
    min faults 255 * 2 ^ 16 + min lates 255 * 2 ^ 24

/-- FSTAT after a fence that completed with lost stores (R149): PEER_LOST is set, LOSTN adds up and saturates, MODULE is the lowest module `m` lost
since PEER_LOST was last cleared, HOST marks a lost port peer. -/
def fstatLost (f : Word) (count : Nat) (m : Option Nat) (host : Bool) : Word :=
  BitVec.ofNat 32 (min 255 (field f.toNat 16 8 + count) * 2 ^ 16 + m.getD 0 % 32 * 2 ^ 6 + (host || bit f.toNat 5).toNat * 2 ^ 5 + 1)

/-- The lower of two lost modules. -/
def lowerModule : Option Nat → Option Nat → Option Nat
  | some a, some b => some (min a b)
  | some a, none => some a
  | none, b => b

/-- A fence at .dm or .sy reports the stores of its warp that were declared lost (R149). -/
def Warp.reportLost (w : Warp) : Warp :=
  let m := lowerModule w.lostShown w.lostModule
  { w with fstat := fstatLost w.fstat w.lost m w.lostHost, lost := 0, lostModule := none, lostHost := false, lostShown := m }

/-- FSTAT after a write: HOST and PEER_LOST are cleared by writing 1, and clearing PEER_LOST clears LOSTN and MODULE (R6, R149). -/
def fstatWrite (f : Word) (v : Nat) : Word :=
  let f := if bit v 5 then f &&& ~~~(0x20#32) else f
  if bit v 0 then f &&& 0x20#32 else f

/-- PRIVST after a write: only PREVPRIV is writable (R244). -/
def privstWrite (p : Word) (v : Nat) : Word := (p &&& 1#32) ||| (if bit v 1 then 2#32 else 0#32)

/-- A special register's value in a lane (R243). -/
def Iss.special (x : Iss) (s : State) (n lane : Nat) : Nat :=
  let w := s.warp x.core x.slot
  let g := s.groupOf x.core x.slot
  match n with
  | 0x000 => lane
  | 0x001 => x.slot
  | 0x002 => w.windex
  | 0x003 => g.slots.length
  | 0x004 => x.core % 512
  | 0x005 => coreRegion x.core % 32
  | 0x006 => coreDie x.core
  | 0x007 => coreModule x.core
  | 0x008 => x.e.mask.toNat
  | 0x010 => 2 ^ 56 + x.core % 512 * 2 ^ 19 + g.stashBase
  | 0x011 => g.allot.sbytes
  | 0x012 => (s.core x.core).clock.toNat
  | 0x013 => g.tscb.toNat
  | 0x014 => w.fstat.toNat
  | 0x015 => w.spillb.toNat
  | 0x016 => SMap.get 0 w.depth lane
  | 0x100 => w.privst.toNat
  | 0x101 => w.tvec.toNat
  | 0x102 => w.epc.toNat
  | 0x103 => w.ecause.toNat
  | 0x104 => w.eframe.toNat
  | 0x105 => g.ctx % 32
  | _ => 0

/-- A special register written (R243): SPILLB keeps its low eight bits zero (R352). -/
def Warp.writeSpecial (w : Warp) (n v : Nat) : Warp :=
  match n with
  | 0x014 => { w with fstat := fstatWrite w.fstat v, lostShown := if bit v 0 then none else w.lostShown }
  | 0x015 => { w with spillb := BitVec.ofNat 64 (v - v % 256) }
  | 0x100 => { w with privst := privstWrite w.privst v }
  | 0x101 => { w with tvec := BitVec.ofNat 64 v }
  | 0x102 => { w with epc := BitVec.ofNat 64 v }
  | 0x104 => { w with eframe := BitVec.ofNat 64 v }
  | _ => w

/-- A scoreboard read is an acquire for each bit that it shows set (R143, R245). -/
def State.tscbAcquire (s : State) (c gi : Nat) (bits : DWord) : State :=
  (s.group c gi).tscbSig.foldl (fun s x => if bits.getLsbD x.1 then s.applySig c x.2 else s) s

end Sys2Proof.Machine
end

