-- ==== Sys2Proof/Machine/LaneMem.lean ====
section
/-! DEFINITION. One lane's plain access once its place is known: the warp's store queue, and reads that see it (R129 note 1, R132). -/

namespace Sys2Proof.Machine

/-- The byte of a queued store at a place, if the store covers it. -/
def StoreOp.byteFor (o : StoreOp) (p : Place) : Option Nat :=
  let d (a b : Nat) : Option Nat := if b ≤ a ∧ a < b + o.size then some (o.data / 256 ^ (a - b) % 256) else none
  match p, o.place with
  | .dom a, .dom b => d a b
  | .port i a, .port j b => if i = j then d a b else none
  | .stash i a, .stash j b => if i = j then d a b else none
  | _, _ => none

/-- The newest queued byte of a place. -/
def queuedByte (q : List StoreOp) (p : Place) : Option Nat := q.foldl (fun r o => (o.byteFor p).orElse (fun _ => r)) none

/-- The bytes of a place with the warp's queued stores laid over them (R129 note 1). -/
def overlay (q : List StoreOp) (p : Place) : (n : Nat) → Nat → Nat
  | 0, _ => 0
  | n + 1, v => (queuedByte q p).getD (v % 256) + 256 * overlay q (p.plus 1) n (v / 256)

/-- A plain read of a place other than a stash, through the warp's store queue (R95, R129 note 1, R141). -/
def State.readMem (s : State) (c slot : Nat) (p : Place) (wti : Bool) (n : Nat) : Nat × State :=
  let (v, s) := match p with
    | .dom pa => s.l1Load c pa n wti
    | _ => s.homeRead (some c) p n
  (overlay (s.warp c slot).storeq p n v, s)

/-- A store enters its warp's store queue (R132). -/
def State.enqueue (s : State) (c slot : Nat) (o : StoreOp) : State :=
  let w := s.warp c slot
  s.setWarp c slot { w with storeq := w.storeq ++ [o] }

/-- The queued form of a store of a lane to a translated place: stores to ports, peer stashes and WTI pages are uncached (R134, R270). -/
def storeOp (c lane : Nat) (p : Place) (wti : Bool) (size data va insn len pc : Nat) : StoreOp :=
  { place := p, size := size, data := data, lane := lane, wti := wti, va := va, insn := insn, len := len, pc := pc,
    uncached := match p with | .dom _ => false | .port _ _ => true | .stash k _ => k != c }

/-! ### Return stacks (R227, R352) -/

/-- The address of a lane's spilled return address (R352). -/
def spillAddr (w : Warp) (lane d : Nat) : Nat := (w.spillb.toNat + 256 * d + 8 * lane) % 2 ^ 64

/-- The depth indices that a lane's next push spills: the eight oldest held ones where sixteen are held (R227). -/
def spillIdx (w : Warp) (lane : Nat) : List Nat :=
  if (SMap.get [] w.rstack lane).length < 16 then [] else (List.range 8).map (fun k => SMap.get 0 w.depth lane - 16 + k)

/-- The depth indices that a lane's next pop refills: up to eight below the oldest held one where none is held (R227). -/
def refillIdx (w : Warp) (lane : Nat) : List Nat :=
  let d := SMap.get 0 w.depth lane
  if (SMap.get [] w.rstack lane).isEmpty then (List.range (min 8 d)).map (fun k => d - min 8 d + k) else []

/-- The first refused access among a lane's spill addresses, with its address (R419: PRIV is ignored). -/
def State.spillFault (s : State) (c x : Nat) (acc : Acc) : List Nat → Option (Nat × Xlat)
  | [] => none
  | va :: t =>
    match (s.xlatLane c x va acc true).1 with
    | .ok _ _ _ _ => State.spillFault s c x acc t
    | r => some (va, r)

/-- Spills listed depth indices of a lane, oldest first, as plain stores. -/
def State.spillEach (s : State) (c slot x lane insn len pc : Nat) : List (Nat × Nat) → State
  | [] => s
  | (va, v) :: t =>
    match s.xlatLane c x va .store true with
    | (.ok p wti _ _, s) => State.spillEach (s.enqueue c slot (storeOp c lane p wti 8 v va insn len pc)) c slot x lane insn len pc t
    | (_, s) => State.spillEach s c slot x lane insn len pc t

/-- Pushes a return address in a lane, after any spill (R227). -/
def State.push (s : State) (c slot x lane ret insn len pc : Nat) : State :=
  let w := s.warp c slot
  let held := SMap.get [] w.rstack lane
  let idx := spillIdx w lane
  let old := held.drop 8
  let s := s.spillEach c slot x lane insn len pc ((idx.map (spillAddr w lane)).zip old.reverse)
  let w := s.warp c slot
  let keep := if idx.isEmpty then held else held.take 8
  s.setWarp c slot { w with rstack := SMap.set [] w.rstack lane (ret :: keep), depth := SMap.set 0 w.depth lane (SMap.get 0 w.depth lane + 1) }

end Sys2Proof.Machine
end

