-- ==== Sys2Proof/Machine/Maps.lean ====
section
/-! DEFINITION. Shard maps (R113 to R117): the entry and its validity, cached copies, owner records, and Resolve. -/

namespace Sys2Proof.Machine

/-! ### The entry (R113) -/

/-- The fields of an entry: RANK, FMT, PLACE, OWNERS, NSH. -/
def mapRank (e : Nat) : Nat := field e 33 3
/-- FMT. -/
def mapFmt (e : Nat) : Nat := field e 36 4
/-- PLACE: 0 BLOCK, 1 CYCLIC, 2 STRIPE. -/
def mapPlace (e : Nat) : Nat := field e 40 2
/-- NSH. -/
def mapNsh (e : Nat) : Nat := field e 128 13
/-- DIMk. -/
def mapDim (e k : Nat) : Nat := field e (144 + 32 * k) 32
/-- GRIDk. -/
def mapGrid (e k : Nat) : Nat := field e (304 + 16 * k) 16
/-- VERSION. -/
def mapVersion (e : Nat) : Nat := field e 0 32

/-- The first `n` values of a family. -/
def firstN (n : Nat) (f : Nat → Nat) : List Nat := (List.range n).map f

/-- The product of a list. -/
def product (xs : List Nat) : Nat := xs.foldl (· * ·) 1

/-- An entry is valid (R115). -/
def mapValid (e : Nat) : Bool :=
  let r := mapRank e
  bit e 32 && mapPlace e != 3 && 1 ≤ r && r ≤ 5 && mapFmt e ≤ 11 &&
    (firstN r (mapDim e)).all (fun d => 1 ≤ d) &&
    (if mapPlace e = 2 then (firstN 5 (mapGrid e)).all (· == 0) && mapNsh e == 1
     else (List.range r).all (fun k => 1 ≤ mapGrid e k && mapGrid e k ≤ mapDim e k) && product (firstN r (mapGrid e)) == mapNsh e) &&
    field e 384 608 == 0 && field e 141 3 == 0 && field e 50 14 == 0 &&
    (List.range 5).all (fun k => k < r || (mapDim e k == 0 && mapGrid e k == 0))

/-- What a read of an entry gives: the entry, a version to be read again (R116), an invalid entry (R115), or a refused access. -/
inductive MapGet where
  | entry (e : Nat)
  | reread
  | invalid
  | refused (va : Nat) (r : Xlat)
  deriving DecidableEq, Repr

/-- One read of an entry at its home (R116). -/
def State.mapRead (s : State) (x id : Nat) : MapGet × State :=
  if 4096 ≤ id then (.invalid, s)
  else
    match s.ctxLoad x (s.ctxReg x 0x008 + 128 * id) 128 with
    | (.error (va, r), s) => (.refused va r, s)
    | (.ok e, s) =>
      if mapVersion e ≠ field e 992 32 then (.reread, s)
      else if mapValid e then (.entry e, s) else (.invalid, s)

/-- An entry as a core, or its tile engine, sees it: a cached copy, or a read that the cache of 64 entries keeps (R108). -/
def State.mapEntry (s : State) (c : Nat) (tile : Bool) (x id : Nat) : MapGet × State :=
  let cache := if tile then (s.core c).tileMaps else (s.core c).maps
  match cache.find? (fun m => m.ctx == x && m.id == id) with
  | some m => (.entry m.entry, s)
  | none =>
    match s.mapRead x id with
    | (.entry e, s) =>
      let k := s.core c
      let m : MapCopy := { ctx := x, id := id, entry := e }
      (.entry e, s.setCore c (if tile then { k with tileMaps := capped 64 (m :: k.tileMaps) } else { k with maps := capped 64 (m :: k.maps) }))
    | r => r

/-! ### Resolve (R117) -/

/-- The row-major index of coordinates in extents, the last dimension fastest. -/
def rowMajor : List Nat → List Nat → Nat
  | xs, ds => (xs.zip ds).foldl (fun a p => a * p.2 + p.1) 0

/-- The coordinates of a row-major index. -/
def unRowMajor (ds : List Nat) (lin : Nat) : List Nat :=
  (ds.reverse.foldl (fun (a : List Nat × Nat) d => ((a.2 % d) :: a.1, a.2 / d)) ([], lin)).1

/-- The byte of an element at an offset from a base, and which half of it a 4-bit element takes (R117, R172). -/
def elemAt (base off fmt : Nat) : Nat × Nat :=
  let b := fmtBits fmt
  if b = 4 then ((base + off / 2) % 2 ^ 64, off % 2) else ((base + off * (b / 8)) % 2 ^ 64, 0)

/-- The shard that holds an element, and its place within the shard, for BLOCK and CYCLIC placement. -/
def shardOf (e : Nat) (xs : List Nat) : Nat × Nat :=
  let r := mapRank e
  let bs := firstN r (fun k => ceilDiv (mapDim e k) (mapGrid e k))
  let at_ (k : Nat) : Nat × Nat :=
    let x := xs.getD k 0; let b := bs.getD k 1
    if mapPlace e = 0 then (x / b, x % b) else (x % mapGrid e k, x / mapGrid e k)
  (rowMajor (firstN r (fun k => (at_ k).1)) (firstN r (mapGrid e)), rowMajor (firstN r (fun k => (at_ k).2)) bs)

/-- What Resolve gives: the byte address with the half of a 4-bit element, the owner's module and region, and the shard. -/
inductive Resolved where
  | at_ (va nib module region shard : Nat)
  | range
  | refused (va : Nat) (r : Xlat)
  /-- The element's own page, whose stripe member is asked for, does not translate (R87, R110). -/
  | data (va : Nat) (r : Xlat)
  deriving DecidableEq, Repr

/-- An owner record (R114): BASE, REGION and MODULE. -/
def State.owner (s : State) (x e i : Nat) : Except (Nat × Xlat) (Nat × Nat × Nat) × State :=
  match s.ctxLoad x ((field e 64 64 + 16 * i) % 2 ^ 64) 16 with
  | (.ok o, s) => (.ok (field o 0 64, field o 64 5, field o 69 5), s)
  | (.error r, s) => (.error r, s)

/-- Resolve(id, x) over an entry (R117). An element of a STRIPE map is placed by its page's own entry: SSET of the map entry is not read, and where the page
has no stripes the element counts as of member 0, module 0, region 0, by the choices of log 96. -/
def State.resolve (s : State) (x e : Nat) (xs : List Nat) : Resolved × State :=
  let r := mapRank e; let ds := firstN r (mapDim e)
  if (List.range r).any (fun k => xs.getD k 0 ≥ mapDim e k) then (.range, s)
  else if mapPlace e = 2 then
    match s.owner x e 0 with
    | (.error (va, q), s) => (.refused va q, s)
    | (.ok (base, _, _), s) =>
      let (va, nib) := elemAt base (rowMajor (xs.take r) ds) (mapFmt e)
      match spaceOf (x / 32) va with
      | .reserved => (.data va (.perm 10 15), s)
      | .stash _ _ => (.data va (.perm 5 15), s)
      | .global =>
        match walkPage x 3 s va with
        | (s, .error (k, l)) => (.data va (.fault k l), s)
        | (s, .ok (g, l)) => (.at_ va nib (paModule (field g.record 12 40 * 4096)) (field g.record 52 5) g.member, setUsed s (x / 32) l false)
  else
    let (sh, off) := shardOf e xs
    match s.owner x e sh with
    | (.error (va, q), s) => (.refused va q, s)
    | (.ok (base, reg, m), s) => let (va, nib) := elemAt base off (mapFmt e); (.at_ va nib m reg sh, s)

end Sys2Proof.Machine
end

