-- ==== Sys2Proof/Machine/Reach.lean ====
section
/-! DEFINITION. The checks of an instruction with per-lane addresses (R266, R268, R271): what each lane's access comes to before any memory is touched. -/

namespace Sys2Proof.Machine

/-- What a lane's checks give: the place with its page's modes, a page fault that parks, or a trap. -/
inductive Reach where
  | ok (p : Place) (wti sysatom : Bool) (va : Nat)
  | park (i : FaultInfo)
  | trap (i : FaultInfo)
  deriving DecidableEq, Repr

/-- The effective address of a lane (R266). -/
def Iss.ea (x : Iss) (w : Warp) (l : Nat) : Nat :=
  match x.i, x.imm with
  | .atom _, _ | .atomc _, _ | .red _, _ | .waitv _, _ | .lmon _, _ | .claim _, _ => x.a64 w l % 2 ^ 64
  | _, .s16 => wrap 64 ((x.a64 w l : Int) + signed 16 (imm16 x.f))
  | _, _ => wrap 64 ((x.a64 w l : Int) + signed 32 (x.b w l))

/-- The fault of a refused access at an address. -/
def Xlat.reach (r : Xlat) (va acc : Nat) (base : FaultInfo) : Reach :=
  let i := { base with cause := r.cause, fva := va, acc := acc, kind := r.where_.1, level := r.where_.2 }
  match r with
  | .fault _ _ => .park i
  | _ => .trap i

/-- The fill of a stash-mapped sector that a load or an atomic touches (R92, R274): refusals reach the lane, with ACC 0. An open lane touches nothing
there: it aborts by its target (R154). -/
def State.reachStash (s : State) (x : Nat) (opened : Bool) (k off n : Nat) (acc : Acc) (ea : Nat) (base : FaultInfo) : Reach × State :=
  let ok : Reach := .ok (.stash k off) false false ea
  match s.stashCheck x k off n with
  | .served g =>
    if acc == .store || opened then (ok, s)
    else
      match s.stashLoad k g off n with
      | (.ok, _, s) => (ok, s)
      | (.fault va kd lv, _, s) => ((Xlat.fault kd lv).reach va 0 base, s)
      | (.perm va kd lv, _, s) => ((Xlat.perm kd lv).reach va 0 base, s)
  | _ => (ok, s)

/-- Alignment, range and translation of one address for an access of a warp, in a lane that may be open (R268, R87, R105). -/
def State.reach (s : State) (c x : Nat) (priv opened : Bool) (ea n align : Nat) (acc : Acc) (base : FaultInfo) : Reach × State :=
  if ea % align ≠ 0 then (.trap { base with cause := 0x06, fva := ea, acc := acc.code }, s)
  else if field ea 57 7 ≠ 0 then (.trap { base with cause := 0x11, fva := ea, acc := acc.code, kind := 10 }, s)
  else
    match s.xlatLane c x ea acc priv with
    | (.ok (.stash k off) _ _ _, s) => s.reachStash x opened k off n acc ea base
    | (.ok p wti sa _, s) => (.ok p wti sa ea, s)
    | (r, s) => (r.reach ea acc.code base, s)

/-- The checks of every listed lane, ascending. -/
def State.reachLanes (s : State) (f : State → Nat → Reach × State) : List Nat → List (Nat × Reach) × State
  | [] => ([], s)
  | l :: t =>
    let (r, s) := f s l
    let (rs, s) := State.reachLanes s f t
    ((l, r) :: rs, s)

/-- The plain address checks of an instruction. -/
def Iss.reachPlain (x : Iss) (w : Warp) (n align : Nat) (acc : Acc) (s : State) (l : Nat) : Reach × State :=
  s.reach x.core (s.ctxOf x.core x.slot) w.privileged (w.isOpen l) (x.ea w l) n align acc { pc := x.pc }

/-- The lanes of checks that trap, with the first one's fault. -/
def reachTraps (rs : List (Nat × Reach)) : List (Nat × FaultInfo) :=
  rs.filterMap (fun r => match r.2 with | .trap i => some (r.1, i) | _ => none)

/-- The lanes of checks that park. -/
def reachParks (rs : List (Nat × Reach)) : List (Nat × FaultInfo) :=
  rs.filterMap (fun r => match r.2 with | .park i => some (r.1, i) | _ => none)

/-- A lane's access that passed every check. -/
structure LaneAt where
  lane : Nat
  place : Place
  wti : Bool
  sysatom : Bool
  va : Nat

/-- The lanes of checks that proceed. -/
def reachOks (rs : List (Nat × Reach)) : List LaneAt :=
  rs.filterMap (fun r => match r.2 with | .ok p w sa va => some { lane := r.1, place := p, wti := w, sysatom := sa, va := va } | _ => none)

/-- The lane mask of some accesses. -/
def maskAt (xs : List LaneAt) : LaneMask := maskOf (xs.map (fun a => a.lane))

/-- The cause that an open lane's access aborts with by where it goes (R154). -/
def remoteCause (c : Nat) (p : Place) : Option Nat :=
  match p with
  | .stash _ _ => some 5
  | .port _ _ => some 4
  | .dom pa => if paModule pa = coreModule c then none else some 4

/-- The open lanes whose target aborts, with the cause (R154). -/
def targetAborts (c : Nat) (w : Warp) (xs : List LaneAt) (cause : Nat) : List Nat :=
  (xs.filter (fun a => w.isOpen a.lane && remoteCause c a.place == some cause)).map (fun a => a.lane)

/-- The frame of every instruction with per-lane addresses (R154, R268): open lanes that the instruction's form aborts leave first; a failing check
traps with the cause of the lowest failing lane and no effect; open lanes whose target lies outside abort; page faults park; `eff` runs for the lanes
that remain. -/
def Iss.memory (x : Iss) (s : State) (unsupported : Bool) (check : Warp → State → Nat → Reach × State)
    (eff : List LaneAt → State → Res) : Res :=
  let w := s.warp x.core x.slot
  let bad := if unsupported then x.openPart w else 0#32
  let (s, go0) := x.abortOpen s 6 bad
  let (rs, s) := s.reachLanes (check w) (lanes (x.part w &&& ~~~bad))
  match reachTraps rs with
  | (_, i) :: _ =>
    let m := maskOf ((reachTraps rs).map Prod.fst)
    .trap { s := s, go := go0 } { x.trapReq i.cause m i with info := { i with pc := x.pc, lanes := m } } true
  | [] =>
    let oks := reachOks rs
    let remote := targetAborts x.core w oks 4; let space := targetAborts x.core w oks 5
    let (s, go1) := x.abortOpen s 4 (maskOf remote)
    let (s, go2) := x.abortOpen s 5 (maskOf space)
    let parks := reachParks rs
    let m := maskOf (parks.map Prod.fst)
    let info : FaultInfo := match parks with | (_, i) :: _ => { i with pc := x.pc, lanes := m } | [] => {}
    let (s, go3, park) := if m = 0#32 then (s, [], 0#32) else s.pageFault x.core x.slot m info
    let rest := oks.filter (fun a => !(remote.contains a.lane) && !(space.contains a.lane))
    let go := go0 ++ go1 ++ go2 ++ go3
    let join (o : Out) : Out :=
      { o with go := sortGo (go ++ o.go), park := park ||| (o.park &&& ~~~(maskOf (go.map Prod.fst))), info := if park = 0#32 then o.info else { info with lanes := park } }
    match eff rest s with
    | .done o => .done (join o)
    | .trap o t mem => .trap (join o) t mem
    | .wait o cause => .wait (join o) cause
    | .placed s => .placed s
    | .stall s =>
      if go.isEmpty && park == 0#32 then .stall s
      else
        let stay := x.e.mask &&& ~~~(maskOf (go.map Prod.fst)) &&& ~~~park
        .done (join { s := s, go := (lanes stay).map (fun l => (l, some x.pc)) })

end Sys2Proof.Machine
end

