-- ==== Sys2Proof/Machine/TxAccess.lean ====
section
/-! DEFINITION. Accesses of open lanes (R153, R167): reads through the logs, writes into them, and the pins of the escalation holder. -/

namespace Sys2Proof.Machine

/-- The lane holds its module's escalation token (R166). -/
def State.holdsToken (s : State) (c slot lane : Nat) : Bool := (s.module (coreModule c)).holder == some (c, slot, lane)

/-- The value that an unlogged transactional read of a word returns: the core's dirty L1 bytes, every other byte from the home (R153). -/
def State.txValue (s : State) (c wa : Nat) : Nat × State :=
  let (h, s) := s.homeRead (some c) (.dom wa) 8
  (s.overDirty c (.dom wa) 8 h, s)

/-- The bit errors that such a read meets (R414): in the L1 where it takes bytes there, at the home where it takes bytes there; the flag says that the
data is bad. -/
def State.txErrors (s : State) (c x wa : Nat) : Bool × State :=
  let m := field ((s.core c).sector wa).dirty.toNat (wa % 256) 8
  let (lost, s) := if m = 0 then (false, s) else s.l1Check c (x % 32) wa
  let (bad, s) := if m = 255 then (false, s) else s.eccRead (coreModule c) (x % 32) 1 (.dom wa) 8
  (lost || bad, s)

/-- The token's holder pins a word that it reads (R167). What its core holds dirty of the word goes to the home first, as R158 has it go at the commit:
from then on every write to the word waits (R168), so that the home keeps what the holder has read (R170, log 80). -/
def State.pinWord (s : State) (c wa : Nat) : State :=
  let s := s.writeBackWord c wa
  let z := s.module (coreModule c)
  s.setModule (coreModule c) { z with pins := if z.pins.contains wa then z.pins else wa :: z.pins }

/-- A lane reads the aligned word at an address (R153): the word with the lane's own writes laid over it. A read that needs a 33rd entry aborts with
OVERFLOW_READ, one that meets an uncorrectable error with FAULT (R156); the second number is FCAUSE. -/
def State.txReadWord (s : State) (c slot x lane wa : Nat) : Except (Nat × Nat) Nat × State :=
  let t := (s.warp c slot).laneTx lane
  let wr := t.writes.find? (fun e => e.pa == wa)
  let mask := match wr with | some e => e.mask.toNat | none => 0
  let pick (v : Nat) : Nat := match wr with | some e => blend 8 mask e.value.toNat v | none => v
  if mask = 255 then (.ok (pick 0), s)
  else
    match t.reads.find? (fun e => e.pa == wa) with
    | some e => (.ok (pick e.value.toNat), s)
    | none =>
      if t.reads.length ≥ 32 then (.error (2, 0), s)
      else
        match s.txErrors c x wa with
        | (true, s) => (.error (9, 0x16), s)
        | (false, s) =>
          let (v, s) := s.txValue c wa
          let w := s.warp c slot
          let t := w.laneTx lane
          let s := s.setWarp c slot (w.setTx lane { t with reads := t.reads ++ [{ pa := wa, value := BitVec.ofNat 64 v, mask := 255#8 }] })
          (.ok (pick v), if s.holdsToken c slot lane then s.pinWord c wa else s)

/-- A lane reads `n` bytes (R153). -/
def State.txRead (s : State) (c slot x lane pa n : Nat) : Except (Nat × Nat) Nat × State :=
  let wa := pa / 8 * 8
  match s.txReadWord c slot x lane wa with
  | (.error k, s) => (.error k, s)
  | (.ok v, s) =>
    if n ≤ 8 then (.ok (field v (8 * (pa - wa)) (8 * n)), s)
    else
      match s.txReadWord c slot x lane (wa + 8) with
      | (.error k, s) => (.error k, s)
      | (.ok u, s) => (.ok (v + u * 2 ^ 64), s)

/-- A lane writes masked bytes of one word into its write log (R153), with a speculative sector in the L1 (R94). -/
def State.txWriteWord (s : State) (c slot lane wa mask v : Nat) : Option State :=
  let t := (s.warp c slot).laneTx lane
  match t.writes.find? (fun e => e.pa == wa) with
  | some e =>
    let e' : TxWord := { pa := wa, value := BitVec.ofNat 64 (blend 8 mask v e.value.toNat), mask := e.mask ||| BitVec.ofNat 8 mask }
    let w := s.warp c slot
    some (s.setWarp c slot (w.setTx lane { t with writes := t.writes.map (fun y => if y.pa = wa then e' else y) }))
  | none =>
    if t.writes.length ≥ 16 then none
    else
      match s.makeRoom c (wa / 1024) with
      | none => none
      | some s =>
        let k := s.core c
        let l := k.lineFor (wa / 1024) false
        let id := slot * 32 + lane
        let s := s.setCore c (k.touchLine { l with spec := if l.spec.contains id then l.spec else id :: l.spec })
        let w := s.warp c slot
        let t := w.laneTx lane
        some (s.setWarp c slot (w.setTx lane { t with writes := t.writes ++ [{ pa := wa, value := BitVec.ofNat 64 (blend 8 mask v 0), mask := BitVec.ofNat 8 mask }] }))

/-- A lane writes `n` bytes (R153); an abort cause where the log or the L1 set is full. -/
def State.txWrite (s : State) (c slot lane pa n v : Nat) : Except Nat State :=
  let wa := pa / 8 * 8
  if n ≤ 8 then
    match s.txWriteWord c slot lane wa (fullMask n * 2 ^ (pa - wa)) (v * 2 ^ (8 * (pa - wa))) with
    | some s => .ok s | none => .error 3
  else
    match s.txWriteWord c slot lane wa 255 (v % 2 ^ 64) with
    | none => .error 3
    | some s => match s.txWriteWord c slot lane (wa + 8) 255 (v / 2 ^ 64) with | some s => .ok s | none => .error 3

/-- An atomic of an open lane: a logged read followed by a logged write (R153). -/
def State.txRmw (s : State) (c slot x lane pa : Nat) (r : Rmw) (b v : Nat) : Except (Nat × Nat) Nat × State :=
  match s.txRead c slot x lane pa r.width with
  | (.error k, s) => (.error k, s)
  | (.ok o, s) =>
    match r.apply o b v with
    | (none, res) => (.ok res, s)
    | (some n, res) => match s.txWrite c slot lane pa r.width n with | .ok s => (.ok res, s) | .error k => (.error (k, 0), s)

end Sys2Proof.Machine
end

