-- ==== Sys2Proof/Machine/Loads.lean ====
section
/-! DEFINITION. Loads and stores (R270, R271), the values under way to their registers (R28, R356), and their late faults (R90, R268, R420). -/

namespace Sys2Proof.Machine

/-! ### Ordering (R267, R269, R283) -/

/-- The scope at which an access acquires: its own, or the pending acquire of a fence (R135); below 3 it needs no invalidation (R132). -/
def acqScope (own : Nat) (w : Warp) : Nat := max own (w.acq.getD 0)
/-- The scope at which an access releases: its own, or the release that a fence left to it (R283). -/
def relScope (own : Nat) (w : Warp) : Nat := max own (w.rel.getD 0)
/-- Scope of a load: C3 under .acq. -/
def Iss.ownAcq (x : Iss) : Nat := if x.f.rm = 1#2 then x.f.c3.toNat else 0
/-- Scope of a store: C3 under .rel. -/
def Iss.ownRel (x : Iss) : Nat := if x.f.rm = 2#2 then x.f.c3.toNat else 0

/-! ### One lane's read -/

/-- What one lane's access comes to. -/
inductive Got where
  | val (v : Nat)
  /-- The access waits: for another module's answer, or for a halted peer group. -/
  | remote | held
  /-- A trap decided at the target (R90, R268, R414). -/
  | trap (i : FaultInfo)
  /-- A vanished stash range (R90), and a page that has left its module for good (R122). -/
  | gone | stale
  /-- A page fault at the fill of a stash-mapped sector, met when a held access is served (R92, R274). -/
  | park (i : FaultInfo)
  /-- A transaction aborts, with CAUSE and FCAUSE. -/
  | abort (cause fcause : Nat)
  deriving DecidableEq, Repr

/-- The L1 of a core serves a read without its home. -/
def Core.hits (k : Core) (pa n : Nat) : Bool := (k.sector pa).full || (k.sector pa).allDirty (pa % 256) n

/-- A place lies in domain memory of another module. -/
def remoteTo (c : Nat) (p : Place) : Bool := match p with | .dom pa => paModule pa != coreModule c | _ => false

/-- The answer of a module that does not serve the context for the requesting module (R379). -/
def refusedModule (lane va acc : Nat) : Got := .trap { cause := 0x11, fva := va, lanes := 1#32 <<< lane, acc := acc, kind := 10 }

/-- What a refused fill comes to in a lane (R274): PERMISSION traps, PAGE_FAULT parks. -/
def MapReply.got (r : MapReply) (lane acc : Nat) : Got :=
  match r with
  | .ok => .val 0
  | .fault va k l => .park { cause := 0x10, fva := va, lanes := 1#32 <<< lane, acc := acc, kind := k, level := l }
  | .perm va k l => .trap { cause := 0x11, fva := va, lanes := 1#32 <<< lane, acc := acc, kind := k, level := l }

/-- Reads a place that answers now, with the acquire where one is due (R95, R134, R135, R269, R414). -/
def State.readNow (s : State) (c slot x lane : Nat) (p : Place) (wti : Bool) (n acq va : Nat) : Got × State :=
  let bad : Got := .trap { cause := 0x16, fva := va, lanes := 1#32 <<< lane, acc := 0 }
  match p with
  | .stash k off =>
    match s.stashCheck x k off n with
    | .served g =>
      match s.eccRead (coreModule c) (x % 32) 1 p n with
      | (true, s) => (bad, s)
      | (false, s) =>
        match s.stashLoad k g off n with
        | (.ok, v, s) => (.val (overlay (s.warp c slot).storeq p n v), if 3 ≤ acq then s.acquire c p acq else s)
        | (r, _, s) => (r.got lane 0, s)
    | .denied => (.trap { cause := 0x11, fva := va, lanes := 1#32 <<< lane, acc := 0, kind := 10 }, s)
    | .heldBack => (.held, s)
    | _ => (.gone, s)
  | .dom pa =>
    if acq < 3 && (s.core c).hits pa n then
      match s.l1Check c (x % 32) pa with
      | (true, s) => (bad, s)
      | (false, s) =>
        let (v, s) := s.readMem c slot p wti n
        (.val v, s)
    else if s.engineOwns (pa / 1024) then (.held, s)
    else
      let s := s.syncLine c p
      match s.eccRead (coreModule c) (x % 32) 1 p n with
      | (true, s) => (bad, s)
      | (false, s) =>
        if 3 ≤ acq then
          let (v, s) := s.homeRead (some c) p n
          (.val (overlay (s.warp c slot).storeq p n (s.overDirty c p n v)), s.acquire c p acq)
        else if s.eccAt (.dom (pa / 256 * 256)) 256 = .double then
          let (v, s) := s.homeRead (some c) p n
          (.val (overlay (s.warp c slot).storeq p n (s.overDirty c p n v)), s)
        else
          let (v, s) := s.readMem c slot p wti n
          (.val v, s)
  | .port _ _ =>
    let (v, s) := s.homeRead (some c) p n
    (.val (overlay (s.warp c slot).storeq p n v), if 3 ≤ acq then s.acquire c p acq else s)

/-- One lane's load: transactional in an open lane (R153), a request to another module (R121), or a read that answers now. -/
def State.loadLane (s : State) (c slot x n acq : Nat) (a : LaneAt) : Got × State :=
  if (s.warp c slot).isOpen a.lane then
    match a.place with
    | .dom pa =>
      match (s.drain c slot).txRead c slot x a.lane pa n with
      | (.ok v, s) => (.val v, if 3 ≤ acq then s.acquire c a.place acq else s)
      | (.error k, s) => (.abort k.1 k.2, s)
    | _ => (.abort 5 0, s)
  else if remoteTo c a.place && !(acq < 3 && (match a.place with | .dom pa => (s.core c).hits pa n | _ => false)) then (.remote, s)
  else s.readNow c slot x a.lane a.place a.wti n acq a.va

/-! ### Records of accesses under way -/

/-- An instruction's lanes gathered into one record (R356), with the lanes that leave it. -/
structure Gather where
  s : State
  r : InFlight
  gone : LaneMask := 0#32
  stale : LaneMask := 0#32
  /-- Lanes that meet a page fault at a fill, and the first one's fault. -/
  parks : LaneMask := 0#32
  park : FaultInfo := {}
  /-- Aborted lanes, each with CAUSE and FCAUSE. -/
  aborts : List (Nat × Nat × Nat) := []

/-- Adds one lane's outcome. `ext` makes a register value of what was read; `b` and `d` are an atomic's operands. -/
def Gather.add (g : Gather) (a : LaneAt) (got : Got) (s : State) (ext : Nat → Nat) (b d : Nat) : Gather :=
  let m := 1#32 <<< a.lane
  let r := { g.r with addr := SMap.set 0 g.r.addr a.lane a.va, data := SMap.set 0 g.r.data a.lane b, data2 := SMap.set 0 g.r.data2 a.lane d }
  let wait := { r with place := SMap.set none r.place a.lane (some a.place), wti := if a.wti then r.wti ||| m else r.wti,
                       sysatom := if a.sysatom then r.sysatom ||| m else r.sysatom }
  match got with
  | .val v => { g with s := s, r := { r with pend := r.pend ||| m, val := SMap.set 0 r.val a.lane (ext v) } }
  | .remote => { g with s := s, r := { wait with pend := r.pend ||| m, unperformed := r.unperformed ||| m, remote := r.remote ||| m } }
  | .held => { g with s := s, r := { wait with pend := r.pend ||| m, unperformed := r.unperformed ||| m } }
  | .trap i => { g with s := s, r := { r with trapLanes := r.trapLanes ||| m, trap := if r.trapLanes = 0#32 then i else r.trap } }
  | .gone => { g with s := s, r := wait, gone := g.gone ||| m }
  | .stale => { g with s := s, r := wait, stale := g.stale ||| m }
  | .park i => { g with s := s, r := wait, parks := g.parks ||| m, park := if g.parks = 0#32 then i else g.park }
  | .abort k f => { g with s := s, aborts := g.aborts ++ [(a.lane, k, f)] }

/-- Gathers listed lanes. -/
def Gather.run (g : Gather) (f : State → LaneAt → Got × State) (ext : Nat → Nat) (b d : Nat → Nat) : List LaneAt → Gather
  | [] => g
  | a :: t => let (got, s) := f g.s a; Gather.run (g.add a got s ext (b a.lane) (d a.lane)) f ext b d t

/-- Aborts gathered lanes, each with its CAUSE and FCAUSE. -/
def State.abortEach (s : State) (c slot : Nat) : List (Nat × Nat × Nat) → State
  | [] => s
  | (l, k, f) :: t => State.abortEach (s.abortLane c slot l k f 0) c slot t

/-- Lanes of a record whose access met a fault after the issuing entry had moved on wait to be parked (R420). -/
def Warp.addLateFault (w : Warp) (r : InFlight) (m : LaneMask) (i : FaultInfo) : Warp :=
  let fault : FaultInfo := { i with pc := r.pc, lanes := m }
  { w with targetFaults := w.targetFaults ++ [{ r with pend := m, trapLanes := 0#32, unperformed := m, remote := 0#32, fault := fault }] }

/-- Lanes of a record whose access faulted at its target (R420). -/
def Warp.addTargetFault (w : Warp) (r : InFlight) (m : LaneMask) (cause kind acc : Nat) : Warp :=
  w.addLateFault r m { cause := cause, fva := SMap.get 0 r.addr ((lowestLane m).getD 0), acc := acc, kind := kind }

/-- Puts a gathered record under way: destinations become empty (R28), lanes of a vanished target wait for their fault (R420), aborted lanes leave. -/
def Iss.launch (x : Iss) (g : Gather) (acc : Nat) : Res :=
  let s := g.s
  let w := s.warp x.core x.slot
  let go := g.aborts.map (fun y => (y.1, some (w.laneTx y.1).txe))
  let s := s.abortEach x.core x.slot g.aborts
  let w := s.warp x.core x.slot
  let r : InFlight := { g.r with txLanes := filterMask g.r.pend w.isOpen, issued := (s.core x.core).clock.toNat }
  let w := if r.width = 0 then w else w.markEmptyRun r.dst (r.pend ||| r.trapLanes ||| g.gone ||| g.stale ||| g.parks) r.regs
  let w := if r.pend ≠ 0#32 then { w with inflight := w.inflight ++ [r] } else if r.trapLanes ≠ 0#32 then w.recordTraps r else w
  let lateFault (m : LaneMask) (cause kind : Nat) (w : Warp) : Warp := if m = 0#32 then w else w.addTargetFault r m cause kind acc
  let w := lateFault g.stale 0x10 6 (lateFault g.gone 0x12 7 (if g.parks = 0#32 then w else w.addLateFault r g.parks g.park))
  .done { s := s.setWarp x.core x.slot w, go := sortGo go }

/-- An empty record of this instruction. -/
def Iss.record (x : Iss) (width : Nat) (late : Bool) (acq rel : Nat) : InFlight :=
  { insn := x.insn, len := x.len, pc := x.pc, late := late, uniform := false, dreg := x.f.rd.toNat, width := width, pend := 0#32, acq := acq, rel := rel }

/-- The fence's pending acquire is consumed by the first access that reads memory (R135), its release by the next store or atomic (R283). -/
def State.clearFence (s : State) (c slot : Nat) (acq rel : Bool) : State :=
  let w := s.warp c slot
  if (acq && w.acq.isSome) || (rel && w.rel.isSome) then
    s.setWarp c slot { w with acq := if acq then none else w.acq, rel := if rel then none else w.rel }
  else s

/-- An open lane's read would reach the home of a line that an engine owns (R142): the instruction waits. -/
def Iss.txHeld (x : Iss) (s : State) (n : Nat) (oks : List LaneAt) : Bool :=
  oks.any (fun a => (s.warp x.core x.slot).isOpen a.lane && (match a.place with
    | .dom pa => s.engineOwns (pa / 1024) && !(s.core x.core).hits pa n
    | _ => false))

/-- A load of `n` bytes by the lanes that passed their checks (R270). -/
def Iss.loadEff (x : Iss) (n : Nat) (ext : Nat → Nat) (oks : List LaneAt) (s : State) : Res :=
  if oks.isEmpty then .done { s := s }
  else if x.txHeld s n oks then .stall s
  else
    let acq := acqScope x.ownAcq (s.warp x.core x.slot)
    let s := s.clearFence x.core x.slot true false
    let cx := s.ctxOf x.core x.slot
    let g : Gather := { s := s, r := x.record (max n 4) false acq 0 }
    x.launch (g.run (fun s a => s.loadLane x.core x.slot cx n acq a) ext (fun _ => 0) (fun _ => 0) oks) 0

/-! ### Stores (R270) -/

/-- Stores of listed lanes enter the queue, ascending, so that the highest lane's bytes stay (R91, R100); those of a release go to their homes with its
signature (R134 step 4). Aborts of full logs are returned. -/
def State.storeEach (s : State) (c slot rel insn len pc n : Nat) (data : Nat → Nat) : List LaneAt → List (Nat × Nat × Nat) → State × List (Nat × Nat × Nat)
  | [], ab => (s, ab)
  | a :: t, ab =>
    let o := storeOp c a.lane a.place a.wti n (data a.lane) a.va insn len pc
    if (s.warp c slot).isOpen a.lane then
      match a.place with
      | .dom pa =>
        match s.txWrite c slot a.lane pa n (data a.lane) with
        | .ok s => State.storeEach (if 3 ≤ rel then s.attach a.place ((s.core c).sigOf rel) rel else s) c slot rel insn len pc n data t ab
        | .error k => State.storeEach s c slot rel insn len pc n data t (ab ++ [(a.lane, k, 0)])
      | _ => State.storeEach s c slot rel insn len pc n data t ab
    else
      let o := { o with issued := (s.core c).clock.toNat, rel := rel, uncached := o.uncached || 3 ≤ rel }
      State.storeEach (s.enqueue c slot o) c slot rel insn len pc n data t ab

/-- A releasing access may not yet reach one of the words that it names (R168). -/
def Iss.relPinned (x : Iss) (s : State) (rel n : Nat) (oks : List LaneAt) : Bool :=
  3 ≤ rel && oks.any (fun a => s.keptFrom x.core x.slot a.lane a.place n)

/-- Runs the rest of a releasing access at a scope: at .rg or wider after the steps of the release. -/
def Iss.releaseAt (x : Iss) (s : State) (rel n : Nat) (oks : List LaneAt) (k : State → Res) : Res :=
  if x.relPinned s rel n oks then .stall s else if 3 ≤ rel then x.release s rel (maskOf (oks.map LaneAt.lane)) k else k s

/-- What a store leaves: a releasing one is performed at once (R134 step 4), and the lanes whose logs are full abort. -/
def Iss.storeDone (x : Iss) (rel : Nat) (r : State × List (Nat × Nat × Nat)) : Res :=
  let s := if 3 ≤ rel then r.1.drain x.core x.slot else r.1
  let w := s.warp x.core x.slot
  .done { s := s.abortEach x.core x.slot r.2, go := sortGo (r.2.map (fun y => (y.1, some (w.laneTx y.1).txe))) }

/-- A store of `n` bytes by the lanes that passed their checks (R134, R270). -/
def Iss.storeEff (x : Iss) (n : Nat) (data : Nat → Nat) (oks : List LaneAt) (s : State) : Res :=
  if oks.isEmpty then .done { s := s }
  else
    let rel := relScope x.ownRel (s.warp x.core x.slot)
    x.releaseAt s rel n oks (fun s =>
      let s := s.clearFence x.core x.slot false true
      x.storeDone rel (s.storeEach x.core x.slot rel x.insn x.len x.pc n data oks []))

/-- A loaded value as its registers hold it (R270): .i8 and .i16 are sign-extended. -/
def extendTy (ty v : Nat) : Nat := if ty = 8 then sextNat 8 32 v else if ty = 9 then sextNat 16 32 v else v

/-- An ordered access aborts an open lane (R154). -/
def Iss.ordered (x : Iss) : Bool := x.f.rm != 0#2

/-- `LD` (R270). -/
def execLd (f : Form64) (s : State) : Host.Outcome State Fault Refusal :=
  runCore (.ld f) (fun x s =>
    let n := tyBytes x.f.ty.toNat
    x.memory s x.ordered (fun w => x.reachPlain w n n .load) (x.loadEff n (extendTy x.f.ty.toNat))) s

/-- `ST` (R270). -/
def execSt (f : Form64) (s : State) : Host.Outcome State Fault Refusal :=
  runCore (.st f) (fun x s =>
    let n := tyBytes x.f.ty.toNat; let w := s.warp x.core x.slot
    x.memory s x.ordered (fun w => x.reachPlain w n n .store)
      (x.storeEff n (fun l => w.getRun x.rd l (tyRegs x.f.ty.toNat) % 2 ^ (8 * n)))) s

/-! ### Accesses through a shard map (R271) -/

/-- The map id of a lane. -/
def Iss.mapId (x : Iss) (w : Warp) (l : Nat) : Nat := if x.imm = .reg then x.b w l else imm16 x.f

/-- Bytes of an element that LDX and STX carry. -/
def mapBytes (e : Nat) : Nat := fmtBits (mapFmt e) / 8

/-- The coordinates of a lane. -/
def Iss.coords (x : Iss) (w : Warp) (l r : Nat) : List Nat := firstN r (fun k => (w.get (x.r1.plus k) l).toNat)

/-- The checks of one lane of LDX or STX, in the order of R271 and R268. -/
def Iss.reachMap (x : Iss) (acc : Acc) (w : Warp) (s : State) (l : Nat) : Reach × State :=
  let cx := s.ctxOf x.core x.slot; let id := x.mapId w l
  match s.mapEntry x.core false cx id with
  | (.invalid, s) => (.trap { cause := 0x14, pc := x.pc, acc := 6, kind := 9, mapid := id }, s)
  | (.reread, s) => (.trap { cause := 0x14, pc := x.pc, acc := 6, kind := 9, mapid := id }, s)
  | (.refused va r, s) => (r.reach va 6 { pc := x.pc, mapid := id }, s)
  | (.entry e, s) =>
    let r := mapRank e
    let xs := x.coords w l r
    let base : FaultInfo := { pc := x.pc, mapid := id, mapver := mapVersion e, coord := xs, acc := acc.code }
    if mapFmt e = 10 ∧ x.f.rd.toNat % 2 = 1 then (.trap { base with cause := 0x02 }, s)
    else if !runAllotted (s.groupOf x.core x.slot).allot x.r1 r || (mapFmt e == 10 && !runAllotted (s.groupOf x.core x.slot).allot x.rd 2) then
      (.trap { base with cause := 0x03 }, s)
    else if !([0, 1, 2, 3, 4, 7, 10, 11] : List Nat).contains (mapFmt e) then (.trap { base with cause := 0x41 }, s)
    else
      match s.resolve cx e xs with
      | (.range, s) => (.trap { base with cause := 0x13, kind := 8 }, s)
      | (.refused va q, s) => (q.reach va 6 base, s)
      | (.data va q, s) => (q.reach va acc.code base, s)
      | (.at_ va _ _ _ _, s) =>
        match s.reach x.core cx w.privileged (w.isOpen l) va (mapBytes e) (mapBytes e) acc base with
        | (.ok p wti sa ea, s) =>
          match s.xlatLane x.core cx va acc w.privileged with
          | (.ok _ _ _ true, s) => (.ok p wti sa ea, s)
          | (_, s) => (.trap { base with cause := 0x11, fva := va, kind := 5 }, s)
        | r => r

/-- Some participating lane's map entry is being rewritten (R116): the instruction reads it again later. -/
def Iss.mapWaits (x : Iss) (s : State) : Bool :=
  let w := s.warp x.core x.slot; let cx := s.ctxOf x.core x.slot
  (lanes (x.part w)).any (fun l => match (s.mapEntry x.core false cx (x.mapId w l)).1 with | .reread => true | _ => false)

/-- The entry of a participating lane's map, if it can be had. -/
def Iss.anyEntry (x : Iss) (s : State) (l : Nat) : Option Nat :=
  match (s.mapEntry x.core false (s.ctxOf x.core x.slot) (x.mapId (s.warp x.core x.slot) l)).1 with | .entry e => some e | _ => none

/-- Lanes of the entry in which a coordinate, or the second register of an f64, is empty (R28): the length of the run is known at execution only. -/
def Iss.mapEmpty (x : Iss) (s : State) : LaneMask × LaneMask :=
  let w := s.warp x.core x.slot
  let coord := filterMask (x.part w) (fun l => match x.anyEntry s l with
    | some e => w.emptyLanes x.r1 (1#32 <<< l) (mapRank e) != 0#32 | none => false)
  let data := filterMask (x.part w) (fun l => match x.anyEntry s l with
    | some e => mapFmt e == 10 && w.emptyLanes x.rd (1#32 <<< l) 2 != 0#32 | none => false)
  (coord, data)

/-- The element size that a lane accesses. -/
def Iss.mapSize (x : Iss) (s : State) (l : Nat) : Nat := match x.anyEntry s l with | some e => mapBytes e | none => 4

/-- Runs LDX or STX once its run-time operands are full (R28, R209). -/
def Iss.mapped (x : Iss) (s : State) (eff : Res) : Res :=
  let (coord, data) := x.mapEmpty s
  if x.mapWaits s then .stall s
  else if x.f.te.getLsbD 2 ∧ coord ≠ 0#32 then x.trap s 0x04 coord
  else if (coord ||| data) ≠ 0#32 then .stall (x.showEmpty s)
  else eff

/-- A loaded element as its registers hold it (R271): i8 is sign-extended. -/
def extendFmt (fmt v : Nat) : Nat := if fmt = 7 then sextNat 8 32 v else v

/-- The load of LDX: lanes of one format together; a lane's element may differ in size from another's only where their maps differ. -/
def Iss.loadMapped (x : Iss) (size fmt : Nat → Nat) (oks : List LaneAt) (s : State) : Res :=
  if oks.isEmpty then .done { s := s }
  else if x.txHeld s 8 oks then .stall s
  else
    let acq := acqScope x.ownAcq (s.warp x.core x.slot)
    let s := s.clearFence x.core x.slot true false
    let cx := s.ctxOf x.core x.slot
    let wide := oks.any (fun a => size a.lane == 8)
    let g : Gather := { s := s, r := x.record (if wide then 8 else 4) false acq 0 }
    let one (g : Gather) (a : LaneAt) : Gather :=
      let (got, s) := g.s.loadLane x.core x.slot cx (size a.lane) acq a
      let hi := if wide && size a.lane != 8 then ((s.warp x.core x.slot).get (x.rd.plus 1) a.lane).toNat * 2 ^ 32 else 0
      g.add a got s (fun v => extendFmt (fmt a.lane) v + hi) (size a.lane) (fmt a.lane)
    x.launch (oks.foldl one g) 0

/-- `LDX` (R271). -/
def execLdx (f : Form64) (s : State) : Host.Outcome State Fault Refusal :=
  runCore (.ldx f) (fun x s => x.mapped s (
    let size := x.mapSize s; let fmt := fun l => match x.anyEntry s l with | some e => mapFmt e | none => 0
    x.memory s x.ordered (fun w => x.reachMap .load w) (x.loadMapped size fmt))) s

/-- `STX` (R271). -/
def execStx (f : Form64) (s : State) : Host.Outcome State Fault Refusal :=
  runCore (.stx f) (fun x s => x.mapped s (
    let w := s.warp x.core x.slot; let size := x.mapSize s
    let data := fun l => w.getRun x.rd l (if size l = 8 then 2 else 1) % 2 ^ (8 * size l)
    x.memory s x.ordered (fun w => x.reachMap .store w) (fun oks s =>
      if oks.isEmpty then .done { s := s }
      else
        let rel := relScope x.ownRel (s.warp x.core x.slot)
        x.releaseAt s rel 8 oks (fun s =>
          let s := s.clearFence x.core x.slot false true
          x.storeDone rel (oks.foldl (fun (r : State × List (Nat × Nat × Nat)) a =>
            r.1.storeEach x.core x.slot rel x.insn x.len x.pc (size a.lane) data [a] r.2) (s, [])))))) s

end Sys2Proof.Machine
end

