-- ==== Sys2Proof/Machine/Atomics.lean ====
section
/-! DEFINITION. Atomics (R144 to R147, R276 to R279) and chunk claims (R31, R287). -/

namespace Sys2Proof.Machine

/-! ### Where an atomic executes (R144) -/

/-- At the home of its place: a home slice, another module's hub, or a port agent. -/
def State.homeRmw (s : State) (c slot x lane : Nat) (r : Rmw) (p : Place) (b d va : Nat) : Got × State :=
  let s := s.syncLine c p
  match s.eccRead (coreModule c) (x % 32) 1 p r.width with
  | (true, s) => (.trap { cause := 0x16, fva := va, lanes := 1#32 <<< lane, acc := 2 }, s)
  | (false, s) =>
    let s := s.recall none p
    let (o, s) := s.homeRead (some c) p r.width
    match r.apply o b d with
    | (some n, v) => (.val v, s.homeStore c slot p r.width n)
    | (none, v) => (.val v, s)

/-- In the issuing core's L1, after exclusive ownership is registered (R144, R145) and partials of the line are merged (R147); at the home slice where
the set has no way (R94). -/
def State.l1Rmw (s : State) (c slot x lane : Nat) (r : Rmw) (pa b d va : Nat) : Got × State :=
  match s.makeRoom c (pa / 1024) with
  | none => s.homeRmw c slot x lane r (.dom pa) b d va
  | some s =>
    let n := sliceOf pa; let line := pa / 1024
    let parts := (s.slice n).partials.any (fun p => p.2.1 / 1024 == line)
    let owned := SMap.get none (s.slice n).owner line == some c && (s.core c).hits pa r.width && !parts
    match (if owned then s.l1Check c (x % 32) pa else s.eccRead (coreModule c) (x % 32) 1 (.dom pa) r.width) with
    | (true, s) => (.trap { cause := 0x16, fva := va, lanes := 1#32 <<< lane, acc := 2 }, s)
    | (false, s) =>
      let owned := owned && (s.core c).hits pa r.width
      let s := if owned then s
        else
          let s := s.recall (some c) (.dom pa)
          let (h, s) := s.homeRead (some c) (.dom (pa - pa % 256)) 256
          let s := s.setSlice n { s.slice n with owner := SMap.set none (s.slice n).owner line (some c) }
          s.setCore c ((s.core c).putSector pa false (((s.core c).sector pa).invalidate.fill h))
      let k := s.core c
      let o := (k.sector pa).bytes (pa % 256) r.width
      match r.apply o b d with
      | (some v, res) => (.val res, s.setCore c ((k.putSector pa false ((k.sector pa).store (pa % 256) r.width v true)).noteWrite (pa / 256)))
      | (none, res) => (.val res, s)

/-- At a stash unit (R144). -/
def State.stashRmw (s : State) (c slot x lane : Nat) (r : Rmw) (k off b d va : Nat) : Got × State :=
  match s.stashCheck x k off r.width with
  | .served g =>
    match s.eccRead (coreModule c) (x % 32) 1 (.stash k off) r.width with
    | (true, s) => (.trap { cause := 0x16, fva := va, lanes := 1#32 <<< lane, acc := 2 }, s)
    | (false, s) =>
      match s.stashLoad k g off r.width with
      | (.ok, o, s) =>
        (match r.apply o b d with
         | (some n, v) => (.val v, s.stashStore (some (c, slot)) k g off r.width n)
         | (none, v) => (.val v, s))
      | (q, _, s) => (q.got lane 0, s)
  | .denied => (.trap { cause := 0x11, fva := va, lanes := 1#32 <<< lane, acc := 2, kind := 10 }, s)
  | .heldBack => (.held, s)
  | _ => (.gone, s)

/-- Executes an atomic where R144 places it, with the acquire that is due and the signature of a release. -/
def State.rmwNow (s : State) (c slot x lane : Nat) (r : Rmw) (p : Place) (home : Bool) (acq rel b d va : Nat) : Got × State :=
  let (got, s) := match p with
    | .stash k off => s.stashRmw c slot x lane r k off b d va
    | .dom pa => if home || remoteTo c p then s.homeRmw c slot x lane r p b d va else s.l1Rmw c slot x lane r pa b d va
    | .port _ _ => s.homeRmw c slot x lane r p b d va
  match got with
  | .val v =>
    let s := if 3 ≤ rel then s.attach p ((s.core c).sigOf rel) rel else s
    (.val v, if 3 ≤ acq then s.acquire c p acq else s)
  | g => (g, s)

/-- An atomic on a word of host memory whose page has SYSATOM = 0 is a read followed by a write: what it reads is remembered, for a host update may
fall between the two (R144, R150). -/
def State.noteHostRmw (s : State) (p : Place) (n : Nat) (sysatom : Bool) : State :=
  match p with
  | .port m pa =>
    if sysatom || bit pa 50 then s else s.setModule m { s.module m with hostRmw := some (memKey p, n, readBytes s.mem (memKey p) n) }
  | _ => s

/-- The type and place checks that give ATOMIC_UNSUPPORTED (R144, R268, R277, R287). -/
def rmwSupported (c : Nat) (r : Rmw) (p : Place) (sysatom : Bool) : Bool :=
  match r with
  | .claim => (match p with | .dom _ => true | _ => false)
  | .cas _ => true
  | .atom op fl _ =>
    match p with
    | .stash k _ => !fl || k == c
    | .dom pa => !fl || paModule pa == coreModule c
    | .port _ pa => !fl && (!sysatom || bit pa 50 || op == 0 || op == 6)

/-- The checks of one lane of an atomic: those of an access, then support (R268 check 5); an open lane aborts by its target instead (R154). -/
def Iss.reachRmw (x : Iss) (r : Rmw) (w : Warp) (s : State) (l : Nat) : Reach × State :=
  match x.reachPlain w r.width r.width .atomic s l with
  | (.ok p wti sa va, s) =>
    if w.isOpen l || rmwSupported x.core r p sa then (.ok p wti sa va, s)
    else (.trap { cause := 0x20, pc := x.pc, fva := va, acc := 2 }, s)
  | (.trap i, s) => (.trap (if r = .claim ∧ i.cause = 0x11 ∧ i.kind = 2 then { i with cause := 0x20 } else i), s)
  | q => q

/-- An atomic must wait for a word that another lane pins (R168) or whose line an engine owns (R142), or for its warp's own earlier stores. -/
def Iss.rmwWaits (x : Iss) (s : State) (rel n : Nat) (oks : List LaneAt) : Bool :=
  x.relPinned s rel n oks ||
    oks.any (fun a => (s.warp x.core x.slot).isOpen a.lane && (match a.place with | .dom pa => s.engineOwns (pa / 1024) | _ => false)) ||
    oks.any (fun a => !(s.warp x.core x.slot).isOpen a.lane &&
      (s.keptFrom x.core x.slot a.lane a.place n || (s.warp x.core x.slot).storeq.any (fun o => placesMeet o.place o.size a.place n)))

/-- One lane of an atomic with return. -/
def State.rmwLane (s : State) (c slot x : Nat) (r : Rmw) (home : Bool) (acq rel : Nat) (b d : Nat → Nat) (a : LaneAt) : Got × State :=
  if (s.warp c slot).isOpen a.lane then
    match a.place with
    | .dom pa =>
      match s.txRmw c slot x a.lane pa r (b a.lane) (d a.lane) with
      | (.ok v, s) =>
        let s := if 3 ≤ rel then s.attach a.place ((s.core c).sigOf rel) rel else s
        (.val v, if 3 ≤ acq then s.acquire c a.place acq else s)
      | (.error k, s) => (.abort k.1 k.2, s)
    | _ => (.abort 5 0, s)
  else if remoteTo c a.place then (.remote, s)
  else (s.noteHostRmw a.place r.width a.sysatom).rmwNow c slot x a.lane r a.place (home || a.wti) acq rel (b a.lane) (d a.lane) a.va

/-- A lane's atomic executes outside the issuing core's L1 (R144): at a stash unit, a home slice or another module. -/
def State.outsideL1 (s : State) (c : Nat) (home : Bool) (a : LaneAt) : Bool :=
  match a.place with
  | .dom pa => home || a.wti || remoteTo c a.place || (s.makeRoom c (pa / 1024)).isNone
  | _ => true

/-- The lanes that aim at one element outside the L1 with a floating-point add, whose operands the warp folds into one atomic (R146); none for the
operations whose fold equals their turn one by one. -/
def State.mates (s : State) (c slot : Nat) (r : Rmw) (home : Bool) (oks : List LaneAt) (a : LaneAt) : List Nat :=
  match r with
  | .atom 0 true _ =>
    let folds (y : LaneAt) : Bool := !(s.warp c slot).isOpen y.lane && s.outsideL1 c home y
    if folds a then (oks.filter (fun y => y.place == a.place && folds y)).map (fun y => y.lane) else [a.lane]
  | _ => [a.lane]

/-- The new value of an element under one more operand. -/
def Rmw.chain (r : Rmw) (o b : Nat) : Nat := match r with | .atom op fl ty => atomNew op fl ty o b | _ => o

/-- Gathers an atomic's lanes, ascending. The first of lanes that fold performs the one atomic with their operands' chain, rounded at each step; what the
others receive is rebuilt by a prefix over the lanes, as if they had executed one by one (R146). -/
def Gather.runAtomic (g : Gather) (r : Rmw) (mates : LaneAt → List Nat) (f : State → LaneAt → (Nat → Nat) → Got × State) (b d : Nat → Nat) : List LaneAt → Gather
  | [] => g
  | a :: t =>
    let ls := mates a
    let (got, s) := match (ls.filter (fun l => l < a.lane)).getLast? with
      | some p => if g.r.pend.getLsbD p && !g.r.unperformed.getLsbD p then (.val (r.chain (SMap.get 0 g.r.val p) (b p)), g.s) else f g.s a b
      | none => f g.s a (fun l => (ls.filter (fun k => l < k)).foldl (fun v k => r.chain v (b k)) (b l))
    Gather.runAtomic (g.add a got s id (b a.lane) (d a.lane)) r mates f b d t

/-- The effect of an atomic with return in the lanes that passed their checks (R277, R278, R287). -/
def Iss.rmwEff (x : Iss) (r : Rmw) (b d : Nat → Nat) (oks : List LaneAt) (s : State) : Res :=
  if oks.isEmpty then .done { s := s }
  else
    let s := s.drain x.core x.slot
    let w := s.warp x.core x.slot
    let acq := if r = .claim then acqScope 0 w else acqScope x.ownAcq w
    let rel := if r = .claim then relScope 0 w else relScope x.ownRel w
    if x.rmwWaits s rel r.width oks then .stall s
    else x.releaseAt s rel r.width oks (fun s =>
      let s := s.clearFence x.core x.slot true true
      let home := r = .claim || x.f.rm == 3#2 || 3 ≤ acq || 3 ≤ rel
      let g : Gather := { s := s, r := x.record r.result true acq rel }
      x.launch (g.runAtomic r (s.mates x.core x.slot r home oks) (fun s a b => s.rmwLane x.core x.slot (s.ctxOf x.core x.slot) r home acq rel b d a) b d oks) 2)

/-- The operation that ATOM and RED name in their x field (R267, R276). -/
def Iss.atomOf (x : Iss) : Rmw := .atom (field x.f.rs3.toNat 0 4) (bit x.f.rs3.toNat 4) x.f.ty.toNat

/-- An operand of an atomic in a lane. -/
def Iss.operand (x : Iss) (w : Warp) (r : RegRef) (l : Nat) : Nat := w.getRun r l (tyRegs x.f.ty.toNat)

/-- `ATOM` (R276, R277). -/
def execAtom (f : Form64) (s : State) : Host.Outcome State Fault Refusal :=
  runCore (.atom f) (fun x s =>
    let w := s.warp x.core x.slot
    x.memory s x.ordered (x.reachRmw x.atomOf) (x.rmwEff x.atomOf (x.operand w x.r2) (fun _ => 0))) s

/-- `ATOMC` (R278). -/
def execAtomc (f : Form64) (s : State) : Host.Outcome State Fault Refusal :=
  runCore (.atomc f) (fun x s =>
    let w := s.warp x.core x.slot; let r := Rmw.cas x.f.ty.toNat
    x.memory s x.ordered (x.reachRmw r) (x.rmwEff r (x.operand w x.r2) (x.operand w x.r3))) s

/-- `CLAIM` (R31, R287): inside a transaction it aborts (R154). -/
def execClaim (f : Form64) (s : State) : Host.Outcome State Fault Refusal :=
  runCore (.claim f) (fun x s => x.memory s true (x.reachRmw .claim) (x.rmwEff .claim (fun _ => 0) (fun _ => 0))) s

/-! ### RED (R147, R279) -/

/-- The code of an operation for commutative-update lines. -/
def Rmw.code : Rmw → Nat
  | .atom op fl ty => op + 16 * fl.toNat + 32 * ty
  | _ => 0

/-- A RED of the operator and type under which a reducing TXFER holds the line (R147). -/
def State.commutes (s : State) (r : Rmw) (p : Place) : Bool :=
  match p with
  | .dom pa => (s.slice (sliceOf pa)).reducing.contains (pa / 1024, r.code)
  | _ => false

/-- Adds an operand to the core's partial of an element, which starts at the identity (R147). -/
def State.addPartial (s : State) (c : Nat) (op : Nat) (fl : Bool) (ty pa b : Nat) : State :=
  let n := sliceOf pa; let z := s.slice n; let width := atomWidth ty; let code := op + 16 * fl.toNat + 32 * ty
  let mine (p : Nat × Nat × Nat × Nat × Nat) : Bool := p.1 == c && p.2.1 == pa && p.2.2.1 == width && p.2.2.2.1 == code
  let old := match z.partials.find? mine with | some p => p.2.2.2.2 | none => atomIdentity op fl ty
  s.setSlice n { z with partials := z.partials.filter (fun p => !mine p) ++ [(c, pa, width, code, atomNew op fl ty old b)] }

/-- One lane of a RED: it is performed at once, with no return. -/
def State.redLane (s : State) (c slot x : Nat) (r : Rmw) (home : Bool) (rel : Nat) (b : Nat → Nat) (a : LaneAt) : Got × State :=
  if (s.warp c slot).isOpen a.lane then s.rmwLane c slot x r home 0 rel b (fun _ => 0) a
  else if s.commutes r a.place then
    match r, a.place with
    | .atom op fl ty, .dom pa =>
      let s := s.syncLine c a.place
      let s := if (SMap.get none (s.slice (sliceOf pa)).owner (pa / 1024)).isSome then s.recall none a.place else s
      let s := s.addPartial c op fl ty pa (b a.lane)
      (.val 0, if 3 ≤ rel then s.attach a.place ((s.core c).sigOf rel) rel else s)
    | _, _ => (.val 0, s)
  else
    match s.chase x a.va 2 a.place with
    | none => (.stale, s.dropTlb c x a.va)
    | some p =>
      if s.refusesModule c x p then (refusedModule a.lane a.va 2, s)
      else match s.lostPeer c p with
      | none => (s.noteHostRmw p r.width a.sysatom).rmwNow c slot x a.lane r p (home || a.wti) 0 rel (b a.lane) 0 a.va
      | some m =>
        let s := s.setWarp c slot ((s.warp c slot).countLost m)
        let (yes, s) := s.takeBool
        if yes then s.rmwNow c slot x a.lane r p true 0 rel (b a.lane) 0 a.va else (.val 0, s)

/-- The effect of RED (R279); a halted peer group holds the instruction back (R90). -/
def Iss.redEff (x : Iss) (r : Rmw) (b : Nat → Nat) (oks : List LaneAt) (s : State) : Res :=
  if oks.isEmpty then .done { s := s }
  else
    let s := s.drain x.core x.slot
    let rel := relScope x.ownRel (s.warp x.core x.slot)
    let cx := s.ctxOf x.core x.slot
    let held := oks.any (fun a => match a.place with | .stash k off => s.stashCheck cx k off r.width == .heldBack | _ => false)
    if held || x.rmwWaits s rel r.width oks then .stall s
    else x.releaseAt s rel r.width oks (fun s =>
      let s := s.clearFence x.core x.slot false true
      let home := x.f.rm == 3#2 || 3 ≤ rel
      let g : Gather := { s := s, r := x.record 0 true 0 rel }
      let g := g.runAtomic r (s.mates x.core x.slot r home oks) (fun s a b => s.redLane x.core x.slot cx r home rel b a) b (fun _ => 0) oks
      x.launch { g with r := { g.r with pend := 0#32 } } 2)

/-- `RED` (R279). -/
def execRed (f : Form64) (s : State) : Host.Outcome State Fault Refusal :=
  runCore (.red f) (fun x s =>
    let w := s.warp x.core x.slot
    x.memory s x.ordered (x.reachRmw x.atomOf) (x.redEff x.atomOf (x.operand w x.r2))) s

end Sys2Proof.Machine
end

