-- ==== Sys2Proof/Machine/Fetch.lean ====
section
/-! DEFINITION. Fetching an instruction (R195, R196), which entry of which warp issues next (R17, R26), and the end of a core cycle (R23, R39, R265). -/

namespace Sys2Proof.Machine

/-- What a fetch gives: the instruction's length and parcels, or the parcel that faulted or was refused. -/
inductive Fetched where
  | word (len w : Nat)
  | park (va kind level : Nat)
  | perm (va kind level : Nat)
  deriving DecidableEq, Repr

/-- One parcel. The instruction cache may hold an old value of it; then it is the old or the new one (R196), by a free choice. -/
def State.fetchParcel (s : State) (c x va : Nat) (priv : Bool) : Fetched × State :=
  match s.xlatLane c x va .fetch priv with
  | (.fault k l, s) => (.park va k l, s)
  | (.perm k l, s) => (.perm va k l, s)
  | (.ok p _ _ _, s) =>
    let (new, s) := s.homeRead none p 2
    match p with
    | .dom pa =>
      match SMap.get none (s.core c).icache (pa / 2) with
      | none => (.word 2 new, s.setCore c { s.core c with icache := SMap.set none (s.core c).icache (pa / 2) (some (BitVec.ofNat 16 new)) })
      | some old =>
        if old.toNat = new then (.word 2 new, s)
        else
          let (b, s) := s.takeBool
          (.word 2 (if b then old.toNat else new), s)
    | _ => (.word 2 new, s)

/-- `n` further parcels from an address on, above the bits already fetched. -/
def State.fetchMore (s : State) (c x : Nat) (priv : Bool) : (n : Nat) → (va w shift : Nat) → Fetched × State
  | 0, _, w, shift => (.word shift w, s)
  | n + 1, va, w, shift =>
    match s.fetchParcel c x va priv with
    | (.word _ p, s) => State.fetchMore s c x priv n (va + 2) (w + p * 2 ^ (8 * shift)) (shift + 2)
    | r => r

/-- Fetches the instruction at an address: the first parcel gives the length (R195). -/
def State.fetch (s : State) (c x pc : Nat) (priv : Bool) : Fetched × State :=
  match s.fetchParcel c x pc priv with
  | (.word _ p, s) => s.fetchMore c x priv (lengthOf p / 2 - 1) (pc + 2) p 2
  | r => r

/-- The instruction that a fetched word is: an unassigned opcode is the step ILLEGAL_OPCODE (R197, R199). -/
def instrOf (len w : Nat) : Instr :=
  match decode (leBytes len w) with
  | .ok (i, _) => i
  | .error _ => .illegalOpcode len (BitVec.ofNat 64 w)

/-- What an entry would issue next, without issuing it. -/
def State.peek (s : State) (c slot : Nat) (e : Entry) : Fetched := (s.fetch c (s.ctxOf c slot) e.pc.toNat (s.warp c slot).privileged).1

/-- The warp has executed ROLE and waits for its group (R322). -/
def Warp.inRole (w : Warp) : Bool := w.waits.any (fun y => match y.kind with | .role _ => true | _ => false)

/-- A waiting entry issues its instruction again: ERET once the entry holds every live lane of the trap (R329), ROLE once it holds every live lane of
the warp (R322), TLBI once the accesses that it waits for have completed (R331). -/
def State.resumable (s : State) (c slot : Nat) (e : Entry) : Bool :=
  let w := s.warp c slot
  e.state == .waiting &&
    (if e.cause == some .agreement then
      (match s.peek c slot e with
       | .word len v =>
         (match instrOf len v with
          | .eret _ => (match w.trapping with | some t => t.lanes &&& ~~~e.mask == 0#32 | none => false)
          | .role _ => e.mask == w.live && !w.inRole
          | _ => false)
       | _ => false)
     else w.waits.any (fun y => e.mask.getLsbD y.lane && (match y.kind with | .invalidate sc => !s.tlbiPending c sc | _ => false)))

/-- The instruction that an entry would issue next, where its bytes can be fetched and are an instruction. -/
def State.nextIss (s : State) (c slot idx : Nat) (e : Entry) : Option Iss :=
  match s.peek c slot e with
  | .word len w =>
    let i := instrOf len w
    match encodeWord i, formOf i, sigOf i with
    | some (n, v), some f, some g => some { core := c, slot := slot, idx := idx, i := i, f := f, g := g, len := n, insn := v, e := e }
    | _, _, _ => none
  | _ => none

/-- The next instruction of an entry meets a test; a fetch fault and a trap of R197 need no operands. -/
def State.nextMeets (s : State) (c slot idx : Nat) (e : Entry) (t : Iss → Bool) : Bool :=
  match s.nextIss c slot idx e with
  | some x => !x.i.wf || (x.g.priv && !(s.warp c slot).privileged) || !x.allotted (s.groupOf c slot).allot || t x
  | none => true

/-- The entry may issue in its state: ready or promoted, or resumable, and holding back no split (R16, R20). -/
def State.entryOpen (s : State) (c slot : Nat) (e : Entry) : Bool :=
  (e.state == .ready || e.state == .promoted || s.resumable c slot e) && !e.holdsSplit

/-- The entry is issuable by R17; what else keeps it from issue counts for its age (R23). -/
def State.entryReady (s : State) (c slot idx : Nat) (e : Entry) : Bool := s.entryOpen c slot e && s.nextMeets c slot idx e (fun x => x.ready s)

/-- A trap waits for lanes of an entry, to be taken before the entry issues again (R156, R268): one of the handler's own while a trap is being handled. -/
def Warp.owes (w : Warp) (e : Entry) : Bool := w.pending.any (fun p => p.lanes &&& e.mask != 0#32 && (w.trapping.isNone || p.handler))

/-- The entry can issue now. -/
def State.entryIssuable (s : State) (c slot idx : Nat) (e : Entry) : Bool :=
  s.entryOpen c slot e && !e.stalled && !(s.warp c slot).owes e && s.nextMeets c slot idx e (fun x => x.issuable s)

/-- An entry is kept from issue by an empty register alone: it stays ready and shows wcause 2 (R17, R28). -/
def State.entryEmpty (s : State) (c slot idx : Nat) (e : Entry) : Bool :=
  (e.state == .ready || e.state == .promoted) && !e.holdsSplit && !s.nextMeets c slot idx e (fun x => x.registersFull s)

/-- The entries of a warp as the save area shows them (R16, R17): wcause 2 where an empty register holds one. -/
def State.showCauses (s : State) (c slot : Nat) : List Entry → (idx : Nat) → List Entry
  | [], _ => []
  | e :: t, i =>
    { e with cause := if s.entryEmpty c slot i e then some .emptyRegister else if e.cause = some .emptyRegister then none else e.cause } ::
      State.showCauses s c slot t (i + 1)

/-- One entry outranks another (R17, R24): a yielding entry ranks below the others, a promoted one above, then the higher priority, then the lower pc. -/
def outranks (a b : Entry) : Bool :=
  let p (e : Entry) : Nat := (if e.yielded then 0 else 2) + (if e.state = .promoted then 1 else 0)
  if p a ≠ p b then p a > p b
  else if a.prio ≠ b.prio then a.prio.toNat > b.prio.toNat
  else a.pc.toNat < b.pc.toNat

/-- The highest-ranked issuable entry of a warp; while a trap is being handled only its own entries issue (R327). -/
def State.pickEntry (s : State) (c slot : Nat) : List Entry → (idx : Nat) → Option (Nat × Entry) → Option (Nat × Entry)
  | [], _, best => best
  | e :: t, i, best =>
    let w := s.warp c slot
    let allowed := match w.trapping with | some tr => e.mask &&& tr.lanes != 0#32 | none => true
    let better := allowed && s.entryIssuable c slot i e && (match best with | some (_, b) => outranks e b | none => true)
    State.pickEntry s c slot t (i + 1) (if better then some (i, e) else best)

/-- Warps that hold an issue slot of the core (R26, R265). -/
def Core.busyWarps (k : Core) : Nat := (k.warps.filter (fun x => match x.2 with | some w => w.busy != 0 | none => false)).length

/-- The warp that issues next (R26), none of a halted group: the highest class, then the longest time since it last issued, then the lowest slot. -/
def State.pickWarp (s : State) (c : Nat) : List (Nat × Option Warp) → Option (Nat × Nat) → Option (Nat × Nat)
  | [], best => best
  | (_, none) :: t, best => State.pickWarp s c t best
  | (slot, some w) :: t, best =>
    if w.busy ≠ 0 || (s.groupOf c slot).halting.isSome then State.pickWarp s c t best
    else
      match s.pickEntry c slot w.frontier 0 none with
      | none => State.pickWarp s c t best
      | some (i, _) =>
        let better := match best with
          | none => true
          | some (b, _) =>
            let cls := (s.groupOf c slot).cls; let clsB := (s.groupOf c b).cls
            if cls ≠ clsB then cls > clsB else w.lastIssue < (s.warp c b).lastIssue
        State.pickWarp s c t (if better then some (slot, i) else best)

/-- The warp and entry that issue next on a core, while it has an issue slot free. -/
def State.pick (s : State) (c : Nat) : Option (Nat × Nat) :=
  if 2 ≤ (s.core c).busyWarps then none else s.pickWarp c (s.core c).warps none

/-! ### The end of a core cycle -/

/-- Ages at the end of a cycle (R23): an entry that was issuable and did not issue is one cycle older, saturating at 8,191; the entries of a
warp in a trap other than the trapping ones do not age (R327). -/
def State.ageEntries (s : State) (c slot : Nat) (w : Warp) (promise : Bool) : List Entry → (idx : Nat) → List Entry
  | [], _ => []
  | e :: t, i =>
    let stopped := match w.trapping with | some tr => e.mask &&& tr.lanes == 0#32 | none => false
    let counts := promise && !e.fresh && !stopped && s.entryReady c slot i e
    { e with age := if counts then min 8191 (e.age + 1) else e.age, fresh := false, stalled := false } :: State.ageEntries s c slot w promise t (i + 1)

/-- Waits for which a group may be swapped out: WAITV, WAITF and BAR.WAIT (R37). -/
def Wait.swappable (y : Wait) : Bool := match y.kind with | .value _ _ _ _ _ _ _ _ | .flood _ _ | .barrier _ _ => !y.done | _ => false

/-- Every entry of a warp waits in WAITV, WAITF or BAR.WAIT (R37). -/
def Warp.onlyWaits (w : Warp) : Bool :=
  w.frontier.all (fun e => e.state == .waiting && w.waits.any (fun y => e.mask.getLsbD y.lane && y.swappable))

/-- Every live warp of a group has only such entries. -/
def State.onlyWaits (s : State) (c gi : Nat) : Bool :=
  (s.core c).warps.all (fun x => match x.2 with | some w => w.group != gi || w.onlyWaits | none => true)

/-- What an entry whose next instruction is a FLOOD wants of its region (R43). -/
def State.originRequest (s : State) (c slot idx : Nat) (e : Entry) : Option OriginRequest :=
  match s.nextIss c slot idx e with
  | some x =>
    (match x.i with
     | .flood _ =>
       let w := s.warp c slot
       let now := s.entryOpen c slot e && !e.stalled && !w.owes e && x.registersFull s && x.inOrder w
       some { core := c, slot := slot, pc := x.pc, mask := e.mask, classes := (List.range 8).filter (fun d => x.originNeed w d != 0), now := now }
     | _ => none)
  | none => none

/-- The requests of a core's entries, by slot and place in the frontier. -/
def State.originRequests (s : State) (c : Nat) : List OriginRequest :=
  (s.core c).warps.flatMap (fun y => match y.2 with | some w => w.frontier.zipIdx.filterMap (fun z => s.originRequest c y.1 z.2 z.1) | none => [])

/-- A region's requests when a core's have become `qs`: those that stand keep their places, entries that have first become issuable but for their cairns
come last, and entries that have moved on give up theirs (R43). -/
def Region.request (r : Region) (c : Nat) (qs : List OriginRequest) : Region :=
  let same (p q : OriginRequest) : Bool := p.core == q.core && p.slot == q.slot && p.pc == q.pc && p.mask == q.mask
  let kept := r.requests.filterMap (fun p => if p.core ≠ c then some p else qs.find? (same p))
  { r with requests := kept ++ qs.filter (fun q => q.now && !r.requests.any (same q)) }

/-- The requests for origin cairns at the end of a core's cycle (R43). -/
def State.queueOrigins (s : State) (c : Nat) : State :=
  let r := s.region (coreRegion c); let r' := r.request c (s.originRequests c)
  if r' = r then s else s.setRegion (coreRegion c) r'

/-- A core cycle ends: CLOCK counts (R39), issue slots come free (R265), ages count (R23), entries show what holds them (R17), FLOODs ask for their cairns
(R43), and the running slice loses a cycle (R35). -/
def State.tickCore (s : State) (c : Nat) : State :=
  let s := s.queueOrigins c
  let k := s.core c
  let warps := k.warps.map (fun x => (x.1, x.2.map (fun w =>
    { w with busy := w.busy - 1, frontier := s.ageEntries c x.1 w (s.groupOf c x.1).promise (s.showCauses c x.1 w.frontier 0) 0 })))
  let groups := k.groups.map (fun x => (x.1, x.2.map (fun g =>
    { g with tscbNow := 0#64, idleSince := if s.onlyWaits c x.1 then some (g.idleSince.getD (k.clock.toNat + 1)) else none })))
  s.setCore c { k with clock := k.clock + 1#64, warps := warps, groups := groups, sliceLeft := k.sliceLeft - 1 }

/-! ### Steps that a core takes before it issues -/

/-- The first index of an entry that meets a test. -/
def Warp.findEntry (w : Warp) (p : Entry → Bool) : Option Nat := (findIdx p w.frontier 0).map Prod.fst

/-- An entry that is due for promotion (R23). -/
def promotable (e : Entry) : Bool := e.state == .ready && e.age ≥ 4096 && !e.holdsSplit

/-- A held split that fits now (R20). -/
def Warp.splitFits (w : Warp) (e : Entry) : Bool :=
  e.holdsSplit && w.frontier.length - 1 + e.held.length ≤ 8

/-- The warp can release a RECONV set (R19): none ready or promoted (entries that hold a split aside), none parked, none waiting for another cause. -/
def Warp.releasable (w : Warp) : Bool :=
  let f := w.frontier.filter (fun e => !e.holdsSplit)
  f.any (fun e => e.state == .waiting && e.cause == some .reconv) && f.all (fun e => e.state == .waiting && e.cause == some .reconv)

/-- A waiting trap can be taken now (R327): no trap is being handled, its lanes stand in an entry that is not parked and holds back no split, the warp's
stores can drain and the entry's accesses are performed; one that the handler itself has raised is a double trap at once (R328), and one whose lanes
have all ended goes. -/
def State.trapReady (s : State) (c slot : Nat) (p : PendingTrap) : Bool :=
  let w := s.warp c slot
  (w.trapping.isNone || p.handler) &&
    (match w.entryOf p.lanes with
     | some (_, e) => !e.holdsSplit && e.state != .parked && (p.handler || (!w.unperformed e.mask && ((s.drain c slot).warp c slot).storeq.isEmpty))
     | none => true)

/-- The oldest of a warp's waiting traps that can be taken now: its place in the queue. -/
def State.trapDue (s : State) (c slot : Nat) : Option Nat := (findIdx (fun p => s.trapReady c slot p) (s.warp c slot).pending 0).map Prod.fst

/-! ### An instruction placed where the machine fetches next -/

/-- The virtual page from which `withFetchWord` lets a warp fetch, and the domain memory behind it. -/
def fetchPage : Nat := 0x10000

/-- A group whose allotment holds every register a kernel may declare (R27). -/
def fetchGroup : Group :=
  { fcb := 0x40000#32, slots := [0],
    allot := { entry := fetchPage, vregs := 256, sregs := 64, tregs := 16, acc := 4, agr := 16, tbytes := 393216, sbytes := 4096, warps := 1 } }

/-- A warp of one lane that stands at the page's first byte. -/
def fetchWarp : Warp := { frontier := [{ pc := BitVec.ofNat 57 fetchPage, prio := 128#8, mask := 1#32 }] }

/-- A cached translation of the page, executable and writable. -/
def fetchTlb : TlbEntry :=
  { ctx := 0, va := fetchPage, size := 4096, pa := fetchPage, w := true, x := true, priv := false, dirty := true, shard := false, wti := false,
    sysatom := false }

/-- The state with a core instruction of eight bytes at the page, a warp that fetches there, and the turn given to its core. -/
def State.withCoreWord (s : State) (w : Nat) : State :=
  let k := s.core 0
  let k := ((k.setGroup 0 (some fetchGroup)).setWarp 0 (some fetchWarp))
  let s := s.setCore 0 { k with tlb := fetchTlb :: k.tlb }
  { s with mem := writeBytes s.mem fetchPage 8 w, agenda := [.issue 0] }

/-- The state with a vendor instruction in the firmware memory at the pc of thread 0, and the turn given to it. -/
def State.withQueueWord (s : State) (w : Nat) : State :=
  let z := s.module 0
  { s.setModule 0 { z with firmware := writeBytes z.firmware (s.queue 0).pc.toNat 4 w } with agenda := [.queue 0] }

end Sys2Proof.Machine
end

