-- ==== Sys2Proof/Machine/Arrivals.lean ====
section
/-! DEFINITION. What comes back to a core: values, answers of other modules (R121 to R123), late faults (R420), and write-backs that hardware makes on its own (R95). -/

namespace Sys2Proof.Machine

/-! ### Performing a record's waiting lanes -/

/-- The read-modify-write that a record's instruction makes; none for a load. -/
def rmwOfInstr : Instr → Option Rmw
  | .atom f => some (.atom (field f.rs3.toNat 0 4) (bit f.rs3.toNat 4) f.ty.toNat)
  | .red f => some (.atom (field f.rs3.toNat 0 4) (bit f.rs3.toNat 4) f.ty.toNat)
  | .atomc f => some (.cas f.ty.toNat)
  | .claim _ => some .claim
  | _ => none

/-- The instruction of a record. -/
def InFlight.instr (r : InFlight) : Instr := instrOf r.len r.insn

/-- Bytes that a lane of a record accesses. -/
def InFlight.bytes (r : InFlight) (l : Nat) : Nat :=
  match r.instr with
  | .ld f => tyBytes f.ty.toNat
  | .ldx _ => SMap.get 0 r.data l
  | i => match rmwOfInstr i with | some m => m.width | none => 4

/-- A lane's register value from what was read. -/
def InFlight.extend (r : InFlight) (w : Warp) (l v : Nat) : Nat :=
  match r.instr with
  | .ld f => extendTy f.ty.toNat v
  | .ldx _ =>
    extendFmt (SMap.get 0 r.data2 l) v +
      (if r.width = 8 ∧ SMap.get 0 r.data l ≠ 8 then (w.get (r.dst.plus 1) l).toNat * 2 ^ 32 else 0)
  | _ => v

/-- Performs one waiting lane of a record at a place that answers now. -/
def State.performLane (s : State) (c slot : Nat) (r : InFlight) (p : Place) (l : Nat) : Got × State :=
  let x := s.ctxOf c slot; let va := SMap.get 0 r.addr l
  if s.refusesModule c x p then (refusedModule l va (if (rmwOfInstr r.instr).isSome then 2 else 0), s)
  else match rmwOfInstr r.instr with
  | some m => s.rmwNow c slot x l m p true r.acq r.rel (SMap.get 0 r.data l) (SMap.get 0 r.data2 l) va
  | none => s.readNow c slot x l p (r.wti.getLsbD l) (r.bytes l) r.acq va

/-- A record at an index of a warp. -/
def Warp.record (w : Warp) (i : Nat) : Option InFlight := w.inflight[i]?

/-- Replaces a record; one that holds nothing more frees its slot, taking the trap that it still owes (R268). -/
def Warp.putRecord (w : Warp) (i : Nat) (r : InFlight) : Warp :=
  if r.pend ≠ 0#32 then { w with inflight := setAt w.inflight i r }
  else
    let w := { w with inflight := dropAt w.inflight i }
    if r.trapLanes ≠ 0#32 then w.recordTraps r else w

/-- The outcome of a waiting lane enters its record. -/
def State.settle (s : State) (c slot i l : Nat) (got : Got) : State :=
  let w := s.warp c slot
  match w.record i with
  | none => s
  | some r =>
    let m := 1#32 <<< l
    let acc := if (rmwOfInstr r.instr).isSome then 2 else 0
    let done := { r with unperformed := r.unperformed &&& ~~~m, remote := r.remote &&& ~~~m }
    match got with
    | .val v => s.setWarp c slot (w.putRecord i { done with val := SMap.set 0 r.val l (r.extend w l v) })
    | .trap t => s.setWarp c slot (w.putRecord i { done with pend := r.pend &&& ~~~m, trapLanes := r.trapLanes ||| m, trap := if r.trapLanes = 0#32 then t else r.trap })
    | .gone => s.setWarp c slot ((w.addTargetFault r m 0x12 7 acc).putRecord i { done with pend := r.pend &&& ~~~m })
    | .stale =>
      let s := s.dropTlb c (s.ctxOf c slot) (SMap.get 0 r.addr l)
      s.setWarp c slot (((s.warp c slot).addTargetFault r m 0x10 6 acc).putRecord i { done with pend := r.pend &&& ~~~m })
    | .park f => s.setWarp c slot ((w.addLateFault r m f).putRecord i { done with pend := r.pend &&& ~~~m })
    | _ => s

/-- Settles listed lanes of a record, the record's index being stable while any lane is left. -/
def State.settleEach (s : State) (c slot i : Nat) (f : State → InFlight → Nat → Got × State) : List Nat → State
  | [] => s
  | l :: t =>
    match (s.warp c slot).record i with
    | none => s
    | some r =>
      if r.unperformed.getLsbD l then
        let (got, s) := f s r l
        State.settleEach (s.settle c slot i l got) c slot i f t
      else State.settleEach s c slot i f t

/-! ### Packets (R99, R100) -/

/-- The vector packet that carries a lane's access: its serving agent and the window of 65,536 elements, as the place of its base, and how often the
request has been issued again, since a forwarded request is one of its own (R99, R122). -/
def InFlight.packetOf (r : InFlight) (l : Nat) : Option (Place × Nat × Nat × Nat) :=
  let n := r.bytes l; let w := 65536 * max 1 n
  (SMap.get none r.place l).map (fun p =>
    (match p with | .dom pa => .dom (sliceOf pa) | .port m _ => .port m 0 | .stash c _ => .stash c 0,
     (match p with | .dom pa => pa / w | .port _ pa => pa / w | .stash _ off => off / w), n, SMap.get 0 r.reissues l))

/-- The lanes of a mask whose accesses travel in one packet with that of its lowest lane (R99). -/
def InFlight.packet (r : InFlight) (m : LaneMask) (all : LaneMask) : LaneMask :=
  match lowestLane m with
  | none => 0#32
  | some l => filterMask all (fun k => r.packetOf k == r.packetOf l)

/-- The lanes of a packet that aim at one element with a floating-point add, whose operands the warp has folded (R146). -/
def InFlight.mates (r : InFlight) (m : LaneMask) (l : Nat) : List Nat :=
  match rmwOfInstr r.instr with
  | some (.atom 0 true _) => (lanes m).filter (fun k => SMap.get none r.place k == SMap.get none r.place l)
  | _ => [l]

/-- Performs one lane of a packet whose lanes are performed in ascending order (R100): the first of lanes that fold carries the operands of all, and the
others receive what a prefix over the lanes rebuilds (R146). -/
def State.packetLane (s : State) (c slot : Nat) (m : LaneMask) (r : InFlight) (p : Place) (l : Nat) : Got × State :=
  let q := (rmwOfInstr r.instr).getD .claim; let ls := r.mates m l
  match (ls.filter (fun k => k < l)).getLast? with
  | some k =>
    if r.pend.getLsbD k && !r.unperformed.getLsbD k then (.val (q.chain (SMap.get 0 r.val k) (SMap.get 0 r.data k)), s)
    else s.performLane c slot r p l
  | none =>
    let b := (ls.filter (fun k => l < k)).foldl (fun v k => q.chain v (SMap.get 0 r.data k)) (SMap.get 0 r.data l)
    s.performLane c slot (if ls.length ≤ 1 then r else { r with data := SMap.set 0 r.data l b }) p l

/-! ### VALUE_ARRIVAL (R17, R28) -/

/-- A held lane whose peer group runs again, or whose range has gone (R90), or whose line no engine owns any more (R142). -/
def State.heldServable (s : State) (c slot : Nat) (r : InFlight) (l : Nat) : Bool :=
  match SMap.get none r.place l with
  | some (.stash k off) => s.stashCheck (s.ctxOf c slot) k off (r.bytes l) != .heldBack
  | some (.dom pa) => !s.engineOwns (pa / 1024)
  | _ => false

/-- `VALUE_ARRIVAL`: the values of some lanes of a record arrive; their registers are written and become full (R28). Held lanes are served by packets, that
of the lowest one named. Operands: core, slot, record, lanes. -/
def execValueArrival (s : State) : Host.Outcome State Fault Refusal :=
  let c := s.args.core; let slot := s.args.slot; let i := s.args.record
  match (s.warp c slot).record i with
  | none => .refused (.notEnabled "VALUE_ARRIVAL")
  | some r =>
    let m := s.args.lanes &&& r.pend &&& ~~~r.remote
    let held := r.packet (filterMask (m &&& r.unperformed) (s.heldServable c slot r))
      (filterMask (r.pend &&& r.unperformed &&& ~~~r.remote) (s.heldServable c slot r))
    let m := (m &&& ~~~r.unperformed) ||| held
    if m = 0#32 then .refused (.notEnabled "VALUE_ARRIVAL")
    else
      let s := s.settleEach c slot i (fun s r l => s.packetLane c slot held r ((SMap.get none r.place l).getD (.dom 0)) l) (lanes held)
      match (s.warp c slot).record i with
      | none => .next s
      | some r =>
        let m := m &&& r.pend &&& ~~~r.unperformed
        let w := (s.warp c slot).deliver r (lanes m)
        .next (s.setWarp c slot (w.putRecord i { r with pend := r.pend &&& ~~~m }))


/-! ### Other modules (R121 to R123) -/

/-- One lane's request at the owning module's hub: served where the page still backs the address, else a pointer or a stale answer (R121); `m` are the
lanes of its packet. -/
def State.requestLane (s : State) (c slot i : Nat) (m : LaneMask) (r : InFlight) (l : Nat) : State :=
  match SMap.get none r.place l with
  | none => s
  | some p =>
    match s.forwardOf (s.ctxOf c slot) (SMap.get 0 r.addr l) p with
    | none => let (got, s) := s.packetLane c slot m r p l; s.settle c slot i l got
    | some none => s.settle c slot i l .stale
    | some (some q) =>
      let w := s.warp c slot
      s.setWarp c slot (w.putRecord i { r with remote := r.remote &&& ~~~(1#32 <<< l), pointer := SMap.set none r.pointer l (some q) })

/-- Requests of listed lanes. -/
def State.requestEach (s : State) (c slot i : Nat) (m : LaneMask) : List Nat → State
  | [] => s
  | l :: t =>
    match (s.warp c slot).record i with
    | none => s
    | some r => State.requestEach (if r.remote.getLsbD l then s.requestLane c slot i m r l else s) c slot i m t

/-- A packet of atomics may not yet reach one of the words that it names (R142, R168). -/
def State.packetPinned (s : State) (c slot : Nat) (r : InFlight) (m : LaneMask) : Bool :=
  (rmwOfInstr r.instr).isSome && (lanes m).any (fun l => match SMap.get none r.place l with | some p => s.keptFrom c slot l p (r.bytes l) | none => false)

/-- `REMOTE_REQUEST`: a packet reaches the module that holds its page (R99, R121): the one of the lowest lane named; its lanes are performed in ascending
order (R100). Operands: core, slot, record, lanes. -/
def execRemoteRequest (s : State) : Host.Outcome State Fault Refusal :=
  let c := s.args.core; let slot := s.args.slot; let i := s.args.record
  match (s.warp c slot).record i with
  | none => .refused (.notEnabled "REMOTE_REQUEST")
  | some r =>
    let m := r.packet (s.args.lanes &&& r.remote) r.remote
    if m = 0#32 || s.packetPinned c slot r m then .refused (.notEnabled "REMOTE_REQUEST") else .next (s.requestEach c slot i m (lanes m))

/-- A pointer that has come back: the request is issued again to the place it names, at most twice; a third pointer gives up (R122). -/
def State.forwardLane (s : State) (c slot i : Nat) (r : InFlight) (l : Nat) : State :=
  match SMap.get none r.pointer l with
  | none => s
  | some q =>
    if SMap.get 0 r.reissues l ≥ 2 then s.settle c slot i l .stale
    else
      let m := 1#32 <<< l
      s.setWarp c slot ((s.warp c slot).putRecord i
        { r with remote := r.remote ||| m, pointer := SMap.set none r.pointer l none, place := SMap.set none r.place l (some q), reissues := SMap.set 0 r.reissues l (SMap.get 0 r.reissues l + 1) })

/-- Pointers of listed lanes. -/
def State.forwardEach (s : State) (c slot i : Nat) : List Nat → State
  | [] => s
  | l :: t =>
    match (s.warp c slot).record i with
    | none => s
    | some r => State.forwardEach (s.forwardLane c slot i r l) c slot i t

/-- `FORWARD_RESPONSE`: the requester's hub acts on forwarding pointers (R122). Operands: core, slot, record, lanes. -/
def execForwardResponse (s : State) : Host.Outcome State Fault Refusal :=
  let c := s.args.core; let slot := s.args.slot; let i := s.args.record
  match (s.warp c slot).record i with
  | none => .refused (.notEnabled "FORWARD_RESPONSE")
  | some r =>
    let m := filterMask s.args.lanes (fun l => (SMap.get none r.pointer l).isSome)
    if m = 0#32 then .refused (.notEnabled "FORWARD_RESPONSE") else .next (s.forwardEach c slot i (lanes m))

/-! ### TARGET_FAULT_PARK (R420) -/

/-- Where a lane of an entry stands, with its priority and the lanes that stand there with it: at the entry's pc, or where its part of a split that the
entry holds goes (R20). -/
def Entry.standing (e : Entry) (l : Nat) : SplitPart :=
  (e.held.find? (fun p => p.mask.getLsbD l)).getD { pc := e.pc.toNat, prio := e.prio.toNat, mask := e.mask }

/-- Parks the faulting lanes of an access in an entry of their own where they stand, or the whole entry that holds them where the frontier has no free
slot. -/
def State.parkTarget (s : State) (c slot : Nat) (r : InFlight) (idx : Nat) (e : Entry) : State :=
  let g := s.groupOf c slot
  let at_ := e.standing ((lowestLane (r.pend &&& e.mask)).getD 0)
  let m := r.pend &&& at_.mask
  let info := { r.fault with lanes := m }
  let kept : InFlight := { r with pend := m, unperformed := m, fault := info }
  let (s, frec) := s.recordFault g.ctx g.fcb ((s.warp c slot).laneIdent ((lowestLane m).getD 0)).handle c slot info
  let w := s.warp c slot
  -- lanes that wait leave their wait: they issue its instruction again
  let w := if e.state = .waiting then w.dropWaits (if e.mask = m ∨ w.frontier.length < 8 then m else e.mask) else w
  let parked : Entry :=
    { pc := BitVec.ofNat 57 at_.pc, prio := BitVec.ofNat 8 at_.prio, mask := m, state := .parked, frec := frec, kept := some kept, fault := some info }
  if e.mask = m then s.setWarp c slot (w.replaceEntry idx [parked])
  else if w.frontier.length < 8 then
    let held := (e.held.map (fun p => { p with mask := p.mask &&& ~~~m })).filter (fun p => p.mask != 0#32)
    s.setWarp c slot (w.replaceEntry idx [{ e with mask := e.mask &&& ~~~m, held := held }, parked])
  else s.setWarp c slot (w.replaceEntry idx [{ e with state := .parked, cause := none, age := 0, frec := frec, kept := some kept, fault := some info }])

/-- `TARGET_FAULT_PARK`: a fault decided at an access's target reaches the core (R90, R420). Operands: core, slot, record (its place among the warp's
late faults). -/
def execTargetFaultPark (s : State) : Host.Outcome State Fault Refusal :=
  let c := s.args.core; let slot := s.args.slot; let i := s.args.record
  let w := s.warp c slot
  match w.targetFaults[i]? with
  | none => .refused (.notEnabled "TARGET_FAULT_PARK")
  | some r =>
    let live := r.pend &&& w.live
    if live = 0#32 then
      -- every faulting lane has exited: the access is dropped, its record is written with RESOLVE ignored
      let g := s.groupOf c slot
      let s := s.setWarp c slot { w with targetFaults := dropAt w.targetFaults i }
      .next (s.postFault g.ctx (s.faultDomain g.ctx g.fcb) (recordBits r.fault g.fcb 0#32 c slot) 0xFFFF#16)
    else
      match findIdx (fun e => e.mask &&& live != 0#32 && e.state != .parked && e.replay == 0#32) w.frontier 0 with
      | none => .refused (.notEnabled "TARGET_FAULT_PARK")
      | some (idx, e) =>
        let rest := live &&& ~~~(e.standing ((lowestLane (live &&& e.mask)).getD 0)).mask
        let w := { w with targetFaults := if rest = 0#32 then dropAt w.targetFaults i else setAt w.targetFaults i { r with pend := rest } }
        .next ((s.setWarp c slot w).parkTarget c slot { r with pend := live } idx e)

/-! ### Write-backs -/

/-- Writes back the dirty bytes of one L1 sector but for pinned ones; it becomes full (R95, R168). -/
def State.writeBackSector (s : State) (c pa : Nat) : State :=
  let x := (s.core c).sector pa
  if x.dirty = 0#256 then s
  else
    let s := s.recall (some c) (.dom pa)
    let (mem, y) := writeBackOf s.pinMask s.mem (pa / 256) x
    let s := { s with mem := mem }
    let s := s.setCore c { s.core c with l1 := (s.core c).l1.map (fun l =>
      if l.line = pa / 1024 then { l with sectors := SMap.set {} l.sectors (pa / 256 % 4) y } else l) }
    s.notify (some (c, 64)) (.dom (pa / 256 * 256)) 256

/-- A sector's dirty bytes may not be written back yet: one lies in a word that an escalated transaction pins (R168). -/
def State.sectorPinned (s : State) (c pa : Nat) : Bool := ((s.core c).sector pa).dirty &&& s.pinMask (pa / 256) != 0#256

/-- `DIRTY_WRITE_BACK`: hardware writes back, on its own, the dirty bytes of an L1 sector (flag set; operands: core, pa) or of a stash-mapped sector
(operands: core, group, index the range, offset the sector) (R92, R95). A translation that is refused leaves the bytes dirty. -/
def execDirtyWriteBack (s : State) : Host.Outcome State Fault Refusal :=
  let c := s.args.core; let g := s.args.group
  if s.args.flag then
    if ((s.core c).sector s.args.pa).dirty = 0#256 || s.sectorPinned c s.args.pa then .refused (.notEnabled "DIRTY_WRITE_BACK")
    else .next (s.writeBackSector c s.args.pa)
  else
    let dirty := match (s.group c g).maps[s.args.index]? with | some r => (SMap.get ({} : MapSector) r.sectors s.args.offset).dirty | none => 0#256
    if dirty = 0#256 || s.mapPinned c g s.args.index s.args.offset then .refused (.notEnabled "DIRTY_WRITE_BACK")
    else .next (s.flushMapped c g s.args.index s.args.offset).2

end Sys2Proof.Machine
end

