-- ==== Sys2Proof/Machine/Convert.lean ====
section
/-! DEFINITION. Conversion by the copy engine (R192 to R194): groups of elements from one format to another. -/

namespace Sys2Proof.Machine

/-- Elements of a group of a format: 32 for mx4 and mx8, G for q8 and q4, one otherwise (R192). -/
def groupLen (fmt grp : Nat) : Nat := if fmt = 5 ∨ fmt = 6 then 32 else if fmt = 8 ∨ fmt = 9 then 32 * 2 ^ grp else 1

/-- Bytes of a group (R192). -/
def groupBytes (fmt grp : Nat) : Nat := groupLen fmt grp * fmtBits fmt / 8

/-- Bytes of a scale entry (R181). -/
def entryBytes (fmt : Nat) : Nat := if fmt = 8 ∨ fmt = 9 then 4 else if fmt = 5 ∨ fmt = 6 then 1 else 0

/-- The first `n` elements of data under a format, its scale entries lying apart (R192). -/
def decodeRun (fmt grp data scales : Nat) (n : Nat) : List FVal :=
  (List.range n).map (fun i =>
    let x := field data (i * fmtBits fmt) (fmtBits fmt)
    if entryBytes fmt = 0 then decodeElem fmt false x
    else decodeScaled fmt (field scales (8 * entryBytes fmt * (i / groupLen fmt grp)) (8 * entryBytes fmt)) x)

/-- The larger of two values that are finite. -/
def FVal.larger (a b : FVal) : FVal := if a.compare b == -1 then b else a

/-- The magnitude. -/
def FVal.abs : FVal → FVal
  | .fin _ m e => .fin false m e
  | .inf _ => .inf false
  | .nan => .nan

/-- A value is an infinity. -/
def FVal.isInf : FVal → Bool
  | .inf _ => true | _ => false

/-- A block of an mx destination: its scale and elements (R193). -/
def encodeBlock (fmt : Nat) (vs : List FVal) (rm : Nat) (sat : Bool) : Nat × List Nat :=
  if vs.contains .nan || (!sat && vs.any FVal.isInf) then (0xFF, vs.map (fun _ => 0))
  else
    let big : FVal := (vs.filter (fun v => !v.isInf)).foldl (fun (m v : FVal) => m.larger v.abs) (FVal.fin false 0 0)
    let e : Nat := match big with
      | .fin _ m x =>
        if m = 0 then 0
        else (max 0 (min 254 (x + (Nat.log2 m : Int) - (if fmt = 5 then 2 else 8) + 127))).toNat
      | _ => 0
    (e, vs.map (fun v => encodeMx fmt e v rm sat))

/-- A group of a q destination: its scale entry and elements (R194). Where σ rounds to zero the quotients have no stated value: the first argument
supplies zero point and elements there (log 19). -/
def encodeGroup (free : Nat → Nat) (fmt : Nat) (vs : List FVal) : Nat × List Nat :=
  let b := fmtBits fmt
  if vs.contains .nan || vs.any FVal.isInf then (0x7E00, vs.map (fun _ => 0))
  else
    let zero : FVal := .fin false 0 0
    let lo : FVal := vs.foldl (fun (m v : FVal) => if v.compare m == -1 then v else m) zero
    let hi : FVal := vs.foldl (fun (m v : FVal) => m.larger v) zero
    if lo.compare hi == 0 then (0x3C00, vs.map (fun _ => 0))
    else
      let sg := (fmtOf 1).round ((exactSum [hi, lo.neg] 0).quot (ofInt (2 ^ b - 1 : Nat))) 0 false
      match (fmtOf 1).decode sg with
      | .inf _ => (sg, vs.map (fun _ => 0))
      | s =>
        if s.isZero then (sg + 2 ^ 16 * (free 0 % 2 ^ b), vs.zipIdx.map (fun y => free (y.2 + 1) % 2 ^ b))
        else
          let z := (max 0 (min ((2 ^ b - 1 : Nat) : Int) ((lo.neg.quot s).toInt 0))).toNat
          let word := sg + 2 ^ 16 * z
          (word, vs.map (fun v => encodeQ fmt word v))

/-- Values in groups of `n`; the last may be shorter. -/
def groupsOf (n : Nat) : (fuel : Nat) → List FVal → List (List FVal)
  | 0, _ => []
  | k + 1, vs => if vs.isEmpty then [] else vs.take n :: groupsOf n k (vs.drop n)

/-- Elements packed at a width, the first lowest. -/
def packRun (b : Nat) : List Nat → Nat
  | [] => 0
  | x :: t => x % 2 ^ b + 2 ^ b * packRun b t

/-- Data and scale entries of values in a destination format (R192 to R194). -/
def encodeRun (free : Nat → Nat) (fmt grp : Nat) (vs : List FVal) (rm : Nat) (sat : Bool) : Nat × Nat :=
  let b := fmtBits fmt
  if entryBytes fmt = 0 then
    (packRun b (vs.map (fun v => if fmt = 7 ∨ fmt = 11 then intConvert b false v rm sat else (fmtOf fmt).round v rm sat)), 0)
  else
    let gs := groupsOf (groupLen fmt grp) vs.length vs
    let out := gs.zipIdx.map (fun y => if fmt = 5 ∨ fmt = 6 then encodeBlock fmt y.1 rm sat else encodeGroup (fun i => free (y.2 * 129 + i)) fmt y.1)
    (packRun b (out.flatMap (fun o => o.2)), packRun (8 * entryBytes fmt) (out.map (fun o => o.1)))

end Sys2Proof.Machine
end

