-- ==== Sys2Proof/Machine/Areas.lean ====
section
/-! DEFINITION. Save areas (R353 to R357): their layout, the arena they are taken from, and what engines and late returns write into them while the group is saved. -/

namespace Sys2Proof.Machine

/-! ### Layout (R353 to R356) -/

/-- WPART: bytes of a warp part (R355). -/
def warpPart (a : Allot) : Nat := roundUp 256 (14984 + 4 * a.sregs + 132 * a.vregs)

/-- Sectors of the mapped ranges of a group. -/
def Group.mapSectors (g : Group) : Nat := g.maps.foldl (fun n r => n + r.len / 256) 0

/-- Offsets of the stash, operand-buffer, accumulator and warp parts (R354). -/
def Group.areaStash (g : Group) : Nat := roundUp 256 (4096 + 36 * g.mapSectors)
/-- The operand-buffer part. -/
def Group.areaBuffer (g : Group) : Nat := roundUp 256 (g.areaStash + g.allot.sbytes)
/-- The accumulator part. -/
def Group.areaAcc (g : Group) : Nat := roundUp 256 (g.areaBuffer + g.allot.tbytes)
/-- The warp parts. -/
def Group.areaWarps (g : Group) : Nat := roundUp 256 (g.areaAcc + 49152 * g.allot.acc)
/-- LEN of the area of a group of `n` warps. -/
def Group.areaLen (g : Group) (n : Nat) : Nat := g.areaWarps + n * warpPart g.allot

/-- A field of an area: byte offset, bytes, value. -/
abbrev Piece3 : Type := Nat × Nat × Nat

/-- The code of an entry state (R16). -/
def EntryState.code : EntryState → Nat
  | .ready => 0 | .waiting => 1 | .parked => 2 | .promoted => 3

/-- The code of a wait cause (R16). -/
def WaitCause.code : WaitCause → Nat
  | .reconv => 0 | .fullFrontier => 1 | .emptyRegister => 2 | .wait => 3 | .agreement => 4 | .token => 5

/-- The code of an agreement state (R29). -/
def AgrState.code : AgrState → Nat
  | .idle => 0 | .opened => 1 | .proposed => 2 | .issued => 3

/-- The entry record that the header's ALLOT shows (R342, R353). -/
def Allot.bits (a : Allot) : Nat :=
  a.entry % 2 ^ 64 * 2 ^ 192 + a.sbytes * 2 ^ 160 + a.tbytes * 2 ^ 128 + a.vregs * 2 ^ 48 + a.sregs * 2 ^ 40 + a.agr * 2 ^ 35 + a.acc * 2 ^ 32 +
    a.tregs * 2 ^ 27 + a.warps * 2 ^ 22

/-- The 64-byte header (R353). -/
def Saved.headerBits (v : Saved) : Nat :=
  v.len * 2 ^ 416 + v.group.fcb.toNat * 2 ^ 384 + v.group.allot.tbytes * 2 ^ 352 + v.group.allot.sbytes * 2 ^ 320 + warpPart v.group.allot * 2 ^ 288 +
    v.latepend * 2 ^ 272 + v.group.maps.length * 2 ^ 264 + v.state * 2 ^ 261 + v.group.slots.length * 2 ^ 256 + v.group.allot.bits

/-- One agreement register of an area (R354). -/
def Agr.pieces (a : Agr) (at_ : Nat) : List Piece3 :=
  (at_, 4, a.state.code) :: (at_ + 4, 8, a.proposal.getD 0) :: (at_ + 12, 4, a.steps) :: (at_ + 16, 2, a.warps.toNat) ::
    a.signed.map (fun y => (at_ + 64 + 4 * y.1, 4, y.2.toNat))

/-- One mapped range: global address, stash offset and length, eight bytes each (log 15). -/
def MapRange.pieces (r : MapRange) (at_ : Nat) : List Piece3 := [(at_, 8, r.gaddr), (at_ + 8, 8, r.soff), (at_ + 16, 8, r.len)]

/-- The sectors of the mapped ranges, range after range: 36 bytes each, from a byte offset on. -/
def mapPieces (at_ : Nat) : List MapRange → List Piece3
  | [] => []
  | r :: t =>
    r.sectors.flatMap (fun y => [(at_ + 36 * y.1, 32, y.2.dirty.toNat), (at_ + 36 * y.1 + 32, 1, if y.2.filled then 1 else 0)]) ++
      mapPieces (at_ + 36 * (r.len / 256)) t

/-- A frontier entry of a warp part (R355). -/
def Entry.pieces (e : Entry) (at_ : Nat) : List Piece3 :=
  [(at_, 8, e.pc.toNat), (at_ + 8, 4, e.mask.toNat), (at_ + 12, 1, e.prio.toNat), (at_ + 13, 1, e.state.code),
   (at_ + 14, 1, match e.cause with | some c => c.code | none => 0), (at_ + 16, 2, e.age), (at_ + 18, 2, e.frec.toNat)]

/-- An in-flight record (R356). -/
def InFlight.pieces (r : InFlight) (at_ : Nat) : List Piece3 :=
  [(at_, 8, r.insn), (at_ + 8, 1, if r.late then 2 else 1), (at_ + 9, 1, if r.uniform then 1 else 0), (at_ + 10, 1, r.dreg), (at_ + 11, 1, r.width),
   (at_ + 12, 4, r.pend.toNat), (at_ + 16, 4, if r.late then (r.pend &&& ~~~r.unperformed).toNat else 0)] ++
    (if r.late then (lanes (r.pend &&& ~~~r.unperformed)).map (fun l => (at_ + 64 + 8 * l, 8, SMap.get 0 r.val l))
     else (lanes r.pend).map (fun l => (at_ + 64 + 8 * l, 8, SMap.get 0 r.addr l)))

/-- Pieces of a list of like parts that lie a fixed distance apart. -/
def piecesOf {α : Type} (f : α → Nat → List Piece3) (step : Nat) : List α → (at_ : Nat) → List Piece3
  | [], _ => []
  | a :: t, at_ => f a at_ ++ piecesOf f step t (at_ + step)

/-- A warp part (R355). -/
def Warp.pieces (w : Warp) (a : Allot) (at_ : Nat) : List Piece3 :=
  piecesOf Entry.pieces 32 w.frontier at_ ++
    w.rstack.flatMap (fun y => y.2.zipIdx.map (fun z => (at_ + 256 + 128 * y.1 + 8 * z.2, 8, z.1))) ++
    w.depth.map (fun y => (at_ + 4352 + 4 * y.1, 4, y.2)) ++
    (List.range 32).map (fun l => (at_ + 4480 + 4 * l, 4, (w.laneTx l).status)) ++
    (List.range 16).map (fun p => (at_ + 4608 + 4 * p, 4, (w.predMask p).toNat)) ++
    [(at_ + 4672, 8, w.spillb.toNat), (at_ + 4680, 4, w.fstat.toNat), (at_ + 4684, 4, w.privst.toNat), (at_ + 4688, 8, w.epc.toNat),
     (at_ + 4696, 4, w.ecause.toNat), (at_ + 4700, 8, w.eframe.toNat), (at_ + 4708, 8, w.tvec.toNat)] ++
    piecesOf InFlight.pieces 320 w.inflight (at_ + 4736) ++
    [(at_ + 14976, 8, (~~~w.sEmpty).toNat)] ++
    w.s.map (fun y => (at_ + 14984 + 4 * y.1, 4, y.2.toNat)) ++
    (List.range a.vregs).map (fun r => (at_ + 14984 + 4 * a.sregs + 4 * r, 4, (~~~(SMap.get 0#32 w.vEmpty r)).toNat)) ++
    w.v.map (fun y => (at_ + 14984 + 4 * a.sregs + 4 * a.vregs + 4 * y.1, 4, y.2.toNat))

/-- Every field of an area that is not zero (R353, R354). -/
def Saved.pieces (v : Saved) : List Piece3 :=
  let g := v.group
  [(0, 64, v.headerBits), (256, 2, 1)] ++
    g.tiles.map (fun y => (512 + 32 * y.1, 32, y.2.toNat)) ++
    g.agr.flatMap (fun y => y.2.pieces (1024 + 128 * y.1)) ++
    [(3072, 8, g.tscb.toNat)] ++
    g.trig.flatMap (fun y => match y.2 with
      | some t => [(3072 + 64 + 64 * y.1, 64, putField t.cmd.record 320 64 t.vm.toNat)] | none => []) ++
    piecesOf MapRange.pieces 32 g.maps 3840 ++ mapPieces 4096 g.maps ++
    v.stash.map (fun y => (g.areaStash + y.1, 1, y.2.toNat)) ++
    g.opbuf.map (fun y => (g.areaBuffer + y.1, 1, y.2.toNat)) ++
    g.acc.map (fun y => (g.areaAcc + 4 * y.1, 4, y.2.toNat)) ++
    v.warps.flatMap (fun w => w.pieces g.allot (g.areaWarps + w.windex * warpPart g.allot))

/-! ### Writing an area -/

/-- Writes pieces of an area of a context. -/
def State.writePieces (s : State) (x base : Nat) (ps : List Piece3) : State :=
  ps.foldl (fun s p => (s.ctxWrite x (base + p.1) p.2.1 p.2.2).2) s

/-- Writes `n` blocks of 256 zero bytes. -/
def State.zeroBlocks (s : State) (x base : Nat) : (n : Nat) → State
  | 0 => s
  | n + 1 => State.zeroBlocks (s.ctxWrite x base 256 0).2 x (base + 256) n

/-- Writes a whole area: every byte that no field names is zero. -/
def State.writeArea (s : State) (v : Saved) : State :=
  (s.zeroBlocks v.group.ctx v.base (v.len / 256)).writePieces v.group.ctx v.base v.pieces

/-- Where the first byte of an area stands in memory. -/
def State.areaKey (s : State) (x base : Nat) : Option Nat :=
  match s.xlatCtx x base .store with | (.ok p _ _ _, _) => some (memKey p) | _ => none

/-! ### The arena (R357) -/

/-- The lowest free run of `len` bytes at a 256-byte boundary within the save arena: at its start, or right above an area in use. -/
def Ctx.freeRun (k : Ctx) (base size len : Nat) : Option Nat :=
  let starts := sortBy id (roundUp 256 base :: k.areas.map (fun a => roundUp 256 (a.1 + a.2)))
  starts.find? (fun b => base ≤ b && b + len ≤ base + size && k.areas.all (fun a => b + len ≤ a.1 || a.1 + a.2 ≤ b))

/-- A free run for an area of a context. -/
def State.freeArea (s : State) (x len : Nat) : Option Nat := (s.ctx x).freeRun (s.ctxReg x 0x020) (s.ctxReg x 0x028) len

/-- Frees an area: groups of the context that found no room are tried again (R357). -/
def State.dropArea (s : State) (x base : Nat) : State :=
  let k := s.ctx x
  let s := s.setCtx x { k with areas := k.areas.filter (fun a => a.1 != base) }
  s.mapCores (fun _ k => { k with groups := k.groups.map (fun y => (y.1, y.2.map (fun g => if g.ctx = x then { g with refused := false } else g))) })

/-! ### Groups, resident or saved -/

/-- The saved group of a number. -/
def Core.savedAt (k : Core) (number : Nat) : Option Saved := k.saved.find? (fun v => v.number == number)

/-- Replaces a saved group. -/
def Core.putSaved (k : Core) (v : Saved) : Core := { k with saved := k.saved.map (fun x => if x.number = v.number then v else x) }

/-- A group of a core, resident or saved. -/
def State.groupAt (s : State) (c n : Nat) : Option Group :=
  match (s.core c).group n with
  | some g => some g
  | none => ((s.core c).savedAt n).map (fun v => v.group)

/-- Replaces a group where it stands; the area of a saved one shows the pieces that change. -/
def State.putGroupAt (s : State) (c n : Nat) (g : Group) (ps : List Piece3) : State :=
  match (s.core c).group n with
  | some _ => s.setGroup c n g
  | none =>
    match (s.core c).savedAt n with
    | some v => (s.setCore c ((s.core c).putSaved { v with group := g })).writePieces g.ctx v.base ps
    | none => s

end Sys2Proof.Machine
end

