-- ==== Sys2Proof/Machine/Control.lean ====
section
/-! DEFINITION. Control flow (R226 to R232), RECONV (R19), PRIO (R230) and YIELD (R24). -/

namespace Sys2Proof.Machine

/-- Every listed lane goes to its own address. -/
def goEach (f : Nat → Nat) (ls : List Nat) : SMap (Option Nat) := ls.map (fun l => (l, some (f l)))

/-- A transfer whose targets cannot fail (R226). -/
def transfer (target : Iss → Warp → Nat → Nat) (x : Iss) (s : State) : Res :=
  let w := s.warp x.core x.slot
  .done { s := s, go := goEach (target x w) (lanes (x.part w)) }

/-- The trap of a register target, if it fails: bit 0 set, or a bit of [63:57] set (R228). -/
def targetCause (t : Nat) : Option Nat := if bit t 0 then some 0x06 else if field t 57 7 ≠ 0 then some 0x11 else none

/-- The lanes whose register targets fail, and the trap of the lowest (R228). -/
def Iss.badTargets (x : Iss) (s : State) : Option Res :=
  let w := s.warp x.core x.slot
  let bad := filterMask (x.part w) (fun l => (targetCause (x.a64 w l)).isSome)
  match lowestLane bad with
  | none => none
  | some l =>
    let t := x.a64 w l
    let cause := (targetCause t).getD 0
    some (x.trap s cause bad { fva := t, acc := 3, kind := if cause = 0x11 then 10 else 0 })

/-- The lanes whose spill addresses do not translate: those that trap and those that park (R227). -/
def Iss.spillFaults (x : Iss) (s : State) (acc : Acc) (idx : Warp → Nat → List Nat) (ls : List Nat) : List (Nat × Nat × Xlat) :=
  let w := s.warp x.core x.slot
  let cx := s.ctxOf x.core x.slot
  ls.filterMap (fun l => (s.spillFault x.core cx acc ((idx w l).map (spillAddr w l))).map (fun r => (l, r.1, r.2)))

/-- Pushes in every listed lane. -/
def Iss.pushEach (x : Iss) (s : State) (cx ret : Nat) : List Nat → State
  | [] => s
  | l :: t => Iss.pushEach x (s.push x.core x.slot cx l ret x.insn x.len x.pc) cx ret t

/-- Runs the effect in the lanes whose spill addresses translate; a refused access traps with no effect, a page fault parks its lanes
before the instruction has any effect in them (R227). -/
def Iss.withSpill (x : Iss) (s : State) (acc : Acc) (idx : Warp → Nat → List Nat) (eff : LaneMask → State × SMap (Option Nat) × LaneMask) : Res :=
  let w := s.warp x.core x.slot
  let faults := x.spillFaults s acc idx (lanes (x.part w))
  let perms := faults.filter (fun r => match r.2.2 with | .perm _ _ => true | _ => false)
  match perms with
  | (_, va, r) :: _ => x.trap s 0x11 (maskOf (perms.map Prod.fst)) { fva := va, acc := acc.code, kind := r.where_.1, level := r.where_.2 } true
  | [] =>
    let parked := maskOf (faults.map Prod.fst)
    let (s, go, exits) := eff (x.part w &&& ~~~parked)
    match faults with
    | [] => .done { s := s, go := go, exits := exits }
    | (_, va, r) :: _ =>
      let info : FaultInfo := { cause := 0x10, pc := x.pc, fva := va, lanes := parked, acc := acc.code, kind := r.where_.1, level := r.where_.2 }
      let (s, go2, park) := s.pageFault x.core x.slot parked info
      .done { s := s, go := sortGo (go ++ go2), park := park, info := { info with lanes := park }, exits := exits }

/-- CALL and CALLX: pushes pc + 8 and transfers (R226, R227). -/
def callTo (target : Iss → Warp → Nat → Nat) (x : Iss) (s : State) : Res :=
  let w := s.warp x.core x.slot
  x.withSpill s .store spillIdx (fun m =>
    (x.pushEach s (s.ctxOf x.core x.slot) (x.pc + x.len) (lanes m), goEach (target x w) (lanes m), 0#32))

/-- One plain load of a refill (R227): the value, or what refuses it. A vanished stash range and a page that has left park, as page faults do. -/
def State.refillLoad (s : State) (c slot x lane va : Nat) : Got × State :=
  let at_ (cause kind level : Nat) : FaultInfo := { cause := cause, fva := va, lanes := 1#32 <<< lane, kind := kind, level := level }
  match s.xlatLane c x va .load true with
  | (.fault k l, s) => (.park (at_ 0x10 k l), s)
  | (.perm k l, s) => (.trap (at_ 0x11 k l), s)
  | (.ok p wti _ _, s) =>
    match s.chase x va 2 p with
    | none => (.park (at_ 0x10 6 15), s.dropTlb c x va)
    | some p =>
      if s.refusesModule c x p then (refusedModule lane va 0, s)
      else
        match s.readNow c slot x lane p wti 8 0 va with
        | (.gone, s) => (.park (at_ 0x12 7 15), s)
        | r => r

/-- Loads the refilled addresses of a lane, oldest first, so that the newest heads the list. -/
def State.refillEach (s : State) (c slot x lane : Nat) : List Nat → List Nat → Except Got (List Nat) × State
  | [], acc => (.ok acc, s)
  | va :: t, acc =>
    match s.refillLoad c slot x lane va with
    | (.val v, s) => State.refillEach s c slot x lane t (v :: acc)
    | (g, s) => (.error g, s)

/-- The return addresses that a lane holds when it pops, newest first, after any refill (R227); none at depth 0. -/
def State.heldReturns (s : State) (c slot x lane : Nat) : Except Got (List Nat) × State :=
  let w := s.warp c slot
  if SMap.get 0 w.depth lane = 0 then (.ok [], s)
  else
    match SMap.get [] w.rstack lane with
    | [] => s.refillEach c slot x lane ((refillIdx w lane).map (spillAddr w lane)) []
    | held => (.ok held, s)

/-- What listed lanes would pop. -/
def Iss.popEach (x : Iss) (s : State) (cx : Nat) : List Nat → List (Nat × Except Got (List Nat)) × State
  | [] => ([], s)
  | l :: t =>
    let (r, s) := s.heldReturns x.core x.slot cx l
    let (rs, s) := Iss.popEach x s cx t
    ((l, r) :: rs, s)

/-- The trap of a lane's RET: a refused load, or a popped address that no transfer may go to (R196, log 85). -/
def popTrap : Except Got (List Nat) → Option FaultInfo
  | .error (.trap i) => some i
  | .ok (a :: _) => (targetCause a).map (fun k => { cause := k, fva := a, acc := 3, kind := if k = 0x11 then 10 else 0 })
  | _ => none

/-- The fault that parks a lane's RET. -/
def popPark : Except Got (List Nat) → Option FaultInfo
  | .error (.park i) => some i
  | _ => none

/-- A lane's RET waits for a halted peer group (R90). -/
def popHeld : Except Got (List Nat) → Bool
  | .error (.trap _) | .error (.park _) | .ok _ => false
  | _ => true

/-- Takes the newest address off a lane's stack. -/
def State.popLane (s : State) (c slot : Nat) (p : Nat × Except Got (List Nat)) : State :=
  match p.2 with
  | .ok (_ :: t) =>
    let w := s.warp c slot
    s.setWarp c slot { w with rstack := SMap.set [] w.rstack p.1 t, depth := SMap.set 0 w.depth p.1 (SMap.get 0 w.depth p.1 - 1) }
  | _ => s

/-- Where the popping lanes go; a lane at depth 0 exits. -/
def popGo (ps : List (Nat × Except Got (List Nat))) : SMap (Option Nat) :=
  ps.filterMap (fun p => match p.2 with | .ok (a :: _) => some (p.1, some a) | _ => none)

/-- The lanes that exit at depth 0 (R226). -/
def popExits (ps : List (Nat × Except Got (List Nat))) : LaneMask :=
  maskOf (ps.filterMap (fun p => match p.2 with | .ok [] => some p.1 | _ => none))

/-- RET (R226, R227): refused loads and bad targets trap before any lane moves; lanes whose refill faults park before the instruction has any effect in
them. -/
def retEff (x : Iss) (s : State) : Res :=
  let (ps, s) := x.popEach s (s.ctxOf x.core x.slot) (lanes (x.part (s.warp x.core x.slot)))
  match ps.filterMap (fun p => (popTrap p.2).map (fun i => (p.1, i))) with
  | (l, i) :: t => x.trap s i.cause (maskOf (l :: t.map Prod.fst)) i true
  | [] =>
    if ps.any (fun p => popHeld p.2) then .stall s
    else
      let parks := ps.filterMap (fun p => (popPark p.2).map (fun i => (p.1, i)))
      let parked := maskOf (parks.map Prod.fst)
      let info : FaultInfo := match parks with | (_, i) :: _ => { i with pc := x.pc, lanes := parked } | [] => {}
      let s := ps.foldl (fun s p => s.popLane x.core x.slot p) s
      let ex := popExits ps
      let (s, go, park) := if parked = 0#32 then (s, [], 0#32) else s.pageFault x.core x.slot parked info
      .done { s := s.exitLanes x.core x.slot ex, go := sortGo (popGo ps ++ go), park := park, info := { info with lanes := park }, exits := ex }

/-- `BRA` (R226). -/
def execBra (f : Form64) (s : State) : Host.Outcome State Fault Refusal := runCore (.bra f) (transfer (fun x _ _ => x.target)) s

/-- `BRX` (R226, R228). -/
def execBrx (f : Form64) (s : State) : Host.Outcome State Fault Refusal :=
  runCore (.brx f) (fun x s => (x.badTargets s).getD (transfer (fun x w l => x.a64 w l) x s)) s

/-- `CALL` (R226, R227). -/
def execCall (f : Form64) (s : State) : Host.Outcome State Fault Refusal := runCore (.call f) (callTo (fun x _ _ => x.target)) s

/-- `CALLX` (R226 to R228). -/
def execCallx (f : Form64) (s : State) : Host.Outcome State Fault Refusal :=
  runCore (.callx f) (fun x s => (x.badTargets s).getD (callTo (fun x w l => x.a64 w l) x s)) s

/-- `RET` (R226, R227). -/
def execRet (f : Form64) (s : State) : Host.Outcome State Fault Refusal := runCore (.ret f) retEff s

/-! ### RECONV (R19) -/

/-- Two entries that wait at one address for one cause merge into one (R19 step 2, R322 step 1, R329). -/
def mergeEntry (e : Entry) : List Entry → List Entry
  | [] => [e]
  | x :: t =>
    if x.pc = e.pc && x.state == .waiting && e.state == .waiting && x.cause == e.cause && x.held.isEmpty && e.held.isEmpty
      then { x with mask := x.mask ||| e.mask } :: t
    else x :: mergeEntry e t

/-- Merges every pair of waiting entries at one address. -/
def mergeWaiting (f : List Entry) : List Entry := f.foldl (fun acc e => if e.state = .waiting then mergeEntry e acc else acc ++ [e]) []

/-- An entry waits at its instruction (R19 step 1). -/
def Iss.waitAt (x : Iss) (s : State) (cause : WaitCause) (merge : Bool) : State :=
  let w := s.warp x.core x.slot
  match w.entry x.idx with
  | none => s
  | some e =>
    let w := w.replaceEntry x.idx [{ e with state := .waiting, cause := some cause, age := 0 }]
    s.setWarp x.core x.slot (if merge then { w with frontier := mergeWaiting w.frontier } else w)

/-- `RECONV` (R19, R229). -/
def execReconv (f : Form64) (s : State) : Host.Outcome State Fault Refusal :=
  runCore (.reconv f) (fun x s => .placed (x.waitAt s .reconv true)) s

/-- The waiting set at the lowest RECONV address (R19). -/
def lowestReconv : List Entry → Option Entry → Option Entry
  | [], best => best
  | e :: t, best =>
    if e.state = .waiting && e.cause == some .reconv then
      lowestReconv t (match best with | some b => if e.pc.toNat < b.pc.toNat then some e else best | none => some e)
    else lowestReconv t best

/-- `RECONV_RELEASE`: one ready entry at the address after the RECONV (8 bytes), with the lookup of R15 whatever PRIO had given, and age 0 (R19). -/
def execReconvRelease (s : State) : Host.Outcome State Fault Refusal :=
  let c := s.args.core; let slot := s.args.slot
  match (s.core c).warp slot with
  | none => .refused (.notEnabled "RECONV_RELEASE")
  | some w =>
    if !w.releasable || w.trapping.isSome then .refused (.notEnabled "RECONV_RELEASE")
    else
      match lowestReconv w.frontier none with
      | none => .refused (.notEnabled "RECONV_RELEASE")
      | some e =>
        let x := s.ctxOf c slot
        let pc := (e.pc.toNat + 8) % 2 ^ 57
        let prio := match s.blockOf x pc with | some (_, p) => BitVec.ofNat 8 p | none => e.prio
        let e' : Entry := { pc := BitVec.ofNat 57 pc, prio := prio, mask := e.mask }
        .next (s.setWarp c slot { w with frontier := w.frontier.map (fun y => if y = e then e' else y) })

/-- `HELD_SPLIT`: the split is made in the first cycle in which enough slots are free (R20). -/
def execHeldSplit (s : State) : Host.Outcome State Fault Refusal :=
  let c := s.args.core; let slot := s.args.slot; let i := s.args.entry
  match (s.core c).warp slot with
  | none => .refused (.notEnabled "HELD_SPLIT")
  | some w =>
    match w.entry i with
    | none => .refused (.notEnabled "HELD_SPLIT")
    | some e =>
      if w.splitFits e then .next (s.setWarp c slot (w.replaceEntry i (e.held.map (fun p => p.entryOf e)))) else .refused (.notEnabled "HELD_SPLIT")

/-- `AGE_PROMOTION`: an entry whose age has reached 4,096 becomes promoted (R23). -/
def execAgePromotion (s : State) : Host.Outcome State Fault Refusal :=
  let c := s.args.core; let slot := s.args.slot; let i := s.args.entry
  match (s.core c).warp slot with
  | none => .refused (.notEnabled "AGE_PROMOTION")
  | some w =>
    match w.entry i with
    | none => .refused (.notEnabled "AGE_PROMOTION")
    | some e =>
      if promotable e && (s.groupOf c slot).promise then .next (s.setWarp c slot (w.replaceEntry i [{ e with state := .promoted }]))
      else .refused (.notEnabled "AGE_PROMOTION")

/-- `YIELD`: the issuing entry ranks below every other until another issues (R24). -/
def execYield (f : Form64) (s : State) : Host.Outcome State Fault Refusal :=
  runCore (.yield f) (fun x s =>
    let w := s.warp x.core x.slot
    match w.entry x.idx with
    | none => .done { s := s }
    | some e => .done { s := s.setWarp x.core x.slot (w.replaceEntry x.idx [{ e with yielded := true }]) }) s

/-- The parts of a PRIO: participating lanes at the next instruction with the new priority, the others with the old one; a move into another block
takes that block's priority (R15, R230). -/
def prioParts (x : Iss) (s : State) (part : LaneMask) (imm : Nat) : List SplitPart :=
  let next := x.pc + x.len
  let cx := s.ctxOf x.core x.slot
  let p := (s.prioAt cx x.pc next (BitVec.ofNat 8 imm)).toNat
  let q := (s.prioAt cx x.pc next x.e.prio).toNat
  let rest := x.e.mask &&& ~~~part
  (if part = 0#32 then [] else [{ pc := next, prio := p, mask := part }]) ++ (if rest = 0#32 then [] else [{ pc := next, prio := q, mask := rest }])

/-- `PRIO` (R15, R230): the split needs a slot, and is held without one (R20). -/
def execPrio (f : Form64) (s : State) : Host.Outcome State Fault Refusal :=
  runCore (.prio f) (fun x s =>
    let w := s.warp x.core x.slot
    let ps := prioParts x s (x.part w) (imm16 x.f)
    if w.frontier.length - 1 + ps.length ≤ 8 then .placed (s.setWarp x.core x.slot (w.replaceEntry x.idx (ps.map SplitPart.toEntry)))
    else
      match w.entry x.idx with
      | none => .stall s
      | some e => .placed (s.setWarp x.core x.slot (w.replaceEntry x.idx [{ e with cause := some .fullFrontier, held := ps }]))) s

/-- `LOOP`: counts down and branches while the count is not zero (R231). -/
def execLoop (f : Form64) (s : State) : Host.Outcome State Fault Refusal :=
  runCore (.loop f) (fun x s =>
    let w := s.warp x.core x.slot
    let count (l : Nat) : Nat := ((w.get x.rd l) - 1#32).toNat
    let w' := w.writeLanes x.rd 1 count (lanes (x.part w))
    let taken := (lanes (x.part w)).filter (fun l => count l != 0)
    .done { s := x.withWarp s w', go := goEach (fun _ => x.target) taken }) s

/-- `NOP` (R232). -/
def execNop (f : Form64) (s : State) : Host.Outcome State Fault Refusal := runCore (.nop f) (fun _ s => .done { s := s }) s

/-- `EXIT`: the participating lanes end (R232). -/
def execExit (f : Form64) (s : State) : Host.Outcome State Fault Refusal :=
  runCore (.exit f) (fun x s =>
    let m := x.part (s.warp x.core x.slot)
    .done { s := s.exitLanes x.core x.slot m, exits := m }) s

end Sys2Proof.Machine
end

