-- ==== Sys2Proof/Machine/Waits.lean ====
section
/-! DEFINITION. Waiting: how an entry's waits end, WAITV and its table (R280, R281), the monitor (R282), fences (R149, R283) and barrier objects (R284 to R286). -/

namespace Sys2Proof.Machine

/-! ### An entry's waits -/

/-- The waits of the lanes of an entry. -/
def Warp.waitsIn (w : Warp) (e : Entry) : List Wait := w.waits.filter (fun y => e.mask.getLsbD y.lane)

/-- Every wait of an entry has been met. -/
def Warp.allDone (w : Warp) (e : Entry) : Bool := e.state == .waiting && !(w.waitsIn e).isEmpty && (w.waitsIn e).all (fun y => y.done)

/-- The value that a finished wait leaves in its registers. -/
def Wait.result (y : Wait) : Nat :=
  match y.kind with
  | .flood _ _ => y.value + y.status * 2 ^ 64
  | _ => y.value

/-- Writes the registers of finished waits and makes them full (R280 step 5). -/
def Warp.writeWaits (w : Warp) : List Wait → Warp
  | [] => w
  | y :: t =>
    let w := match y.regs with
      | some (d, n) => if y.trap.isSome then w.markFullRun (.v d) (1#32 <<< y.lane) n
        else (w.putRun (.v d) y.lane n y.result).markFullRun (.v d) (1#32 <<< y.lane) n
      | none => w
    Warp.writeWaits w t

/-- The traps that a warp's finished waits owe, taken at the next instruction boundary (R268). -/
def Warp.owedTraps (w : Warp) (ys : List Wait) : List PendingTrap :=
  match ys.filter (fun y => y.trap.isSome) with
  | [] => []
  | y :: t =>
    let i := y.trap.getD {}
    let m := maskOf ((y :: t).map (fun y => y.lane))
    [{ cause := i.cause, lanes := m, pc := y.pc, insn := y.insn, len := y.len, info := { i with pc := y.pc, lanes := m }, epc := none, handler := w.handling m }]

/-- Ends the wait of an entry all of whose waits have been met: registers are written, and the entry goes on after the instruction with age 0. -/
def State.endWait (s : State) (c slot idx : Nat) : State :=
  let w := s.warp c slot
  match w.entry idx with
  | none => s
  | some e =>
    if !w.allDone e then s
    else
      let ys := w.waitsIn e
      let len := ((ys.head?).map (fun y => y.len)).getD 8
      let next := (e.pc.toNat + len) % 2 ^ 57
      let w := w.writeWaits ys
      let w := { w with waits := w.waits.filter (fun y => !e.mask.getLsbD y.lane), pending := w.pending ++ w.owedTraps ys }
      let e' : Entry := { pc := BitVec.ofNat 57 next, prio := s.prioAt (s.ctxOf c slot) e.pc.toNat next e.prio, mask := e.mask }
      s.setWarp c slot (w.replaceEntry idx [e'])

/-- Ends every entry of a warp whose waits have been met. -/
def State.endWaits (s : State) (c slot : Nat) : State :=
  (List.range (s.warp c slot).frontier.length).foldl (fun s i => s.endWait c slot i) s

/-- Changes the waits of a warp that meet a test. -/
def Warp.mapWaits (w : Warp) (p : Wait → Bool) (f : Wait → Wait) : Warp := { w with waits := w.waits.map (fun y => if p y then f y else y) }

/-- A warp-level wait of the entry's lowest lane. -/
def Iss.entryWait (x : Iss) (s : State) (m : LaneMask) (kind : WaitKind) : State :=
  let w := s.warp x.core x.slot
  let y : Wait := { lane := (lowestLane m).getD 0, kind := kind, pc := x.pc, len := x.len, insn := x.insn, since := (s.core x.core).clock.toNat }
  s.setWarp x.core x.slot { w with waits := w.waits.filter (fun z => !m.getLsbD z.lane) ++ [y] }

/-! ### WAITV (R280, R281) -/

/-- What one entry of a wait table stands for: element, mask, expected value and comparison. -/
def WaitKind.key : WaitKind → Option (Place × Nat × Nat × Nat × Nat × Bool)
  | .value p width mask expected cmp sgn _ _ => some (p, width, mask, expected, cmp, sgn)
  | _ => none

/-- Two places of one table: the same home slice, or the same stash unit. -/
def Place.sameTable (p q : Place) : Bool :=
  match p, q with
  | .dom a, .dom b => sliceOf a == sliceOf b
  | .stash i _, .stash j _ => i == j
  | _, _ => false

/-- Entries that a warp holds in the table of a place; lanes with equal element, mask, comparison and value share one (R281). -/
def Warp.tableEntries (w : Warp) (p : Place) : Nat :=
  let ks := (w.waits.filter (fun y => y.held && !y.done)).filterMap (fun y => y.kind.key)
  ((ks.filter (fun k => k.1.sameTable p)).foldl (fun acc k => if acc.contains k then acc else k :: acc) []).length

/-- Entries in use in the table of a place: those of resident warps, since swap-out and pre-emption free a warp's (R281). -/
def State.tableUsed (s : State) (p : Place) : Nat :=
  s.cores.foldl (fun n k => k.2.warps.foldl (fun n y => match y.2 with | some w => n + w.tableEntries p | none => n) n) 0

/-- The capacity of a place's table (R281); port agents keep none. -/
def tableSize : Place → Nat
  | .dom _ => 512 | .stash _ _ => 64 | .port _ _ => 0

/-- A wait finds or shares an entry of its table. -/
def State.tableHolds (s : State) (w : Warp) (kind : WaitKind) : Bool :=
  match kind.key with
  | none => false
  | some k => w.waits.any (fun y => y.held && !y.done && y.kind.key == some k) || s.tableUsed k.1 < tableSize k.1

/-- Reads the element of a wait at its home, never in the L1 (R280 step 1), and tells where that is: a page that has left is followed (R122). -/
def State.waitRead (s : State) (c slot lane : Nat) (p : Place) (n va : Nat) : Got × Place × State :=
  let x := s.ctxOf c slot
  let bad : Got := .trap { cause := 0x16, fva := va, lanes := 1#32 <<< lane, acc := 0 }
  match p with
  | .stash _ _ => let (got, s) := s.readNow c slot x lane p false n 0 va; (got, p, s)
  | _ =>
    match s.chase x va 2 p with
    | none => (.stale, p, s)
    | some p =>
      if s.refusesModule c x p then (refusedModule lane va 0, p, s)
      else
      let s := s.syncLine c p
      match s.eccRead (coreModule c) (x % 32) 1 p n with
      | (true, s) => (bad, p, s)
      | (false, s) => let (v, s) := s.homeRead (some c) p n; (.val (s.overDirty c p n v), p, s)

/-- The wait of a lane for a value at another place. -/
def Wait.movedTo (y : Wait) (p : Place) : Wait :=
  match y.kind with
  | .value _ width mask expected cmp sgn scope d => { y with kind := .value p width mask expected cmp sgn scope d }
  | _ => y

/-- A wait compares what it has read: it is done, with an acquire where one is due, or it registers in the same operation (R280 steps 2 to 4). -/
def State.compareWait (s : State) (c slot : Nat) (y : Wait) (got : Got) : Wait × State :=
  match y.kind with
  | .value p width mask expected cmp sgn scope _ =>
    match got with
    | .val v =>
      if waitHolds width mask expected cmp sgn v then ({ y with done := true, value := v, woken := false, held := false }, s.acquire c p scope)
      else
        let y := { y with woken := false, since := (s.core c).clock.toNat }
        ({ y with held := s.tableHolds (s.warp c slot) y.kind }, s)
    | .trap i => ({ y with done := true, woken := false, held := false, trap := some i }, s)
    | _ => ({ y with woken := false, held := false, since := (s.core c).clock.toNat }, s)
  | _ => (y, s)

/-- Replaces the wait of a lane. -/
def Warp.putWait (w : Warp) (y : Wait) : Warp := { w with waits := w.waits.filter (fun z => z.lane != y.lane) ++ [y] }

/-- A lane's target has gone, its page has left, or a fill faults: the fault comes to the core later (R122, R420). -/
def State.waitFault (s : State) (c slot : Nat) (y : Wait) (got : Got) : State :=
  let m := 1#32 <<< y.lane
  let r : InFlight :=
    { insn := y.insn, len := y.len, pc := y.pc, late := false, uniform := false, dreg := 0, width := 4, pend := m, addr := [(y.lane, y.va)] }
  match got with
  | .gone => s.setWarp c slot ((s.warp c slot).addTargetFault r m 0x12 7 0)
  | .stale =>
    let s := s.dropTlb c (s.ctxOf c slot) y.va
    s.setWarp c slot ((s.warp c slot).addTargetFault r m 0x10 6 0)
  | .park f => s.setWarp c slot ((s.warp c slot).addLateFault r m f)
  | _ => s

/-- The first read of each lane. -/
def Iss.waitEach (x : Iss) (s : State) (kind : LaneAt → WaitKind) (n : Nat) : List LaneAt → State
  | [] => s
  | a :: t =>
    let (got, p, s) := s.waitRead x.core x.slot a.lane a.place n a.va
    let y : Wait := { lane := a.lane, kind := kind a, pc := x.pc, len := x.len, insn := x.insn, va := a.va }
    let s := s.waitFault x.core x.slot y got
    let (y, s) := s.compareWait x.core x.slot (y.movedTo p) got
    Iss.waitEach x (s.setWarp x.core x.slot ((s.warp x.core x.slot).putWait y)) kind n t

/-- The scope of WAITV's final read by [7:6]: .mo, .dm or .sy; 0 for none (R280). -/
def Iss.waitScope (x : Iss) : Nat := if x.f.rm = 0#2 then 0 else x.f.rm.toNat + 4

/-- The effect of WAITV in the lanes that passed their checks. -/
def Iss.waitvEff (x : Iss) (oks : List LaneAt) (s : State) : Res :=
  if oks.isEmpty then .done { s := s }
  else
    let ty := x.f.ty.toNat; let n := atomWidth ty; let w := s.warp x.core x.slot
    let scope := acqScope x.waitScope w
    let s := (s.clearFence x.core x.slot true false).drain x.core x.slot
    let m := maskAt oks
    let s := s.setWarp x.core x.slot { s.warp x.core x.slot with waits := (s.warp x.core x.slot).waits.filter (fun z => !m.getLsbD z.lane) }
    let kind (a : LaneAt) : WaitKind :=
      .value a.place n (x.operand w x.r2 a.lane) (x.operand w x.r3 a.lane) x.f.c3.toNat (ty == 2 || ty == 3) scope x.f.rd.toNat
    let s := x.waitEach s kind n oks
    let w := s.warp x.core x.slot
    let ys := w.waits.filter (fun z => m.getLsbD z.lane)
    if ys.all (fun y => y.done) then
      let w := w.writeWaits ys
      .done { s := s.setWarp x.core x.slot { w with waits := w.waits.filter (fun z => !m.getLsbD z.lane), pending := w.pending ++ w.owedTraps ys } }
    else .wait { s := s.setWarp x.core x.slot (w.markEmptyRun (.v x.f.rd.toNat) m (tyRegs ty)) } .wait

/-- `WAITV` (R280). -/
def execWaitv (f : Form64) (s : State) : Host.Outcome State Fault Refusal :=
  runCore (.waitv f) (fun x s =>
    let n := atomWidth x.f.ty.toNat
    x.memory s true (fun w => x.reachPlain w n n .load) x.waitvEff) s

/-- The wait of a lane. -/
def Warp.waitOf (w : Warp) (lane : Nat) : Option Wait := w.waits.find? (fun y => y.lane == lane)

/-- A lane's wait re-reads and re-compares (R280 step 4); the entry goes on when its last lane is done. -/
def State.recheck (s : State) (c slot : Nat) (y : Wait) : State :=
  match y.kind with
  | .value p width _ _ _ _ _ _ =>
    let (got, p, s) := s.waitRead c slot y.lane p width y.va
    let s := s.waitFault c slot y got
    let (y, s) := s.compareWait c slot (y.movedTo p) got
    (s.setWarp c slot ((s.warp c slot).putWait y)).endWaits c slot
  | _ => s

/-- Local cycles between the re-checks of a wait that no table holds (R281): 256 for a stash word, 1,024 for host and pool memory. -/
def Wait.period (y : Wait) : Option Nat :=
  match y.kind with
  | .value (.stash _ _) _ _ _ _ _ _ _ => if y.held then none else some 256
  | .value (.port _ _) _ _ _ _ _ _ _ => some 1024
  | _ => none

/-- A timed re-check is due. -/
def Wait.recheckDue (y : Wait) (clock : Nat) : Bool :=
  !y.done && (match y.period with | some n => y.since + n ≤ clock | none => false)

/-- `WAIT_RECHECK`: a wait on a stash word outside the full table, or on port memory, is re-checked by timer (R281). Operands: core, slot, lane. -/
def execWaitRecheck (s : State) : Host.Outcome State Fault Refusal :=
  let c := s.args.core; let slot := s.args.slot
  match (s.warp c slot).waitOf s.args.lane with
  | none => .refused (.notEnabled "WAIT_RECHECK")
  | some y => if y.recheckDue (s.core c).clock.toNat then .next (s.recheck c slot y) else .refused (.notEnabled "WAIT_RECHECK")

/-! ### The monitor (R282) -/

/-- The line of a place. -/
def Place.line : Place → Place
  | .dom a => .dom (a / 1024 * 1024) | .port m a => .port m (a / 1024 * 1024) | .stash c o => .stash c (o / 1024 * 1024)

/-- Fills the four sectors of a line into the L1. -/
def State.fillLine (s : State) (c line : Nat) (wti : Bool) : (n : Nat) → State
  | 0 => s
  | n + 1 => ((State.fillLine s c line wti n).l1Load c (line + 256 * n) 1 wti).2

/-- Arms the monitor (R282): a domain line is filled into the L1, from where its page is now (R122); on a port line the monitor fires at once. -/
def Iss.lmonEff (x : Iss) (oks : List LaneAt) (s : State) : Res :=
  match oks with
  | [] => .done { s := s }
  | a :: _ =>
    let cx := s.ctxOf x.core x.slot
    let arm (s : State) (p : Place) (fired : Bool) : Res :=
      let w := s.warp x.core x.slot
      .done { s := s.setWarp x.core x.slot { w with monitor := some { line := p.line, fired := fired } } }
    let fault (got : Got) : Res :=
      .done { s := s.waitFault x.core x.slot { lane := a.lane, kind := .monitor, pc := x.pc, len := x.len, insn := x.insn, va := a.va } got }
    match a.place with
    | .dom _ =>
      (match s.chase cx a.va 2 a.place with
       | some (.dom pa) =>
         if s.refusesModule x.core cx (.dom pa) then x.trap s 0x11 (1#32 <<< a.lane) { fva := a.va, kind := 10 } true
         else arm (s.fillLine x.core (pa / 1024 * 1024) a.wti 4) (.dom pa) false
       | some p => arm s p true
       | none => fault .stale)
    | .port _ _ => arm s a.place true
    | .stash k off =>
      match s.stashCheck cx k off 1 with
      | .served _ => arm s a.place false
      | .denied => x.trap s 0x11 (1#32 <<< a.lane) { fva := a.va, kind := 10 } true
      | .heldBack => .stall s
      | _ => fault .gone

/-- `LMON` (R282). -/
def execLmon (f : Form64) (s : State) : Host.Outcome State Fault Refusal :=
  runCore (.lmon f) (fun x s => x.memory s true (fun w => x.reachPlain w 1 1 .load) x.lmonEff) s

/-- `LMWAIT` (R282): it returns at once, disarming the monitor, where that has fired or is not armed. -/
def execLmwait (f : Form64) (s : State) : Host.Outcome State Fault Refusal :=
  runCore (.lmwait f) (fun x s => x.closed s (fun m s =>
    let w := s.warp x.core x.slot
    match w.monitor with
    | some y =>
      if y.fired then .done { s := s.setWarp x.core x.slot { w with monitor := none } }
      else .wait { s := x.entryWait s m .monitor } .wait
    | none => .done { s := s })) s

/-- Every LMWAIT of a warp ends. -/
def State.endMonitor (s : State) (c slot : Nat) : State :=
  (s.setWarp c slot ((s.warp c slot).mapWaits (fun y => y.kind == .monitor) (fun y => { y with done := true }))).endWaits c slot

/-- `MONITOR_FIRE`: a write by another agent, an invalidation or an eviction fires the warp's monitor; a waiting LMWAIT ends and disarms it (R282).
Operands: core, slot, cause. -/
def execMonitorFire (s : State) : Host.Outcome State Fault Refusal :=
  let c := s.args.core; let slot := s.args.slot; let w := s.warp c slot
  match w.monitor with
  | none => .refused (.notEnabled "MONITOR_FIRE")
  | some y =>
    if y.fired || y.hit != some s.args.cause then .refused (.notEnabled "MONITOR_FIRE")
    else if w.waits.any (fun z => z.kind == .monitor) then .next ((s.setWarp c slot { w with monitor := none }).endMonitor c slot)
    else .next (s.setWarp c slot { w with monitor := some { y with fired := true } })

/-- LMWAIT has waited 65,536 local cycles. -/
def Wait.lmDue (y : Wait) (clock : Nat) : Bool := y.kind == .monitor && !y.done && y.since + 65536 ≤ clock

/-- `LMWAIT_TIMEOUT`: LMWAIT returns after 65,536 local cycles of the core (R282); the monitor stays armed. Operands: core, slot. -/
def execLmwaitTimeout (s : State) : Host.Outcome State Fault Refusal :=
  let c := s.args.core; let slot := s.args.slot; let w := s.warp c slot
  let now := (s.core c).clock.toNat
  if w.waits.any (fun y => y.lmDue now) then
    .next ((s.setWarp c slot (w.mapWaits (fun y => y.lmDue now) (fun y => { y with done := true }))).endWaits c slot)
  else .refused (.notEnabled "LMWAIT_TIMEOUT")

/-! ### Fences (R149, R283) -/

/-- The sequencer of a scope as its core reaches it: the region's router for .rg, the die's hub for .di, the hub of die 0 of the module for .mo, and
the hub of die 0 of the domain's lowest module for .dm and .sy (R283). The signature that comes back holds the core's own. -/
def State.sequence (s : State) (c x scope : Nat) : Signature × State :=
  let g := (s.core c).sigOf scope
  if scope = 3 then
    let r := s.region (coreRegion c); let v := r.sequencer ||| g
    (v, s.setRegion (coreRegion c) { r with sequencer := v })
  else
    let h := if scope = 4 then coreModule c * 4 + coreDie c else if scope = 5 then coreModule c * 4 else s.lowestModule x * 4
    let k := s.hub h; let v := SMap.get 0#512 k.sequencer scope ||| g
    (v, s.setHub h { k with sequencer := SMap.set 0#512 k.sequencer scope v })

/-- The end of a fence at .dm or .sy (R149): stores declared lost set FSTAT; under .trap the fence traps PEER_GONE after that. -/
def Iss.fenceEnd (x : Iss) (s : State) (m : LaneMask) : Res :=
  let w := s.warp x.core x.slot
  if x.f.c3.toNat < 6 || w.lost == 0 then .done { s := s }
  else
    let w := w.reportLost
    let s := s.setWarp x.core x.slot w
    if x.f.ty = 0#4 then .done { s := s } else x.trap s 0x12 m

/-- A fence other than .rel waits until the warp's earlier loads and atomics have returned (R131, R283). Kinds: 0 .sc, 1 .acq, 2 .rel, 3 .ar. -/
def Iss.fenceLoads (x : Iss) (s : State) : Bool := x.f.rm.toNat ≠ 2 && !(s.warp x.core x.slot).inflight.isEmpty

/-- The scope of the release that a fence makes: its own, and for .acq at .dm and .sy, which the stores' acknowledgements complete (R149), one that
drains the queue; none for a narrower .acq (R283). -/
def Iss.fenceRelease (x : Iss) : Option Nat :=
  if x.f.rm.toNat ≠ 1 then some x.f.c3.toNat else if x.f.c3.toNat ≥ 6 then some 0 else none

/-- What a fence does after its release: the scopes that it leaves to later accesses, and the sequencer's signature (R131, R283). -/
def Iss.fenceBody (x : Iss) (s : State) : State :=
  let c := x.core; let slot := x.slot; let kind := x.f.rm.toNat; let scope := x.f.c3.toNat
  let w := s.warp c slot
  let w := if (kind = 2 ∨ kind = 3) ∧ 3 ≤ scope then { w with rel := some (max scope (w.rel.getD 0)) } else w
  let w := if kind = 1 ∨ kind = 3 then { w with acq := some (max scope (w.acq.getD 0)) } else w
  let s := s.setWarp c slot w
  if kind = 0 ∧ 3 ≤ scope then let (g, s) := s.sequence c (s.ctxOf c slot) scope; s.applySig c g else s

/-- The effect of a fence (R131, R283). -/
def Iss.fenceEff (x : Iss) (m : LaneMask) (s : State) : Res :=
  if x.fenceLoads s then .stall s
  else
    match x.fenceRelease with
    | some scope => x.release s scope m (fun s => x.fenceEnd (x.fenceBody s) m)
    | none => x.fenceEnd (x.fenceBody s) m

/-- `FENCE` (R283). -/
def execFence (f : Form64) (s : State) : Host.Outcome State Fault Refusal := runCore (.fence f) (fun x s => x.closed s x.fenceEff) s

/-! ### Barrier objects (R284 to R286) -/

/-- PHASE of a barrier object (R284). -/
def barPhase (o : Nat) : Bool := bit o 0
/-- ARRIVE. -/
def barArrive (o : Nat) : Nat := field o 26 7
/-- EXPECT. -/
def barExpect (o : Nat) : Nat := field o 33 7
/-- BYTES. -/
def barBytes (o : Nat) : Nat := field o 40 24
/-- WAITERS. -/
def barWaiters (o : Nat) : Nat := field o 64 64

/-- A barrier object's 16 bytes. -/
def State.barObj (s : State) (c gi b : Nat) : Nat := s.bytesAt (.stash c ((s.group c gi).stashBase + b)) 16

/-- Writes a barrier object. -/
def State.putBar (s : State) (writer : Option (Nat × Nat)) (c gi b o : Nat) : State := s.stashStore writer c gi ((s.group c gi).stashBase + b) 16 o

/-- The waits of a warp on an object. -/
def Wait.onBarrier (y : Wait) (b : Nat) : Bool := match y.kind with | .barrier off _ => off == b | _ => false

/-- The warps of listed slots wake and test their parity again (R285, R286): a wait that sees its parity pass ends, at a flip with the acquire of R143;
any other sets its bit of WAITERS again. -/
def State.wakeBarrier (s : State) (c gi b : Nat) (flip : Bool) : List Nat → State
  | [] => s
  | slot :: t =>
    let w := s.warp c slot
    let ys := w.waits.filter (fun y => y.onBarrier b)
    if w.group ≠ gi || ys.isEmpty then State.wakeBarrier s c gi b flip t
    else
      let o := s.barObj c gi b
      let pass (y : Wait) : Bool := match y.kind with | .barrier _ p => barPhase o != p | _ => false
      let w := w.mapWaits (fun y => y.onBarrier b && pass y) (fun y => { y with done := true })
      let s := (s.setWarp c slot w).endWaits c slot
      let s := if flip && ys.any pass then (match SMap.get 0#512 (s.group c gi).barSig b with | g => if g = 0#512 then s else s.applySig c g) else s
      let s := if ys.all pass then s else s.putBar none c gi b (putField (s.barObj c gi b) 64 64 (barWaiters (s.barObj c gi b) ||| 2 ^ slot))
      State.wakeBarrier s c gi b flip t

/-- The slots that a mask of 64 names, ascending. -/
def slotsOf (v : Nat) : List Nat := (List.range 64).filter (fun i => bit v i)

/-- The flip test (R286): with no arrival and no byte outstanding the object flips in one cycle. -/
def State.flipTest (s : State) (c gi b : Nat) : State :=
  let o := s.barObj c gi b
  if barArrive o = 0 ∧ barBytes o = 0 then
    let o' := putField (putField (putField o 0 1 (if barPhase o then 0 else 1)) 26 7 (barExpect o)) 64 64 0
    (s.putBar none c gi b o').wakeBarrier c gi b true (slotsOf (barWaiters o))
  else s

/-- The frame of a barrier instruction (R285): the offset's low bits and range, then the object as the stash unit holds it. -/
def Iss.barrier (x : Iss) (s : State) (parity : Bool) (eff : LaneMask → (b : Nat) → (p : Bool) → (o : Nat) → State → Res) : Res :=
  x.closed s (fun m s =>
    let w := s.warp x.core x.slot
    let g := s.groupOf x.core x.slot
    let v := x.a w (x.warpLane m)
    let low := if parity then v % 16 / 2 * 2 else v % 16
    let b := v / 16 * 16
    let fva := 2 ^ 56 + x.core % 512 * 2 ^ 19 + g.stashBase + b
    if low ≠ 0 then x.trap s 0x06 m { fva := fva, acc := 2 }
    else if b + 16 > g.allot.sbytes then x.trap s 0x11 m { fva := fva, acc := 2, kind := 10 }
    else
      let s := s.drain x.core x.slot
      let p : Place := .stash x.core (g.stashBase + b)
      match s.stashLoad x.core w.group (g.stashBase + b) 16 with
      | (.perm va k l, _, s) => x.trap s 0x11 m { fva := va, kind := k, level := l }
      | (.fault va k l, _, s) => .done { s := s, park := m, info := { cause := 0x10, pc := x.pc, fva := va, lanes := m, kind := k, level := l } }
      | (.ok, o, s) =>
        match s.eccRead (coreModule x.core) (g.ctx % 32) 1 p 16 with
        | (true, s) => x.trap s 0x16 m { fva := fva, acc := 2 }
        | (false, s) => eff m b (bit v 0) o s)

/-- `BAR.INIT` (R285). -/
def execBarInit (f : Form64) (s : State) : Host.Outcome State Fault Refusal :=
  runCore (.barInit f) (fun x s => x.barrier s false (fun m b _ o s =>
    let w := s.warp x.core x.slot; let l := x.warpLane m
    let n := x.b w l; let k := x.c w l
    if n > 64 ∨ k > 0xFFFFFF then x.trap s 0x02 m
    else
      let s := s.setGroup x.core w.group { s.group x.core w.group with barSig := SMap.set 0#512 (s.group x.core w.group).barSig b 0#512 }
      let s := s.putBar (some (x.core, x.slot)) x.core w.group b (k * 2 ^ 40 + n * 2 ^ 33 + n * 2 ^ 26)
      .done { s := s.wakeBarrier x.core w.group b false (slotsOf (barWaiters o)) })) s

/-- `BAR.EXP` (R285). -/
def execBarExp (f : Form64) (s : State) : Host.Outcome State Fault Refusal :=
  runCore (.barExp f) (fun x s => x.barrier s false (fun m b _ o s =>
    let w := s.warp x.core x.slot
    let k := barBytes o + x.b w (x.warpLane m)
    if k > 0xFFFFFF then x.trap s 0x02 m
    else .done { s := s.putBar (some (x.core, x.slot)) x.core w.group b (putField o 40 24 k) })) s

/-- `BAR.ARV`: an arrival and the flip test; a release at .gp (R285, R286). -/
def execBarArv (f : Form64) (s : State) : Host.Outcome State Fault Refusal :=
  runCore (.barArv f) (fun x s => x.barrier s false (fun m b _ o s => x.release s 0 m (fun s =>
    let w := s.warp x.core x.slot
    let s := if barArrive o = 0 then s else s.putBar (some (x.core, x.slot)) x.core w.group b (putField o 26 7 (barArrive o - 1))
    .done { s := s.flipTest x.core w.group b }))) s

/-- A parity seen to have passed is an acquire of the landed bytes' signature (R143, R286). -/
def State.barAcquire (s : State) (c gi b : Nat) : State :=
  let g := SMap.get 0#512 (s.group c gi).barSig b
  if g = 0#512 then s else s.applySig c g

/-- `BAR.WAIT` (R285). -/
def execBarWait (f : Form64) (s : State) : Host.Outcome State Fault Refusal :=
  runCore (.barWait f) (fun x s => x.barrier s true (fun m b p o s =>
    let w := s.warp x.core x.slot
    if barPhase o != p then .done { s := s.barAcquire x.core w.group b }
    else
      let s := s.putBar (some (x.core, x.slot)) x.core w.group b (putField o 64 64 (barWaiters o ||| 2 ^ x.slot))
      .wait { s := x.entryWait s m (.barrier b p) } .wait)) s

/-- `BAR.TEST` (R285). -/
def execBarTest (f : Form64) (s : State) : Host.Outcome State Fault Refusal :=
  runCore (.barTest f) (fun x s => x.barrier s true (fun m b p o s =>
    let s := if barPhase o != p then s.barAcquire x.core (s.warp x.core x.slot).group b else s
    let w := s.warp x.core x.slot
    .done { s := s.setWarp x.core x.slot (w.putPred x.f.rd.toNat m (if barPhase o != p then 0xFFFFFFFF#32 else 0#32)) })) s

end Sys2Proof.Machine
end

