-- ==== Sys2Proof/Machine/Transactions.lean ====
section
/-! DEFINITION. Transactions validated by value (R151 to R170, R323 to R325): TXB, TXE, TXA, TXST, the check of R157, and the escalation token. -/

namespace Sys2Proof.Machine

/-! ### Lanes moved by something other than their own instruction -/

/-- The parts that an entry holds back, without some lanes. -/
def Entry.heldWithout (e : Entry) (m : LaneMask) : List SplitPart :=
  (e.held.map (fun p => { p with mask := p.mask &&& ~~~m })).filter (fun p => p.mask != 0#32)

/-- Moves lanes of one entry to an address, in a ready entry of their own (R155 step 5, R18); without a free slot the split is held (R20), beside what the
entry already holds back, and in an entry that is parked whole until it goes on (R21). The entry that they leave keeps its state. -/
def State.moveLanes (s : State) (c slot : Nat) (m : LaneMask) (pc : Nat) : State :=
  let w := s.warp c slot
  match w.entryOf m with
  | none => s
  | some (i, e) =>
    let prio := s.prioAt (s.ctxOf c slot) e.pc.toNat pc e.prio
    let m := m &&& e.mask
    let fresh : Entry := { pc := BitVec.ofNat 57 pc, prio := prio, mask := m }
    let full := 8 ≤ w.frontier.length && e.mask != m
    let w := w.dropWaits (if full then e.mask else m)
    if e.mask = m then s.setWarp c slot (w.replaceEntry i [fresh])
    else
      let rest : Entry := { e with mask := e.mask &&& ~~~m, replay := e.replay &&& ~~~m, held := e.heldWithout m }
      if !full then s.setWarp c slot (w.replaceEntry i [rest, fresh])
      else
        let gone : SplitPart := { pc := pc, prio := prio.toNat, mask := m }
        let left : List SplitPart :=
          if e.held.isEmpty && e.replay == 0#32 then [{ pc := e.pc.toNat, prio := e.prio.toNat, mask := rest.mask }] else e.heldWithout m
        let e := { e with replay := e.replay &&& ~~~m, held := left ++ [gone] }
        s.setWarp c slot (w.replaceEntry i [if e.state = .parked ∨ e.replay ≠ 0#32 then e else { e with state := .ready, cause := some .fullFrontier, age := 0 }])

/-- Moves one lane. -/
def State.moveLane (s : State) (c slot lane pc : Nat) : State := s.moveLanes c slot (1#32 <<< lane) pc

/-! ### TXB (R152, R166, R323) -/

/-- A lane enters open with empty logs (R152). -/
def LaneTx.enter (t : LaneTx) (txe : Nat) (esc : Bool) : LaneTx := { t with state := .opened, reads := [], writes := [], txe := txe, esc := esc, issued := 0 }

/-- Opens the transactions of listed lanes. -/
def Warp.openLanes (w : Warp) (txe : Nat) : List Nat → Warp
  | [] => w
  | l :: t => Warp.openLanes (w.setTx l ((w.laneTx l).enter txe false)) txe t

/-- Queues listed lanes, each with its recorded TXE address. -/
def Warp.queueLanes (w : Warp) (txe : Nat) : List Nat → Warp
  | [] => w
  | l :: t => Warp.queueLanes (w.setTx l { w.laneTx l with state := .queued, txe := txe, reads := [], writes := [] }) txe t

/-- The lanes of TXB whose frontier entries fit now: each waiting lane has an entry of its own (R151), and one entry more holds those left over. -/
def fitQueued (room n : Nat) : Nat := if n ≤ room then n else room - 1

/-- TXB in the lanes that are idle: few aborts open at once, others join the token queue in ascending order, each in an entry that waits with wcause 5;
lanes for which the frontier has no slot stay at the instruction (R20). `go` holds the lanes that aborted. -/
def Iss.txb (x : Iss) (s : State) (go : SMap (Option Nat)) (m : LaneMask) : Res :=
  let c := x.core; let slot := x.slot
  let w := s.warp c slot
  let q := (lanes m).filter (fun l => (w.laneTx l).state == .idle && 3 ≤ (w.laneTx l).aborts.toNat)
  let w := w.openLanes x.target ((lanes m).filter (fun l => (w.laneTx l).state == .idle && (w.laneTx l).aborts.toNat < 3))
  let s := s.setWarp c slot w
  if q.isEmpty then .done { s := s, go := go }
  else
    let o : Out := { s := s, go := go, exits := maskOf q }
    let base := o.parts (s.ctxOf c slot) x.e x.len
    let k := fitQueued (8 - (w.frontier.length - 1) - base.length) q.length
    let now := q.take k; let later := q.drop k
    if now.isEmpty then .done { s := s, go := sortGo (go ++ later.map (fun l => (l, some x.pc))) }
    else
      let next := x.pc + x.len
      let prio := s.prioAt (s.ctxOf c slot) x.pc next x.e.prio
      let wait (l : Nat) : Entry := { pc := BitVec.ofNat 57 next, prio := prio, mask := 1#32 <<< l, state := .waiting, cause := some .token }
      let left : List Entry := if later.isEmpty then [] else [{ x.e with mask := maskOf later, state := .ready, cause := some .fullFrontier, age := 0, replay := 0#32, held := [] }]
      let w := (w.queueLanes x.target now).replaceEntry x.idx (base.map SplitPart.toEntry ++ left ++ now.map wait)
      let z := s.module (coreModule c)
      .placed ((s.setWarp c slot w).setModule (coreModule c) { z with tokenQueue := z.tokenQueue ++ now.map (fun l => (c, slot, l)) })

/-- `TXB` (R152, R323): an open lane aborts with UNSUPPORTED. -/
def execTxb (f : Form64) (s : State) : Host.Outcome State Fault Refusal :=
  runCore (.txb f) (fun x s =>
    let m := x.openPart (s.warp x.core x.slot)
    let rest := x.part (s.warp x.core x.slot) &&& ~~~m
    let (s, go) := x.abortOpen s 6 m
    x.txb s go rest) s

/-! ### TXE (R158, R161) -/

/-- The words that a lane has logged, ascending by home slice, then address (R158). -/
def LaneTx.words (t : LaneTx) : List Nat :=
  let ws := distinct ((t.reads ++ t.writes).map (fun e => e.pa))
  sortBy (fun a => sliceOf a * 2 ^ 52 + a) ws

/-- Another core's lane stands at its TXE with a word logged, so that its phase 1 may hold the word's lock (R160). A lane of the same warp does not: its
commit is over, or has not begun (R158). -/
def State.mayBeLocked (s : State) (c wa : Nat) : Bool :=
  s.cores.any (fun k => k.1 != c && k.2.warps.any (fun y => y.2.any (fun w => w.frontier.any (fun e => (e.state == .ready || e.state == .promoted) &&
    (lanes e.mask).any (fun l => w.isOpen l && (w.laneTx l).txe == e.pc.toNat && ((w.laneTx l).reads ++ (w.laneTx l).writes).any (fun x => x.pa == wa))))))

/-- Phase 1 (R158): no word pinned by another lane, or locked by another lane's phase 1, which only a free choice tells, for a commit is one step (log 84);
every read-log word unchanged at its home; recalls and merges come first. A word that this lane pins is nobody else's to lock. -/
def State.lockAndCompare (s : State) (c slot lane : Nat) (t : LaneTx) : List Nat → Bool × State
  | [] => (true, s)
  | wa :: rest =>
    let (locked, s) := if !s.holdsToken c slot lane && s.mayBeLocked c wa then s.takeBool else (false, s)
    if locked || s.pinnedByOther c slot lane (.dom wa) 8 then (false, s)
    else
      let (v, s) := s.homeRead none (.dom wa) 8
      let same := match t.reads.find? (fun e => e.pa == wa) with | some e => e.value.toNat == v | none => true
      if same then State.lockAndCompare s c slot lane t rest else (false, s)

/-- The signature that a commit acquires: sidebands and overflow signatures of every line that holds a logged word (R161). -/
def State.commitSig (s : State) : List Nat → Signature
  | [] => 0#512
  | wa :: t => (SMap.get {} (s.slice (sliceOf wa)).side (wa / 1024)).sig ||| (s.slice (sliceOf wa)).overflow ||| State.commitSig s t

/-- Phase 2 (R158): masked bytes are written at the home, with the core's signature on every written line (R161); the core's own copy follows. -/
def State.writeLog (s : State) (c slot : Nat) : List TxWord → State
  | [] => s
  | e :: t =>
    let s := s.homeWrite (some (c, slot)) (.dom e.pa) 8 e.mask.toNat e.value.toNat
    let s := s.setCore c ((s.core c).patch e.pa 8 (readBytes s.mem e.pa 8))
    State.writeLog (s.attach (.dom e.pa) ((s.core c).sigOf 5) 5) c slot t

/-- Commits or aborts one open lane (R158): whether it committed. The commit is a release at .mo (R161): the warp's stores have drained, and its write-backs
come first; bytes that a pin holds at their homes stay (log 45). -/
def State.commitLane (s : State) (c slot lane : Nat) : Bool × State :=
  let s := s.releaseSteps c slot 5
  let t := (s.warp c slot).laneTx lane
  let ws := t.words
  match s.lockAndCompare c slot lane t ws with
  | (false, s) => (false, s.abortLane c slot lane 1 0 0)
  | (true, s) =>
    let g := s.commitSig ws
    let s := s.setCore c (t.writes.foldl (fun k e => k.noteWrite (e.pa / 256)) (s.core c))
    let s := s.writeLog c slot t.writes
    let w := (s.warp c slot).setTx lane { esc := t.esc, txe := t.txe }
    let s := s.setWarp c slot { w with inflight := w.inflight.map (fun r => { r with txLanes := r.txLanes &&& ~~~(1#32 <<< lane) }) }
    let s := (s.setCore c ((s.core c).dropSpec (slot * 32 + lane))).releaseToken c slot lane
    (true, s.applySig c g)

/-- Commits listed lanes, ascending, one after the other (R158): those that committed. -/
def State.commitEach (s : State) (c slot : Nat) : List Nat → LaneMask × State
  | [] => (0#32, s)
  | l :: t =>
    if (s.warp c slot).isOpen l then
      let (ok, s) := s.commitLane c slot l
      let (m, s) := State.commitEach s c slot t
      (if ok then m ||| (1#32 <<< l) else m, s)
    else State.commitEach s c slot t

/-- The lanes that abort at their commit and whose recorded TXE is another instruction, where they go (R155 step 5). One whose recorded TXE this is has
reached it, and writes false here (R158). -/
def Iss.txeMoves (x : Iss) (w : Warp) (failed : List Nat) : SMap (Option Nat) :=
  ((failed.map (fun l => (l, (w.laneTx l).txe))).filter (fun y => y.2 != x.pc)).map (fun y => (y.1, some y.2))

/-- A logged word of an open lane lies in a line that an engine owns: phase 1, which reads it at its home, waits (R142). -/
def Iss.logHeld (x : Iss) (s : State) (opened : LaneMask) : Bool :=
  let w := s.warp x.core x.slot
  (lanes opened).any (fun l => ((w.laneTx l).reads ++ (w.laneTx l).writes).any (fun e => s.engineOwns (e.pa / 1024)))

/-- `TXE` (R158, R324): an idle lane writes false. With a participating lane open, the warp's earlier stores are performed first (R161). -/
def execTxe (f : Form64) (s : State) : Host.Outcome State Fault Refusal :=
  runCore (.txe f) (fun x s =>
    let part := x.part (s.warp x.core x.slot); let opened := x.openPart (s.warp x.core x.slot)
    let s := if opened = 0#32 then s else s.drain x.core x.slot
    if opened ≠ 0#32 ∧ (!(s.warp x.core x.slot).storeq.isEmpty || x.logHeld s opened) then .stall s
    else
      let (m, s) := s.commitEach x.core x.slot (lanes part)
      let w := (s.warp x.core x.slot).putPred x.f.rd.toNat part m
      .done { s := s.setWarp x.core x.slot w, go := x.txeMoves w (lanes (opened &&& ~~~m)) }) s

/-- `TXA` (R164, R325). -/
def execTxa (f : Form64) (s : State) : Host.Outcome State Fault Refusal :=
  runCore (.txa f) (fun x s =>
    let w := s.warp x.core x.slot; let m := x.openPart w
    .done { s := s.abortLanes x.core x.slot 7 0 (imm16 x.f) (lanes m), go := (w.txeMoves (lanes m)).map (fun y => (y.1, some y.2)) }) s

/-- `TXST` (R163, R325). -/
def execTxst (f : Form64) (s : State) : Host.Outcome State Fault Refusal :=
  runCore (.txst f) (laneOp 1 (fun x w l => if x.f.c3 = 1#3 then (w.laneTx l).status else (w.laneTx l).cause.toNat)) s

/-! ### The check of R157, and the token -/

/-- Every word of a read log still reads as logged (R157). -/
def State.readsHold (s : State) (c : Nat) : List TxWord → Bool × State
  | [] => (true, s)
  | e :: t =>
    let (v, s) := s.txValue c e.pa
    if v = e.value.toNat then State.readsHold s c t else (false, s)

/-- `TX_VALIDATE_CHECK`: on an open lane's 16,384th instruction its read log is compared; a word that differs aborts it with CONFLICT (R157).
Operands: core, slot, lane. -/
def execTxValidateCheck (s : State) : Host.Outcome State Fault Refusal :=
  let c := s.args.core; let slot := s.args.slot; let l := s.args.lane
  let t := (s.warp c slot).laneTx l
  if t.state ≠ .opened ∨ t.issued < 16384 then .refused (.notEnabled "TX_VALIDATE_CHECK")
  else
    match s.readsHold c t.reads with
    | (true, s) => .next (s.setWarp c slot ((s.warp c slot).setTx l { (s.warp c slot).laneTx l with issued := 0 }))
    | (false, s) => .next ((s.abortLane c slot l 1 0 0).moveLane c slot l t.txe)

/-- `TOKEN_GRANT`: the free token goes to the lane at the head of the queue, which enters open with ESC set (R166). Operands: module. -/
def execTokenGrant (s : State) : Host.Outcome State Fault Refusal :=
  let m := s.args.module; let z := s.module m
  match z.holder, z.tokenQueue with
  | none, (c, slot, l) :: rest =>
    let s := s.setModule m { z with holder := some (c, slot, l), tokenQueue := rest, pins := [], tenure := s.moduleClock m }
    let w := s.warp c slot
    let t := w.laneTx l
    let w := w.setTx l (t.enter t.txe true)
    let w := { w with frontier := w.frontier.map (fun e =>
      if e.mask.getLsbD l && e.state == .waiting && e.cause == some .token then { e with state := .ready, cause := none, age := 0 } else e) }
    .next (s.setWarp c slot w)
  | _, _ => .refused (.notEnabled "TOKEN_GRANT")

/-- `TOKEN_TIMEOUT`: a holder that has kept the token for 2^20 local cycles aborts with INTERRUPT (R169). Operands: module. -/
def execTokenTimeout (s : State) : Host.Outcome State Fault Refusal :=
  let m := s.args.module; let z := s.module m
  match z.holder with
  | some (c, slot, l) =>
    if z.tenure + 2 ^ 20 ≤ s.moduleClock m then
      let t := (s.warp c slot).laneTx l
      .next ((s.abortLane c slot l 8 0 0).moveLane c slot l t.txe)
    else .refused (.notEnabled "TOKEN_TIMEOUT")
  | none => .refused (.notEnabled "TOKEN_TIMEOUT")

end Sys2Proof.Machine
end

