-- ==== Sys2Proof/Machine/System.lean ====
section
/-! DEFINITION. System instructions (R329 to R331), unassigned opcodes (R197), traps that were waiting (R327), and the retirement of warps and groups (R69, R92, R232). -/

namespace Sys2Proof.Machine

/-- A trap that is taken when at least one lane participates, naming the participating lanes (R330). -/
def trapInstr (cause : Nat) (x : Iss) (s : State) : Res :=
  let m := x.part (s.warp x.core x.slot)
  if m = 0#32 then .done { s := s } else x.trap s cause m

/-- `SYSCALL` (R330). -/
def execSyscall (f : Form64) (s : State) : Host.Outcome State Fault Refusal := runCore (.syscall f) (trapInstr 0x70) s

/-- `TRAP` (R330). -/
def execTrap (f : Form64) (s : State) : Host.Outcome State Fault Refusal := runCore (.trap f) (trapInstr 0x7F) s

/-- `BPT` (R330). -/
def execBpt (f : Form64) (s : State) : Host.Outcome State Fault Refusal := runCore (.bpt f) (trapInstr 0x71) s

/-- `ERET` (R329): the warp's store queue drains and its lanes' accesses complete (R332), and the entry waits until it holds every live lane of the trapping
entry, merging with entries at the same ERET. -/
def execEret (f : Form64) (s : State) : Host.Outcome State Fault Refusal :=
  runCore (.eret f) (fun x s =>
    let s := s.completeLanes x.core x.slot x.e.mask
    if !(s.warp x.core x.slot).storeq.isEmpty then .stall s else
    let s := x.waitAt s .agreement true
    let w := s.warp x.core x.slot
    let want := match w.trapping with | some t => t.lanes | none => 0#32
    match w.entryOf x.e.mask with
    | none => .stall s
    | some (i, e) => if want &&& ~~~e.mask = 0#32 then .placed (s.returnTrap x.core x.slot i x.pc) else .placed s) s

/-! ### TLBI (R108, R331) -/

/-- What a TLBI drops: translations of a context that overlap a range, everything of a context, or one map entry of a context. The context has one
number on every module of its domain (R379). -/
inductive TlbiKind where
  | va (ctx start len : Nat)
  | ctx (n : Nat)
  | sm (ctx id : Nat)
  deriving DecidableEq, Repr

/-- A cached translation goes. -/
def TlbiKind.dropsTlb (k : TlbiKind) (e : TlbEntry) : Bool :=
  match k with
  | .va x a n => e.ctx % 32 == x && e.va < a + n && a < e.va + e.size
  | .ctx n => e.ctx % 32 == n
  | .sm _ _ => false

/-- A cached map entry goes. -/
def TlbiKind.dropsMap (k : TlbiKind) (e : MapCopy) : Bool :=
  match k with
  | .va _ _ _ => false
  | .ctx n => e.ctx % 32 == n
  | .sm x id => e.ctx % 32 == x && e.id == id

/-- Drops copies of a core and its tile engine. -/
def Core.tlbi (k : Core) (t : TlbiKind) : Core :=
  { k with tlb := k.tlb.filter (fun e => !t.dropsTlb e), tileTlb := k.tileTlb.filter (fun e => !t.dropsTlb e),
           maps := k.maps.filter (fun e => !t.dropsMap e), tileMaps := k.tileMaps.filter (fun e => !t.dropsMap e) }

/-- Drops copies in every core of a scope instance. -/
def State.tlbi (s : State) (c scope : Nat) (t : TlbiKind) : State := s.mapCores (fun d k => if inScope scope c d then k.tlbi t else k)

/-- Accesses translated before the TLBI leave for their targets: queued stores of the scope instance are performed. -/
def State.drainIn (s : State) (c scope : Nat) : State := (s.warpsIn c scope).foldl (fun s w => s.drain w.1 w.2) s

/-- What a TLBI names, or the cause with which its operands are refused. -/
def Iss.tlbiKind (x : Iss) (s : State) (m : LaneMask) : Except Nat TlbiKind :=
  let w := s.warp x.core x.slot; let l := x.warpLane m
  let ctx := s.ctxOf x.core x.slot % 32
  let a := x.a64 w l; let b := x.b64 w l
  match x.f.rm.toNat with
  | 0 => if a % 4096 ≠ 0 ∨ b % 4096 ≠ 0 then .error 0x06 else .ok (.va ctx a b)
  | 1 => if a ≥ 2 ^ 32 then .error 0x02 else .ok (.ctx a)
  | _ => if a ≥ 2 ^ 12 then .error 0x02 else .ok (.sm ctx a)

/-- `TLBI` (R331): after a release at its scope, as whose fence it counts (R332), it drops the copies and waits until every access translated through
them has completed (R108). -/
def execTlbi (f : Form64) (s : State) : Host.Outcome State Fault Refusal :=
  runCore (.tlbi f) (fun x s => x.closed s (fun m s =>
    match x.tlbiKind s m with
    | .error cause => x.trap s cause m (if cause = 0x06 then { fva := x.a64 (s.warp x.core x.slot) (x.warpLane m) } else {})
    | .ok k =>
      if k = .va (s.ctxOf x.core x.slot % 32) (x.a64 (s.warp x.core x.slot) (x.warpLane m)) 0 then .done { s := s }
      else
        let scope := x.f.c3.toNat
        x.release s scope m (fun s =>
          let s := (s.tlbi x.core scope k).drainIn x.core scope
          let w := s.warp x.core x.slot
          let s := s.setWarp x.core x.slot { w with waits := w.waits.filter (fun y => !m.getLsbD y.lane) }
          if s.tlbiPending x.core scope then .wait { s := x.entryWait s m (.invalidate scope) } .wait else .done { s := s }))) s

/-! ### Unassigned opcodes and waiting traps -/

/-- `ILLEGAL_OPCODE`: an instruction whose opcode is unassigned traps ILLEGAL_OPCODE with no effect in any lane (R197, R199). -/
def execIllegalOpcode (len : Nat) (word : DWord) (s : State) : Host.Outcome State Fault Refusal :=
  match s.cur with
  | .warp c slot idx =>
    match (s.warp c slot).entry idx with
    | some e => .next (s.raise c slot idx { cause := 0x01, lanes := e.mask, pc := e.pc.toNat, insn := word.toNat, len := len, info := { cause := 0x01, pc := e.pc.toNat, lanes := e.mask } } false)
    | none => .fault .noIssuer
  | _ => .fault .noIssuer

/-- `TRAP_ENTRY`: the oldest waiting trap that can be taken is taken at an instruction boundary (R156, R268, R295, R327). Operands: core, slot. -/
def execTrapEntry (s : State) : Host.Outcome State Fault Refusal :=
  let c := s.args.core; let slot := s.args.slot
  match s.trapDue c slot with
  | some i => .next (s.takePending c slot i)
  | none => .refused (.notEnabled "TRAP_ENTRY")

/-! ### Retirement (R69, R92, R232) -/

/-- The cairn that counts a warp's clauses. -/
def Warp.cairn (w : Warp) : Option Nat := (w.ident.filterMap (fun i => i.2.cairn)).head?

/-- A cairn's work falls by one, and it holds one handler warp less (R57, R69). -/
def State.workDone (s : State) (cairn : Nat) : State :=
  let k := SMap.get {} s.cairns cairn
  if k.state = .free then s else { s with cairns := SMap.set {} s.cairns cairn { k with work := k.work - 1, warps := k.warps - 1 } }

/-- Writes back the mapped sectors of a group that ends; a write-back that faults leaves a fault record for the fault domain, and its bytes are
dropped (R92, R274). -/
def State.exitMaps (s : State) (c gi : Nat) : State :=
  let g := s.group c gi
  (List.range g.maps.length).foldl (fun s i =>
    match g.maps[i]? with
    | none => s
    | some r => r.sectors.foldl (fun s j =>
        let bad (s : State) (va cause kind level : Nat) : State :=
          let info : FaultInfo := { cause := cause, fva := va, acc := 1, kind := kind, level := level }
          s.postFault g.ctx (s.faultDomain g.ctx g.fcb) (recordBits info g.fcb 0#32 c 0) 0xFFFF#16
        match s.flushMapped c gi i j.1 with
        | (.ok, s) => s
        | (.fault va k l, s) => bad s va 0x10 k l
        | (.perm va k l, s) => bad s va 0x11 k l) s) s

/-- A seeded thread of a queue packet has ended (R385). -/
def State.seedDone (s : State) (q : Option (Nat × Nat)) : State :=
  match q with
  | some (q, i) => let k := s.queue q; s.setQueue q { k with seeds := k.seeds.erase i }
  | none => s

end Sys2Proof.Machine
end

