-- ==== Sys2Proof/Machine/Rope.lean ====
section
/-! DEFINITION. What floods are made of: the rope (R46 to R49), ordering scopes (R45), control blocks (R74 to R76), combiners and the fold (R63 to R67), and the spill reserve (R61, R377). -/

namespace Sys2Proof.Machine

/-! ### Geometry (R46 to R49) -/

/-- The regions of a module in pre-order of the fixed tree (R47). -/
def preOrder : List Nat :=
  [0, 1, 2, 3, 7, 11, 15, 19, 23, 27, 31, 6, 10, 14, 18, 22, 26, 30, 5, 9, 13, 17, 21, 25, 29, 4, 8, 12, 16, 20, 24, 28]

/-- The parent of a region in the fixed tree; none for region 0 (R46). -/
def fixedParent (r : Nat) : Option Nat := if r / 4 > 0 then some (r - 4) else if r % 4 > 0 then some (r - 1) else none

/-- The nearest proper ancestor in scope (R48); the tree is at most ten edges deep. -/
def ropeParent (mask : Nat) : (fuel : Nat) → Nat → Option Nat
  | 0, _ => none
  | n + 1, r =>
    match fixedParent r with
    | none => none
    | some p => if bit mask p then some p else ropeParent mask n p

/-- The children of a region, in pre-order (R48). -/
def ropeChildren (mask r : Nat) : List Nat := preOrder.filter (fun q => bit mask q && ropeParent mask 11 q == some r)

/-- The top nodes of a module, in pre-order (R48). -/
def topNodes (mask : Nat) : List Nat := preOrder.filter (fun q => bit mask q && (ropeParent mask 11 q).isNone)

/-- Rope edges on the longest downward path from a region (R78). -/
def ropeHeight (mask : Nat) : (fuel : Nat) → Nat → Nat
  | 0, _ => 0
  | n + 1, r => (ropeChildren mask r).foldl (fun h q => max h (1 + ropeHeight mask n q)) 0

/-- The local time of a unit. -/
def State.unitClock (s : State) (u : Nat) : Nat := if isHub u then s.moduleClock (unitModule u) else s.regionClock (unitRegion u)

/-- The modules that a flood reaches: MODMASK, or the origin module (R41). -/
def floodModules (m modmask : Nat) : List Nat := if modmask = 0 then [m] else (List.range 32).filter (fun i => bit modmask i)

/-- A child of a cairn: its unit, its module, its bit of the MISSING mask, and its height (R49, R78, R79). -/
abbrev Child := Nat × Nat × Nat × Nat

/-- A region as a child. -/
def regionChild (m regmask r : Nat) : Child := (m * 32 + r, m, r, ropeHeight regmask 11 r)

/-- A hub cairn as a child (R49, R78). -/
def hubChild (m die regmask : Nat) : Child :=
  (hubUnit (m * 4 + die), m, 32, 1 + (topNodes regmask).foldl (fun h r => max h (ropeHeight regmask 11 r)) 0)

/-- The children of an origin cairn in region r of module m: modules ascending, the origin module's top nodes in its place (R49). -/
def originChildren (m r modmask regmask : Nat) : List Child :=
  (floodModules m modmask).flatMap (fun k => if k = m then (topNodes regmask).map (regionChild m regmask) else [hubChild k (r / 8) regmask])

/-- The children of the cairn of a unit for a flood message (R48, R49). -/
def unitChildren (u : Nat) (f : FloodMsg) : List Child :=
  let m := unitModule u; let mask := f.regmask.toNat
  if isHub u then (topNodes mask).map (regionChild m mask) else (ropeChildren mask (u % 32)).map (regionChild m mask)

/-- The narrowest scope that holds every region in scope, seen from region r of module m (R45): 3 .rg, 4 .di, 5 .mo, 6 .dm. -/
def floodScope (m r modmask regmask : Nat) : Nat :=
  if (floodModules m modmask).any (fun k => k != m) then 6
  else
    let rs := (List.range 32).filter (fun q => bit regmask q)
    if rs.all (fun q => q == r) then 3 else if rs.all (fun q => q / 8 == r / 8) then 4 else 5

/-! ### Handles (R44, R74) -/

/-- MOD of a handle. -/
def handleMod (h : Word) : Nat := field h.toNat 27 5
/-- REG of a handle. -/
def handleReg (h : Word) : Nat := field h.toNat 22 5
/-- SLOT of a handle. -/
def handleSlot (h : Word) : Nat := field h.toNat 14 8
/-- The region of the domain in which a handle's origin cairn lies. -/
def handleRegion (h : Word) : Nat := handleMod h * 32 + handleReg h
/-- The FCB id of a handle (R74). -/
def handleFcb (h : Word) : Word := BitVec.ofNat 32 (handleRegion h * 256 + handleSlot h)
/-- A handle from its fields (R44). -/
def mkHandle (m r slot seq : Nat) : Word := BitVec.ofNat 32 (m * 2 ^ 27 + r * 2 ^ 22 + slot * 2 ^ 14 + seq % 2 ^ 14)

/-- The module of a handle lies in the context's domain and its FCB holds the handle (R73). -/
def State.handleValid (s : State) (x : Nat) (h : Word) : Bool :=
  bit (s.cdom x) (handleMod h) && s.fcbField x (handleFcb h) 0 32 == h.toNat

/-! ### The flood control block (R75, R76) -/

/-- A field of a descriptor (R41). -/
abbrev Desc := Nat

/-- The FCB that a flood writes at emission, from its descriptor `d`, its emitter's fields and what the emission fixes (R75, R76). -/
def fcbBits (d : Desc) (inherit : Nat → Nat → Nat) (parent handle : Word) (depth origin : Nat) : Nat :=
  let pick (ovr dlo n flo : Nat) : Nat := (if bit d (176 + ovr) then field d dlo n else inherit flo n) * 2 ^ flo
  handle.toNat + parent.toNat * 2 ^ 32 + pick 0 320 16 64 + pick 1 336 16 80 + pick 2 352 32 96 + pick 3 384 32 128 + pick 4 416 32 160 +
    pick 5 448 16 192 + pick 6 464 8 208 + pick 7 472 8 216 + pick 8 480 2 224 + depth * 2 ^ 232 + field d 160 4 * 2 ^ 240 +
    field d 164 1 * 2 ^ 244 + field d 192 64 * 2 ^ 256 + (if field d 96 32 = 0 then 2 ^ origin else field d 96 32) * 2 ^ 512 + field d 64 32 * 2 ^ 544

/-- Writes part of an FCB and, where a signature is given, releases it into the sideband of the written line (R148). -/
def State.fcbRelease (s : State) (x : Nat) (fcb : Word) (byte n v : Nat) (g : Signature) (scope : Nat) : State :=
  let s := s.fcbWrite x fcb byte n v
  match s.xlatCtx x (s.fcbAddr x fcb + byte) .load with
  | (.ok p _ _ _, s) => s.attach p g scope
  | (_, s) => s

/-- The acquire of an FCB's line (R73, R148). -/
def State.fcbAcquire (s : State) (c x : Nat) (fcb : Word) (scope : Nat) : State :=
  match s.xlatCtx x (s.fcbAddr x fcb + 48) .load with
  | (.ok p _ _ _, s) => s.acquire c p scope
  | (_, s) => s

/-- The ordering scope of a flood from its FCB (R45). -/
def State.fcbScope (s : State) (x : Nat) (h : Word) : Nat :=
  floodScope (handleMod h) (handleReg h) (s.fcbField x (handleFcb h) 512 32) (s.fcbField x (handleFcb h) 544 32)

/-! ### Combiners (R63 to R65) -/

/-- Values of a 32-bit floating combiner. -/
def f32 : Fmt := fmtOf 0
/-- Values of a 64-bit floating combiner. -/
def f64 : Fmt := fmtOf 10

/-- One fold step of argmin and argmax (R63, R64): a NaN value loses to any number, equal values go to the smaller index. -/
def foldArg (largest : Bool) (a b : Nat) : Nat :=
  let v (x : Nat) := x % 2 ^ 32; let i (x : Nat) := x / 2 ^ 32
  let nan (x : Nat) : Bool := match f32.decode (v x) with | .nan => true | _ => false
  if nan a && nan b then (if i b < i a then b else a)
  else if nan a then b
  else if nan b then a
  else
    let less (x y : Nat) : Bool := (f32.decode (v x)).lessOrdered (f32.decode (v y))
    let before (x y : Nat) : Bool := if largest then less y x else less x y
    if before a b then a else if before b a then b else if i b < i a then b else a

/-- One fold step on values (R63, R64), a before b. -/
def foldValue (comb a b : Nat) : Nat :=
  let lo (x : Nat) := x % 2 ^ 32
  let smin (n : Nat) (x y : Nat) : Bool := signed n x ≤ signed n y
  match comb with
  | 1 => lo (lo a + lo b)
  | 2 | 12 => (a + b) % 2 ^ 64
  | 3 => f32.add (f32.decode (lo a)) (f32.decode (lo b)) 0
  | 4 => f64.add (f64.decode a) (f64.decode b) 0
  | 5 => if smin 32 (lo a) (lo b) then lo a else lo b
  | 6 => if smin 32 (lo b) (lo a) then lo a else lo b
  | 7 => f32.pick false true (lo a) (lo b)
  | 8 => f32.pick true true (lo a) (lo b)
  | 9 => a &&& b
  | 10 => a ||| b
  | 11 => a ^^^ b
  | 13 => foldArg false a b
  | 14 => foldArg true a b
  | _ => 0

/-- One fold step: values, keys under code 15, and signatures. -/
def foldEcho (comb : Nat) (a b : EchoVal) : EchoVal :=
  let g := a.sig ||| b.sig
  if comb = 15 then (if b.key.toNat < a.key.toNat then { b with sig := g } else { a with sig := g })
  else { a with value := BitVec.ofNat 64 (foldValue comb a.value.toNat b.value.toNat), sig := g }

/-- Folds values from the first on (R66). -/
def foldAll (comb : Nat) : List EchoVal → Option EchoVal
  | [] => none
  | a :: t => some (t.foldl (foldEcho comb) a)

/-- The silent children and the fault records of a cairn and of its children's echoes (R70, R71). -/
def Cairn.counts (k : Cairn) (es : List EchoVal) : Nat × Nat :=
  (k.silentCount + es.foldl (fun n e => n + e.silent) 0, k.faultCount + es.foldl (fun n e => n + e.faults) 0)

/-- The flags and counts of a list of echoes added to a cairn's own; an echo's counts saturate (R70). -/
def Cairn.flags (k : Cairn) (es : List EchoVal) (v : EchoVal) : EchoVal :=
  { v with partly := k.partly || es.any (fun e => e.partly), cancelled := k.cancelled || es.any (fun e => e.cancelled),
           faulted := k.faulted || es.any (fun e => e.faulted),
           silent := min 255 (k.counts es).1, faults := min 255 (k.counts es).2 }

/-- The echoes of a cairn's children in child order; silent ones are skipped (R66). -/
def Cairn.childEchoes (k : Cairn) : List EchoVal := (List.range k.children.length).filterMap (fun i => SMap.get none k.answered i)

/-- The echo of a cairn that leaves drain (R66, R70): contributions in ascending clause number, then children; the identity where nothing was
contributed. -/
def Cairn.echo (k : Cairn) : EchoVal :=
  let comb := match k.msg with | some m => m.comb | none => 0
  let es := k.childEchoes
  let all := k.contrib.filterMap (fun x => x.2) ++ es
  k.flags es ((foldAll comb all).getD k.identity)

/-- A cairn may leave drain (R70). -/
def Cairn.drained (k : Cairn) : Bool :=
  k.state == .drain && k.work == 0 && (List.range k.children.length).all (fun i => (SMap.get none k.answered i).isSome || k.silent.contains i)

/-! ### The spill ring (R61, R377) -/

/-- The entries that CLAUSE clauses may still take (R60, R61). -/
def State.ringFree (s : State) (r : Nat) : Nat :=
  s.ringSize r - ringReserve (s.domCount (r / 32)) (r % 32) - (s.region r).spill.length

end Sys2Proof.Machine
end

