-- ==== Sys2Proof/Machine/Floods.lean ====
section
/-! DEFINITION. The flood network (R50 to R54): messages, cairns, dispatch (R55 to R58), the gatherer (R59 to R61), echoes and completion (R69 to R73), silence and late echoes (R78 to R82), cancels (R83 to R85). -/

namespace Sys2Proof.Machine

/-! ### Cairns -/

/-- The global context of a flood at a unit: one function number on every module (R379). -/
def FloodMsg.ctxAt (f : FloodMsg) (u : Nat) : Nat := unitModule u * 32 + f.ctx % 32

/-- A cairn still stands for a flood: not free and not yet echoed. -/
def Cairn.live (k : Cairn) : Bool := k.state != .free && k.state != .echo

/-- The handle of a cairn's flood. -/
def Cairn.handle (k : Cairn) : Option Word := k.msg.map (fun m => m.handle)

/-- The live cairn of a flood in a unit: its slot. -/
def State.cairnFor (s : State) (u : Nat) (h : Word) : Option Nat :=
  findFrom (fun i => let k := s.cairn u i; k.live && k.handle == some h) 256 0

/-- Posts a fault record that concerns a cairn: the FCB's fault domain gets it, the cairn counts it (R58, R77, R86). -/
def State.cairnFault (s : State) (u slot cause kind level acc mapid : Nat) : State :=
  let k := s.cairn u slot
  match k.msg with
  | none => s
  | some f =>
    let x := f.ctxAt u
    let info : FaultInfo := { cause := cause, kind := kind, level := level, acc := acc, mapid := mapid }
    let s := (s.touchFcb x f.fcb).postFault x (s.faultDomain x f.fcb) (recordBits info f.fcb f.handle 0 0) 0xFFFF#16
    s.faultCairn (u * 256 + slot)

/-- A child that is answered by its own parent: a region that accepts no flood (R377). The spec gives that echo no value; the identity is folded for it,
as for a pruned subtree (R53, log 91). -/
def Cairn.refuse (k : Cairn) (i : Nat) : Cairn := { k with answered := SMap.set none k.answered i (some { k.identity with faulted := true, faults := 1 }) }

/-- Sends a cairn's flood message to its children in child order, and starts their timers (R51, R78). A region whose ring is of size 0 is not sent
to: its parent answers FAULTED for it, and a FLOOD_BUDGET record goes to the fault domain (R377). -/
def State.sendChildren (s : State) (u slot : Nat) (f : FloodMsg) : List Child → (i : Nat) → State
  | [], _ => s
  | c :: t, i =>
    let k := s.cairn u slot
    if !isHub c.1 && s.ringSize c.1 == 0 then
      let s := s.setCairn u slot (k.refuse i)
      let x := f.ctxAt u
      let s := s.postFault x (s.faultDomain x f.fcb) (recordBits { cause := 0x31 } f.fcb f.handle 0 0) 0xFFFF#16
      State.sendChildren s u slot f t (i + 1)
    else State.sendChildren { s with net := s.net ++ [.flood c.1 u slot i f] } u slot f t (i + 1)

/-- A cairn opens its children (R51). -/
def State.openChildren (s : State) (u slot : Nat) (f : FloodMsg) (cs : List Child) : State :=
  let s := s.setCairn u slot { s.cairn u slot with children := cs, sentAt := s.unitClock u }
  s.sendChildren u slot f cs 0

/-! ### Dispatch (R55 to R58) -/

/-- Shards of a map: grid cells, or the members of a stripe set. -/
def shardCount (e : Nat) : Nat := if mapPlace e = 2 then 32 else mapNsh e

/-- The extents of a shard of a BLOCK or CYCLIC map, and the coordinate of its local index in each dimension. -/
def shardDims (e sh : Nat) : List Nat :=
  let r := mapRank e
  let g := unRowMajor (firstN r (mapGrid e)) sh
  firstN r (fun k =>
    let gk := g.getD k 0
    if mapPlace e = 0 then min (ceilDiv (mapDim e k) (mapGrid e k)) (mapDim e k - gk * ceilDiv (mapDim e k) (mapGrid e k))
    else ceilDiv (mapDim e k - gk) (mapGrid e k))

/-- The coordinates of the n-th element of a shard of a BLOCK or CYCLIC map, in ascending row-major order. -/
def shardCoords (e sh n : Nat) : List Nat :=
  let r := mapRank e
  let g := unRowMajor (firstN r (mapGrid e)) sh
  let l := unRowMajor (shardDims e sh) n
  firstN r (fun k =>
    if mapPlace e = 0 then g.getD k 0 * ceilDiv (mapDim e k) (mapGrid e k) + l.getD k 0 else g.getD k 0 + l.getD k 0 * mapGrid e k)

/-- The whole tensor's extents. -/
def mapDims (e : Nat) : List Nat := firstN (mapRank e) (mapDim e)

/-- The member, module and region that hold an element of a STRIPE map. -/
def State.stripeOwner (s : State) (x e lin : Nat) : Option (Nat × Nat × Nat) :=
  match (s.resolve x e (unRowMajor (mapDims e) lin)).1 with
  | .at_ _ _ m r sh => some (sh, m, r)
  | _ => none

/-- How many of the first `n` indices from `k` on meet a test, counting up to a limit. -/
def countFrom (p : Nat → Bool) (limit : Nat) : (n k acc : Nat) → Nat
  | 0, _, acc => acc
  | n + 1, k, acc => if acc ≥ limit then acc else countFrom p limit n (k + 1) (if p k then acc + 1 else acc)

/-- The index of the `j`-th one that meets a test. -/
def nthFrom (p : Nat → Bool) : (n k j : Nat) → Option Nat
  | 0, _, _ => none
  | n + 1, k, j => if p k then (if j = 0 then some k else nthFrom p n (k + 1) (j - 1)) else nthFrom p n (k + 1) j

/-- Elements of a shard that a region dispatches: all of them where the owner record or the stripe member names the region, none elsewhere (R55). The
entry is as read on opening; when owner records and stripe members are read the spec leaves open: at each step of the cursor (log 89). -/
def State.shardSize (s : State) (x e region sh : Nat) : Nat :=
  if mapPlace e = 2 then
    let n := product (mapDims e)
    countFrom (fun i => s.stripeOwner x e i == some (sh, region / 32, region % 32)) n n 0 0
  else
    match (s.owner x e sh).1 with
    | .ok (_, r, m) => if m * 32 + r = region then product (shardDims e sh) else 0
    | .error _ => 0

/-- The coordinates of the n-th element of a shard (R56). -/
def State.elementAt (s : State) (x e region sh n : Nat) : List Nat :=
  if mapPlace e = 2 then
    let total := product (mapDims e)
    unRowMajor (mapDims e) ((nthFrom (fun i => s.stripeOwner x e i == some (sh, region / 32, region % 32)) total 0 n).getD 0)
  else shardCoords e sh n

/-- The next position at or after a shard and offset that holds an element of the region (R56). -/
def State.nextPiece (s : State) (x e region : Nat) : (n sh off : Nat) → Option (Nat × Nat × Nat)
  | 0, _, _ => none
  | n + 1, sh, off =>
    let size := s.shardSize x e region sh
    if off < size then some (sh, off, size - off) else State.nextPiece s x e region n (sh + 1) 0

/-- The piece of the cursor: its shard and offset, its element count, and whether it is the region's last (R56). -/
structure Piece where
  shard : Nat
  offset : Nat
  count : Nat
  coords : List Nat
  last : Bool
  deriving DecidableEq, Repr

/-- What a cairn dispatches next. -/
def State.piece (s : State) (u slot : Nat) : Option Piece :=
  let k := s.cairn u slot
  match k.msg with
  | none => none
  | some f =>
    if !f.mapv then (if k.offset = 0 then some { shard := 0, offset := 0, count := 0, coords := [], last := true } else none)
    else
      match k.map with
      | none => none
      | some e =>
        let x := f.ctxAt u; let total := shardCount e
        match s.nextPiece x e u (total - k.shard) k.shard k.offset with
        | none => none
        | some (sh, off, left) =>
          let n := min f.grain left
          let more := if left > n then true else (s.nextPiece x e u (total - (sh + 1)) (sh + 1) 0).isSome
          some { shard := sh, offset := off, count := n, coords := s.elementAt x e u sh off, last := !more }

/-- Reads the shard map of a cairn that opens (R51, R58, R116): it may have to be read again; an invalid or untranslated entry dispatches nothing and
faults the cairn. -/
def State.readMap (s : State) (u slot : Nat) (f : FloodMsg) : Bool × State :=
  if !f.mapv then (true, s)
  else
    match s.mapRead (f.ctxAt u) f.mapid with
    | (.entry e, s) => (true, s.setCairn u slot { s.cairn u slot with map := some e, mapver := mapVersion e })
    | (.reread, s) => (false, s)
    | (.invalid, s) => (true, s.cairnFault u slot 0x14 9 15 6 f.mapid)
    | (.refused _ r, s) => (true, s.cairnFault u slot 0x14 r.where_.1 r.where_.2 6 f.mapid)

/-- An opening cairn whose map has been read sends to its children and enters dispatch or drain (R51). A hub cairn dispatches nothing. -/
def State.openCairn (s : State) (u slot : Nat) (f : FloodMsg) : State :=
  match (if isHub u then (true, s) else s.readMap u slot f) with
  | (false, s) => s
  | (true, s) =>
    let s := s.openChildren u slot f (unitChildren u f)
    let more := !isHub u && (s.piece u slot).isSome
    s.setCairn u slot { s.cairn u slot with state := if more then .dispatch else .drain }

/-! ### Messages that arrive (R52) -/

/-- Takes a message off the network. -/
def State.takeNet (s : State) (i : Nat) : State := { s with net := dropAt s.net i }

/-- The link and ordered channel of a flood message or cancel: receiver, sender and class (R52, R53). -/
def NetMsg.channel : NetMsg → Option (Nat × Nat × Nat)
  | .flood dest pu _ _ m => some (dest, pu, m.depth)
  | .cancel dest _ cls pu _ _ => some (dest, pu, cls)
  | .echo _ _ _ _ _ _ _ => none

/-- No earlier message of the same ordered channel is still under way. -/
def State.inOrder (s : State) (i : Nat) : Bool :=
  match s.net[i]? with
  | none => false
  | some m => match m.channel with | none => true | some c => (s.net.take i).all (fun y => y.channel != some c)

/-- The wait list of a unit and class: messages with the cycles in which they arrived. -/
def State.waitList (s : State) (u cls : Nat) : List (Nat × NetMsg) :=
  if isHub u then SMap.get [] (s.hub (u - 2048)).wait cls else SMap.get [] (s.region (unitRegion u)).wait cls

/-- Replaces a wait list. -/
def State.setWaitList (s : State) (u cls : Nat) (l : List (Nat × NetMsg)) : State :=
  if isHub u then let h := s.hub (u - 2048); s.setHub (u - 2048) { h with wait := SMap.set [] h.wait cls l }
  else let r := s.region (unitRegion u); s.setRegion (unitRegion u) { r with wait := SMap.set [] r.wait cls l }

/-- The number of the link by which a message comes: its sender's unit, for the spec numbers no links (log 90). -/
def NetMsg.link (m : NetMsg) : Nat := match m.channel with | some (_, u, _) => u | none => 0

/-- A message joins a wait list behind those that arrived before it, messages of one cycle by ascending link (R52). -/
def joinWait (now : Nat) (m : NetMsg) : List (Nat × NetMsg) → List (Nat × NetMsg)
  | [] => [(now, m)]
  | y :: t => if y.1 = now ∧ m.link < y.2.link then (now, m) :: y :: t else y :: joinWait now m t

/-- `FLOOD_MESSAGE_ARRIVE`: a flood message joins its class's wait list, which holds 64 in the router and spills further ones (R52). Operands: index (its
place among the messages under way). -/
def execFloodMessageArrive (s : State) : Host.Outcome State Fault Refusal :=
  match s.net[s.args.index]? with
  | some (.flood dest pu ps ch m) =>
    if s.inOrder s.args.index then
      let s := s.takeNet s.args.index
      let l := s.waitList dest m.depth
      let s := if l.length < 64 then s else s.spillFree dest
      .next (s.setWaitList dest m.depth (joinWait (s.unitClock dest) (.flood dest pu ps ch m) l))
    else .refused (.notEnabled "FLOOD_MESSAGE_ARRIVE")
  | _ => .refused (.notEnabled "FLOOD_MESSAGE_ARRIVE")

/-- A free cairn of a class in a unit: the lowest. -/
def State.freeCairn (s : State) (u cls : Nat) : Option Nat :=
  (findFrom (fun i => (s.cairn u (32 * cls + i)).state == .free) 32 0).map (fun i => 32 * cls + i)

/-- `CAIRN_OPEN`: the head of a wait list receives a cairn (R51). Operands: unit, cls. -/
def execCairnOpen (s : State) : Host.Outcome State Fault Refusal :=
  let u := s.args.unit; let cls := s.args.cls
  match s.waitList u cls, s.freeCairn u cls with
  | (_, .flood _ pu ps ch m) :: t, some slot =>
    let s := s.setWaitList u cls t
    let s := s.setCairn u slot { state := .opened, msg := some m, parentUnit := pu, parentSlot := ps, childNo := ch }
    .next (s.openCairn u slot m)
  | _, _ => .refused (.notEnabled "CAIRN_OPEN")

/-- `MAP_REREAD`: an entry whose VERSION differed from VCHECK is read again (R116), for a cairn that is opening or for a warp's entry, whose
instruction then issues again. Operands: reader. -/
def execMapReread (s : State) : Host.Outcome State Fault Refusal :=
  match s.args.reader with
  | some (.cairn u slot) =>
    let k := s.cairn u slot
    match k.state, k.msg with
    | .opened, some m => .next (s.openCairn u slot m)
    | _, _ => .refused (.notEnabled "MAP_REREAD")
  | some (.entry c slot i) =>
    let w := s.warp c slot
    match w.entry i with
    | some e =>
      (match s.peek c slot e with
       | .word len v =>
         (match instrOf len v with
          | .ldx f | .stx f =>
            let id := if f.iv = 0#2 then (w.get (refOf false (.vs 1 1) f.rs2.toNat) ((lowestLane e.mask).getD 0)).toNat else imm16 f
            .next (s.mapEntry c false (s.ctxOf c slot) id).2
          | _ => .refused (.notEnabled "MAP_REREAD"))
       | _ => .refused (.notEnabled "MAP_REREAD"))
    | none => .refused (.notEnabled "MAP_REREAD")
  | none => .refused (.notEnabled "MAP_REREAD")

/-! ### The gatherer (R59 to R61) -/

/-- The key of a clause: ENTRY and FCB, dispatched clauses and CLAUSE clauses apart (R60). -/
def Clause.key (c : Clause) : Nat × Word × Nat × Bool × Option (Nat × Nat) := (c.entry, c.fcb, c.ctx, c.byClause, c.seed)

/-- The key of an open warp. -/
def OpenWarp.key (w : OpenWarp) : Option (Nat × Word × Nat × Bool × Option (Nat × Nat)) := w.clauses.head?.map (fun c => c.key)

/-- An open warp of a clause's key, else a free slot: room for the clause. -/
def Region.room (r : Region) (c : Clause) : Bool := r.opened.any (fun w => w.key == some c.key) || r.opened.length < 64

/-- A warp of clauses closes: its cairn's work falls by its clauses and rises by one for the warp, which counts against MAXWARPS (R57, R69). Where a
silenced subtree has left clauses of an earlier flood of the FCB in the warp, all are charged to the first one's cairn (log 92). -/
def State.closeWarp (s : State) (region : Nat) (w : OpenWarp) (flush : Bool) : State :=
  let r := s.region region
  let s := s.setRegion region { r with opened := r.opened.filter (fun y => y.key != w.key), closed := r.closed ++ [{ clauses := w.clauses, flush := flush }] }
  match (w.clauses.head?).bind (fun c => c.ident.cairn) with
  | none => s
  | some n =>
    let k := SMap.get {} s.cairns n
    { s with cairns := SMap.set {} s.cairns n { k with work := k.work - w.clauses.length + 1, warps := k.warps + 1 } }

/-- A clause joins its open warp, which closes with 32 clauses or on LAST (R60). -/
def State.gather (s : State) (region : Nat) (c : Clause) : State :=
  let r := s.region region
  let w := match r.opened.find? (fun y => y.key == some c.key) with
    | some w => { w with clauses := w.clauses ++ [c] }
    | none => { clauses := [c], since := s.regionClock region }
  let s := s.setRegion region { r with opened := r.opened.filter (fun y => y.key != some c.key) ++ [w] }
  if c.last then s.closeWarp region w true else if w.clauses.length ≥ 32 then s.closeWarp region w false else s

/-- The gatherer accepts a clause for a cairn: a clause number, and one more piece of work (R66, R69). -/
def State.accept (s : State) (cairn : Nat) (c : Clause) : Clause × State :=
  let k := SMap.get {} s.cairns cairn
  ({ c with ident := { c.ident with cairn := some cairn, clause := k.clauses } },
   { s with cairns := SMap.set {} s.cairns cairn { k with clauses := k.clauses + 1, work := k.work + 1 } })

/-- The words of the argument block (R59, R62). -/
def argWords (args : List Byte) : List Word := (List.range 12).map (fun i => BitVec.ofNat 32 (ofLe ((args.drop (4 * i)).take 4)))

/-- The clause of a piece (R59, R62). -/
def pieceClause (f : FloodMsg) (u : Nat) (map : Option Nat) (p : Piece) (bprio : Nat) : Clause :=
  let lin := match map with | some e => if f.mapv then rowMajor p.coords (mapDims e) else 0 | none => 0
  let v : List Word :=
    if f.mapv then [BitVec.ofNat 32 lin, BitVec.ofNat 32 p.count, BitVec.ofNat 32 (lin / 2 ^ 32)] ++ (List.range 5).map (fun i => BitVec.ofNat 32 (p.coords.getD i 0))
    else []
  { entry := f.entry, ctx := f.ctxAt u, fcb := f.fcb, cls := f.cls, bprio := bprio, last := p.last, deferc := f.deferc, v := v, s := argWords f.args,
    byClause := false, scope := f.scope, sig := f.sig,
    ident := { handle := f.handle, fcb := f.fcb, depth := f.depth, key := BitVec.ofNat 64 (if f.mapv then lin else 0) } }

/-- The cursor may hand over a clause: room in the gatherer, and fewer than MAXWARPS handler warps held (R57). -/
def State.cursorRuns (s : State) (u slot : Nat) (f : FloodMsg) (c : Clause) : Bool :=
  (s.region u).room c && (s.cairn u slot).warps < f.maxwarps

/-- `CLAUSE_DISPATCH`: the dispatch cursor hands one clause to the gatherer (R56, R57); where what is left of the map has moved away meanwhile, the cairn
goes on to drain (log 89). A handler whose entry no block of the priority table holds starts at priority 128, as code before the first `.prio` (R342, log 8). Operands: region, slot. -/
def execClauseDispatch (s : State) : Host.Outcome State Fault Refusal :=
  let u := s.args.region; let slot := s.args.slot
  let k := s.cairn u slot
  match k.state, k.msg, s.piece u slot with
  | .dispatch, some f, some p =>
    let x := f.ctxAt u
    let bprio := match s.blockOf x f.entry with | some (_, b) => b | none => 128
    let c := pieceClause f u k.map p bprio
    if s.cursorRuns u slot f c then
      let (c, s) := (s.touchBlocks x).accept (u * 256 + slot) c
      let k := s.cairn u slot
      let k := { k with shard := p.shard, offset := if f.mapv then p.offset + p.count else 1, state := if p.last then .drain else .dispatch }
      .next ((s.setCairn u slot k).gather u c)
    else .refused (.notEnabled "CLAUSE_DISPATCH")
  | .dispatch, some _, none => .next (s.setCairn u slot { k with state := .drain })
  | _, _, _ => .refused (.notEnabled "CLAUSE_DISPATCH")

/-- `GATHER_TIMEOUT_CLOSE`: an open warp closes 2,048 local cycles after its oldest clause arrived (R60). Operands: region, index. -/
def execGatherTimeoutClose (s : State) : Host.Outcome State Fault Refusal :=
  match (s.region s.args.region).opened[s.args.index]? with
  | some w =>
    if w.since + 2048 ≤ s.regionClock s.args.region then .next (s.closeWarp s.args.region w true) else .refused (.notEnabled "GATHER_TIMEOUT_CLOSE")
  | none => .refused (.notEnabled "GATHER_TIMEOUT_CLOSE")

/-- The first spilled clause that may leave the ring: the oldest of its key, with room in the gatherer (R60). -/
def Region.drainable (r : Region) : Option (Nat × Clause) :=
  findIdx (fun c => r.room c && (match findIdx (fun d => d.key == c.key) r.spill 0 with | some (_, d) => d == c | none => true)) r.spill 0

/-- The 64-byte record of a CLAUSE clause (R59). -/
def Clause.record (c : Clause) : Nat :=
  let payload := (firstN 12 (fun i => ((c.v.getD i 0#32).toNat) * 2 ^ (128 + 32 * i))).foldl (· + ·) 0
  c.entry % 2 ^ 64 + c.fcb.toNat * 2 ^ 64 + c.cls % 8 * 2 ^ 96 + c.bprio % 256 * 2 ^ 104 + c.last.toNat * 2 ^ 112 + c.deferc.toNat * 2 ^ 113 + payload

/-- A spilled clause as its record stands in the ring; the flood identity and the signature of its lane are the gatherer's own. -/
def Clause.ofRecord (c : Clause) (b : Nat) : Clause :=
  { c with entry := field b 0 64, fcb := BitVec.ofNat 32 (field b 64 32), cls := field b 96 3, bprio := field b 104 8, last := bit b 112, deferc := bit b 113,
           v := (List.range 12).map (fun i => BitVec.ofNat 32 (field b (128 + 32 * i) 32)) }

/-- A clause goes to the spill ring (R60). -/
def State.spillClause (s : State) (r : Nat) (c : Clause) : State :=
  let (i, s) := s.ringWrite r c.record
  s.setRegion r { s.region r with spill := (s.region r).spill ++ [{ c with ring := i }] }

/-- `SPILL_CLAUSE_DRAIN`: a spilled clause is read from the ring and joins an open warp of its key (R60). Operands: region. -/
def execSpillClauseDrain (s : State) : Host.Outcome State Fault Refusal :=
  let u := s.args.region; let r := s.region u
  match r.drainable with
  | some (i, c) =>
    let (bits, s) := s.homeRead none (s.ringPlace u c.ring) 64
    .next ((s.setRegion u { r with spill := dropAt r.spill i }).gather u (c.ofRecord bits))
  | none => .refused (.notEnabled "SPILL_CLAUSE_DRAIN")

/-! ### Echoes, completion and late echoes (R70 to R73, R81, R82) -/

/-- A lane that waits for a flood that has completed: its registers are written and become full, with an acquire (R73, R316). -/
def State.finishFlood (s : State) (c slot : Nat) (h : Word) (value status scope : Nat) : State :=
  let w := s.warp c slot
  let mine (y : Wait) : Bool := !y.done && (match y.kind with | .flood g _ => g == h | _ => false)
  if w.waits.any mine then
    let ys := (w.waits.filter mine).map (fun y => { y with done := true, value := value, status := status })
    let w := { w.writeWaits ys with waits := w.waits.map (fun y => if mine y then { y with done := true, value := value, status := status } else y) }
    ((s.setWarp c slot w).fcbAcquire c (s.ctxOf c slot) (handleFcb h) scope).endWaits c slot
  else s

/-- Every resident warp that waits for a flood. -/
def State.finishAll (s : State) (h : Word) (value status scope : Nat) : State :=
  (s.warpsIn 0 6).foldl (fun s w => s.finishFlood w.1 w.2 h value status scope) s

/-- Lanes of saved groups that wait for a flood: they have its result with the wake, and do not read the FCB again (R73). -/
def State.finishSaved (s : State) (h : Word) (value status scope : Nat) : State :=
  let mine (y : Wait) : Bool := !y.done && (match y.kind with | .flood g _ => g == h | _ => false)
  let tell (w : Warp) : Warp := { w with waits := w.waits.map (fun y => if mine y then { y with done := true, value := value, status := status } else y) }
  let hit (k : Nat × Core) : List (Nat × Nat) := (k.2.saved.filter (fun v => v.warps.any (fun w => w.waits.any mine))).map (fun v => (k.1, v.group.ctx))
  if s.cores.all (fun k => k.2.saved.isEmpty) then s
  else
    let xs := s.cores.flatMap hit
    let s := s.mapCores (fun _ k => { k with saved := k.saved.map (fun v => { v with warps := v.warps.map tell }) })
    xs.foldl (fun s y => s.fcbAcquire y.1 y.2 (handleFcb h) scope) s

/-- The origin cairn frees; the free order of its class is least recently freed first (R73). -/
def Region.freeOrigin (r : Region) (slot : Nat) : Region :=
  let cls := slot / 32
  let old := (SMap.get none r.freeOrder cls).getD ((List.range 32).map (fun i => 32 * cls + i))
  { r with freeOrder := SMap.set none r.freeOrder cls (some (old.filter (· != slot) ++ [slot])) }

/-- The free order without a slot that has been allocated. -/
def Region.takeOrigin (r : Region) (slot : Nat) : Region :=
  let cls := slot / 32
  let old := (SMap.get none r.freeOrder cls).getD ((List.range 32).map (fun i => 32 * cls + i))
  { r with freeOrder := SMap.set none r.freeOrder cls (some (old.filter (· != slot))), useCount := SMap.set 0 r.useCount slot ((SMap.get 0 r.useCount slot + 1) % 2 ^ 14) }

/-- The origin completes its flood (R71): RESULT, STATUS and counts are written with a release, waiting lanes wake, the cairn frees. The counts of the FCB
have 32 bits (R75) and do not saturate at 255, as those of an echo do (R70). -/
def State.complete (s : State) (u slot : Nat) (f : FloodMsg) : State :=
  let k := s.cairn u slot
  let e := k.echo
  let x := f.ctxAt u
  let lates := s.fcbField x f.fcb 448 32
  let (silent, faults) := k.counts k.childEchoes
  let status := floodStatus true e.partly e.cancelled e.faulted (lates != 0) silent faults lates
  let value := if f.comb = 0 then 0 else e.value.toNat
  let s := s.fcbWrite x f.fcb 40 8 value
  let s := s.fcbWrite x f.fcb 52 4 silent
  let s := s.fcbWrite x f.fcb 60 4 faults
  let s := s.fcbRelease x f.fcb 48 4 status e.sig f.scope
  let s := s.setCairn u slot {}
  let s := s.setRegion (unitRegion u) ((s.region (unitRegion u)).freeOrigin slot)
  let s := (s.finishAll f.handle value status f.scope).finishSaved f.handle value status f.scope
  s.wakeSaved (fun w => w.waits.any (fun y => match y.kind with | .flood g _ => g == f.handle | _ => false))

/-- `CAIRN_ECHO`: a drained cairn sends its echo; an origin cairn completes its flood (R70, R71). Operands: unit, slot. -/
def execCairnEcho (s : State) : Host.Outcome State Fault Refusal :=
  let u := s.args.unit; let slot := s.args.slot; let k := s.cairn u slot
  match k.drained, k.msg with
  | true, some f =>
    if 1024 ≤ u ∧ u < 2048 then .next (s.complete u slot f)
    else
      let s := { s with net := s.net ++ [NetMsg.echo k.parentUnit k.parentSlot k.childNo f.handle f.ctx f.scope k.echo] }
      .next (s.setCairn u slot { k with state := .echo })
  | _, _ => .refused (.notEnabled "CAIRN_ECHO")

/-- `CAIRN_FREE`: one local cycle after its echo a cairn is free (R51). Operands: unit, slot. -/
def execCairnFree (s : State) : Host.Outcome State Fault Refusal :=
  let k := s.cairn s.args.unit s.args.slot
  if k.state = .echo then .next (s.setCairn s.args.unit s.args.slot {})
  else .refused (.notEnabled "CAIRN_FREE")

/-- A late-echo entry (R82). -/
def lateEntry (e : EchoVal) (c : Child) (delay : Nat) : Nat :=
  let hub := isHub c.1
  e.value.toNat + (if hub then (c.1 - 2048) % 4 else c.2.2.1) * 2 ^ 64 + c.2.1 * 2 ^ 69 + hub.toNat * 2 ^ 74 + e.partly.toNat * 2 ^ 80 +
    e.cancelled.toNat * 2 ^ 81 + e.faulted.toNat * 2 ^ 82 + min delay (2 ^ 32 - 1) * 2 ^ 96

/-- The counter of stale echoes of a region (R81, R415). -/
def staleCounter (r : Nat) : Nat := 0x100 + 8 * r

/-- A late echo (R81): logged in the FCB while the handle is still its own, else counted as stale. -/
def State.lateEcho (s : State) (u slot child : Nat) (h : Word) (e : EchoVal) (x scope : Nat) : State :=
  let fcb := handleFcb h
  if s.fcbField x fcb 0 32 = h.toNat then
    let n := s.fcbField x fcb 448 32
    let mine (y : LateChild) : Bool := y.unit == u && y.slot == slot && y.handle == h && y.no == child
    let (c, at_) := match s.late.find? mine with | some y => (y.child, y.at_) | none => ((0, unitModule u, 0, 0), s.unitClock u)
    let s := { s with late := s.late.filter (fun y => !mine y) }
    let s := if n < 8 then s.fcbWrite x fcb (384 + 16 * n) 16 (lateEntry e c ((s.unitClock u - at_) / 1024)) else s
    let s := s.fcbWrite x fcb 56 4 (n + 1)
    let st := s.fcbField x fcb 384 32
    s.fcbRelease x fcb 48 4 (putField (st ||| 16) 24 8 (min 255 (n + 1))) e.sig scope
  else s.count (unitModule u) (staleCounter (unitRegion u % 32)) 1

/-! ### Silence (R78 to R80) -/

/-- The time at which a child's timer expires; none without a limit. -/
def Cairn.expires (k : Cairn) (child : Nat) : Option Nat :=
  match k.msg, k.children[child]? with
  | some f, some c => if f.silence = 0 then none else some (k.sentAt + f.silence * 1024 * (1 + c.2.2.2))
  | _, _ => none

/-- A child whose timer has expired unanswered: an echo that comes in the cycle of the expiry is still folded (R79). -/
def Cairn.silentDue (k : Cairn) (child clock : Nat) : Bool :=
  k.live && (SMap.get none k.answered child).isNone && !k.silent.contains child && (match k.expires child with | some t => t < clock | none => false)

/-- A child is marked silent, at the time at which its timer expired: its MISSING bit is set by an atomic OR, and the echo will be PARTIAL (R79). -/
def State.markSilent (s : State) (u slot i : Nat) : State :=
  let k := s.cairn u slot
  match k.msg, k.children[i]? with
  | some f, some c =>
    let x := f.ctxAt u
    let lo := 1024 + 64 * c.2.1
    let old := s.fcbField x f.fcb lo 64
    let s := s.fcbWrite x f.fcb (lo / 8) 8 (old ||| 2 ^ c.2.2.1)
    let y : LateChild := { unit := u, slot := slot, handle := f.handle, no := i, child := c, at_ := (k.expires i).getD 0 }
    { s with late := s.late ++ [y] }.setCairn u slot { k with silent := k.silent ++ [i], silentCount := k.silentCount + 1, partly := true }
  | _, _ => s

/-- `SILENCE_EXPIRE`: a child's timer has expired before its echo came (R79). Operands: unit, slot, child. -/
def execSilenceExpire (s : State) : Host.Outcome State Fault Refusal :=
  let u := s.args.unit; let slot := s.args.slot; let i := s.args.child
  if (s.cairn u slot).silentDue i (s.unitClock u) then .next (s.markSilent u slot i) else .refused (.notEnabled "SILENCE_EXPIRE")

/-! ### Echoes that arrive (R67, R81) -/

/-- `ECHO_ARRIVE`: an echo is folded into the belay that awaits it, or is late (R67, R81); one that comes after its child's timer has expired finds it silent
(R79). Operands: index. -/
def execEchoArrive (s : State) : Host.Outcome State Fault Refusal :=
  match s.net[s.args.index]? with
  | some (.echo u slot child h ctx scope e) =>
    let s := s.takeNet s.args.index
    let s := if (s.cairn u slot).handle == some h && (s.cairn u slot).silentDue child (s.unitClock u) then s.markSilent u slot child else s
    let k := s.cairn u slot
    if k.live && k.handle == some h && (SMap.get none k.answered child).isNone && !k.silent.contains child then
      .next ((s.setCairn u slot { k with answered := SMap.set none k.answered child (some e) }).spillBelay u)
    else
      .next (s.lateEcho u slot child h e (unitModule u * 32 + ctx % 32) scope)
  | _ => .refused (.notEnabled "ECHO_ARRIVE")

/-! ### Cancels (R53, R83 to R85) -/

/-- Ends the handler warps of a cairn: without DEFERC their lanes are terminated, with it p14 becomes true (R84, R85). -/
def State.cancelWarps (s : State) (cairn deferc : Nat) : State :=
  (s.warpsIn 0 6).foldl (fun s y =>
    let w := s.warp y.1 y.2
    let m := filterMask w.live (fun l => (w.laneIdent l).cairn == some cairn)
    if m = 0#32 then s
    else if deferc = 1 then s.setWarp y.1 y.2 { w.putPred 14 0xFFFFFFFF#32 0xFFFFFFFF#32 with deferred := true }
    else
      -- termination is not a fault: the record of a trap that the lanes are in is not sent
      let s := match w.trapping with
        | some t =>
          let left := t.lanes &&& ~~~m
          s.setWarp y.1 y.2 (if left = 0#32 then { w with trapping := none, privst := w.privst &&& ~~~3#32 } else { w with trapping := some { t with lanes := left } })
        | none => s
      let s := (lanes m).foldl (fun s l => if (w.laneTx l).state == .idle then s else s.abortLane y.1 y.2 l 8 0 0) s
      s.killLanes y.1 y.2 m) s

/-- Ends the lanes of a cairn in saved groups: they contribute the identity, their stores have drained, and a group without lanes frees its area. -/
def State.cancelSaved (s : State) (cairn deferc : Nat) : State :=
  s.cores.foldl (fun s k => k.2.saved.foldl (fun s v =>
    if deferc = 1 then
      -- p14 becomes true in the saved warps of the cairn (R85)
      let defer (w : Warp) : Warp :=
        if filterMask w.live (fun l => (w.laneIdent l).cairn == some cairn) = 0#32 then w else { w.putPred 14 0xFFFFFFFF#32 0xFFFFFFFF#32 with deferred := true }
      let core := s.core k.1
      s.setCore k.1 { core with saved := core.saved.map (fun y => if y.number = v.number then { y with warps := y.warps.map defer } else y) }
    else
      let dead (w : Warp) : LaneMask := filterMask w.live (fun l => (w.laneIdent l).cairn == some cairn)
      let s := v.warps.foldl (fun s w => (lanes (dead w)).foldl (fun s l => s.contributeIdentity (w.laneIdent l)) s) s
      let warps := v.warps.map (fun w => w.leaveFrontier (dead w))
      let s := (v.warps.zip warps).foldl (fun s y => if !y.1.frontier.isEmpty && y.2.frontier.isEmpty then s.workDone cairn else s) s
      let core := s.core k.1
      if warps.all (fun w => w.frontier.isEmpty) then
        (s.setCore k.1 { core with saved := core.saved.filter (fun y => y.number != v.number) }).dropArea v.group.ctx v.base
      else s.setCore k.1 { core with saved := core.saved.map (fun y => if y.number = v.number then { y with warps := warps } else y) }) s) s

/-- Pending clauses of a cairn in the gatherer, the spill ring and the closed warps are dropped and contribute nothing (R83). -/
def State.dropClauses (s : State) (region cairn : Nat) : State :=
  let r := s.region region
  let mine (c : Clause) : Bool := c.ident.cairn == some cairn
  let opened := r.opened.foldl (fun n w => n + (w.clauses.filter mine).length) 0
  let spilled := (r.spill.filter mine).length
  let closedN := (r.closed.filter (fun w => w.clauses.any mine)).length
  let s := s.setRegion region
    { r with opened := (r.opened.map (fun w => { w with clauses := w.clauses.filter (fun c => !mine c) })).filter (fun w => !w.clauses.isEmpty),
             spill := r.spill.filter (fun c => !mine c), closed := r.closed.filter (fun w => !w.clauses.any mine) }
  let k := SMap.get {} s.cairns cairn
  { s with cairns := SMap.set {} s.cairns cairn { k with work := k.work - opened - spilled - closedN, warps := k.warps - closedN } }

/-- The cancel goes on to every child, in child order (R83). -/
def State.cancelChildren (s : State) (u slot : Nat) (h : Word) (cls : Nat) : State :=
  let cs := (s.cairn u slot).children
  { s with net := s.net ++ (List.range cs.length).map (fun i => NetMsg.cancel ((cs[i]?).getD (0, 0, 0, 0)).1 h cls u slot i) }

/-- Floods whose origin cairn lies in a region and whose FCB's PARENT is a cancelled FCB, one of the same context, are cancelled as by CANCELF (R84). -/
def State.cancelNested (s : State) (region x : Nat) (fcb : Word) : State :=
  (List.range 256).foldl (fun s i =>
    let k := s.cairn (originUnit region) i
    match k.live, k.msg with
    | true, some m => if m.ctx % 32 = x % 32 ∧ s.fcbField x m.fcb 32 32 = fcb.toNat then { s with net := s.net ++ [.cancel (originUnit region) m.handle m.depth (originUnit region) i 0] } else s
    | _, _ => s) s

/-- A cancel acts on a live cairn (R83). One whose map entry is still read again has not sent to its children: it drains with none (log 93). -/
def State.cancelCairn (s : State) (u slot : Nat) (f : FloodMsg) : State :=
  let k := s.cairn u slot
  if k.cancelled then s
  else
    let x := f.ctxAt u
    let origin := 1024 ≤ u && u < 2048
    let s := if origin then s.fcbWrite x f.fcb 48 4 (s.fcbField x f.fcb 384 32 ||| 4) else s
    let s := s.setCairn u slot { k with cancelled := true, state := .drain }
    let s := if origin || isHub u then s
      else
        let s := s.dropClauses u (u * 256 + slot)
        let d := if f.deferc then 1 else 0
        ((s.cancelWarps (u * 256 + slot) d).cancelSaved (u * 256 + slot) d).cancelNested u x f.fcb
    s.cancelChildren u slot f.handle f.depth

/-- `CANCEL_ARRIVE`: a cancel flood reaches a router: a waiting message of its flood is removed and answered with CANCELLED and the identity (R53), a
live cairn acts by its state, anything else discards it (R83). Operands: index. -/
def execCancelArrive (s : State) : Host.Outcome State Fault Refusal :=
  match s.net[s.args.index]? with
  | some (.cancel dest h cls _ _ _) =>
    if !s.inOrder s.args.index then .refused (.notEnabled "CANCEL_ARRIVE")
    else
      let s := s.takeNet s.args.index
      let mine (m : Nat × NetMsg) : Bool := match m.2 with | .flood t _ _ _ f => t == dest && f.handle == h | _ => false
      match (s.waitList dest cls).find? mine with
      | some (_, .flood _ pu ps ch f) =>
        let s := s.setWaitList dest cls ((s.waitList dest cls).filter (fun m => !mine m))
        let id := ({ msg := some f } : Cairn).identity
        .next { s with net := s.net ++ [NetMsg.echo pu ps ch h f.ctx f.scope { id with cancelled := true }] }
      | _ =>
        match s.cairnFor dest h with
        | some slot => (match (s.cairn dest slot).msg with | some f => .next (s.cancelCairn dest slot f) | none => .next s)
        | none => .next s
  | _ => .refused (.notEnabled "CANCEL_ARRIVE")

end Sys2Proof.Machine
end

