-- ==== Sys2Proof/Machine/FloodInstr.lean ====
section
/-! DEFINITION. The flood instructions (R313 to R320): FLOOD, ECHO, WAITF, TESTF, CANCELF, FINFO and CLAUSE. -/

namespace Sys2Proof.Machine

/-! ### Records read by an instruction -/

/-- What reading a record at a lane's address comes to. -/
inductive Rec where
  | val (v : Nat)
  | park (i : FaultInfo)
  | trap (i : FaultInfo)
  /-- Nothing can be decided yet. -/
  | held

/-- One aligned 8-byte word, as a plain load of the lane. -/
def State.readWord8 (s : State) (c slot lane va pc : Nat) : Rec × State :=
  let x := s.ctxOf c slot
  match s.reach c x (s.warp c slot).privileged false va 8 8 .load { pc := pc } with
  | (.park i, s) => (.park i, s)
  | (.trap i, s) => (.trap i, s)
  | (.ok p wti _ _, s) =>
    match s.chase x va 2 p with
    | none => (.park { cause := 0x10, pc := pc, fva := va, kind := 6 }, s.dropTlb c x va)
    | some q =>
      if s.refusesModule c x q then (.trap { cause := 0x11, pc := pc, fva := va, kind := 10 }, s)
      else
        match s.readNow c slot x lane q wti 8 0 va with
        | (.val v, s) => (.val v, s)
        | (.trap i, s) => (.trap { i with pc := pc }, s)
        | (.park i, s) => (.park { i with pc := pc }, s)
        | (.gone, s) => (.park { cause := 0x12, pc := pc, fva := va, kind := 7 }, s)
        | (_, s) => (.held, s)

/-- `n` words from an 8-byte-aligned address on, the first lowest. -/
def State.readRecord (s : State) (c slot lane pc : Nat) : (n va : Nat) → Rec × State
  | 0, _ => (.val 0, s)
  | n + 1, va =>
    match s.readWord8 c slot lane va pc with
    | (.val v, s) =>
      match State.readRecord s c slot lane pc n (va + 8) with
      | (.val u, s) => (.val (v + u * 2 ^ 64), s)
      | r => r
    | r => r

/-! ### FLOOD (R40 to R45, R313) -/

/-- What one lane's emission comes to. -/
inductive Emit where
  | ok (d : Desc) (args : Nat)
  | park (i : FaultInfo)
  | trap (i : FaultInfo)
  | held

/-- A reserved field of the descriptor is set, or a field holds what no flood may have (R42). -/
def descBad (d : Desc) : Bool :=
  field d 482 30 != 0 || field d 475 5 != 0 || field d 185 7 != 0 || field d 165 3 != 0 || field d 140 3 != 0 || field d 57 7 != 0 ||
    field d 64 32 == 0 || field d 168 8 > 48 || (bit d 143 && field d 144 16 == 0) || (bit d 164 && !([1, 2, 3, 4, 15] : List Nat).contains (field d 160 4))

/-- An overridden limit exceeds the emitter's (R42). -/
def overBudget (d : Desc) (inherit : Nat → Nat → Nat) : Bool :=
  let pick (ovr dlo n flo : Nat) : Bool := bit d (176 + ovr) && field d dlo n > inherit flo n
  pick 0 320 16 64 || pick 2 352 32 96 || pick 3 384 32 128 || pick 6 464 8 208 || pick 7 472 8 216

/-- The checks that follow the argument block, in the order of R42. -/
def Iss.checkFlood (x : Iss) (s : State) (l : Nat) (d : Desc) (args : Nat) : Emit × State :=
  let cx := s.ctxOf x.core x.slot; let w := s.warp x.core x.slot; let i := w.laneIdent l
  let info (cause : Nat) : FaultInfo := { cause := cause, pc := x.pc }
  let inherit := s.fcbField cx i.fcb
  let fdom := if bit d 177 then field d 336 16 else inherit 80 16
  let mods := floodModules (cx / 32) (field d 96 32)
  let last (_s : State) : Emit :=
    if i.nextDepth > 7 ∨ i.nextDepth > inherit 208 8 then .trap (info 0x30)
    else if overBudget d inherit then .trap (info 0x31)
    else .ok d args
  if mods.any (fun m => !bit (s.cdom cx) m) || !s.domainAssigned cx fdom then (.trap { info 0x11 with kind := 10 }, s)
  else if bit d 143 then
    match s.mapRead cx (field d 128 12) with
    | (.entry _, s) => (last s, s)
    | (.reread, s) => (.held, s)
    | (.invalid, s) => (.trap { info 0x14 with mapid := field d 128 12, acc := 6, kind := 9 }, s)
    | (.refused va r, s) =>
      let i : FaultInfo := { info r.cause with fva := va, acc := 6, mapid := field d 128 12, kind := r.where_.1, level := r.where_.2 }
      (match r with | .perm _ _ => .trap i | _ => .park { i with cause := 0x10 }, s)
  else (last s, s)

/-- The checks of one lane's emission (R42). -/
def Iss.emission (x : Iss) (s : State) (l : Nat) : Emit × State :=
  let w := s.warp x.core x.slot
  let ea := if x.imm = .reg then x.a64 w l else x.ea w l
  if ea % 64 ≠ 0 then (.trap { cause := 0x06, pc := x.pc, fva := ea }, s)
  else
    match s.readRecord x.core x.slot l x.pc 8 ea with
    | (.park i, s) => (.park i, s)
    | (.trap i, s) => (.trap i, s)
    | (.held, s) => (.held, s)
    | (.val d, s) =>
      if descBad d then (.trap { cause := 0x02, pc := x.pc }, s)
      else if field d 168 8 = 0 then x.checkFlood s l d 0
      else if field d 256 64 % 8 ≠ 0 then (.trap { cause := 0x06, pc := x.pc, fva := field d 256 64 }, s)
      else
        let n := field d 168 8
        match s.readRecord x.core x.slot l x.pc ((n + 7) / 8) (field d 256 64) with
        | (.park i, s) => (.park i, s)
        | (.trap i, s) => (.trap i, s)
        | (.held, s) => (.held, s)
        | (.val a, s) => x.checkFlood s l d (a % 2 ^ (8 * n))

/-- The origin cairn that a flood of a depth takes: the least recently freed of its class (R43, R73). -/
def State.originSlot (s : State) (r d : Nat) : Option Nat :=
  let order := (SMap.get none (s.region r).freeOrder d).getD ((List.range 32).map (fun i => 32 * d + i))
  order.find? (fun i => (s.cairn (originUnit r) i).state == .free)

/-- One lane emits: origin cairn, handle, FCB, and the message to every child (R43, R44, R49, R75, R76). -/
def Iss.emit (x : Iss) (s : State) (l : Nat) (d : Desc) (args : Nat) : State :=
  let cx := s.ctxOf x.core x.slot; let w := s.warp x.core x.slot; let i := w.laneIdent l
  let r := coreRegion x.core; let m := coreModule x.core; let depth := i.nextDepth
  match s.originSlot r depth with
  | none => s
  | some slot =>
    let s := (s.touchFcb cx i.fcb).touchDomain cx (s.faultDomain cx i.fcb)
    let reg := (s.region r).takeOrigin slot
    let h := mkHandle m (r % 32) slot (SMap.get 0 reg.useCount slot)
    let fcb := handleFcb h
    let bits := fcbBits d (s.fcbField cx i.fcb) i.fcb h depth m
    let modmask := field bits 512 32; let regmask := field d 64 32
    let scope := floodScope m (r % 32) modmask regmask
    let g := (s.core x.core).sigOf (max scope (w.rel.getD 0))
    let s := s.setRegion r reg
    let s := (s.ctxWrite cx (s.fcbAddr cx fcb) 512 bits).2
    let f : FloodMsg :=
      { handle := h, depth := depth, ctx := cx, fcb := fcb, entry := field d 0 64, regmask := BitVec.ofNat 32 regmask, modmask := BitVec.ofNat 32 modmask,
        grain := field d 144 16, mapv := bit d 143, mapid := field d 128 12, args := leBytes 48 args, arglen := field d 168 8, comb := field d 160 4,
        uid := bit d 164, ident := BitVec.ofNat 64 (field d 192 64), silence := field bits 160 32, cls := field bits 216 8, deferc := bit bits 225,
        promise := bit bits 224, maxwarps := field bits 64 16, scope := scope, sig := g }
    let s := s.setCairn (originUnit r) slot { state := .drain, msg := some f }
    let s := s.openChildren (originUnit r) slot f (originChildren m (r % 32) modmask regmask)
    s.setWarp x.core x.slot ((s.warp x.core x.slot).put (.v x.f.rd.toNat) l h)

/-- Lanes of a FLOOD that emitted, parked, trapped, or must try again. -/
structure Emitted where
  s : State
  parks : List (Nat × FaultInfo) := []
  traps : List (Nat × FaultInfo) := []
  again : List Nat := []

/-- Emits in listed lanes, ascending (R40). -/
def Iss.emitEach (x : Iss) (r : Emitted) : List Nat → Emitted
  | [] => r
  | l :: t =>
    match x.emission r.s l with
    | (.ok d a, s) => Iss.emitEach x { r with s := x.emit s l d a } t
    | (.park i, s) => Iss.emitEach x { r with s := s, parks := r.parks ++ [(l, i)] } t
    | (.trap i, s) => Iss.emitEach x { r with s := s, traps := r.traps ++ [(l, i)] } t
    | (.held, s) => Iss.emitEach x { r with s := s, again := r.again ++ [l] } t

/-- FLOOD in the lanes that no transaction holds: it is a release at every lane's ordering scope (R45). -/
def Iss.floodEff (x : Iss) (m : LaneMask) (s : State) : Res :=
  x.release s 3 m (fun s =>
    let r := x.emitEach { s := s } (lanes m)
    let s := if r.parks.length + r.traps.length + r.again.length < (lanes m).length then r.s.clearFence x.core x.slot false true else r.s
    let park := maskOf (r.parks.map Prod.fst)
    let info : FaultInfo := match r.parks with | (_, i) :: _ => { i with pc := x.pc, lanes := park } | [] => {}
    let o : Out := { s := s, park := park, info := info, go := r.again.map (fun l => (l, some x.pc)) }
    match r.traps with
    | [] => .done o
    | (l, i) :: _ =>
      let bad := maskOf (r.traps.map Prod.fst)
      .trap o { x.trapReq i.cause bad i with info := { i with pc := x.pc, lanes := bad }, extra := l } false)

/-- `FLOOD` (R313). -/
def execFlood (f : Form64) (s : State) : Host.Outcome State Fault Refusal := runCore (.flood f) (fun x s => x.closed s x.floodEff) s

/-! ### ECHO (R314, R315) -/

/-- A lane's contribution (R63, R64, R314). -/
def Iss.contribution (x : Iss) (w : Warp) (l : Nat) : EchoVal :=
  let comb := x.f.ty.toNat
  let v := if comb = 0 then 0 else if comb = 12 then 1 else if [1, 3, 5, 6, 7, 8].contains comb then x.a w l else x.a64 w l
  { value := BitVec.ofNat 64 v, key := if comb = 15 then (w.laneIdent l).key else 0#64 }

/-- The check of one lane (R315). -/
def Iss.echoCheck (x : Iss) (s : State) (w : Warp) (l : Nat) : Option Nat :=
  let i := w.laneIdent l
  if i.cairn.isNone then some 0x33
  else if s.fcbField (s.ctxOf x.core x.slot) i.fcb 240 4 ≠ x.f.ty.toNat then some 0x02
  else if i.echoed then some 0x32
  else none

/-- The ordering scope of a lane's flood. -/
def State.identScope (s : State) (i : Ident) : Nat :=
  match i.cairn with
  | some n => (match (SMap.get ({} : Cairn) s.cairns n).msg with | some f => f.scope | none => 3)
  | none => 3

/-- The echoes of listed lanes. -/
def Iss.echoEach (x : Iss) (s : State) : List Nat → State
  | [] => s
  | l :: t =>
    let w := s.warp x.core x.slot; let i := w.laneIdent l
    let e := { x.contribution w l with sig := (s.core x.core).sigOf (s.identScope i) }
    let s := match i.cairn with | some n => (s.touchFcb (s.ctxOf x.core x.slot) i.fcb).contribute n i.clause e | none => s
    Iss.echoEach x (s.setWarp x.core x.slot ((s.warp x.core x.slot).setIdent l { i with echoed := true })) t

/-- ECHO in the lanes that no transaction holds. -/
def Iss.echoEff (x : Iss) (m : LaneMask) (s : State) : Res :=
  let w := s.warp x.core x.slot
  let bad := (lanes m).filter (fun l => (x.echoCheck s w l).isSome)
  match bad with
  | l :: _ => x.trap s ((x.echoCheck s w l).getD 0) (maskOf bad)
  | [] =>
    x.release s 3 m (fun s => .done { s := x.echoEach s (lanes m) })

/-- `ECHO` (R314, R315). -/
def execEcho (f : Form64) (s : State) : Host.Outcome State Fault Refusal := runCore (.echo f) (fun x s => x.closed s x.echoEff) s

/-! ### WAITF, TESTF, CANCELF and FINFO (R316 to R318) -/

/-- A lane's handle. -/
def Iss.handle (x : Iss) (w : Warp) (l : Nat) : Word := w.get x.r1 l

/-- The lanes whose handles fail the check of R73. -/
def Iss.badHandles (x : Iss) (s : State) (m : LaneMask) : LaneMask :=
  let w := s.warp x.core x.slot
  filterMask m (fun l => !s.handleValid (s.ctxOf x.core x.slot) (x.handle w l))

/-- The FCBs that lanes name are read. -/
def Iss.touchHandles (x : Iss) (s : State) (m : LaneMask) : State :=
  let w := s.warp x.core x.slot; let cx := s.ctxOf x.core x.slot
  (lanes m).foldl (fun s l => if bit (s.cdom cx) (handleMod (x.handle w l)) then s.touchFcb cx (handleFcb (x.handle w l)) else s) s

/-- RESULT and STATUS of a handle's FCB; before COMPLETE the result reads 0 (R73). -/
def State.floodResult (s : State) (x : Nat) (h : Word) : Nat × Nat :=
  let st := s.fcbField x (handleFcb h) 384 32
  (if bit st 0 then s.fcbField x (handleFcb h) 320 64 else 0, st)

/-- One lane's WAITF: at once where its flood has completed (R316). -/
def Iss.waitfLane (x : Iss) (s : State) (l : Nat) : State :=
  let cx := s.ctxOf x.core x.slot; let w := s.warp x.core x.slot; let h := x.handle w l
  let (v, st) := s.floodResult cx h
  let y : Wait := { lane := l, kind := .flood h x.f.rd.toNat, pc := x.pc, len := x.len, insn := x.insn, done := bit st 0, value := v, status := st, since := (s.core x.core).clock.toNat }
  let w := w.putWait y
  if bit st 0 then (s.setWarp x.core x.slot (w.writeWaits [y])).fcbAcquire x.core cx (handleFcb h) (s.fcbScope cx h)
  else s.setWarp x.core x.slot (w.markEmptyRun (.v x.f.rd.toNat) (1#32 <<< l) 3)

/-- WAITF in the lanes that no transaction holds. -/
def Iss.waitfEff (x : Iss) (m : LaneMask) (s : State) : Res :=
  let s := x.touchHandles s m
  let bad := x.badHandles s m
  if bad ≠ 0#32 then x.trap s 0x33 bad
  else
    let w := s.warp x.core x.slot
    -- every lane's handle is read before any destination is written
    let hs := (lanes m).map (fun l => x.handle w l)
    let s := (lanes m).foldl (fun s l => x.waitfLane s l) s
    let w := s.warp x.core x.slot
    let ys := w.waits.filter (fun y => m.getLsbD y.lane)
    if ys.all (fun y => y.done) && hs.length == ys.length then .done { s := s.setWarp x.core x.slot { w with waits := w.waits.filter (fun y => !m.getLsbD y.lane) } }
    else .wait { s := s } .wait

/-- `WAITF` (R316). -/
def execWaitf (f : Form64) (s : State) : Host.Outcome State Fault Refusal := runCore (.waitf f) (fun x s => x.closed s x.waitfEff) s

/-- The values of a TESTF in listed lanes; a complete flood is an acquire in a lane that is not open (R316). -/
def Iss.testfEach (x : Iss) (s : State) (r : InFlight) : List Nat → State × InFlight
  | [] => (s, r)
  | l :: t =>
    let cx := s.ctxOf x.core x.slot; let w := s.warp x.core x.slot; let h := x.handle w l
    let (v, st) := s.floodResult cx h
    let s := if bit st 0 && !w.isOpen l then s.fcbAcquire x.core cx (handleFcb h) (s.fcbScope cx h) else s
    Iss.testfEach x s { r with pend := r.pend ||| (1#32 <<< l), val := SMap.set 0 r.val l (v + st * 2 ^ 64), addr := SMap.set 0 r.addr l h.toNat } t

/-- Puts a record whose values have been read under way (R28). -/
def Iss.launchRead (x : Iss) (s : State) (r : InFlight) : Res :=
  let w := s.warp x.core x.slot
  if r.pend ≠ 0#32 then .done { s := s.setWarp x.core x.slot { w.markEmptyRun r.dst (r.pend ||| r.trapLanes) r.regs with inflight := w.inflight ++ [r] } }
  else if r.trapLanes ≠ 0#32 then .done { s := s.setWarp x.core x.slot (w.recordTraps r) }
  else .done { s := s }

/-- `TESTF` (R316). -/
def execTestf (f : Form64) (s : State) : Host.Outcome State Fault Refusal :=
  runCore (.testf f) (fun x s =>
    let m := x.part (s.warp x.core x.slot)
    let s := x.touchHandles s m
    let bad := x.badHandles s m
    if bad ≠ 0#32 then x.trap s 0x33 bad
    else
      let (s, r) := x.testfEach s (x.record 12 false 0 0) (lanes m)
      x.launchRead s r) s

/-- CANCELF in the lanes that no transaction holds: one cancel for each distinct handle (R317). -/
def Iss.cancelfEff (x : Iss) (m : LaneMask) (s : State) : Res :=
  let s := x.touchHandles s m
  let bad := x.badHandles s m
  if bad ≠ 0#32 then x.trap s 0x33 bad
  else
    let w := s.warp x.core x.slot
    let hs := distinct ((lanes m).map (fun l => (x.handle w l).toNat))
    let msgs := hs.map (fun h => let h : Word := BitVec.ofNat 32 h; NetMsg.cancel (originUnit (handleRegion h)) h (handleSlot h / 32) (coreRegion x.core) 0 0)
    .done { s := { s with net := s.net ++ msgs } }

/-- `CANCELF` (R317). -/
def execCancelf (f : Form64) (s : State) : Host.Outcome State Fault Refusal := runCore (.cancelf f) (fun x s => x.closed s x.cancelfEff) s

/-- Items 0 to 3 of FINFO: STATUS, LATECNT, SILENTCNT, FAULTCNT (R318). -/
def State.finfoRead (s : State) (x : Nat) (h : Word) (item : Nat) : Nat :=
  s.fcbField x (handleFcb h) (match item with | 0 => 384 | 1 => 448 | 2 => 416 | _ => 480) 32

/-- The values of items 0 to 3 in listed lanes. -/
def Iss.finfoEach (x : Iss) (s : State) (r : InFlight) (item : Nat) : List Nat → InFlight
  | [] => r
  | l :: t =>
    let h := x.handle (s.warp x.core x.slot) l
    let v := s.finfoRead (s.ctxOf x.core x.slot) h item
    Iss.finfoEach x s { r with pend := r.pend ||| (1#32 <<< l), val := SMap.set 0 r.val l v, addr := SMap.set 0 r.addr l h.toNat } item t

/-- `FINFO` (R318). -/
def execFinfo (f : Form64) (s : State) : Host.Outcome State Fault Refusal :=
  runCore (.finfo f) (fun x s =>
    let w := s.warp x.core x.slot; let m := x.part w; let item := x.f.rs3.toNat
    if item ≤ 3 then
      let s := x.touchHandles s m
      let bad := x.badHandles s m
      if bad ≠ 0#32 then x.trap s 0x33 bad else x.launchRead s (x.finfoEach s (x.record 4 false 0 0) item (lanes m))
    else
      let bad := filterMask m (fun l => (w.laneIdent l).cairn.isNone)
      if bad ≠ 0#32 then x.trap s 0x33 bad
      else
        let val (l : Nat) : Nat :=
          let i := w.laneIdent l
          match item with | 8 => i.clause | 9 => i.echoed.toNat | _ => s.identScope i
        .done { s := x.withWarp s (w.writeLanes x.rd 1 val (lanes m)) }) s

/-! ### CLAUSE (R319, R320) -/

/-- The checks of R319 that are made for every lane before any clause is written. -/
def Iss.clauseCheck (x : Iss) (w : Warp) (l : Nat) : Option (Nat × Nat) :=
  let e := x.b64 w l
  if (w.laneIdent l).cairn.isNone then some (0x33, 0) else if bit e 0 then some (0x06, 0) else if field e 57 7 ≠ 0 then some (0x11, 10) else none

/-- The clause of a lane (R59, R319). -/
def Iss.clauseOf (x : Iss) (s : State) (w : Warp) (l : Nat) : Clause :=
  let cx := s.ctxOf x.core x.slot; let i := w.laneIdent l
  { entry := x.b64 w l, ctx := cx, fcb := i.fcb, cls := s.fcbField cx i.fcb 216 8,
    bprio := match s.blockOf cx (x.b64 w l) with | some (_, b) => b | none => 128,
    last := bit x.f.rs3.toNat 0, deferc := s.fcbField cx i.fcb 225 1 == 1, v := (List.range 12).map (fun k => w.get (x.r1.plus k) l), s := [],
    byClause := true, scope := 3, sig := (s.core x.core).sigOf (max 3 (w.rel.getD 0)),
    ident := { i with echoed := false, key := BitVec.ofNat 64 ((w.get x.r1 l).toNat + (w.get (x.r1.plus 2) l).toNat * 2 ^ 32) } }

/-- The clauses of listed lanes, until one finds the ring full: the lanes whose clauses were not written. -/
def Iss.clauseEach (x : Iss) (s : State) : List Nat → List Nat × State
  | [] => ([], s)
  | l :: t =>
    let w := s.warp x.core x.slot; let r := coreRegion x.core
    let s := (s.touchFcb (s.ctxOf x.core x.slot) (w.laneIdent l).fcb).touchBlocks (s.ctxOf x.core x.slot)
    let c := x.clauseOf s w l
    match c.ident.cairn with
    | none => Iss.clauseEach x s t
    | some n =>
      if (SMap.get ({} : Cairn) s.cairns n).cancelled then Iss.clauseEach x s t
      else
        let reg := s.region r
        let joins := reg.room c && !reg.spill.any (fun d => d.key == c.key)
        if joins then
          let (c, s) := s.accept n c
          Iss.clauseEach x (s.gather r c) t
        else if s.ringFree r = 0 then (l :: t, s)
        else
          let (c, s) := s.accept n c
          Iss.clauseEach x (s.spillClause r c) t

/-- CLAUSE in the lanes that no transaction holds: a release at .rg (R320). -/
def Iss.clauseEff (x : Iss) (m : LaneMask) (s : State) : Res :=
  let w := s.warp x.core x.slot
  let bad := (lanes m).filter (fun l => (x.clauseCheck w l).isSome)
  match bad with
  | l :: _ =>
    let (cause, kind) := (x.clauseCheck w l).getD (0, 0)
    .trap { s := s } { x.trapReq cause (maskOf bad) { kind := kind } with extra := l } false
  | [] =>
    x.release s 3 m (fun s =>
      match x.clauseEach s (lanes m) with
      | ([], s) => .done { s := s }
      | (l :: t, s) => .trap { s := s } { x.trapReq 0x31 (maskOf (l :: t)) with extra := l } false)

/-- `CLAUSE` (R319, R320). -/
def execClause (f : Form64) (s : State) : Host.Outcome State Fault Refusal := runCore (.clause f) (fun x s => x.closed s x.clauseEff) s

end Sys2Proof.Machine
end

