-- ==== Sys2Proof/Machine/Tiles.lean ====
section
/-! DEFINITION. Tensor descriptors (R111, R112), tile reservations (R289 to R292), tile loads and stores (R294, R295), TWR and TRD (R296), and the landings of the tile engine. -/

namespace Sys2Proof.Machine

/-! ### Tensor descriptors (R111, R112) -/

/-- RANK of a descriptor. -/
def tRank (d : Nat) : Nat := field d 392 3
/-- FMT. -/
def tFmt (d : Nat) : Nat := field d 388 4
/-- DIMk. -/
def tDim (d k : Nat) : Nat := field d (96 + 32 * k) 32
/-- STRk. -/
def tStr (d k : Nat) : Nat := field d (256 + 32 * k) 32
/-- REDOP. -/
def tRedop (d : Nat) : Nat := field d 477 3
/-- REPL. -/
def tRepl (d : Nat) : Nat := field d 480 32

/-- Formats 5, 6, 8 and 9 have scales. -/
def scaledFmt (fmt : Nat) : Bool := fmt == 5 || fmt == 6 || fmt == 8 || fmt == 9

/-- A field of a descriptor that must be zero is not, or one holds a value that R112 refuses. -/
def tensorBad (d : Nat) : Bool :=
  field d 450 16 != 0 || field d 384 4 != 0 || field d 64 32 != 0 || (!bit d 395 && field d 57 7 != 0) || tRank d == 0 || tRank d > 5 || tFmt d > 11 ||
    field d 448 2 == 3 || tRedop d > 3 || (!bit d 466 && field d 467 45 != 0) ||
    (List.range 4).any (fun k => k + 1 ≥ tRank d && tStr d k != 0) || (List.range 5).any (fun k => k ≥ tRank d && tDim d k != 0)

/-- Elements of a group of a scaled descriptor along its last dimension (R181). -/
def tensorGroup (d : Nat) : Nat := if tFmt d = 8 ∨ tFmt d = 9 then 32 * 2 ^ field d 448 2 else 32

/-- The fault with which a descriptor's scale array is refused at its first use (R181): a last extent that is no multiple of the group length, or a
misaligned array of q entries. -/
def scalesBad (d : Nat) : Option FaultInfo :=
  if !scaledFmt (tFmt d) then none
  else if tDim d (tRank d - 1) % tensorGroup d ≠ 0 then some { cause := 0x41 }
  else if (tFmt d = 8 ∨ tFmt d = 9) ∧ (field d 0 64 + field d 408 40) % 4 ≠ 0 then some { cause := 0x06, fva := field d 0 64 + field d 408 40 }
  else none

/-- What a descriptor's checks give: its 64 bytes with the shard map entry under MAPV. -/
inductive DescGet where
  | ok (d : Nat) (map : Option Nat)
  | park (i : FaultInfo)
  | trap (i : FaultInfo)
  | held

/-- Reads and checks a descriptor, in the order of R112. -/
def Iss.tensor (x : Iss) (s : State) (l va : Nat) : DescGet × State :=
  if va % 64 ≠ 0 then (.trap { cause := 0x06, fva := va }, s)
  else
    match s.readRecord x.core x.slot l x.pc 8 va with
    | (.park i, s) => (.park i, s)
    | (.trap i, s) => (.trap i, s)
    | (.held, s) => (.held, s)
    | (.val d, s) =>
      if tensorBad d then (.trap { cause := 0x02, fva := va }, s)
      else if !bit d 395 then (.ok d none, s)
      else
        let id := field d 396 12
        match s.mapEntry x.core true (s.ctxOf x.core x.slot) id with
        | (.entry e, s) => if mapFmt e ≠ tFmt d ∨ mapRank e ≠ tRank d then (.trap { cause := 0x41, fva := va }, s) else (.ok d (some e), s)
        | (.reread, s) => (.held, s)
        | (.invalid, s) => (.trap { cause := 0x14, acc := 6, kind := 9, mapid := id }, s)
        | (.refused a r, s) =>
          match r.reach a 6 { mapid := id } with
          | .park i => (.park i, s)
          | .trap i => (.trap i, s)
          | _ => (.held, s)

/-! ### Reservation records (R289, R290) -/

/-- FMT of a reservation. -/
def tileFmt (r : Nat) : Nat := field r 0 4
/-- VIRT. -/
def tileVirt (r : Nat) : Bool := bit r 11
/-- SPARSE. -/
def tileSparse (r : Nat) : Bool := bit r 12
/-- ROLE. -/
def tileRole (r : Nat) : Bool := bit r 13
/-- ROWS. -/
def tileRows (r : Nat) : Nat := field r 32 16
/-- COLS. -/
def tileCols (r : Nat) : Nat := field r 48 16
/-- BASE. -/
def tileBase (r : Nat) : Nat := field r 96 32
/-- LEN. -/
def tileLen (r : Nat) : Nat := field r 128 32
/-- SCOFF. -/
def tileScoff (r : Nat) : Nat := field r 160 32
/-- ZPOFF. -/
def tileZpoff (r : Nat) : Nat := field r 192 32

/-- BL: elements of a group along K. -/
def tileGroup (r : Nat) : Nat := if tileFmt r = 8 ∨ tileFmt r = 9 then 32 * 2 ^ field r 14 2 else 32

/-- A transposed tile (R290). -/
def tileTrans (r : Nat) : Bool := tileRole r && scaledFmt (tileFmt r)

/-- Positions of K that a full sparse line covers (R187). -/
def lineSpan (fmt : Nat) : Nat := if fmtBits fmt = 8 then 192 else 96

/-- L: lines of a sparse column. -/
def tileLines (r : Nat) : Nat := ceilDiv (tileRows r) (lineSpan (tileFmt r))

/-- Bits of an element as the tile engine moves it: a sparse tile moves bytes. -/
def tileBits (r : Nat) : Nat := if tileSparse r then 8 else fmtBits (tileFmt r)

/-- The tile in linear order: lines, and elements of a line. -/
def tileShape (r : Nat) : Nat × Nat :=
  if tileSparse r then (tileCols r, tileLines r * 128) else if tileTrans r then (tileCols r, tileRows r) else (tileRows r, tileCols r)

/-- Bytes of the elements. -/
def tileData (r : Nat) : Nat := let (p, q) := tileShape r; ceilDiv (p * q * tileBits r) 8

/-- Groups with a scale. -/
def tileGroups (r : Nat) : Nat := if scaledFmt (tileFmt r) then tileRows r * tileCols r / tileGroup r else 0

/-- Bytes of the scales and of the zero points. -/
def tileScales (r : Nat) : Nat × Nat :=
  if tileFmt r = 8 ∨ tileFmt r = 9 then (2 * tileGroups r, tileGroups r) else (tileGroups r, 0)

/-- SCOFF, ZPOFF and LEN of a plain reservation (R290). -/
def tilePlan (r : Nat) : Nat × Nat × Nat :=
  let (sb, zb) := tileScales r
  let sc := roundUp 64 (tileData r); let zp := roundUp 64 (sc + sb)
  (sc, zp, roundUp 4096 (zp + zb))

/-! ### The operand buffer -/

/-- `n` bytes of a byte map from an offset on. -/
def bufRead (m : SMap Byte) (off : Nat) : (n : Nat) → Nat
  | 0 => 0
  | n + 1 => (SMap.get 0#8 m off).toNat + 256 * bufRead m (off + 1) n

/-- Writes `n` bytes of a byte map. -/
def bufWrite (m : SMap Byte) (off : Nat) : (n : Nat) → Nat → SMap Byte
  | 0, _ => m
  | n + 1, v => bufWrite (SMap.set 0#8 m off (BitVec.ofNat 8 v)) (off + 1) n (v / 256)

/-- `n` bits of a byte map from a bit offset on. -/
def bufBits (m : SMap Byte) (off n : Nat) : Nat := field (bufRead m (off / 8) (ceilDiv (off % 8 + n) 8)) (off % 8) n

/-- Writes `n` bits of a byte map. -/
def bufPutBits (m : SMap Byte) (off n v : Nat) : SMap Byte :=
  let k := ceilDiv (off % 8 + n) 8
  bufWrite m (off / 8) k (putField (bufRead m (off / 8) k) (off % 8) n v)

/-- The record of a DATA_ERROR met in the operand buffer or in an accumulator (R414). -/
def dataError (pc : Nat) (m : LaneMask) : FaultInfo := { cause := 0x16, pc := pc, lanes := m, acc := 4 }

/-- The bits [lo, lo + n) of an operand buffer meet its ECC word `k`. -/
def bitsMeet (lo n k : Nat) : Bool := k < 2 ^ 16 && lo < 64 * k + 64 && 64 * k < lo + n

/-- Runs of bits, each by its first bit and its length, cover an ECC word of the operand buffer whole. -/
def bitsCover (runs : List (Nat × Nat)) (k : Nat) : Bool :=
  k < 2 ^ 16 && (List.range 64).all (fun i => runs.any (fun r => r.1 ≤ 64 * k + i && 64 * k + i < r.1 + r.2))

/-- A record whose lanes have read: those that met an uncorrectable error owe a trap (R268, R414), the others have their values. -/
def InFlight.readBuffers (r : InFlight) (bad : LaneMask) (val : Nat → Nat) : InFlight :=
  { r with ahead := 0, unperformed := 0#32, pend := r.pend &&& ~~~bad, trapLanes := r.trapLanes ||| bad, trap := dataError r.pc bad,
           val := (lanes r.pend).map (fun l => (l, val l)) }

/-! ### What uses a tile (R291 to R293) -/

/-- The instruction that an agreement register holds, with its fields. -/
def Agr.op (a : Agr) : Option (Instr × Form64) :=
  match a.proposal with
  | some w => let i := instrOf 8 w; (formOf i).map (fun f => (i, f))
  | none => none

/-- An agreement in a state names a tile. -/
def Group.names (g : Group) (st : AgrState) (t : Nat) : Bool :=
  g.agr.any (fun y => y.2.state == st && (match y.2.op with | some (_, f) => f.rs1.toNat == t || f.rs2.toNat == t | none => false))

/-- A record is a TRD of a tile. -/
def InFlight.readsTile (r : InFlight) (t : Nat) : Bool := match r.instr with | .trd f => f.rs1.toNat == t | _ => false

/-- The warps of a group that are resident. -/
def State.groupWarps (s : State) (c gi : Nat) : List (Nat × Warp) :=
  (s.core c).warps.filterMap (fun y => match y.2 with | some w => if w.group = gi then some (y.1, w) else none | none => none)

/-- A warp index's warp of a group, resident: its slot. -/
def State.slotOf (s : State) (c gi windex : Nat) : Option Nat :=
  ((s.groupWarps c gi).find? (fun y => y.2.windex == windex)).map Prod.fst

/-- Adds a trap that waits for an instruction boundary to a warp of a group, resident or saved (R295). -/
def State.owe (s : State) (c n windex : Nat) (p : PendingTrap) : State :=
  match s.slotOf c n windex with
  | some slot => let w := s.warp c slot; s.setWarp c slot { w with pending := w.pending ++ [p] }
  | none =>
    match (s.core c).savedAt n with
    | some v => s.setCore c ((s.core c).putSaved { v with warps := v.warps.map (fun w => if w.windex = windex then { w with pending := w.pending ++ [p] } else w) })
    | none => s

/-- Tile loads still landing into a tile. -/
def Group.loads (g : Group) (t : Nat) : Nat := (g.landings.filter (fun l => l.load && l.tile == t)).length

/-- The first command that waits for its turn on a tile (R293). -/
def Group.tileFirst (g : Group) (t : Nat) : Option TileOp := g.tileOrder.find? (fun o => o.tile == t)

/-- A tile is in use: by an issued operation, a tile load or store, or a TRD. A command that waits ahead on the tile comes first by its turn (R293). -/
def State.tileUsed (s : State) (c gi t : Nat) : Bool :=
  let g := s.group c gi
  g.names .issued t || g.landings.any (fun l => l.tile == t) || (s.groupWarps c gi).any (fun y => y.2.inflight.any (fun r => r.readsTile t))

/-- The lanes of an instruction wait with wcause 4 until it may execute; it is then issued again. -/
def Iss.waitEngine (x : Iss) (s : State) (m : LaneMask) (w : EngineWait) : Res := .wait { s := x.entryWait s m (.engine w) } .agreement

/-- A waiting tile command is the issuing instruction's. -/
def Iss.ownTileOp (x : Iss) (w : Warp) (m : LaneMask) (t : Nat) (o : TileOp) : Bool :=
  o.tile == t && o.warp == w.windex && o.pc == x.pc && o.lanes &&& m != 0#32

/-- Runs a tile command when its turn on a tile has come and the tile is free for it. It takes its place in the tile's order when it issues, whether or
not it must then wait, and keeps it until it has its effect (R291 to R293). -/
def Iss.tileTurn (x : Iss) (s : State) (m : LaneMask) (t : Nat) (y : EngineWait) (free : Bool) (eff : State → Res) : Res :=
  let w := s.warp x.core x.slot; let gi := w.group; let g := s.group x.core gi; let mine := x.ownTileOp w m t
  if free && (g.tileFirst t).all mine then
    if g.tileOrder.any mine then
      let leave (s : State) : State := let g := s.group x.core gi; s.setGroup x.core gi { g with tileOrder := g.tileOrder.filter (fun o => !mine o) }
      match eff s with
      | .done o => .done { o with s := leave o.s }
      | .trap o r mem => .trap { o with s := leave o.s } r mem
      | .wait o cause => .wait { o with s := leave o.s } cause
      | .placed s => .placed (leave s)
      | .stall s => .stall s
    else eff s
  else
    let s := if g.tileOrder.any mine then s
      else s.setGroup x.core gi { g with tileOrder := g.tileOrder ++ [{ tile := t, warp := w.windex, pc := x.pc, lanes := m }] }
    x.waitEngine s m y

/-- The record of tile register `t` of the issuing group; 0 when free. -/
def Iss.tile (x : Iss) (s : State) (t : Nat) : Nat := (SMap.get 0#256 (s.groupOf x.core x.slot).tiles t).toNat

/-- Changes the issuing group. -/
def Iss.withGroup (x : Iss) (s : State) (f : Group → Group) : State :=
  let gi := (s.warp x.core x.slot).group
  s.setGroup x.core gi (f (s.group x.core gi))

/-! ### TRES and TREL (R291, R292) -/

/-- The record under check is illegal in a field (R291). -/
def recordIllegal (r : Nat) : Bool :=
  let fmt := tileFmt r; let blk := field r 14 2
  field r 4 7 != 0 || field r 16 16 != 0 || (if tileVirt r then bit r 64 else field r 64 32 != 0 || field r 224 32 != 0) ||
    fmt == 0 || fmt ≥ 11 || blk == 3 || (blk != 0 && fmt != 8 && fmt != 9) || (tileVirt r && tileSparse r)

/-- The formats of sparse and virtual tiles. -/
def plainMatFmt (fmt : Nat) : Bool := [1, 2, 3, 4, 7].contains fmt

/-- The unfold parameters that must not be zero: strides, dilations, kernel sizes. -/
def unfoldZero (r : Nat) : Bool :=
  field r 73 3 == 0 || field r 76 3 == 0 || field r 79 3 == 0 || field r 82 3 == 0 || field r 65 4 == 0 || field r 69 4 == 0

/-- The record breaks a rule of tile formats (R291). -/
def recordShapeBad (r : Nat) : Bool :=
  let fmt := tileFmt r; let rows := tileRows r; let cols := tileCols r
  rows == 0 || rows > 4096 || cols == 0 || cols > 4096 ||
    (tileSparse r && (!plainMatFmt fmt || !tileRole r || cols != 96)) ||
    (tileVirt r && (tileRole r || rows != 128 || !plainMatFmt fmt || unfoldZero r)) ||
    (scaledFmt fmt && (if tileTrans r then rows else cols) % tileGroup r != 0)

/-- Bytes of the activation tensor of a virtual tile: N·H·W·C elements. -/
def unfoldBytes (r : Nat) : Nat := field r 160 16 * field r 176 16 * field r 192 16 * field r 208 16 * (fmtBits (tileFmt r) / 8)

/-- XOFF of a virtual tile. -/
def unfoldOff (r : Nat) : Nat := field r 93 19

/-- The lowest free run of granules for `len` bytes, beside the plain reservations of the other registers. -/
def Group.freeTile (g : Group) (td len : Nat) : Option Nat :=
  let used := (g.tiles.filter (fun y => y.1 != td && !tileVirt y.2.toNat)).map (fun y => (tileBase y.2.toNat, tileLen y.2.toNat))
  (findFrom (fun i => 4096 * i + len ≤ g.allot.tbytes && used.all (fun u => u.2 == 0 || 4096 * i + len ≤ u.1 || u.1 + u.2 ≤ 4096 * i)) (g.allot.tbytes / 4096 + 1) 0).map (fun i => 4096 * i)

/-- The checks of a record and the reservation (R291). -/
def Iss.reserve (x : Iss) (s : State) (m : LaneMask) (rec : Nat) : Res :=
  let td := x.f.rd.toNat; let g := s.groupOf x.core x.slot
  let put (r : Nat) : Res := .done { s := x.withGroup s (fun g => { g with tiles := SMap.set 0#256 g.tiles td (BitVec.ofNat 256 r) }) }
  if recordIllegal rec then x.trap s 0x02 m
  else if g.names .proposed td then x.trap s 0x42 m
  else if recordShapeBad rec then x.trap s 0x41 m
  else if tileVirt rec then
    if unfoldOff rec + unfoldBytes rec > g.allot.sbytes then x.trap s 0x11 m else put rec
  else
    let (sc, zp, len) := tilePlan rec
    match g.freeTile td len with
    | none => x.trap s 0x03 m
    | some b => put (rec % 2 ^ 96 + b * 2 ^ 96 + len * 2 ^ 128 + sc * 2 ^ 160 + zp * 2 ^ 192)

/-- The record that the immediate form names (R291). -/
def immRecord (i : Nat) : Nat := field i 0 4 + field i 22 1 * 2 ^ 13 + field i 4 9 * 16 * 2 ^ 32 + field i 13 9 * 16 * 2 ^ 48

/-- A park of the whole entry: of all its lanes that have not left it (R288). -/
def Iss.parkAll (x : Iss) (s : State) (m : LaneMask) (i : FaultInfo) : Res :=
  let (s, go, m) := s.pageFault x.core x.slot m { i with pc := x.pc, lanes := m }
  .done { s := s, go := go, park := m, info := { i with pc := x.pc, lanes := m } }

/-- Goes on with a record of `n` words at an address, or parks, traps or tries again (R288). -/
def Iss.withRecord (x : Iss) (s : State) (m : LaneMask) (n va : Nat) (eff : Nat → State → Res) : Res :=
  match s.readRecord x.core x.slot (x.warpLane m) x.pc n va with
  | (.park i, s) => x.parkAll s m i
  | (.trap i, s) => x.trap s i.cause m i true
  | (.held, s) => .stall s
  | (.val v, s) => eff v s

/-- `TRES` (R291). -/
def execTres (f : Form64) (s : State) : Host.Outcome State Fault Refusal :=
  runCore (.tres f) (fun x s =>
    let w := s.warp x.core x.slot; let m := x.part w; let td := x.f.rd.toNat
    x.tileTurn s m td (.tileIdle td) (x.tile s td == 0 || !s.tileUsed x.core w.group td) (fun s =>
      match x.imm with
      | .z24 _ => x.reserve s m (immRecord (imm24 x.f))
      | _ =>
        let va := x.a64 w (x.warpLane m)
        if va % 32 ≠ 0 then x.trap s 0x06 m { fva := va }
        else x.withRecord s m 4 va (fun r s => x.reserve s m r))) s

/-- `TREL` (R292). -/
def execTrel (f : Form64) (s : State) : Host.Outcome State Fault Refusal :=
  runCore (.trel f) (fun x s =>
    let w := s.warp x.core x.slot; let m := x.part w; let td := x.f.rd.toNat
    x.tileTurn s m td (.tileIdle td) (x.tile s td == 0 || !s.tileUsed x.core w.group td) (fun s =>
      if x.tile s td = 0 then .done { s := s }
      else if (s.groupOf x.core x.slot).names .proposed td then x.trap s 0x42 m
      else .done { s := x.withGroup s (fun g => { g with tiles := SMap.set 0#256 g.tiles td 0#256 }) })) s

/-! ### Where a tile's elements lie (R295) -/

/-- A run of a tile before translation: its bits within the reservation, its address with the bit of the first byte, or the padding. An element of a
mapped tensor must lie in shard-map backing, and its faults name the map (R117, R120). -/
structure Span where
  off : Nat
  bits : Nat
  at_ : Option (Nat × Nat) := none
  pad : Nat := 0
  shard : Bool := false
  info : FaultInfo := {}

/-- Splits a run at page boundaries. -/
def pageSpans : (fuel off bits va nib : Nat) → List Span
  | 0, _, _, _, _ => []
  | n + 1, off, bits, va, nib =>
    if bits = 0 then []
    else
      let k := min bits ((4096 - va % 4096) * 8 - nib)
      { off := off, bits := k, at_ := some (va % 2 ^ 64, nib) } :: pageSpans n (off + k) (bits - k) (va + (nib + k) / 8) ((nib + k) % 8)

/-- The coordinates of element `q` of line `p` from an origin. -/
def tileCoords (org : List Nat) (rank p q : Nat) : List Nat :=
  (org.zipIdx).map (fun y => if y.2 + 2 = rank then y.1 + p else if y.2 + 1 = rank then y.1 + q else y.1)

/-- A coordinate lies outside the descriptor's extents. -/
def outside (d : Nat) (xs : List Nat) : Bool := (xs.zipIdx).any (fun y => y.1 ≥ tDim d y.2)

/-- The element offset of coordinates from BASE (R112). -/
def tensorOffset (d : Nat) (xs : List Nat) : Nat :=
  (xs.zipIdx).foldl (fun n y => if y.2 + 1 < tRank d then n + y.1 * tStr d y.2 else n + y.1) 0

/-- A line of a tile over a plain tensor: the run inside the extents, and the padding behind it. -/
def plainLine (d t : Nat) (org : List Nat) (p : Nat) : List Span :=
  let r := tRank d; let b := tileBits t; let (_, q) := tileShape t
  let xs := tileCoords org r p 0
  let last := tDim d (r - 1) - xs.getD (r - 1) 0
  let n := if outside d (xs.take (r - 1)) then 0 else min q last
  let bitAt := tensorOffset d xs * b
  pageSpans (n * b / 32768 + 3) (p * q * b) (n * b) (field d 0 64 + bitAt / 8) (bitAt % 8) ++
    (if n < q then [{ off := (p * q + n) * b, bits := (q - n) * b }] else [])

/-- Why the runs of a tile cannot be had. -/
inductive Miss where
  | park (i : FaultInfo)
  | trap (i : FaultInfo)
  | held

/-- The fault of a refused access. -/
def Xlat.miss (r : Xlat) (va acc : Nat) (base : FaultInfo) : Miss :=
  match r.reach va acc base with
  | .park i => .park i
  | .trap i => .trap i
  | .ok _ _ _ _ => .held

/-- Elements of a line over a mapped tensor, from element `q` on (R112, R117). -/
def State.mapLine (s : State) (x d e t acc : Nat) (org : List Nat) (p : Nat) : (n q : Nat) → Except Miss (List Span) × State
  | 0, _ => (.ok [], s)
  | n + 1, q =>
    let b := tileBits t; let (_, w) := tileShape t
    let xs := tileCoords org (tRank d) p q
    let off := (p * w + q) * b
    let rest (sp : Span) (s : State) : Except Miss (List Span) × State :=
      match State.mapLine s x d e t acc org p n (q + 1) with
      | (.ok t, s) => (.ok (sp :: t), s)
      | r => r
    if outside d xs then rest { off := off, bits := b } s
    else
      let base : FaultInfo := { mapid := field d 396 12, mapver := mapVersion e, coord := xs, acc := acc }
      match s.resolve x e xs with
      | (.range, s) => (.error (.trap { base with cause := 0x13, kind := 8 }), s)
      | (.refused va r, s) => (.error (r.miss va 6 base), s)
      | (.data va r, s) => (.error (r.miss va acc base), s)
      | (.at_ va nib _ _ _, s) => rest { off := off, bits := b, at_ := some (va, 4 * nib), shard := true, info := base } s

/-- The scale and zero-point runs of a line over a plain tensor (R181, R290, R295). -/
def scaleLine (d t : Nat) (org : List Nat) (p : Nat) : List Span :=
  let bl := tileGroup t; let (_, q) := tileShape t; let r := tRank d
  let quant := tileFmt t == 8 || tileFmt t == 9
  let g := tensorGroup d
  (List.range (q / bl)).flatMap (fun j =>
    let xs := tileCoords org r p (j * bl)
    let k := p * (q / bl) + j
    let idx := rowMajor (xs.take (r - 1) ++ [xs.getD (r - 1) 0 / g]) (firstN (r - 1) (tDim d) ++ [tDim d (r - 1) / g])
    let va := (field d 0 64 + field d 408 40 + idx * (if quant then 4 else 1)) % 2 ^ 64
    let out := outside d xs
    if quant then
      [{ off := 8 * (tileScoff t + 2 * k), bits := 16, at_ := if out then none else some (va, 0) },
       { off := 8 * (tileZpoff t + k), bits := 8, at_ := if out then none else some (va + 2, 0) }]
    else [{ off := 8 * (tileScoff t + k), bits := 8, at_ := if out then none else some (va, 0), pad := 0x7F }])

/-- The scale runs of a line over a mapped tensor: the specification gives them no address there, so what they load is free (log 16). -/
def State.freeScales (s : State) (t p : Nat) : List Span × State :=
  let bl := tileGroup t; let (_, q) := tileShape t
  let quant := tileFmt t == 8 || tileFmt t == 9
  (List.range (q / bl)).foldl (fun (r : List Span × State) j =>
    let k := p * (q / bl) + j
    let (v, s) := r.2.takeFree
    let sp : List Span := if quant then
      [{ off := 8 * (tileScoff t + 2 * k), bits := 16, pad := field v.toNat 0 16 }, { off := 8 * (tileZpoff t + k), bits := 8, pad := field v.toNat 16 8 }]
      else [{ off := 8 * (tileScoff t + k), bits := 8, pad := field v.toNat 0 8 }]
    (r.1 ++ sp, s)) ([], s)

/-- The runs of lines of a tile, from line `p` on. -/
def State.tileSpans (s : State) (x d t acc : Nat) (map : Option Nat) (org : List Nat) : (n p : Nat) → Except Miss (List Span) × State
  | 0, _ => (.ok [], s)
  | n + 1, p =>
    let (_, q) := tileShape t
    let here : Except Miss (List Span) × State :=
      match map with
      | none => (.ok (plainLine d t org p ++ (if scaledFmt (tileFmt t) then scaleLine d t org p else [])), s)
      | some e =>
        match s.mapLine x d e t acc org p q 0 with
        | (.ok l, s) => if scaledFmt (tileFmt t) then (let (fs, s) := s.freeScales t p; (.ok (l ++ fs), s)) else (.ok l, s)
        | r => r
    match here with
    | (.ok l, s) =>
      match State.tileSpans s x d t acc map org n (p + 1) with
      | (.ok t, s) => (.ok (l ++ t), s)
      | r => r
    | r => r

/-- Translates one address of a command for the tile engine of a core, or for another engine near a core (R87, R90, R105, R107, R117, R121, R379). -/
def State.enginePlace (s : State) (tile : Bool) (c x : Nat) (priv : Bool) (va n : Nat) (acc : Acc) (shard : Bool := false) (base : FaultInfo := {}) :
    Except Miss Place × State :=
  let bad (cause kind : Nat) : FaultInfo := { base with cause := cause, fva := va, acc := acc.code, kind := kind }
  if field va 57 7 ≠ 0 then (.error (.trap (bad 0x11 10)), s)
  else
    match spaceOf (coreModule c) va with
    | .reserved => (.error (.trap (bad 0x11 10)), s)
    | .stash k off =>
      if shard then (.error (.trap (bad 0x11 5)), s)
      else match s.stashCheck x k off n with
      | .served _ =>
        match s.reachStash x false k off n acc va base with
        | (.ok p _ _ _, s) => (.ok p, s)
        | (.park i, s) => (.error (.park i), s)
        | (.trap i, s) => (.error (.trap i), s)
      | .denied => (.error (.trap (bad 0x11 10)), s)
      | .heldBack => (.error .held, s)
      | _ => (.error (.park (bad 0x12 7)), s)
    | .global =>
      match (if tile then s.xlatTile c x va acc priv else s.walk x va acc priv) with
      | (.ok p _ _ sh, s) =>
        if shard && !sh then (.error (.trap (bad 0x11 5)), s)
        else
          match s.chase x va 2 p with
          | none => (.error (.park (bad 0x10 6)), s.dropTlb c x va)
          | some q =>
            if s.refusesModule c x q then (.error (.trap (bad 0x11 10)), s)
            else if (s.lostPeer c q).isSome then (.error (.park (bad 0x12 7)), s)
            else (.ok q, s)
      | (r, s) => (.error (r.miss va acc.code base), s)

/-- Translates every run. -/
def State.placeSpans (s : State) (c x : Nat) (priv : Bool) (acc : Acc) : List Span → Except Miss (List TileRun) × State
  | [] => (.ok [], s)
  | sp :: t =>
    let put (p : Option Place) (s : State) : Except Miss (List TileRun) × State :=
      match State.placeSpans s c x priv acc t with
      | (.ok l, s) => (.ok ({ off := sp.off, bits := sp.bits, place := p, va := (sp.at_.getD (0, 0)).1, nib := (sp.at_.getD (0, 0)).2, data := sp.pad } :: l), s)
      | r => r
    match sp.at_ with
    | none => put none s
    | some (va, nib) =>
      match s.enginePlace true c x priv va (ceilDiv (nib + sp.bits) 8) acc sp.shard sp.info with
      | (.ok p, s) => put (some p) s
      | (.error e, s) => (.error e, s)

/-! ### TLD and TST (R294, R295) -/

/-- The frame of an engine command: open lanes abort with UNSUPPORTED (R154), and a fence's pending release comes before the command (R130, R131). -/
def Iss.command (x : Iss) (s : State) (eff : LaneMask → State → Res) : Res :=
  x.closed s (fun m s =>
    match (s.warp x.core x.slot).rel with
    | none => eff m s
    | some sc => x.release s sc m (eff m))

/-- The checks of R294 that follow those of the descriptor. -/
def tileMismatch (d t : Nat) (org : List Nat) : Bool :=
  let r := tRank d
  r < 2 || tFmt d != (if tileSparse t then 7 else tileFmt t) || bit d 466 ||
    (scaledFmt (tileFmt t) &&
      (org.getD (r - 1) 0 % tileGroup t != 0 || tDim d (r - 1) % tensorGroup d != 0))

/-- What TLD and TST carry in the modifier field: BARE, SBE with SBIT, and the barrier offset (R294). -/
def Iss.tileMods (x : Iss) : Option Nat × Option Nat :=
  let mods := x.f.ty.toNat + 16 * x.f.rm.toNat + 64 * x.f.c3.toNat
  (if bit mods 1 then some (16 * x.f.rs3.toNat) else none, if bit mods 8 then some (field mods 2 6) else none)

/-- The command is accepted: it is under way from now on. A store takes its bits now; runs that meet an uncorrectable error are not stored, and the
instruction traps at the next boundary (R295, R414). -/
def Iss.launchTile (x : Iss) (s : State) (m : LaneMask) (load : Bool) (t : Nat) (runs : List TileRun) : Res :=
  let (bar, sb) := x.tileMods
  let w := s.warp x.core x.slot
  let g := s.groupOf x.core x.slot
  let runs := if load then runs else runs.filter (fun r => r.place.isSome)
  let (bad, s) := if load then ([], s) else s.meetErrors x.core w.group g.ctx (fun k => runs.any (fun r => bitsMeet (8 * tileBase t + r.off) r.bits k))
  let runs := if load then runs
    else runs.map (fun r =>
      { r with data := bufBits g.opbuf (8 * tileBase t + r.off) r.bits, place := if bad.any (bitsMeet (8 * tileBase t + r.off) r.bits) then none else r.place })
  let s := if bad.isEmpty then s else s.owe x.core w.group w.windex
    { cause := 0x16, lanes := m, pc := x.pc, insn := x.insn, len := x.len, info := dataError x.pc m, epc := none }
  let total := runs.foldl (fun n r => n + r.bits) 0
  let l : Landing :=
    { load := load, tile := x.f.rd.toNat, base := tileBase t, left := ceilDiv total 8, barrier := bar, sbit := sb, runs := runs, warp := w.windex, pc := x.pc,
      insn := x.insn, len := x.len, lanes := m }
  .done { s := x.withGroup s (fun g => { g with landings := g.landings ++ [l] }) }

/-- TLD and TST after their waits. -/
def Iss.tileEff (x : Iss) (load : Bool) (m : LaneMask) (s : State) : Res :=
  let w := s.warp x.core x.slot; let l := x.warpLane m; let g := s.groupOf x.core x.slot
  let t := x.tile s x.f.rd.toNat; let (bar, _) := x.tileMods
  let acc : Acc := if load then .tileRead else .tileWrite
  if t = 0 ∨ tileVirt t then x.trap s 0x41 m
  else
    match x.tensor s l (x.a64 w l) with
    | (.park i, s) => x.parkAll s m i
    | (.trap i, s) => x.trap s i.cause m i true
    | (.held, s) => .stall s
    | (.ok d map, s) =>
      let r := tRank d
      let org := firstN r (fun k => (w.get (x.r2.plus k) l).toNat)
      if !runAllotted g.allot x.r2 r then x.trap s 0x03 m
      else if w.emptyLanes x.r2 (1#32 <<< l) r ≠ 0#32 then
        (if x.f.te.getLsbD 1 then x.trap s 0x04 m else .stall (x.showEmpty s))
      else if tileMismatch d t org then x.trap s 0x41 m
      else if (tileFmt t = 8 ∨ tileFmt t = 9) ∧ map.isNone ∧ (field d 0 64 + field d 408 40) % 4 ≠ 0 then x.trap s 0x06 m { fva := field d 0 64 + field d 408 40 }
      else if bar.any (fun b => decide (b + 16 > g.allot.sbytes)) then x.trap s 0x11 m
      else if map.isSome ∧ outside d org then
        x.trap s 0x13 m { kind := 8, coord := org, mapid := field d 396 12, mapver := mapVersion (map.getD 0), acc := acc.code }
      else
        match s.tileSpans g.ctx d t acc.code map org (tileShape t).1 0 with
        | (.error (.park i), s) => x.parkAll s m i
        | (.error (.trap i), s) => x.trap s i.cause m i true
        | (.error .held, s) => .stall s
        | (.ok sps, s) =>
          match s.placeSpans x.core g.ctx w.privileged acc (if load then sps else sps.filter (fun sp => sp.at_.isSome)) with
          | (.error (.park i), s) => x.parkAll s m i
          | (.error (.trap i), s) => x.trap s i.cause m i true
          | (.error .held, s) => .stall s
          | (.ok runs, s) => x.launchTile s m load t runs

/-- `TLD` (R294, R295): it waits while an issued operation reads the tile (R293). -/
def execTld (f : Form64) (s : State) : Host.Outcome State Fault Refusal :=
  runCore (.tld f) (fun x s => x.command s (fun m s =>
    x.tileTurn s m x.f.rd.toNat (.tileUnread x.f.rd.toNat) (!(s.groupOf x.core x.slot).names .issued x.f.rd.toNat) (x.tileEff true m))) s

/-- `TST` (R294, R295): it waits until every earlier load into the tile has landed (R293). -/
def execTst (f : Form64) (s : State) : Host.Outcome State Fault Refusal :=
  runCore (.tst f) (fun x s => x.command s (fun m s =>
    x.tileTurn s m x.f.rd.toNat (.tileLanded x.f.rd.toNat) ((s.groupOf x.core x.slot).loads x.f.rd.toNat == 0) (x.tileEff false m))) s

/-! ### TWR and TRD (R296) -/

/-- The byte offset o of a lane. -/
def Iss.tileOff (x : Iss) (w : Warp) (l : Nat) : Nat := if x.imm = .reg then x.b w l else 128 * imm16 x.f

/-- The lanes whose offset lies outside the reservation or off alignment. -/
def Iss.badOffs (x : Iss) (w : Warp) (t : Nat) (m : LaneMask) : LaneMask :=
  filterMask m (fun l => x.tileOff w l + 4 * l + 4 > tileLen t || x.tileOff w l % 4 != 0)

/-- `n` elements of `b` bits, each with the same value. -/
def repeated (v b : Nat) : (n : Nat) → Nat
  | 0 => 0
  | n + 1 => v % 2 ^ b + 2 ^ b * repeated v b n

/-- The fill of the data bytes of a tile. -/
def fillTile (buf : SMap Byte) (t v : Nat) : SMap Byte :=
  let b := fmtBits (tileFmt t); let n := tileData t
  bufWrite buf (tileBase t) n (repeated v b (ceilDiv (8 * n) b))

/-- `TWR` and `TWR.fill` (R296). -/
def execTwr (f : Form64) (s : State) : Host.Outcome State Fault Refusal :=
  runCore (.twr f) (fun x s =>
    let w := s.warp x.core x.slot; let m := x.part w; let td := x.f.rd.toNat
    let t := x.tile s td; let g := s.groupOf x.core x.slot
    x.tileTurn s m td (.tileOpen td) (g.loads td == 0 && !g.names .issued td) (fun s =>
    if t = 0 ∨ tileVirt t then x.trap s 0x41 m
    else if x.f.c3 = 1#3 then
      let l := x.warpLane m
      let wide := fmtBits (tileFmt t) == 64
      if wide && x.f.rs1.toNat % 2 == 1 then x.trap s 0x02 m
      else if wide && !runAllotted g.allot x.r1 2 then x.trap s 0x03 m
      else if wide && w.emptyLanes x.r1 m 2 != 0#32 then
        (if x.f.te.getLsbD 2 then x.trap s 0x04 (w.emptyLanes x.r1 m 2) else .stall (x.showEmpty s))
      else
        let v := if wide then x.a64 w l else x.a w l
        let filled := bitsCover [(8 * tileBase t, 8 * tileData t)]
        .done { s := (x.withGroup s (fun g => { g with opbuf := fillTile g.opbuf t v })).healWords x.core w.group filled }
    else
      let bad := x.badOffs w t m
      if bad ≠ 0#32 then x.trap s 0x11 bad
      else
        let written := bitsCover ((lanes m).map (fun l => (8 * (tileBase t + x.tileOff w l + 4 * l), 32)))
        let s := x.withGroup s (fun g =>
          { g with opbuf := (lanes m).foldl (fun b l => bufWrite b (tileBase t + x.tileOff w l + 4 * l) 4 (x.a w l)) g.opbuf })
        .done { s := s.healWords x.core w.group written })) s

/-- `TRD` (R296): the bytes are read once the loads issued before it have landed; behind a command that waits for the tile it waits too (R293). -/
def execTrd (f : Form64) (s : State) : Host.Outcome State Fault Refusal :=
  runCore (.trd f) (fun x s =>
    let w := s.warp x.core x.slot; let m := x.part w; let ts := x.f.rs1.toNat
    let t := x.tile s ts; let g := s.groupOf x.core x.slot
    if m = 0#32 then .done { s := s } else
    x.tileTurn s m ts (.tileTurn ts) true (fun s =>
    if t = 0 ∨ tileVirt t then x.trap s 0x41 m
    else
      let bad := x.badOffs w t m
      if bad ≠ 0#32 then x.trap s 0x11 bad
      else
        let at_ (l : Nat) : Nat := tileBase t + x.tileOff w l + 4 * l
        let ahead := g.loads ts
        let r := { x.record 4 false 0 0 with pend := m, ahead := ahead, unperformed := m, addr := (lanes m).map (fun l => (l, at_ l)) }
        if ahead ≠ 0 then x.launchRead s r
        else
          let (words, s) := s.meetErrors x.core w.group g.ctx (fun k => (lanes m).any (fun l => bitsMeet (8 * at_ l) 32 k))
          let bad := if words.isEmpty then 0#32 else filterMask m (fun l => words.any (bitsMeet (8 * at_ l) 32))
          x.launchRead s (r.readBuffers bad (fun l => bufRead g.opbuf (at_ l) 4)))) s

/-! ### TILE_LANDING (R295) -/

/-- The first `n` bits of runs, and what is left. -/
def takeBits : (n : Nat) → List TileRun → List TileRun × List TileRun
  | _, [] => ([], [])
  | n, r :: t =>
    if n = 0 then ([], r :: t)
    else if r.bits ≤ n then (let (a, b) := takeBits (n - r.bits) t; (r :: a, b))
    else
      let rest : TileRun :=
        { r with off := r.off + n, bits := r.bits - n, place := r.place.map (fun p => p.plus ((r.nib + n) / 8)), va := r.va + (r.nib + n) / 8, nib := (r.nib + n) % 8,
                 data := r.data / 2 ^ n }
      ([{ r with bits := n }], rest :: t)

/-- `n` free bytes. -/
def State.freeBytes (s : State) : (n : Nat) → Nat × State
  | 0 => (0, s)
  | n + 1 => let (v, s) := s.takeFree; let (u, s) := State.freeBytes s n; (v.toNat % 256 + 256 * u, s)

/-- Where a run of a command moves now: behind the pointers of a page that has left since the command was translated (R121, R122). -/
def State.runPlace (s : State) (x va : Nat) (p : Place) : Place := (s.chase x va 2 p).getD p

/-- An engine reads bytes at their home or stash unit (R142): whether they hold an uncorrectable error, and the value. A stash range that has gone
meanwhile gives free bytes (log 17). -/
def State.engineRead (s : State) (m x : Nat) (p : Place) (n : Nat) : Bool × Nat × State :=
  match p with
  | .stash k off =>
    match s.stashCheck x k off n with
    | .gone | .denied | .stale => let (v, s) := s.freeBytes n; (false, v, s)
    | _ =>
      let (bad, s) := s.eccRead m (x % 32) 1 p n
      (bad, s.bytesAt (.stash k off) n, s)
  | _ =>
    let (bad, s) := s.eccRead m (x % 32) 1 p n
    let (v, s) := s.homeRead none p n
    (bad, v, s)

/-- An engine writes bytes at their home or stash unit as a coherent owner (R142). A stash range that has gone meanwhile takes nothing. -/
def State.engineWrite (s : State) (x : Nat) (p : Place) (n v : Nat) : State :=
  match p with
  | .stash k off =>
    match s.stashCheck x k off n with
    | .served g => s.stashStore none k g off n v
    | .heldBack => s.homeWrite none p n (fullMask n) v
    | _ => s
  | _ => s.homeWrite none p n (fullMask n) v

/-- The sectors that a range of domain memory touches, as a signature (R133, R143). -/
def placeSig (p : Place) (n : Nat) : Signature :=
  match p with
  | .dom pa => (List.range ((pa + n + 255) / 256 - pa / 256)).foldl (fun g i => sigInsert g (pa / 256 + i)) 0#512
  | _ => 0#512

/-- Padding bits: the pad byte repeated, or zeros. -/
def padBits (r : TileRun) : Nat := if r.data = 0 then 0 else repeated r.data (max 8 (min 16 r.bits)) (ceilDiv r.bits (max 8 (min 16 r.bits)))

/-- The parts of a run that lie in one ECC word of memory each (R414; words of eight bytes, log 14). -/
def wordRuns : (n : Nat) → TileRun → List TileRun
  | 0, r => [r]
  | n + 1, r =>
    let k := (8 - r.va % 8) * 8 - r.nib
    if r.bits ≤ k then [r] else let (a, rest) := takeBits k [r]; a ++ rest.flatMap (wordRuns n)

/-- Moves one run of a load, or a part of one, into the operand buffer. The first component collects the bits that land; those of an uncorrectable word
do not. -/
def State.landPart (s : State) (m x : Nat) (base : Nat) (acc : List (Nat × Nat) × SMap Byte) (r : TileRun) : (List (Nat × Nat) × SMap Byte) × State :=
  let lo := 8 * base + r.off
  match r.place with
  | none => (((lo, r.bits) :: acc.1, bufPutBits acc.2 lo r.bits (padBits r)), s)
  | some p =>
    let (bad, v, s) := s.engineRead m x (s.runPlace x r.va p) (ceilDiv (r.nib + r.bits) 8)
    (if bad then acc else ((lo, r.bits) :: acc.1, bufPutBits acc.2 lo r.bits (field v r.nib r.bits)), s)

/-- Moves one run of a load: word by word where some word of it has an uncorrectable error, so that the other bytes land (R295). -/
def State.landRun (s : State) (m x : Nat) (base : Nat) (acc : List (Nat × Nat) × SMap Byte) (r : TileRun) : (List (Nat × Nat) × SMap Byte) × State :=
  match r.place with
  | some p =>
    if s.eccAt (s.runPlace x r.va p) (ceilDiv (r.nib + r.bits) 8) = .double then
      (wordRuns (r.bits / 8 + 1) r).foldl (fun a r => a.2.landPart m x base a.1 r) (acc, s)
    else s.landPart m x base acc r
  | none => s.landPart m x base acc r

/-- The bits that some runs cover. -/
def bitsOf (rs : List (Nat × Nat)) : Nat := rs.foldl (fun n r => n + r.2) 0

/-- Moves one run of a store: into memory. -/
def State.storeRun (s : State) (m x : Nat) (g : Signature) (r : TileRun) : Signature × State :=
  match r.place with
  | none => (g, s)
  | some p =>
    let p := s.runPlace x r.va p; let n := ceilDiv (r.nib + r.bits) 8
    let (v, s) := if r.nib = 0 ∧ r.bits % 8 = 0 then (r.data, s)
      else (let (_, o, s) := s.engineRead m x p n; (putField o r.nib r.bits r.data, s))
    (g ||| placeSig p n, s.engineWrite x p n v)

/-- Sets scoreboard bits of a group, resident or saved, with the signature that an engine delivers (R143, R302). -/
def State.setTscb (s : State) (c n : Nat) (mask : DWord) (sig : Signature) : State :=
  match s.groupAt c n with
  | none => s
  | some g =>
    let tscb := g.tscb ||| mask
    let sigs := (List.range 64).foldl (fun m i => if mask.getLsbD i then SMap.set 0#512 m i (SMap.get 0#512 m i ||| sig) else m) g.tscbSig
    s.putGroupAt c n { g with tscb := tscb, tscbNow := g.tscbNow ||| mask, tscbSig := sigs } [(3072, 8, tscb.toNat)]

/-- BYTES after a landing; below zero the specification states no value (log 18). -/
def State.lowerBytes (s : State) (o n : Nat) : Nat × State :=
  if n ≤ barBytes o then (putField o 40 24 (barBytes o - n), s)
  else (let (v, s) := s.takeFree; (putField o 40 24 (field v.toNat 0 24), s))

/-- `n` bytes land at the barrier object of a group, resident or saved: BYTES falls and the flip test runs; in a save area a flip sends the wake of
R37 (R286, R295, R304). -/
def State.landBarrier (s : State) (c gi b n : Nat) (sig : Signature) : State :=
  match (s.core c).group gi with
  | some g =>
    let s := s.setGroup c gi { g with barSig := SMap.set 0#512 g.barSig b (SMap.get 0#512 g.barSig b ||| sig) }
    let (o, s) := s.lowerBytes (s.barObj c gi b) n
    ((if n = 0 then s else s.putBar none c gi b o)).flipTest c gi b
  | none =>
    match (s.core c).savedAt gi with
    | none => s
    | some v =>
      let (o, s) := s.lowerBytes (bufRead v.stash b 16) n
      let flips := barArrive o == 0 && barBytes o == 0
      let o := if flips then putField (putField (putField o 0 1 (if barPhase o then 0 else 1)) 26 7 (barExpect o)) 64 64 0 else o
      let g := { v.group with barSig := SMap.set 0#512 v.group.barSig b (SMap.get 0#512 v.group.barSig b ||| sig) }
      let s := s.setCore c ((s.core c).putSaved { v with group := g, stash := bufWrite v.stash b 16 o })
      let s := s.writePieces g.ctx v.base [(g.areaStash + b, 16, o)]
      if flips && v.state == 1 && v.warps.any (fun w => w.waits.any (fun y => y.onBarrier b)) then s.setSavedState c gi 2 else s

/-- A record that reads the operand buffer's word `k` in a lane. -/
def InFlight.meetsWord (r : InFlight) (k l : Nat) : Bool := bitsMeet (8 * SMap.get 0 r.addr l) 32 k

/-- The TRDs of a tile that waited for one load more (R293): those that wait for none read now, but for the words with uncorrectable errors. -/
def Warp.landedTrd (buf : SMap Byte) (bad : List Nat) (t : Nat) (w : Warp) : Warp :=
  w.putRecords (w.inflight.map (fun r =>
    if r.readsTile t && r.ahead != 0 then
      if r.ahead = 1 then r.readBuffers (filterMask r.pend (fun l => bad.any (fun k => r.meetsWord k l))) (fun l => bufRead buf (SMap.get 0 r.addr l) 4)
      else { r with ahead := r.ahead - 1 }
    else r))

/-- The warps of a group, resident or saved. -/
def State.warpsOf (s : State) (c gi : Nat) : List Warp :=
  match (s.core c).savedAt gi with
  | some v => v.warps
  | none => (s.groupWarps c gi).map Prod.snd

/-- Changes every warp of a group, resident or saved. -/
def State.mapGroupWarps (s : State) (c gi : Nat) (f : Warp → Warp) : State :=
  match (s.core c).savedAt gi with
  | some v => s.setCore c ((s.core c).putSaved { v with warps := v.warps.map f })
  | none => (s.groupWarps c gi).foldl (fun s y => s.setWarp c y.1 (f y.2)) s

/-- The last bytes of a load have landed: the TRDs that waited for it alone read. -/
def State.landedTrds (s : State) (c gi t : Nat) (buf : SMap Byte) : State :=
  let due := (s.warpsOf c gi).flatMap (fun w => w.inflight.filter (fun r => r.readsTile t && r.ahead == 1))
  let (bad, s) := s.meetErrors c gi ((s.groupAt c gi).getD {}).ctx (fun k => due.any (fun r => (lanes r.pend).any (r.meetsWord k)))
  s.mapGroupWarps c gi (Warp.landedTrd buf bad t)

/-- A landing of `n` bytes of a command. -/
def State.land (s : State) (c gi idx n : Nat) (g : Group) (l : Landing) : State :=
  let (now, later) := if n = l.left then (l.runs, []) else takeBits (8 * n) l.runs
  let m := coreModule c
  let (bad, buf, sig, s) :=
    if l.load then
      let (r, s) := now.foldl (fun (a : (List (Nat × Nat) × SMap Byte) × State) r => a.2.landRun m g.ctx l.base a.1 r) (([], g.opbuf), s)
      (decide (bitsOf r.1 < bitsOf (now.map (fun r => (r.off, r.bits)))), r.2, l.sig, s.healWords c gi (bitsCover r.1))
    else
      let (sg, s) := now.foldl (fun (a : Signature × State) r => a.2.storeRun m g.ctx a.1 r) (l.sig, s)
      (false, g.opbuf, sg, s)
  let g := (s.groupAt c gi).getD g
  let last := n = l.left
  let l' : Landing := { l with runs := later, left := l.left - n, sig := sig }
  let ls := if last then dropAt g.landings idx else setAt g.landings idx l'
  let ps : List Piece3 := if l.load then now.map (fun r =>
      let b := (8 * l.base + r.off) / 8; let k := ceilDiv ((8 * l.base + r.off) % 8 + r.bits) 8
      (g.areaBuffer + b, k, bufRead buf b k)) else []
  let s := s.putGroupAt c gi { g with landings := ls, opbuf := if l.load then buf else g.opbuf } ps
  let s := if last && l.load then s.landedTrds c gi l.tile buf else s
  let s := if bad then s.owe c gi l.warp
      { cause := 0x16, lanes := l.lanes, pc := l.pc, insn := l.insn, len := l.len, info := { cause := 0x16, pc := l.pc, lanes := l.lanes, acc := 4 }, epc := none }
    else s
  let s := match l.barrier with | some b => s.landBarrier c gi b n sig | none => s
  match l.sbit with
  | some k => if last then s.setTscb c gi (1#64 <<< k) sig else s
  | none => s

/-- Bytes of a tile load or store may move now: they are left to move, and the loads into one tile land in issue order (R293). -/
def Group.landable (g : Group) (idx n : Nat) : Option Landing :=
  match g.landings[idx]? with
  | none => none
  | some l =>
    if n ≤ l.left && (n != 0 || l.left == 0) && (!l.load || !(g.landings.take idx).any (fun k => k.load && k.tile == l.tile)) then some l else none

/-- `TILE_LANDING`: some bytes of a tile load land, or some bytes of a tile store are acknowledged (R295). Operands: core, group, index, bytes. -/
def execTileLanding (s : State) : Host.Outcome State Fault Refusal :=
  let c := s.args.core; let gi := s.args.group; let i := s.args.index; let n := s.args.bytes
  match s.groupAt c gi with
  | none => .refused (.notEnabled "TILE_LANDING")
  | some g =>
    match g.landable i n with
    | some l =>
      let now := if n = l.left then l.runs else (takeBits (8 * n) l.runs).1
      if !l.load && now.any (fun r => r.place.any (fun p => s.pinned (s.runPlace g.ctx r.va p) (ceilDiv (r.nib + r.bits) 8))) then .refused (.notEnabled "TILE_LANDING")
      else .next (s.land c gi i n g l)
    | none => .refused (.notEnabled "TILE_LANDING")

end Sys2Proof.Machine
end

