-- ==== Sys2Proof/Machine/Engines.lean ====
section
/-! DEFINITION. The tile scoreboard and engine commands (R302 to R305), collective transfers (R306 to R309) and triggered commands (R310). -/

namespace Sys2Proof.Machine

/-! ### Engine command records (R303, R305) -/

/-- BAROFF, BARE, SBE and SBIT of a record. -/
def recBarrier (r : Nat) : Option Nat := if bit r 416 then some (field r 384 32) else none
/-- The scoreboard bit that completion sets. -/
def recSbit (r : Nat) : Option Nat := if bit r 417 then some (field r 418 6) else none

/-- The checks of a record at issue (R305), in their order: the cause of the first that fails. `sbytes` is the length of the issuing group's stash. -/
def recordCheck (kind rec sbytes : Nat) : Option Nat :=
  let head := if kind = 0 then field rec 320 64 != 0 || field rec 303 17 != 0 else field rec 320 64 != 0 || field rec 256 48 != 0
  let sf := field rec 288 4; let df := field rec 292 4
  let copyBad := kind == 0 && (sf > 11 || df > 11 || field rec 299 2 == 3 || field rec 301 2 == 3)
  if field rec 424 4 ≠ kind ∨ field rec 480 32 ≠ 0 ∨ field rec 428 20 ≠ 0 ∨ head ∨ copyBad then some 0x02
  else if kind = 0 ∧ sf ≠ df ∧ field rec 256 32 % groupBytes sf (field rec 299 2) ≠ 0 then some 0x41
  else
    match recBarrier rec with
    | some b => if b + 16 > sbytes ∨ b % 16 ≠ 0 then some 0x11 else none
    | none => none

/-! ### Runs of memory that an engine moves -/

/-- The runs of `bits` bits from an address on, standing at bit `off` of the value that they hold together. -/
def bitSpans (off va nib bits : Nat) : List Span := pageSpans (bits / 32768 + 3) off bits va nib

/-- Gives every run its place, and keeps its address. -/
def State.placeRuns (s : State) (f : State → (va n : Nat) → Except Miss Place × State) : List Span → Except Miss (List TileRun) × State
  | [] => (.ok [], s)
  | sp :: t =>
    match sp.at_ with
    | none => State.placeRuns s f t
    | some (va, nib) =>
      match f s va (ceilDiv (nib + sp.bits) 8) with
      | (.error e, s) => (.error e, s)
      | (.ok p, s) =>
        match State.placeRuns s f t with
        | (.ok l, s) => (.ok ({ off := sp.off, bits := sp.bits, place := some p, va := va, nib := nib } :: l), s)
        | r => r

/-- Reads the runs of a source into one value; the flag tells of an uncorrectable error. -/
def State.readRuns (s : State) (m x : Nat) (rs : List TileRun) : Bool × Nat × State :=
  rs.foldl (fun (a : Bool × Nat × State) r =>
    match r.place with
    | none => a
    | some p =>
      let (bad, v, s) := a.2.2.engineRead m x (a.2.2.runPlace x r.va p) (ceilDiv (r.nib + r.bits) 8)
      (a.1 || bad, a.2.1 + field v r.nib r.bits * 2 ^ r.off, s)) (false, 0, s)

/-- Writes one value over the runs of a destination; the signature names the sectors written (R133, R142). -/
def State.writeRuns (s : State) (m x v : Nat) (rs : List TileRun) : Signature × State :=
  rs.foldl (fun (a : Signature × State) r => a.2.storeRun m x a.1 { r with data := field v r.off r.bits }) (0#512, s)

/-- A run meets a word that an escalated transaction pins (R168). -/
def State.runsPinned (s : State) (rs : List TileRun) : Bool := rs.any (fun r => r.place.any (fun p => s.pinned p (ceilDiv (r.nib + r.bits) 8)))

/-- The core in whose region an engine works for a command. -/
def EngineCmd.core (k : EngineCmd) : Nat := match k.group with | some (c, _) => c | none => k.module * 512

/-- How far the work of a command has come. -/
inductive Work where
  | done (sig : Signature) (s : State)
  | fail (i : FaultInfo) (sig : Signature) (s : State)
  | held

/-- The fault of runs that cannot be had. -/
def Miss.work (e : Miss) (sig : Signature) (s : State) : Work :=
  match e with
  | .park i => .fail i sig s
  | .trap i => .fail i sig s
  | .held => .held

/-! ### COPY (R305) -/

/-- The elements of a converting COPY and the bytes of its scale arrays: elements, source scales, destination bits, destination scales. -/
def copySizes (rec : Nat) : Nat × Nat × Nat × Nat :=
  let sf := field rec 288 4; let df := field rec 292 4; let n := field rec 256 32 * 8 / fmtBits sf
  (n, entryBytes sf * ceilDiv n (groupLen sf (field rec 299 2)), n * fmtBits df, entryBytes df * ceilDiv n (groupLen df (field rec 301 2)))

/-- Converts (R192 to R194): the data and the scale entries of the destination. -/
def State.convert (s : State) (rec data scales : Nat) : Nat × Nat × State :=
  let (n, _, _, _) := copySizes rec
  let free (i : Nat) : Nat := (Config.freeValue (s.free + i)).toNat
  let (d, t) := encodeRun free (field rec 292 4) (field rec 301 2) (decodeRun (field rec 288 4) (field rec 299 2) data scales n) (field rec 296 2) (bit rec 298)
  (d, t, { s with free := s.free + 129 * (n + 1) })

/-- Bytes of a COPY that does not convert, `d` bytes apart, upwards or downwards: each one whose source byte the command also writes takes the source byte as it
was or as already written, by a free choice (R305). -/
def overlapCopied (choose : Nat → Bool) (v d n : Nat) (up : Bool) : Nat :=
  (List.range n).foldl (fun out k =>
    let i := if up then k else n - 1 - k
    let written := if up then d ≤ i else i + d < n
    putField out (8 * i) 8 (if written && choose i then field out (8 * (if up then i - d else i + d)) 8 else field v (8 * i) 8)) 0

/-- Data of a converting COPY: destination bytes that lie in the source range are free values (R305, log 11). -/
def overlapConverted (free : Nat → Nat) (v n src dst bytes : Nat) : Nat :=
  (List.range n).foldl (fun out i => if src ≤ dst + i && dst + i < src + bytes then putField out (8 * i) 8 (free i) else out) v

/-- What a COPY writes where its source and destination ranges overlap; the result itself where they do not (R305). -/
def State.overlapped (s : State) (rec v : Nat) (same : Bool) : Nat × State :=
  let src := field rec 0 64; let dst := field rec 64 64; let bytes := field rec 256 32
  let n := if same then bytes else ceilDiv (copySizes rec).2.2.1 8
  if src < dst + n && dst < src + bytes && !(same && src == dst) then
    (if same then overlapCopied (fun i => Config.freeBool (s.free + i)) v (if src < dst then dst - src else src - dst) n (src < dst)
      else overlapConverted (fun i => (Config.freeValue (s.free + i)).toNat) v n src dst bytes, { s with free := s.free + n })
  else (v, s)

/-- The engine's own translation of an address of a command. -/
def EngineCmd.at_ (k : EngineCmd) (acc : Acc) (s : State) (va n : Nat) : Except Miss Place × State :=
  s.enginePlace false k.core k.ctx k.priv va n acc

/-- Moves the bytes of a COPY: the whole source is read before the first destination byte is written, but where the two ranges overlap. -/
def State.runCopy (s : State) (k : EngineCmd) : Work :=
  let r := k.record; let bytes := field r 256 32
  let same := field r 288 4 == field r 292 4
  let (_, ss, db, ds) := copySizes r
  let src := bitSpans 0 (field r 0 64) 0 (8 * bytes) ++ (if same then [] else bitSpans (8 * bytes) (field r 128 64) 0 (8 * ss))
  let dst := if same then bitSpans 0 (field r 64 64) 0 (8 * bytes)
    else bitSpans 0 (field r 64 64) 0 db ++ bitSpans db (field r 192 64) 0 (8 * ds)
  match s.placeRuns (k.at_ .load) src with
  | (.error e, s) => e.work 0#512 s
  | (.ok from_, s) =>
    match s.placeRuns (k.at_ .store) dst with
    | (.error e, s) => e.work 0#512 s
    | (.ok dest, s) =>
      if s.runsPinned dest then .held
      else
        match s.readRuns (coreModule k.core) k.ctx from_ with
        | (true, _, s) => .fail { cause := 0x16 } 0#512 s
        | (false, v, s) =>
          let (v, s) : Nat × State := if same then (v, s)
            else (let (d, t, s) := s.convert r (field v 0 (8 * bytes)) (v / 2 ^ (8 * bytes)); (d + t * 2 ^ db, s))
          let (v, s) := s.overlapped r v same
          let (g, s) := s.writeRuns (coreModule k.core) k.ctx v dest
          .done g s

/-! ### The region that a collective descriptor names (R111, R112, R309) -/

/-- Coordinates of row `i` of a descriptor: the last coordinate is 0. -/
def rowCoords (d : Nat) : (k : Nat) → (i : Nat) → List Nat → List Nat
  | 0, _, acc => acc
  | k + 1, i, acc => rowCoords d k (i / max 1 (tDim d k)) (i % max 1 (tDim d k) :: acc)

/-- Elements of the region that a descriptor names. -/
def tensorElems (d : Nat) : Nat := (List.range (tRank d)).foldl (fun n k => n * tDim d k) 1

/-- Bits of its elements, and of its scale array. -/
def tensorBits (d : Nat) : Nat × Nat :=
  let n := tensorElems d; let fmt := tFmt d
  (n * fmtBits fmt, if scaledFmt fmt then 8 * entryBytes fmt * (n / groupLen fmt (field d 448 2)) else 0)

/-- The runs of the region, row after row, and of its scale array behind it. -/
def regionSpans (d : Nat) : List Span :=
  let r := tRank d; let b := fmtBits (tFmt d); let q := tDim d (r - 1); let (n, sc) := tensorBits d
  let rows := if q = 0 then 0 else tensorElems d / q
  (List.range rows).flatMap (fun i =>
    let o := tensorOffset d (rowCoords d (r - 1) i [] ++ [0]) * b
    bitSpans (i * q * b) ((field d 0 64 + o / 8) % 2 ^ 64) (o % 8) (q * b)) ++
    (if sc = 0 then [] else bitSpans n ((field d 0 64 + field d 408 40) % 2 ^ 64) 0 sc)

/-- A destination at a rank (R309): the page in the issuing context, which must be domain memory, with the rank as its module. -/
def EngineCmd.rankPlace (k : EngineCmd) (rank : Nat) (s : State) (va _n : Nat) : Except Miss Place × State :=
  let perm : FaultInfo := { cause := 0x11, fva := va, acc := 1, kind := 10 }
  if field va 57 7 ≠ 0 then (.error (.trap perm), s)
  else
    match spaceOf k.module va with
    | .global =>
      match s.walk k.ctx va .store k.priv with
      | (.ok (.dom pa) _ _ _, s) =>
        let p : Place := .dom (putField pa 39 5 rank)
        if s.refusesModule k.core k.ctx p then (.error (.trap perm), s)
        else if (s.lostPeer k.core p).isSome then (.error (.park { cause := 0x12, fva := va, acc := 1, kind := 7 }), s)
        else (.ok p, s)
      | (.ok _ _ _ _, s) => (.error (.trap perm), s)
      | (r, s) => (.error (r.miss va 1 {}), s)
    | _ => (.error (.trap perm), s)

/-- The ranks of REPL, ascending. -/
def EngineCmd.ranks (k : EngineCmd) : List Nat := (List.range 32).filter (fun r => bit (tRepl k.dst) r)

/-- NOTIFY at a rank: 1 is added to the word as an atomic that is a release at .dm (R309). -/
def State.notifyRank (s : State) (k : EngineCmd) (g : Signature) (rank : Nat) : Except Miss State :=
  let va := field k.record 128 64
  if va = 0 then .ok s
  else
    match k.rankPlace rank s va 4 with
    | (.error e, _) => .error e
    | (.ok p, s) =>
      let q := s.runPlace k.ctx va p
      let (v, s) := s.homeRead none q 4
      .ok ((s.homeWrite none q 4 15 (v + 1)).attach q g 6)

/-- Writes a value at listed ranks, each followed by its notification. -/
def State.writeRanks (s : State) (k : EngineCmd) (v : Nat) (write : Bool) (sig : Signature) : List Nat → Work
  | [] => .done sig s
  | r :: t =>
    match (if write then s.placeRuns (k.rankPlace r) (regionSpans k.dst) else (.ok [], s)) with
    | (.error e, s) => e.work sig s
    | (.ok dest, s) =>
      if s.runsPinned dest then .held
      else
        let (g, s) := s.writeRuns k.module k.ctx v dest
        match s.notifyRank k (sig ||| g) r with
        | .ok s => State.writeRanks s k v write (sig ||| g) t
        | .error e => e.work (sig ||| g) s

/-- Reads the source of a TXFER. -/
def State.readSource (s : State) (k : EngineCmd) : Except Miss Nat × State :=
  match s.placeRuns (k.at_ .load) (regionSpans k.src) with
  | (.error e, s) => (.error e, s)
  | (.ok rs, s) =>
    match s.readRuns k.module k.ctx rs with
    | (true, _, s) => (.error (.trap { cause := 0x16 }), s)
    | (false, v, s) => (.ok v, s)

/-! ### Folding (R309) -/

/-- One step of a fold of two elements: REDOP 1 add, 2 min, 3 max. -/
def foldElem (fmt op a b : Nat) : Nat :=
  if fmt = 11 then
    let x := signed 32 a; let y := signed 32 b
    if op = 1 then (a + b) % 2 ^ 32 else if op = 2 then (if y < x then b else a) else (if x < y then b else a)
  else
    let f := fmtOf fmt
    if op = 1 then f.add (f.decode a) (f.decode b) 0 else f.pick (op == 3) false a b

/-- The fold of two regions of `n` elements, element by element. -/
def foldRegion (fmt op x y : Nat) : (n : Nat) → Nat
  | 0 => 0
  | n + 1 => let b := fmtBits fmt; foldElem fmt op (x % 2 ^ b) (y % 2 ^ b) + 2 ^ b * foldRegion fmt op (x / 2 ^ b) (y / 2 ^ b) n

/-- The code of the RED that shares the operator and type of a reducing TXFER (R147). -/
def redCode (d : Nat) : Option Nat :=
  let op := tRedop d - 1
  if tRedop d = 0 then none
  else
    match tFmt d with
    | 0 => some (op + 16) | 10 => some (op + 16 + 32) | 11 => some (op + 64) | _ => none

/-- The lines of a command's destinations, where they translate. -/
def State.dstLines (s : State) (k : EngineCmd) : List Nat :=
  distinct (k.ranks.flatMap (fun r =>
    match (s.placeRuns (k.rankPlace r) (regionSpans k.dst)).1 with
    | .ok rs => rs.flatMap (fun y => match y.place with
        | some p => (p.lines (ceilDiv (y.nib + y.bits) 8)).filterMap (fun q => match q with | .dom pa => some (pa / 1024) | _ => none) | none => [])
    | .error _ => []))

/-- Lines come to be held by a reducing TXFER, which recalls their owners (R142), or are released: then every partial is merged (R147). -/
def State.reduceLines (s : State) (code : Nat) (on : Bool) (ls : List Nat) : State :=
  ls.foldl (fun s l =>
    let n := sliceOf (l * 1024); let z := s.slice n
    if on then (if z.reducing.contains (l, code) then s else (s.setSlice n { z with reducing := z.reducing ++ [(l, code)] }).recall none (.dom (l * 1024)))
    else (s.setSlice n { z with reducing := z.reducing.filter (· != (l, code)) }).mergeWhere n (fun p => p.2.1 / 1024 == l)) s

/-! ### Completion (R304) -/

/-- Replaces a command of a region. -/
def State.putCmd (s : State) (r i : Nat) (k : EngineCmd) : State := let z := s.region r; s.setRegion r { z with copyq := setAt z.copyq i k }

/-- The scope at which a command releases (R143). -/
def EngineCmd.scope (k : EngineCmd) : Nat := if k.txfer then 6 else 3

/-- The STATUS write: DONE with the cause, a release at the command's scope; a record that no longer translates takes none (log 20). -/
def State.writeStatus (s : State) (k : EngineCmd) (cause : Nat) (sig : Signature) : State :=
  match k.at_ .store s (k.va + 56) 4 with
  | (.ok p, s) => (s.engineWrite k.ctx p 4 (2 ^ 31 + cause)).attach p sig k.scope
  | (.error _, s) => s

/-- Bytes that a bound barrier counts: the source bytes of a COPY, the destination bytes of a TXFER at every rank (log 21). -/
def EngineCmd.bytes (k : EngineCmd) : Nat :=
  if k.txfer then (let (a, b) := tensorBits k.dst; ceilDiv (a + b) 8 * k.ranks.length) else field k.record 256 32

/-- A command completes (R304): the barrier, the scoreboard bit, STATUS, and the fault record of a failure that a warp's command has met. -/
def State.completeCmd (s : State) (k : EngineCmd) (fail : Option FaultInfo) (sig : Signature) : State :=
  let cause := match fail with | some i => i.cause | none => 0
  let s := match k.group with
    | none => s
    | some (c, n) =>
      match s.groupAt c n with
      | none => s
      | some _ =>
        let s := match recBarrier k.record with | some b => s.landBarrier c n b k.bytes sig | none => s
        match recSbit k.record with | some b => s.setTscb c n (1#64 <<< b) sig | none => s
  let s := s.writeStatus k cause sig
  let s := match fail, k.group with
    | some i, some (c, _) =>
      let i := { i with pc := k.info.pc, lanes := k.info.lanes, acc := if i.acc = 0 then 0 else 1 }
      s.postFault k.ctx (s.faultDomain k.ctx k.fcb) (recordBits i k.fcb k.handle c k.slot) 0xFFFF#16
    | _, _ => s
  match k.queue with
  | some (q, i) => let z := s.queue q; s.setQueue q { z with copies := z.copies.erase i }
  | none => s

/-- A command is accepted: its region's engine holds it, but for a COPY of no bytes, which completes at issue (R305). -/
def State.acceptCmd (s : State) (r : Nat) (k : EngineCmd) : State :=
  if !k.txfer && field k.record 256 32 == 0 then s.completeCmd k none 0#512
  else let z := s.region r; s.setRegion r { z with copyq := z.copyq ++ [k] }

/-! ### The instructions (R305, R307, R310) -/

/-- The command of a record that a warp issues. -/
def Iss.engineCmd (x : Iss) (s : State) (m : LaneMask) (txfer : Bool) (rec va : Nat) : EngineCmd :=
  let w := s.warp x.core x.slot; let g := s.groupOf x.core x.slot
  { txfer := txfer, record := rec, va := va, ctx := g.ctx, module := coreModule x.core, priv := w.privileged, state := if txfer then .reporting else .proceeds,
    group := some (x.core, w.group), fcb := g.fcb, handle := (w.laneIdent (x.warpLane m)).handle, slot := x.slot, info := { pc := x.pc, lanes := m } }

/-- The record named by the pair rs1, checked by R305. -/
def Iss.withCommand (x : Iss) (s : State) (m : LaneMask) (kind : Option Nat) (eff : (va rec : Nat) → State → Res) : Res :=
  let w := s.warp x.core x.slot
  let va := x.a64 w (x.warpLane m)
  if va % 64 ≠ 0 then x.trap s 0x06 m { fva := va }
  else x.withRecord s m 8 va (fun rec s =>
    match recordCheck (kind.getD (if field rec 424 4 = 1 then 1 else 0)) rec (s.groupOf x.core x.slot).allot.sbytes with
    | some cause => x.trap s cause m
    | none => eff va rec s)

/-- `COPY` (R305). -/
def execCopy (f : Form64) (s : State) : Host.Outcome State Fault Refusal :=
  runCore (.copy f) (fun x s => x.command s (fun m s =>
    x.withCommand s m (some 0) (fun va rec s => .done { s := s.acceptCmd (coreRegion x.core) (x.engineCmd s m false rec va) }))) s

/-- The descriptors of a TXFER do not fit each other or the collective (R307). -/
def collMismatch (src dst module : Nat) : Bool :=
  !bit dst 466 || bit src 395 || bit dst 395 || tFmt src != tFmt dst || tRank src != tRank dst || (List.range 5).any (fun k => tDim src k != tDim dst k) ||
    (tRedop dst != 0 && !([0, 1, 2, 10, 11] : List Nat).contains (tFmt dst)) || field dst 472 5 != module

/-- The checks of R307 after those of the record: the group record, then the two descriptors. -/
def Iss.withGroupRecord (x : Iss) (s : State) (m : LaneMask) (va rec grp : Nat) (grecBad : Bool) (eff : EngineCmd → State → Res) : Res :=
  let l := x.warpLane m
  if grp % 16 ≠ 0 then x.trap s 0x06 m { fva := grp }
  else if grecBad then x.trap s 0x02 m
  else
    let desc (s : State) (a : Nat) (next : Nat → State → Res) : Res :=
      match x.tensor s l a with
      | (.park i, s) => x.parkAll s m i
      | (.trap i, s) => x.trap s i.cause m i true
      | (.held, s) => .stall s
      | (.ok d _, s) => next d s
    desc s (field rec 0 64) (fun src s => desc s (field rec 64 64) (fun dst s =>
      if collMismatch src dst (coreModule x.core) then x.trap s 0x41 m
      else if ((scalesBad src).or (scalesBad dst)).isSome then (let i := ((scalesBad src).or (scalesBad dst)).getD {}; x.trap s i.cause m i)
      else if tRepl dst = 0 then x.trap s 0x02 m
      else x.withRecord s m 2 grp (fun g s =>
        let mem := field g 96 32
        if !bit mem (coreModule x.core) || mem &&& tRepl dst != tRepl dst then x.trap s 0x11 m
        else eff { x.engineCmd s m true rec va with src := src, dst := dst, gid := field g 64 32, members := mem } s)))

/-- SEQ of a group record rises by 1, atomically at its home slice (R306): the number before. -/
def State.takeSeq (s : State) (k : EngineCmd) (grp : Nat) : Except Miss Nat × State :=
  match k.at_ .atomic s grp 4 with
  | (.error e, s) => (.error e, s)
  | (.ok p, s) =>
    let s := s.syncLine k.core p
    let (v, s) := s.homeRead (some k.core) p 4
    (.ok v, s.homeStore k.core k.slot p 4 (v + 1))

/-- `TXFER` (R307): it takes its sequence number and its report leaves for the home agent. -/
def execTxfer (f : Form64) (s : State) : Host.Outcome State Fault Refusal :=
  runCore (.txfer f) (fun x s => x.command s (fun m s =>
    let grp := x.b64 (s.warp x.core x.slot) (x.warpLane m)
    x.withCommand s m (some 1) (fun va rec s =>
      x.withGroupRecord s m va rec grp (field rec 192 64 != 0) (fun k s =>
        match s.takeSeq k grp with
        | (.ok n, s) => .done { s := s.acceptCmd (coreRegion x.core) { k with seq := n } }
        | (.error (.park i), s) => x.parkAll s m i
        | (.error (.trap i), s) => x.trap s i.cause m i true
        | (.error .held, s) => .stall s)))) s

/-- The lowest free trigger slot of a group. -/
def Group.freeTrig (g : Group) : Option Nat := (List.range 8).find? (fun i => (SMap.get none g.trig i).isNone)

/-- `TRIG` (R310): the record is read and checked now, and the command fires later. -/
def execTrig (f : Form64) (s : State) : Host.Outcome State Fault Refusal :=
  runCore (.trig f) (fun x s => x.command s (fun m s =>
    match (s.groupOf x.core x.slot).freeTrig with
    | none => x.waitEngine s m .slotFree
    | some i =>
      let vm := BitVec.ofNat 64 (x.b64 (s.warp x.core x.slot) (x.warpLane m))
      let arm (k : EngineCmd) (s : State) : Res :=
        .done { s := x.withGroup s (fun g => { g with trig := SMap.set none g.trig i (some { vm := vm, cmd := k }) }) }
      x.withCommand s m none (fun va rec s =>
        if field rec 424 4 = 0 then arm (x.engineCmd s m false rec va) s
        else x.withGroupRecord s m va rec (field rec 192 64) (field rec 192 64 == 0) arm))) s

/-! ### The scoreboard (R302) -/

/-- `SCBSET` (R302): a release at .rg, then the bits. -/
def execScbset (f : Form64) (s : State) : Host.Outcome State Fault Refusal :=
  runCore (.scbset f) (fun x s =>
    let w := s.warp x.core x.slot; let m := x.part w
    if m = 0#32 then .done { s := s }
    else x.release s 3 m (fun s =>
      .done { s := s.setTscb x.core w.group (BitVec.ofNat 64 (x.a64 w (x.warpLane m))) ((s.core x.core).sigOf 3) })) s

/-- `SCBCLR` (R302): a bit that a producer has set in this cycle stays set. -/
def execScbclr (f : Form64) (s : State) : Host.Outcome State Fault Refusal :=
  runCore (.scbclr f) (fun x s =>
    let w := s.warp x.core x.slot; let m := x.part w
    if m = 0#32 then .done { s := s }
    else
      let vm := BitVec.ofNat 64 (x.a64 w (x.warpLane m))
      .done { s := x.withGroup s (fun g =>
        let off := vm &&& ~~~g.tscbNow
        { g with tscb := g.tscb &&& ~~~off, tscbSig := g.tscbSig.filter (fun y => !off.getLsbD y.1) }) }) s

/-! ### Completion, reports and firing -/

/-- The lowest bit set among 32: the module of a collective's home agent (R306). -/
def firstBit (v : Nat) : Option Nat := (List.range 32).find? (fun i => bit v i)

/-- The commands of one collective sequence, with their regions and places in them. -/
def State.collective (s : State) (k : EngineCmd) : List (Nat × Nat × EngineCmd) :=
  s.regions.flatMap (fun y => (y.2.copyq.zipIdx.filter (fun z =>
    z.1.txfer && z.1.gid == k.gid && z.1.seq == k.seq && firstBit z.1.members == firstBit k.members)).map (fun z => (y.1, z.2, z.1)))

/-- The folded result of a reducing collective is written at every REPL rank of every member (R309), while the partials that were sent to the lines
meanwhile are kept aside and merged afterwards (R147); nothing happens while a destination is pinned. -/
def State.writeFolds (s : State) (ks : List (Nat × Nat × EngineCmd)) : Option State :=
  let aside := s.slices.map (fun y => (y.1, y.2.partials))
  let s0 := { s with slices := s.slices.map (fun y => (y.1, { y.2 with partials := [] })) }
  let one (o : Option State) (y : Nat × Nat × EngineCmd) : Option State :=
    o.bind (fun s =>
      let k := y.2.2
      match s.writeRanks { k with record := putField k.record 128 64 0 } k.fold (k.failed.isNone) 0#512 k.ranks with
      | .done _ s => some (s.putCmd y.1 y.2.1 { k with state := .written })
      | .fail i _ s => some (s.putCmd y.1 y.2.1 { k with state := .written, failed := some i })
      | .held => none)
  match ks.foldl one (some s0) with
  | none => none
  | some s =>
    let s := aside.foldl (fun s y => if y.2.isEmpty then s else s.setSlice y.1 { s.slice y.1 with partials := y.2 }) s
    some (ks.foldl (fun s y => match redCode y.2.2.dst with | some code => s.reduceLines code false (s.dstLines y.2.2) | none => s) s)

/-- What is left of a command whose sequence proceeds: the moves of a COPY or a plain TXFER, or the notifications of a reducing one. -/
def State.workOf (s : State) (k : EngineCmd) : Work :=
  if !k.txfer then s.runCopy k
  else if tRedop k.dst = 0 then
    match s.readSource k with
    | (.error e, s) => e.work 0#512 s
    | (.ok v, s) => s.writeRanks k v true 0#512 k.ranks
  else
    match k.failed with
    | some i => .fail i 0#512 s
    | none =>
      let sig := (s.dstLines k).foldl (fun g l => g ||| placeSig (.dom (l * 1024)) 1024) 0#512
      s.writeRanks k 0 false sig k.ranks

/-- A command leaves its region's engine and completes. -/
def State.endCmd (s : State) (r i : Nat) (k : EngineCmd) (fail : Option FaultInfo) (sig : Signature) : State :=
  let z := s.region r
  (s.setRegion r { z with copyq := dropAt z.copyq i }).completeCmd k fail sig

/-- `ENGINE_COMPLETE`: a command does its work and completes, with success or with a failure (R304, R305, R309). Operands: region, index. -/
def execEngineComplete (s : State) : Host.Outcome State Fault Refusal :=
  let r := s.args.region; let i := s.args.index
  match (s.region r).copyq[i]? with
  | none => .refused (.notEnabled "ENGINE_COMPLETE")
  | some k =>
    let work (s : State) (k : EngineCmd) : Host.Outcome State Fault Refusal :=
      match s.workOf k with
      | .held => .refused (.notEnabled "ENGINE_COMPLETE")
      | .done g s => .next (s.endCmd r i k none g)
      | .fail f g s => .next (s.endCmd r i k (some f) g)
    match k.state with
    | .reporting | .reported => .refused (.notEnabled "ENGINE_COMPLETE")
    | .mismatch => .next (s.endCmd r i k (some { cause := 0x40 }) 0#512)
    | .written => work s k
    | .proceeds =>
      if k.txfer && tRedop k.dst != 0 then
        match s.writeFolds ((s.collective k).filter (fun y => y.2.2.state == .proceeds)) with
        | none => .refused (.notEnabled "ENGINE_COMPLETE")
        | some s => match (s.region r).copyq[i]? with | some k => work s k | none => .next s
      else work s k

/-- The digest of a report (R307). -/
def EngineCmd.digest (k : EngineCmd) : List Nat :=
  [field k.record 424 4, field k.record 304 16, tRedop k.dst, tFmt k.dst, tRank k.dst] ++ (List.range 5).map (tDim k.dst)

/-- The folded elements of a reducing collective, members in ascending rank, or the fault of a source. -/
def State.foldSources (s : State) : List EngineCmd → Option Nat → Except Miss Nat × State
  | [], acc => (.ok (acc.getD 0), s)
  | k :: t, acc =>
    match s.readSource k with
    | (.error e, s) => (.error e, s)
    | (.ok v, s) =>
      State.foldSources s t (some (match acc with | none => v | some a => foldRegion (tFmt k.dst) (tRedop k.dst) a v (tensorElems k.dst)))

/-- Changes listed commands. -/
def State.putCmds (s : State) (f : EngineCmd → EngineCmd) (ks : List (Nat × Nat × EngineCmd)) : State :=
  ks.foldl (fun s y => s.putCmd y.1 y.2.1 (f y.2.2)) s

/-- The first report of each member of a collective. -/
def memberReports (members : Nat) (ks : List (Nat × Nat × EngineCmd)) : List (Nat × Nat × EngineCmd) :=
  ((List.range 32).filter (fun m => bit members m)).filterMap (fun m => ks.find? (fun y => y.2.2.module == m))

/-- The home agent decides a sequence whose reports are all in (R308); none while a source cannot be read yet. -/
def State.decide (s : State) (members : Nat) (ks : List (Nat × Nat × EngineCmd)) : Option State :=
  let rs := memberReports members ks
  match rs with
  | [] => some s
  | (_, _, k) :: _ =>
    if rs.length ≠ ((List.range 32).filter (fun m => bit members m)).length then some s
    else if rs.any (fun y => y.2.2.digest != k.digest) then some (s.putCmds (fun k => { k with state := .mismatch }) rs)
    else if tRedop k.dst = 0 then some (s.putCmds (fun k => { k with state := .proceeds }) rs)
    else
      let s := rs.foldl (fun s y => match redCode y.2.2.dst with | some code => s.reduceLines code true (s.dstLines y.2.2) | none => s) s
      match s.foldSources (rs.map (fun y => y.2.2)) none with
      | (.ok v, s) => some (s.putCmds (fun k => { k with state := .proceeds, fold := v }) rs)
      | (.error .held, _) => none
      | (.error (.park i), s) | (.error (.trap i), s) => some (s.putCmds (fun k => { k with state := .proceeds, failed := some i }) rs)

/-- `COLLECTIVE_REPORT`: a report reaches the home agent of its group; with the last one the sequence is decided (R307, R308). Operands: region, index. -/
def execCollectiveReport (s : State) : Host.Outcome State Fault Refusal :=
  let r := s.args.region; let i := s.args.index
  match (s.region r).copyq[i]? with
  | none => .refused (.notEnabled "COLLECTIVE_REPORT")
  | some k =>
    if k.state ≠ .reporting then .refused (.notEnabled "COLLECTIVE_REPORT")
    else
      let k := { k with state := .reported }
      let s := s.putCmd r i k
      match s.decide k.members ((s.collective k).filter (fun y => y.2.2.state == .reported)) with
      | some s => .next s
      | none => .refused (.notEnabled "COLLECTIVE_REPORT")

/-- A trigger slot whose mask the scoreboard covers (R310). -/
def Group.fires (g : Group) (i : Nat) : Option Trigger :=
  match SMap.get none g.trig i with | some t => if g.tscb &&& t.vm = t.vm then some t else none | none => none

/-- A triggered command is issued (R310): a TXFER takes its sequence number now, and fails where that access is refused. -/
def State.fire (s : State) (c : Nat) (k : EngineCmd) : State :=
  if !k.txfer then s.acceptCmd (coreRegion c) k
  else
    match s.takeSeq k (field k.record 192 64) with
    | (.ok n, s) => s.acceptCmd (coreRegion c) { k with seq := n }
    | (.error (.park f), s) | (.error (.trap f), s) => s.completeCmd k (some f) 0#512
    | (.error .held, s) => s.completeCmd k (some { cause := 0x12, acc := 1 }) 0#512

/-- `TRIG_FIRE`: an armed command whose mask the scoreboard covers fires, an acquire for every bit under its mask; clears come before sets, and no bit
is cleared (R310). Operands: core, group, index. -/
def execTrigFire (s : State) : Host.Outcome State Fault Refusal :=
  let c := s.args.core; let gi := s.args.group; let i := s.args.index
  match s.groupAt c gi with
  | none => .refused (.notEnabled "TRIG_FIRE")
  | some g =>
    match g.fires i with
    | none => .refused (.notEnabled "TRIG_FIRE")
    | some t =>
      let s := s.putGroupAt c gi { g with trig := SMap.set none g.trig i none } [(3072 + 64 + 64 * i, 64, 0)]
      let s := g.tscbSig.foldl (fun s y => if t.vm.getLsbD y.1 then s.applySig c y.2 else s) s
      .next (s.fire c t.cmd)

/-! ### Waits of tile and engine instructions -/

/-- A waiting command's turn on a tile has come (R293). -/
def Group.turnOf (g : Group) (w : Warp) (y : Wait) (t : Nat) : Bool := (g.tileFirst t).all (fun o => o.warp == w.windex && o.pc == y.pc)

/-- The condition for which an entry waits before it executes its instruction. -/
def State.engineReady (s : State) (c slot : Nat) (y : Wait) : Bool :=
  let w := s.warp c slot; let g := s.groupOf c slot
  match y.kind with
  | .engine (.tileIdle t) => !s.tileUsed c w.group t && g.turnOf w y t
  | .engine (.tileLanded t) => g.loads t == 0 && g.turnOf w y t
  | .engine (.tileUnread t) => !g.names .issued t && g.turnOf w y t
  | .engine (.tileOpen t) => g.loads t == 0 && !g.names .issued t && g.turnOf w y t
  | .engine (.tileTurn t) => g.turnOf w y t
  | .engine (.agrIdle n) => (SMap.get ({} : Agr) g.agr n).state != .issued
  | .engine (.accTurn a) => match g.accOrder.find? (fun o => o.acc == a) with | some o => o.agr.isNone && o.warp == w.windex && o.pc == y.pc | none => true
  | .engine .slotFree => g.freeTrig.isSome
  | _ => false

/-- The entry of such a wait becomes ready at its instruction, which it issues again. -/
def State.reissue (s : State) (c slot : Nat) (y : Wait) : State :=
  let w := s.warp c slot
  let f := w.frontier.map (fun e => if e.mask.getLsbD y.lane then { e with state := .ready, cause := none, age := 0 } else e)
  s.setWarp c slot { w with waits := w.waits.filter (fun z => z != y), frontier := f }

/-- `WAIT_WAKE`: a wake reaches a lane, which re-reads and re-compares (R280, R281); a wait whose condition has come ends; a tile, matrix or engine
instruction that waited issues again (R291 to R301, R310). Operands: core, slot, lane. -/
def execWaitWake (s : State) : Host.Outcome State Fault Refusal :=
  let c := s.args.core; let slot := s.args.slot; let w := s.warp c slot
  match w.waitOf s.args.lane with
  | none => .refused (.notEnabled "WAIT_WAKE")
  | some y =>
    if y.woken && !y.done && y.perLane then .next (s.recheck c slot y)
    else if y.done && (w.frontier.any (fun e => e.mask.getLsbD y.lane && w.allDone e)) then .next (s.endWaits c slot)
    else if s.engineReady c slot y then .next (s.reissue c slot y)
    else .refused (.notEnabled "WAIT_WAKE")

end Sys2Proof.Machine
end

