-- ==== Sys2Proof/Machine/Matrix.lean ====
section
/-! DEFINITION. Agreements and matrix operations (R29, R182 to R191, R297 to R300) and the accumulators (R301). -/

namespace Sys2Proof.Machine

/-! ### Elements of tiles (R182, R187, R189) -/

/-- One element of a stored tile, as bits. -/
def tileElem (buf : SMap Byte) (r i j : Nat) : Nat :=
  let b := fmtBits (tileFmt r)
  let idx := if tileTrans r then j * tileRows r + i else i * tileCols r + j
  bufBits buf (8 * tileBase r + idx * b) b

/-- Line `n` of column `j` of a sparse tile: its 128 bytes (R187). -/
def sparseLine (buf : SMap Byte) (r j n : Nat) : Nat := bufRead buf (tileBase r + (j * tileLines r + n) * 128) 128

/-- POS of kept value `k` of a line. -/
def linePos (line k : Nat) : Nat := field line (32 + 2 * k) 2

/-- Kept values of line `n` of a column of `rows` positions (R187). -/
def lineKept (fmt rows n : Nat) : Nat := (min (lineSpan fmt) (rows - n * lineSpan fmt)) / 2

/-- Element (k, j) of a sparse tile: the kept value at its position, or zero (R187). -/
def sparseElem (buf : SMap Byte) (r k j : Nat) : Nat :=
  let fmt := tileFmt r; let sp := lineSpan fmt; let b := fmtBits fmt
  let line := sparseLine buf r j (k / sp); let g := k % sp / 4
  let val (n : Nat) : Nat := field line (256 + n * b) b
  if linePos line (2 * g) = k % 4 then val (2 * g) else if linePos line (2 * g + 1) = k % 4 then val (2 * g + 1) else 0

/-- The checks of one sparse line (R188). -/
def lineOk (fmt kept line : Nat) : Bool :=
  field line 0 16 == fmt && field line 16 16 == kept &&
    (List.range (kept / 2)).all (fun g => linePos line (2 * g) < linePos line (2 * g + 1)) && field line (32 + 2 * kept) (224 - 2 * kept) == 0

/-- Every line of a sparse tile passes its checks. -/
def sparseOk (buf : SMap Byte) (r : Nat) : Bool :=
  (List.range (tileCols r)).all (fun j => (List.range (tileLines r)).all (fun n =>
    lineOk (tileFmt r) (lineKept (tileFmt r) (tileRows r) n) (sparseLine buf r j n)))

/-- Byte offset from X of element A[i][k] of a virtual tile; none where the element is zero (R190). -/
def unfoldAt (r i k : Nat) : Option Nat :=
  let n := field r 160 16; let h := field r 176 16; let w := field r 192 16; let c := field r 208 16; let oh := field r 224 16; let ow := field r 240 16
  let rk := field r 65 4; let sk := field r 69 4; let sh := field r 73 3; let sw := field r 76 3; let dh := field r 79 3; let dw := field r 82 3
  let ph := field r 85 4; let pw := field r 89 4
  let m := field r 128 32 + i; let kk := field r 112 16 + k
  if m ≥ n * oh * ow ∨ kk ≥ rk * sk * c then none
  else
    let hi : Int := (m / ow % oh * sh : Nat) - (ph : Int) + (kk / (c * sk) * dh : Nat)
    let wi : Int := (m % ow * sw : Nat) - (pw : Int) + (kk / c % sk * dw : Nat)
    if hi < 0 ∨ hi ≥ h ∨ wi < 0 ∨ wi ≥ w then none
    else some ((((m / (oh * ow) * h + hi.toNat) * w + wi.toNat) * c + kk % c) * (fmtBits (tileFmt r) / 8))

/-- The mapped sectors of X fill before the matrix unit reads it (R92). -/
def State.touchUnfold (s : State) (c gi r : Nat) : State :=
  let g := s.group c gi
  if !tileVirt r || g.maps.isEmpty then s
  else (s.stashLoad c gi (g.stashBase + unfoldOff r) (unfoldBytes r)).2.2

/-- Element (i, k) of the A operand, as bits. -/
def State.aElem (s : State) (c : Nat) (g : Group) (r i k : Nat) : Nat :=
  if tileVirt r then
    match unfoldAt r i k with
    | some o => s.bytesAt (.stash c (g.stashBase + unfoldOff r + o)) (fmtBits (tileFmt r) / 8)
    | none => 0
  else tileElem g.opbuf r i k

/-- The value of bits of a tile under the scale of their group (R172 to R180). -/
def tileValue (buf : SMap Byte) (r i j x : Nat) : FVal :=
  let fmt := tileFmt r; let bl := tileGroup r
  let e := if tileTrans r then j * (tileRows r / bl) + i / bl else i * (tileCols r / bl) + j / bl
  if fmt = 5 ∨ fmt = 6 then decodeMx fmt (bufRead buf (tileBase r + tileScoff r + e) 1) x
  else if fmt = 8 ∨ fmt = 9 then
    decodeQ fmt (bufRead buf (tileBase r + tileScoff r + 2 * e) 2 + 2 ^ 16 * bufRead buf (tileBase r + tileZpoff r + e) 1) x
  else decodeElem fmt false x

/-- The value A[i][k]. -/
def State.aValue (s : State) (c : Nat) (g : Group) (r i k : Nat) : FVal := tileValue g.opbuf r i k (s.aElem c g r i k)

/-- The value B[k][j]. -/
def bValue (buf : SMap Byte) (r k j : Nat) : FVal := tileValue buf r k j (if tileSparse r then sparseElem buf r k j else tileElem buf r k j)

/-! ### The sum order (R184) -/

/-- Where cell (i, j) of accumulator `a` stands among a group's cells. -/
def accKey (a i j : Nat) : Nat := a * 12288 + i * 96 + j

/-- The cell as a value under the format of the accumulation, and its new bits (R184). -/
def accAdd (fa : Nat) (old : Nat) (prods : List FVal) : Nat :=
  let s := exactSum prods 0
  if fa = 7 then wrap 32 ((old : Int) + s.units 0)
  else
    let f := fmtOf (if fa = 10 then 10 else 0)
    f.round (exactSum [f.decode old, s] 0) 0 false

/-- One K-chunk over some rows: every cell of those rows takes its chunk sum (R184, R300). -/
def State.chunk (s : State) (c gi a ta tb kc row n : Nat) : State :=
  let g := s.group c gi; let fa := tileFmt ta
  let as := (List.range n).map (fun i => (row + i, (List.range 32).map (fun k => s.aValue c g ta (row + i) (32 * kc + k))))
  let bs := (List.range (tileCols tb)).map (fun j => (j, (List.range 32).map (fun k => bValue g.opbuf tb (32 * kc + k) j)))
  let cell (acc : SMap Word) (i j : Nat) (ps : List FVal) : SMap Word :=
    if fa = 10 then
      let lo := accKey a i (2 * j)
      let v := accAdd fa ((SMap.get 0#32 acc lo).toNat + 2 ^ 32 * (SMap.get 0#32 acc (lo + 1)).toNat) ps
      SMap.set 0#32 (SMap.set 0#32 acc lo (BitVec.ofNat 32 v)) (lo + 1) (BitVec.ofNat 32 (v / 2 ^ 32))
    else SMap.set 0#32 acc (accKey a i j) (BitVec.ofNat 32 (accAdd fa (SMap.get 0#32 acc (accKey a i j)).toNat ps))
  let acc := as.foldl (fun acc x => bs.foldl (fun acc y => cell acc x.1 y.1 ((x.2.zip y.2).map (fun p => p.1.mul p.2))) acc) g.acc
  s.setGroup c gi { g with acc := acc }

/-- Chunks of one step (R300). -/
def stepChunks (i : Instr) (fa : Nat) : Nat :=
  match i with
  | .mma _ => if fa = 1 ∨ fa = 2 then 1 else if fa = 5 then 4 else 2
  | .mmas _ => if fa = 1 ∨ fa = 2 then 2 else 4
  | _ => 1

/-- Steps of an operation over K positions (R300). -/
def stepCount (i : Instr) (fa k : Nat) : Nat :=
  match i with
  | .dmma _ => 32 * (k / 32)
  | _ => ceilDiv (k / 32) (stepChunks i fa)

/-- The chunks of step `n` of an operation, with its first row and number of rows (R300). -/
def stepParts (i : Instr) (ta n : Nat) : List Nat × Nat × Nat :=
  match i with
  | .dmma _ => ([n / 32], 4 * (n % 32), 4)
  | _ =>
    let p := stepChunks i (tileFmt ta); let k := tileCols ta / 32
    ((List.range (min p (k - n * p))).map (fun j => n * p + j), 0, 128)

/-- The first bits and lengths of what reading element (i, j) of a stored tile reads: a sparse line, or the element, and its scale (R181, R187, R290). -/
def elemBits (r i j : Nat) : List (Nat × Nat) :=
  let b := fmtBits (tileFmt r); let bl := tileGroup r
  let e := if tileTrans r then j * (tileRows r / bl) + i / bl else i * (tileCols r / bl) + j / bl
  let here : Nat × Nat :=
    if tileSparse r then (8 * (tileBase r + (j * tileLines r + i / lineSpan (tileFmt r)) * 128), 1024)
    else (8 * tileBase r + (if tileTrans r then j * tileRows r + i else i * tileCols r + j) * b, b)
  let scale : List (Nat × Nat) :=
    if tileFmt r = 5 ∨ tileFmt r = 6 then [(8 * (tileBase r + tileScoff r + e), 8)]
    else if tileFmt r = 8 ∨ tileFmt r = 9 then [(8 * (tileBase r + tileScoff r + 2 * e), 16), (8 * (tileBase r + tileZpoff r + e), 8)]
    else []
  here :: scale

/-- A step reads word `k` of its group: elements and scales of its tiles, or cells of its accumulator (R184). -/
def stepReads (i : Instr) (a ta tb n k : Nat) : Bool :=
  let (cs, row, rows) := stepParts i ta n
  let ks := cs.flatMap (fun c => (List.range 32).map (fun j => 32 * c + j))
  if k < 2 ^ 16 then
    (!tileVirt ta && (List.range rows).any (fun r => ks.any (fun j => (elemBits ta (row + r) j).any (fun y => bitsMeet y.1 y.2 k)))) ||
      ks.any (fun j => (List.range (tileCols tb)).any (fun q => (elemBits tb j q).any (fun y => bitsMeet y.1 y.2 k)))
  else
    let q := k - 2 ^ 16
    q / 12288 == a && row ≤ q % 12288 / 96 && q % 12288 / 96 < row + rows

/-- The stash bytes that a step reads of a virtual tile (R190): offsets of the elements. -/
def stepStash (i : Instr) (ta n : Nat) : List Nat :=
  let (cs, row, rows) := stepParts i ta n
  if !tileVirt ta then [] else cs.flatMap (fun c => (List.range rows).flatMap (fun r => (List.range 32).filterMap (fun j => unfoldAt ta (row + r) (32 * c + j))))

/-- A step meets bit errors in what it reads (R414): whether one of them is uncorrectable. -/
def State.stepErrors (s : State) (c gi : Nat) (i : Instr) (a ta tb n : Nat) : Bool × State :=
  if s.ecc.isEmpty then (false, s)
  else
    let g := s.group c gi
    let (bad, s) := s.meetErrors c gi g.ctx (stepReads i a ta tb n)
    (stepStash i ta n).foldl (fun (r : Bool × State) o =>
      let (b, s) := r.2.eccRead (coreModule c) (g.ctx % 32) 1 (.stash c (g.stashBase + unfoldOff ta + o)) (fmtBits (tileFmt ta) / 8)
      (r.1 || b, s)) (!bad.isEmpty, s)

/-- A step that has met an uncorrectable error: the instruction that proposed the operation traps at its warp's next boundary; where that warp has gone
a fault record goes to the fault domain (R268, R299, R414). -/
def State.stepFails (s : State) (c gi ag : Nat) : State :=
  let g := s.group c gi; let a := SMap.get ({} : Agr) g.agr ag
  let gone := s.postFault g.ctx (s.faultDomain g.ctx g.fcb) (recordBits (dataError 0 0#32) g.fcb 0#32 c (g.slots.headD 0)) 0xFFFF#16
  match a.proposer with
  | some (w, pc, m) =>
    if (s.slotOf c gi w).isNone then gone
    else s.owe c gi w { cause := 0x16, lanes := m, pc := pc, insn := a.proposal.getD 0, len := 8, info := dataError pc m, epc := none }
  | none => gone

/-- Step `n` of an operation (R300). A step that meets an uncorrectable error changes no cell. -/
def State.matStep (s : State) (c gi : Nat) (i : Instr) (a ta tb n : Nat) : State :=
  let s := s.touchUnfold c gi ta
  match s.stepErrors c gi i a ta tb n with
  | (true, s) => match (s.core c).matq with | q :: _ => s.stepFails c gi q.agr | [] => s
  | (false, s) =>
    let (cs, row, rows) := stepParts i ta n
    cs.foldl (fun s k => s.chunk c gi a ta tb k row rows) s

/-! ### Shapes and pairs (R182, R183, R298) -/

/-- The operand pairs of R183. -/
def pairOk (i : Instr) (fa fb : Nat) : Bool :=
  match i with
  | .mma _ => (fa == fb && [1, 2, 5, 6, 7].contains fa) || ([3, 4].contains fa && [3, 4].contains fb)
  | .mmas _ => (fa == fb && [1, 2, 7].contains fa) || ([3, 4].contains fa && [3, 4].contains fb)
  | .mmaq _ => (fa == 1 || fa == 2) && (fb == 8 || fb == 9)
  | .dmma _ => fa == 10 && fb == 10
  | _ => false

/-- The tiles of an operation fit it (R182, R183, R298). -/
def tilesFit (i : Instr) (ty ta tb : Nat) : Bool :=
  let k := tileCols ta; let fa := tileFmt ta; let fb := tileFmt tb
  let dmma := match i with | .dmma _ => true | _ => false
  let mmaq := match i with | .mmaq _ => true | _ => false
  let mmas := match i with | .mmas _ => true | _ => false
  ta != 0 && tb != 0 && ty == fa && tileRows ta == 128 && tileRows tb == k && tileCols tb == (if dmma then 48 else 96) && k % 32 == 0 && 32 ≤ k && k ≤ 4096 &&
    pairOk i fa fb && !(scaledFmt fa && tileRole ta) && !(scaledFmt fb && !tileRole tb) && tileSparse tb == mmas && !tileSparse ta && !tileVirt tb &&
    !(tileVirt ta && (mmaq || dmma))

/-- An agreement register of the issuing group. -/
def Iss.agr (x : Iss) (s : State) (c : Nat) : Agr := SMap.get {} (s.groupOf x.core x.slot).agr c

/-- Replaces it. -/
def Iss.putAgr (x : Iss) (s : State) (c : Nat) (a : Agr) : State := x.withGroup s (fun g => { g with agr := SMap.set {} g.agr c a })

/-- The bits in which proposals must agree: [63:22] and TY (R298). -/
def proposalKey (w : Nat) : Nat × Nat := (field w 22 42, field w 2 4)

/-- A proposal of a matrix operation (R298). -/
def proposeEff (x : Iss) (s : State) : Res :=
  let w := s.warp x.core x.slot; let m := x.part w; let c := x.f.rs3.toNat; let a := x.agr s c
  let other : Bool := match a.proposal with | some w => proposalKey w != proposalKey x.insn | none => false
  if a.state = .idle ∨ a.state = .issued ∨ (a.state = .proposed ∧ other) then x.trap s 0x42 m
  else if !tilesFit x.i x.f.ty.toNat (x.tile s x.f.rs1.toNat) (x.tile s x.f.rs2.toNat) then x.trap s 0x41 m
  else if a.state = .opened then .done { s := x.putAgr s c { a with state := .proposed, proposal := some x.insn, proposer := some (w.windex, x.pc, m) } }
  else .done { s := s }

/-- `MMA` (R298). -/
def execMma (f : Form64) (s : State) : Host.Outcome State Fault Refusal := runCore (.mma f) proposeEff s
/-- `MMAQ` (R298). -/
def execMmaq (f : Form64) (s : State) : Host.Outcome State Fault Refusal := runCore (.mmaq f) proposeEff s
/-- `MMAS` (R298). -/
def execMmas (f : Form64) (s : State) : Host.Outcome State Fault Refusal := runCore (.mmas f) proposeEff s
/-- `DMMA` (R191, R298). -/
def execDmma (f : Form64) (s : State) : Host.Outcome State Fault Refusal := runCore (.dmma f) proposeEff s

/-! ### MAGREE and MSIGN (R297, R299) -/

/-- `MAGREE` (R297). -/
def execMagree (f : Form64) (s : State) : Host.Outcome State Fault Refusal :=
  runCore (.magree f) (fun x s =>
    let w := s.warp x.core x.slot; let m := x.part w; let c := x.f.rd.toNat; let a := x.agr s c
    let mask := (if x.imm = .reg then x.a w (x.warpLane m) else imm16 x.f) % 65536
    let size := (s.groupOf x.core x.slot).slots.length
    if mask = 0 ∨ mask / 2 ^ size ≠ 0 then x.trap s 0x02 m
    else if a.state = .issued then x.waitEngine s m (.agrIdle c)
    else if a.state ≠ .idle then (if a.warps.toNat = mask then .done { s := s } else x.trap s 0x42 m)
    else
      let ws := (s.groupWarps x.core w.group).filter (fun y => bit mask y.2.windex)
      let parts := ws.foldl (fun p y => SMap.set 0#32 p y.2.windex y.2.live) []
      .done { s := x.putAgr s c { state := .opened, warps := BitVec.ofNat 16 mask, lanes := parts } }) s

/-- Every participant has signed or left (R299). -/
def Agr.complete (a : Agr) : Bool := a.lanes.all (fun y => y.2 &&& ~~~(SMap.get 0#32 a.signed y.1) == 0#32)

/-- `MSIGN` (R299): the one that supplies the last signature completes with the issue. -/
def execMsign (f : Form64) (s : State) : Host.Outcome State Fault Refusal :=
  runCore (.msign f) (fun x s =>
    let w := s.warp x.core x.slot; let m := x.part w; let c := x.f.rs1.toNat; let a := x.agr s c
    if m = 0#32 then .done { s := s }
    else if a.state = .idle ∨ a.state = .issued ∨ m &&& ~~~(SMap.get 0#32 a.lanes w.windex) ≠ 0#32 then x.trap s 0x42 m
    else
      let b := { a with signed := SMap.set 0#32 a.signed w.windex (SMap.get 0#32 a.signed w.windex ||| m) }
      let s := x.putAgr s c b
      if b.complete && !a.complete then x.waitEngine s m (.signed c) else .done { s := s }) s

/-! ### Issue and steps (R299, R300) -/

/-- The tiles of an operation of a group. -/
def Group.opTiles (g : Group) (f : Form64) : Nat × Nat := ((SMap.get 0#256 g.tiles f.rs1.toNat).toNat, (SMap.get 0#256 g.tiles f.rs2.toNat).toNat)

/-- The operation of an agreement register may issue (R299). -/
def Group.issues (g : Group) (c : Nat) : Option (Instr × Form64) :=
  let a := SMap.get ({} : Agr) g.agr c
  match a.op with
  | some (i, f) => if a.state == .proposed && a.complete && g.loads f.rs1.toNat == 0 && g.loads f.rs2.toNat == 0 then some (i, f) else none
  | none => none

/-- The wait of the MSIGN that supplied the last signature ends: with the issue, or with the trap that the checks owe it. -/
def State.endSigned (s : State) (c gi ag : Nat) (bad : Bool) : State :=
  (s.groupWarps c gi).foldl (fun s y =>
    let mine (z : Wait) : Bool := z.kind == .engine (.signed ag)
    if y.2.waits.any mine then
      let trapOf (z : Wait) : Option FaultInfo :=
        let m := match y.2.frontier.find? (fun e => e.mask.getLsbD z.lane) with | some e => e.mask | none => 1#32 <<< z.lane
        if bad then some { cause := 0x41, pc := z.pc, lanes := m } else none
      let w := y.2.mapWaits mine (fun z => { z with done := true, trap := trapOf z })
      (s.setWarp c y.1 w).endWaits c y.1
    else s) s

/-- `MATRIX_ISSUE`: a proposed operation whose participants have all signed or exited issues once no load lands in its tiles, or fails the sparse
checks of R188 (R299). Operands: core, group, agreement. -/
def execMatrixIssue (s : State) : Host.Outcome State Fault Refusal :=
  let c := s.args.core; let gi := s.args.group; let ag := s.args.agreement
  let g := s.group c gi; let a := SMap.get ({} : Agr) g.agr ag
  match g.issues ag with
  | none => .refused (.notEnabled "MATRIX_ISSUE")
  | some (_, f) =>
    let (_, tb) := g.opTiles f
    let waited := (s.groupWarps c gi).any (fun y => y.2.waits.any (fun z => z.kind == .engine (.signed ag)))
    if tileSparse tb && !sparseOk g.opbuf tb then
      let s := s.setGroup c gi { g with agr := SMap.set {} g.agr ag {} }
      if waited then .next (s.endSigned c gi ag true)
      else
        let r := recordBits { cause := 0x41 } g.fcb 0#32 c (g.slots.headD 0)
        .next (s.postFault g.ctx (s.faultDomain g.ctx g.fcb) r 0xFFFF#16)
    else
      let s := s.setGroup c gi
        { g with agr := SMap.set {} g.agr ag { a with state := .issued, steps := 0 }, accOrder := g.accOrder ++ [{ acc := f.rd.toNat, agr := some ag }] }
      let k := s.core c
      .next ((s.setCore c { k with matq := k.matq ++ [{ group := gi, agr := ag }] }).endSigned c gi ag false)

/-! ### The order of an accumulator (R301) -/

/-- The first access of an accumulator that has not taken effect. -/
def Group.accFirst (g : Group) (a : Nat) : Option AccOp := g.accOrder.find? (fun o => o.acc == a)

/-- The largest of the cells of a row (R301, R250). -/
def rowMax (acc : SMap Word) (a r : Nat) : Nat :=
  (List.range 95).foldl (fun v j => (fmtOf 0).pick true false v (SMap.get 0#32 acc (accKey a r (j + 1))).toNat) (SMap.get 0#32 acc (accKey a r 0)).toNat

/-- What a read of an accumulator gives in a lane; the record keeps the cell, or the row, as its address. -/
def InFlight.accValue (r : InFlight) (acc : SMap Word) (l : Nat) : Nat :=
  match r.instr with
  | .accrmax f => rowMax acc f.rs1.toNat (SMap.get 0 r.addr l)
  | .accrd f => (SMap.get 0#32 acc (f.rs1.toNat * 12288 + SMap.get 0 r.addr l)).toNat
  | _ => 0

/-- A read of an accumulator reads cell `k` of its group in a lane: one cell, or a row. -/
def InFlight.accReads (r : InFlight) (k l : Nat) : Bool :=
  match r.instr with
  | .accrmax f => (k - 2 ^ 16) / 96 == f.rs1.toNat * 128 + SMap.get 0 r.addr l && 2 ^ 16 ≤ k
  | .accrd f => k == 2 ^ 16 + f.rs1.toNat * 12288 + SMap.get 0 r.addr l
  | _ => false

/-- A record is the read that an access in an accumulator's order stands for. -/
def InFlight.accIs (r : InFlight) (o : AccOp) : Bool :=
  (match r.instr with | .accrd f | .accrmax f => f.rs1.toNat == o.acc | _ => false) && some r.dreg == o.dreg && r.unperformed &&& o.lanes != 0#32

/-- The reads of a warp of one accumulator into one register take their values, but for the cells with uncorrectable errors (R414). -/
def Warp.serveAcc (acc : SMap Word) (bad : List Nat) (o : AccOp) (w : Warp) : Warp :=
  w.putRecords (w.inflight.map (fun r =>
    if r.accIs o then r.readBuffers (filterMask r.pend (fun l => bad.any (fun k => r.accReads k l))) (r.accValue acc) else r))

/-- Reads whose turn has come are served, at most `n` of them (R301). -/
def State.pumpAcc (s : State) (c gi a : Nat) : (n : Nat) → State
  | 0 => s
  | n + 1 =>
    let g := s.group c gi
    match g.accFirst a with
    | some o =>
      if o.agr.isNone && o.dreg.isSome then
        let s := s.setGroup c gi { g with accOrder := g.accOrder.erase o }
        let due := (s.groupWarps c gi).flatMap (fun y => if y.2.windex = o.warp then y.2.inflight.filter (fun r => r.accIs o) else [])
        let (bad, s) := s.meetErrors c gi g.ctx (fun k => due.any (fun r => (lanes r.pend).any (r.accReads k)))
        let s := (s.groupWarps c gi).foldl (fun s y => if y.2.windex = o.warp then s.setWarp c y.1 (y.2.serveAcc g.acc bad o) else s) s
        State.pumpAcc s c gi a n
      else s
    | none => s

/-- `MATRIX_STEP`: the matrix unit of a core makes the next step of the operation that issued first (R300). Operands: core. -/
def execMatrixStep (s : State) : Host.Outcome State Fault Refusal :=
  let c := s.args.core; let k := s.core c
  match k.matq with
  | [] => .refused (.notEnabled "MATRIX_STEP")
  | q :: rest =>
    let g := s.group c q.group; let a := SMap.get ({} : Agr) g.agr q.agr
    match a.op with
    | none => .refused (.notEnabled "MATRIX_STEP")
    | some (i, f) =>
      if (match g.accFirst f.rd.toNat with | some o => o.agr != some q.agr | none => true) then .refused (.notEnabled "MATRIX_STEP")
      else
        let (ta, tb) := g.opTiles f
        let s := s.matStep c q.group i f.rd.toNat ta tb a.steps
        let g := s.group c q.group
        if a.steps + 1 < stepCount i (tileFmt ta) (tileCols ta) then
          .next (s.setGroup c q.group { g with agr := SMap.set {} g.agr q.agr { a with steps := a.steps + 1 } })
        else
          let s := s.setGroup c q.group
            { g with agr := SMap.set {} g.agr q.agr {}, accOrder := g.accOrder.filter (fun o => o.agr != some q.agr) }
          .next ((s.setCore c { s.core c with matq := rest }).pumpAcc c q.group f.rd.toNat (g.accOrder.length + 1))

/-- The place of a write of an accumulator in its order: taken when it issues, whether or not it must then wait (R301). `reads` and `writes` name the
cells of each lane; a lane that reads an uncorrectable one has no effect and traps at the next boundary (R268, R414). -/
def Iss.accWrite (x : Iss) (s : State) (reads writes : Nat → Nat → Bool) (eff : LaneMask → Group → SMap Word) : Res :=
  let w := s.warp x.core x.slot; let m := x.part w; let a := x.f.rd.toNat
  if m = 0#32 then .done { s := s }
  else
    let mine (o : AccOp) : Bool := o.acc == a && o.agr.isNone && o.warp == w.windex && o.pc == x.pc && o.dreg.isNone && o.lanes &&& m != 0#32
    let op : AccOp := { acc := a, warp := w.windex, pc := x.pc, lanes := m }
    let s := if (s.groupOf x.core x.slot).accOrder.any mine then s else x.withGroup s (fun g => { g with accOrder := g.accOrder ++ [op] })
    let g := s.groupOf x.core x.slot
    if (match g.accFirst a with | some o => mine o | none => false) then
      let cells (f : Nat → Nat → Bool) (ls : LaneMask) (k : Nat) : Bool := 2 ^ 16 ≤ k && (lanes ls).any (fun l => f l (k - 2 ^ 16))
      let (bad, s) := s.meetErrors x.core w.group g.ctx (cells reads m)
      let lost := if bad.isEmpty then 0#32 else filterMask m (fun l => bad.any (fun k => reads l (k - 2 ^ 16)))
      let s := x.withGroup s (fun g => { g with acc := eff (m &&& ~~~lost) g, accOrder := g.accOrder.filter (fun o => !mine o) })
      let s := s.healWords x.core w.group (cells writes (m &&& ~~~lost))
      let s := if lost = 0#32 then s else s.owe x.core w.group w.windex
        { cause := 0x16, lanes := lost, pc := x.pc, insn := x.insn, len := x.len, info := dataError x.pc lost, epc := none }
      .done { s := s.pumpAcc x.core w.group a (g.accOrder.length + 1) }
    else x.waitEngine s m (.accTurn a)

/-- r(l): the row of a lane (R301). -/
def Iss.accRow (x : Iss) (w : Warp) (l : Nat) : Nat := (if x.imm = .reg then x.b w l else imm16 x.f) % 128

/-- q: the column or row block. -/
def Iss.accBlock (x : Iss) : Nat := field x.f.c3.toNat 0 2

/-- `ACCZ` (R301). -/
def execAccz (f : Form64) (s : State) : Host.Outcome State Fault Refusal :=
  runCore (.accz f) (fun x s => x.accWrite s (fun _ _ => false) (fun _ k => k / 12288 == x.f.rd.toNat) (fun _ g => g.acc.filter (fun y => y.1 / 12288 != x.f.rd.toNat))) s

/-- `ACCWR` (R301): where two lanes name one cell the higher stands. -/
def execAccwr (f : Form64) (s : State) : Host.Outcome State Fault Refusal :=
  runCore (.accwr f) (fun x s =>
    let w := s.warp x.core x.slot
    let cell (l : Nat) : Nat := accKey x.f.rd.toNat (x.accRow w l) (32 * x.accBlock + l)
    x.accWrite s (fun _ _ => false) (fun l k => k == cell l) (fun m g => (lanes m).foldl (fun acc l =>
      SMap.set 0#32 acc (cell l) (BitVec.ofNat 32 (x.a w l))) g.acc)) s

/-- `ACCSCL` (R301). -/
def execAccscl (f : Form64) (s : State) : Host.Outcome State Fault Refusal :=
  runCore (.accscl f) (fun x s =>
    let w := s.warp x.core x.slot; let f0 := fmtOf 0
    let row (l k : Nat) : Bool := k / 96 == x.f.rd.toNat * 128 + 32 * x.accBlock + l
    x.accWrite s row (fun _ _ => false) (fun m g => (lanes m).foldl (fun acc l =>
      (List.range 96).foldl (fun acc j =>
        let k := accKey x.f.rd.toNat (32 * x.accBlock + l) j
        SMap.set 0#32 acc k (BitVec.ofNat 32 (f0.mul (f0.decode (SMap.get 0#32 acc k).toNat) (f0.decode (x.a w l)) 0))) acc) g.acc)) s

/-- A read of an accumulator: its destination is empty until its turn has come and the value has arrived (R301). -/
def Iss.accRead (x : Iss) (s : State) (cell : Warp → Nat → Nat) : Res :=
  let w := s.warp x.core x.slot; let m := x.part w; let a := x.f.rs1.toNat
  if m = 0#32 then .done { s := s }
  else
    let r := { x.record 4 false 0 0 with pend := m, unperformed := m, addr := (lanes m).map (fun l => (l, cell w l)) }
    match x.launchRead s r with
    | .done o =>
      let op : AccOp := { acc := a, warp := w.windex, pc := x.pc, lanes := m, dreg := some x.f.rd.toNat }
      let s := x.withGroup o.s (fun g => { g with accOrder := g.accOrder ++ [op] })
      .done { o with s := s.pumpAcc x.core w.group a ((s.groupOf x.core x.slot).accOrder.length + 1) }
    | r => r

/-- `ACCRD` (R301). -/
def execAccrd (f : Form64) (s : State) : Host.Outcome State Fault Refusal :=
  runCore (.accrd f) (fun x s => x.accRead s (fun w l => x.accRow w l * 96 + 32 * x.accBlock + l)) s

/-- `ACCRMAX` (R301): under the immediate form the row of lane l is (imm + l) mod 128. -/
def execAccrmax (f : Form64) (s : State) : Host.Outcome State Fault Refusal :=
  runCore (.accrmax f) (fun x s => x.accRead s (fun w l => if x.imm = .reg then x.accRow w l else (imm16 x.f + l) % 128)) s

end Sys2Proof.Machine
end

