-- ==== Sys2Proof/Machine/Retire.lean ====
section
/-! DEFINITION. The end of warps and groups (R69, R92, R232). -/

namespace Sys2Proof.Machine

/-- The tile stores of a group that are still under way write their bytes, before what they belong to is gone. -/
def State.finishStores (s : State) (c gi : Nat) : (n : Nat) → State
  | 0 => s
  | n + 1 =>
    let g := s.group c gi
    match g.landings.find? (fun l => !l.load) with
    | none => s
    | some l => State.finishStores (s.land c gi ((g.landings.findIdx? (fun k => k == l)).getD 0) l.left g l) c gi n

/-- The last warp of a group has retired: mapped ranges are written back; its stash allocation, reservations, accumulators, agreements and armed
triggers are free (R92, R232, R310). -/
def State.retireGroup (s : State) (c gi : Nat) : State :=
  let s := s.finishStores c gi (s.group c gi).landings.length
  let s := s.exitMaps c gi
  let s := s.seedDone (s.group c gi).seededBy
  let k := s.core c
  s.setCore c { k.setGroup gi none with matq := k.matq.filter (fun o => o.group != gi) }

/-- A warp has retired: its slot is free, its cairn's work falls by one, and its group ends with its last warp. -/
def State.retireWarp (s : State) (c slot : Nat) : State :=
  let w := s.warp c slot
  let s := match w.cairn with | some k => s.workDone k | none => s
  let s := s.setCore c ((s.core c).setWarp slot none)
  if (s.groupWarps c w.group).isEmpty then s.retireGroup c w.group else s

/-- `WARP_RETIRE`: a warp whose lanes have all exited and whose store queue is empty retires (R232). Operands: core, slot. -/
def execWarpRetire (s : State) : Host.Outcome State Fault Refusal :=
  let c := s.args.core; let slot := s.args.slot
  match (s.core c).warp slot with
  | none => .refused (.notEnabled "WARP_RETIRE")
  | some w =>
    if w.over then .next (s.retireWarp c slot) else .refused (.notEnabled "WARP_RETIRE")

end Sys2Proof.Machine
end

