-- ==== Sys2Proof/Machine/Roles.lean ====
section
/-! DEFINITION. What a core has room for (R27, R32, R89) and role switches (R30, R321, R322). -/

namespace Sys2Proof.Machine

/-! ### Room on a core (R27, R32) -/

/-- Vector registers that the warps of other groups hold: a file of 4,096. -/
def Core.vregsUsed (k : Core) (skip : Option Nat) : Nat :=
  k.warps.foldl (fun n y => match y.2 with
    | some w => if some w.group = skip then n else n + ((k.group w.group).getD {}).allot.vregs
    | none => n) 0

/-- Operand-buffer bytes that other groups hold: a buffer of 393,216. -/
def Core.tbytesUsed (k : Core) (skip : Option Nat) : Nat :=
  k.groups.foldl (fun n y => match y.2 with | some g => if some y.1 = skip then n else n + g.allot.tbytes | none => n) 0

/-- Free warp slots, ascending. -/
def Core.freeSlots (k : Core) : List Nat := (List.range 64).filter (fun i => (k.warp i).isNone)

/-- A stash range is free of every live allocation. -/
def Core.stashFree (k : Core) (base len : Nat) : Bool :=
  base + len ≤ 0x80000 && k.groups.all (fun y => match y.2 with
    | some g => len == 0 || g.allot.sbytes == 0 || base + len ≤ g.stashBase || g.stashBase + g.allot.sbytes ≤ base
    | none => true)

/-- The lowest free run of a core's stash at a multiple of 256 bytes (R32). -/
def Core.stashRun (k : Core) (len : Nat) : Option Nat :=
  let starts := sortBy id (0 :: k.groups.filterMap (fun y => y.2.map (fun g => roundUp 256 (g.stashBase + g.allot.sbytes))))
  starts.find? (fun b => k.stashFree b len)

/-- The core meets an allotment for `n` warps, the stash aside. -/
def Core.roomFor (k : Core) (a : Allot) (n : Nat) (skip : Option Nat) : Bool :=
  k.vregsUsed skip + n * a.vregs ≤ 4096 && k.tbytesUsed skip + a.tbytes ≤ 393216

/-- A number for a new group: no group of the core, resident or saved, and no engine command under way bears it. -/
def State.newGroup (s : State) (c : Nat) : Nat :=
  let k := s.core c
  let used := SMap.keys k.groups ++ k.saved.map (fun v => v.number) ++
    s.regions.flatMap (fun r => r.2.copyq.filterMap (fun q => match q.group with | some (d, n) => if d = c then some n else none | none => none))
  (findFrom (fun i => !used.contains i) (used.length + 1) 0).getD 0

/-! ### Role descriptors (R321) -/

/-- The allotment that a descriptor names, beside what the group keeps. -/
def roleAllot (a : Allot) (d : Nat) : Allot :=
  { a with entry := field d 256 64, tbytes := field d 96 32, acc := field d 32 3, agr := field d 35 5, sregs := roundUp 8 (max 8 (field d 16 16)),
           vregs := roundUp 8 (max 8 (field d 0 16)) }

/-- The part of a descriptor that a group of `n` warps compares: the header and ENTRY0 to ENTRY(n − 1). -/
def roleKey (d n : Nat) : Nat := field d 0 (256 + 64 * n)

/-- A descriptor fails the checks of R322 step 3 for a group of `n` warps. -/
def State.roleBad (s : State) (g : Group) (d n : Nat) : Bool :=
  field d 128 128 != 0 || field d 43 53 != 0 || field d 96 32 % 4096 != 0 || field d 96 32 > 393216 || field d 35 5 > 16 || field d 32 3 > 4 ||
    field d 16 16 > 64 || field d 0 16 > 256 || field d 40 3 > s.fcbField g.ctx g.fcb 216 8 || field d 96 32 > s.fcbField g.ctx g.fcb 128 32 ||
    (List.range n).any (fun w => bit d (256 + 64 * w) || field d (256 + 64 * w + 57) 7 != 0) ||
    g.tiles.any (fun y => !tileVirt y.2.toNat && tileBase y.2.toNat + tileLen y.2.toNat > field d 96 32)

/-! ### ROLE (R322) -/

/-- The descriptor that a warp has read. -/
def Warp.roleDesc (w : Warp) : Option Nat := w.waits.findSome? (fun y => match y.kind with | .role d => some d | _ => none)

/-- The warp, whose live lanes all stand at `ROLE`, reads its descriptor and has arrived (R322 step 2). -/
def Iss.arrive (x : Iss) (s : State) : State :=
  let m := x.part (s.warp x.core x.slot); let l := x.warpLane m
  let va := x.a64 (s.warp x.core x.slot) l
  if va % 32 ≠ 0 then s.raise x.core x.slot x.idx (x.trapReq 0x06 m { fva := va }) false
  else
    match s.readRecord x.core x.slot l x.pc 20 va with
    | (.park i, s) =>
      let i := { i with pc := x.pc, lanes := x.e.mask }
      ({ s := s, park := x.e.mask, info := i } : Out).finish x.core x.slot x.idx x.len
    | (.trap i, s) => s.raise x.core x.slot x.idx (x.trapReq i.cause m i) true
    | (.held, s) => s
    | (.val d, s) =>
      let s := x.entryWait s x.e.mask (.role d)
      let w := s.warp x.core x.slot
      s.setWarp x.core x.slot (w.replaceEntry x.idx [{ x.e with state := .waiting, cause := some .agreement, age := 0 }])

/-- `ROLE` (R30, R322): an entry that holds fewer than all live lanes waits and merges; the whole warp reads its descriptor and waits for its group. -/
def execRole (f : Form64) (s : State) : Host.Outcome State Fault Refusal :=
  runCore (.role f) (fun x s => x.closed s (fun _ s =>
    let s := x.waitAt s .agreement true
    let w := s.warp x.core x.slot
    match w.entryOf x.e.mask with
    | none => .stall s
    | some (i, e) =>
      if e.mask = w.live then .placed ({ x with idx := i, e := { e with state := .ready, cause := none } }.arrive (s.setWarp x.core x.slot (w.replaceEntry i [{ e with state := .ready, cause := none }])))
      else .placed s)) s

/-! ### ROLE_SWITCH (R30, R322) -/

/-- Every live warp of a group has arrived at `ROLE`, and some warp has. -/
def State.roleDue (s : State) (c gi : Nat) : Bool :=
  let ws := (s.groupWarps c gi).filter (fun y => y.2.live != 0#32)
  !ws.isEmpty && ws.all (fun y => y.2.inRole)

/-- Registers of a warp under a new allotment: kept below both counts, zero and full above; pending loads into discarded ones are dropped. -/
def Warp.reallot (w : Warp) (old new : Allot) : Warp :=
  let nv := min old.vregs new.vregs; let ns := min old.sregs new.sregs
  let gone (r : InFlight) : LaneMask := if r.dreg + r.regs > (if r.uniform then ns else nv) then 0xFFFFFFFF#32 else 0#32
  let w := w.dropPending 0xFFFFFFFF#32 gone
  { w with v := w.v.filter (fun y => y.1 < 32 * nv), vEmpty := w.vEmpty.filter (fun y => y.1 < nv), s := w.s.filter (fun y => y.1 < ns),
           sEmpty := w.sEmpty &&& BitVec.ofNat 64 (2 ^ ns - 1) }

/-- The block priority of an address in its context's table; the old one where the table names no block (log 8). -/
def State.startPrio (s : State) (x pc : Nat) (old : BitVec 8) : BitVec 8 :=
  match s.blockOf x pc with | some (_, p) => BitVec.ofNat 8 p | none => old

/-- A warp restarts in its new role (R322). -/
def State.restartWarp (s : State) (x : Nat) (old new : Allot) (d : Nat) (w : Warp) : Warp :=
  let pc := field d (256 + 64 * w.windex) 64
  let prio := match w.frontier.head? with | some e => e.prio | none => 0#8
  let e : Entry := { pc := BitVec.ofNat 57 pc, prio := s.startPrio x pc prio, mask := w.live }
  let w := w.reallot old new
  { w with frontier := [e], rstack := [], depth := [], tx := [], waits := w.waits.filter (fun y => match y.kind with | .role _ => false | _ => true) }

/-- The group takes its new role. -/
def State.switchRole (s : State) (c gi d : Nat) : State :=
  let g := s.group c gi
  let s := (s.touchFcb g.ctx g.fcb).touchBlocks g.ctx
  let new := roleAllot g.allot d
  let s := s.setGroup c gi { g with allot := new, cls := field d 40 3, acc := g.acc.filter (fun y => y.1 < 12288 * new.acc), agr := g.agr.filter (fun y => y.1 < new.agr) }
  ((s.groupWarps c gi).filter (fun y => y.2.live != 0#32)).foldl (fun s y => s.setWarp c y.1 (s.restartWarp g.ctx g.allot new d y.2)) s

/-- Every warp of the group traps ROLE_INVALID, and the group keeps its old role. -/
def State.refuseRole (s : State) (c gi : Nat) : State :=
  ((s.groupWarps c gi).filter (fun y => y.2.inRole)).foldl (fun s y =>
    match y.2.waits.find? (fun z => match z.kind with | .role _ => true | _ => false) with
    | none => s
    | some z =>
      let w := { y.2 with waits := y.2.waits.filter (fun v => v != z) }
      let m := w.live
      (s.setWarp c y.1 w).trapLanes c y.1 m { cause := 0x60, lanes := m, pc := z.pc, insn := z.insn, len := z.len, info := { cause := 0x60, pc := z.pc, lanes := m } }) s

/-- Registers of the group above the new counts are idle (R322 step 4). -/
def Group.roleIdle (g : Group) (d : Nat) : Bool :=
  g.agr.all (fun y => y.1 < field d 35 5 || y.2.state == .idle) && g.accOrder.all (fun o => o.acc < field d 32 3)

/-- What the switch of a group comes to, once every live warp has arrived: refused, not yet possible, or possible. -/
def State.roleOutcome (s : State) (c gi : Nat) : Option (Option Nat) :=
  let g := s.group c gi; let n := g.slots.length
  match ((s.groupWarps c gi).filterMap (fun y => y.2.roleDesc)) with
  | [] => none
  | d :: t =>
    if t.any (fun e => roleKey e n != roleKey d n) || s.roleBad g d n then some none
    else if g.roleIdle d && (s.core c).roomFor (roleAllot g.allot d) (s.groupWarps c gi).length (some gi) then some (some d)
    else none

/-- `ROLE_SWITCH`: every live warp of a group stands at `ROLE`; the descriptors are compared and checked, and the group switches as soon as the core
meets the new allotment (R30, R322). Operands: core, group. -/
def execRoleSwitch (s : State) : Host.Outcome State Fault Refusal :=
  let c := s.args.core; let gi := s.args.group
  if !s.roleDue c gi then .refused (.notEnabled "ROLE_SWITCH")
  else
    match s.roleOutcome c gi with
    | none => .refused (.notEnabled "ROLE_SWITCH")
    | some none => .next (s.refuseRole c gi)
    | some (some d) => .next (s.switchRole c gi d)

/-- A group of the core waits for room for its new role, so that nothing new is placed there (R30). -/
def State.roleWaits (s : State) (c : Nat) : Bool := (s.core c).groups.any (fun y => s.roleDue c y.1)

end Sys2Proof.Machine
end

