-- ==== Sys2Proof/Machine/Placement.lean ====
section
/-! DEFINITION. Placement of handler groups and seeded threads (R32, R62, R77, R320, R387). -/

namespace Sys2Proof.Machine

/-! ### Which warps form the next group (R32) -/

/-- The key of a closed warp. -/
def ClosedWarp.key (w : ClosedWarp) : Option (Nat × Word × Nat × Bool × Option (Nat × Nat)) := w.clauses.head?.map (fun c => c.key)

/-- The first `g` warps of a list, or those up to and including a flush: none while neither is there. -/
def groupFrom : (g : Nat) → List (Nat × ClosedWarp) → Option (List (Nat × ClosedWarp))
  | 0, _ => some []
  | _ + 1, [] => none
  | n + 1, w :: t => if w.2.flush then some [w] else (groupFrom n t).map (fun r => w :: r)

/-- The warps of a region's list, with their places in it, that form a group with the one at an index, the first of its key; `g` warps a group. -/
def Region.formed (r : Region) (i g : Nat) : Option (List (Nat × ClosedWarp)) :=
  match r.closed[i]? with
  | none => none
  | some w =>
    let mine := (r.closed.zipIdx.filter (fun y => y.1.key == w.key)).map (fun y => (y.2, y.1))
    match mine.head? with
    | some (j, _) => if j = i then groupFrom g mine else none
    | none => none

/-- Takes listed warps out of a region's list. -/
def Region.takeClosed (r : Region) (ws : List (Nat × ClosedWarp)) : Region :=
  { r with closed := (r.closed.zipIdx.filter (fun y => !ws.any (fun w => w.1 == y.2))).map Prod.fst }

/-! ### Groups that are not placed (R77, R320) -/

/-- The lanes of a group exit before their first instruction and contribute the identity; one fault record goes to the fault domain, and the cairn's
echo is marked FAULTED. The record of a group that never ran names where it would have begun: the entry address, the lanes of its first warp and the
region's first core (log 94). -/
def State.refuseGroup (s : State) (core : Nat) (ws : List ClosedWarp) (cause : Nat) : State :=
  let cs := ws.flatMap (fun w => w.clauses)
  match cs.head? with
  | none => s
  | some c =>
    let s := cs.foldl (fun s c => s.contributeIdentity c.ident) s
    let r := recordBits { cause := cause, pc := c.entry, lanes := maskOf (List.range (((ws.head?).map (fun w => w.clauses.length)).getD 1)) } c.fcb c.ident.handle core 0
    let s := s.postFault c.ctx (s.faultDomain c.ctx c.fcb) r 0xFFFF#16
    let s := match c.ident.cairn with | some k => s.faultCairn k | none => s
    let s := ws.foldl (fun s w => match (w.clauses.head?).bind (fun c => c.ident.cairn) with | some k => s.workDone k | none => s) s
    s.seedDone c.seed

/-! ### Time slices (R35, R36) -/

/-- SLICE of a fault domain (R388). -/
def State.sliceOfDomain (s : State) (x d : Nat) : Nat := match s.domainEntry x d with | some e => field e 192 32 | none => 0

/-- The fault domain of a context's FCB, as a core's time slices name it: domains belong to their contexts (R35, R388), and go round by number. -/
def State.sliceDomain (s : State) (x : Nat) (fcb : Word) : Nat := s.faultDomain x fcb * 1024 + x

/-- The fault domain of a group. -/
def State.domainOf (s : State) (g : Group) : Nat := s.sliceDomain g.ctx g.fcb

/-- The running slice of a core becomes that of a domain. -/
def State.startSlice (s : State) (c d : Nat) : State :=
  let k := s.core c
  -- groups of the domain that ran on for want of an area need no save now
  let groups := k.groups.map (fun y => (y.1, y.2.map (fun g => if s.domainOf g = d then { g with unsaved := false } else g)))
  s.setCore c { k with domain := some d, sliceLeft := s.sliceOfDomain (d % 1024) (d / 1024), groups := groups }

/-- The resident groups of a domain that have not halted. -/
def State.sliceGroups (s : State) (c d : Nat) : List Nat :=
  (s.core c).groups.filterMap (fun y => match y.2 with | some g => if g.halting.isNone && s.domainOf g == d then some y.1 else none | none => none)

/-- Fault domains with saved or pending work for a core (R35). -/
def State.contenders (s : State) (c : Nat) : List Nat :=
  let saved := ((s.core c).saved.filter (fun v => v.state != 1 && !v.held)).map (fun v => s.domainOf v.group)
  let pending := (s.region (coreRegion c)).closed.filterMap (fun w => (w.clauses.head?).map (fun y => s.sliceDomain y.ctx y.fcb))
  distinct (saved ++ pending)

/-- The next contender in round-robin order of fault-domain number. -/
def nextContender (ds : List Nat) (d : Nat) : Option Nat :=
  match sortBy id (ds.filter (fun y => d < y)) with
  | y :: _ => some y
  | [] => (sortBy id ds).head?

/-- Work of a domain may come to a core: no slice has begun, the domain's slice runs, or the running one has ended with its last group and nothing of its
domain is left, so that the next contender starts (R35, R36). -/
def State.sliceTakes (s : State) (c d : Nat) : Bool :=
  match (s.core c).domain with
  | none => true
  | some r => r == d || ((s.core c).groups.all (fun y => match y.2 with | some g => s.domainOf g != r | none => true) &&
      !(s.contenders c).contains r && nextContender (s.contenders c) r == some d)

/-- Work of a domain comes to a core: its slice begins where it is not the running one. -/
def State.takeSlice (s : State) (c d : Nat) : State := if (s.core c).domain = some d then s else s.startSlice c d

/-! ### The core and its resources (R32) -/

/-- The core can take a group of `n` warps: its whole allotment, a time slice of the group's fault domain, and no role switch that waits. -/
def State.coreTakes (s : State) (c n : Nat) (a : Allot) (dom : Nat) : Bool :=
  let k := s.core c
  s.sliceTakes c dom && !s.roleWaits c && n ≤ k.freeSlots.length && k.roomFor a n none && (k.stashRun a.sbytes).isSome

/-- The core of a region with the fewest resident warps among those that can take the group, ties to the lowest number. -/
def State.chooseCore (s : State) (region n : Nat) (a : Allot) (dom : Nat) : Option Nat :=
  let base := region / 32 * 512 + region % 32 * 16
  let can := (List.range 16).filterMap (fun i => if s.coreTakes (base + i) n a dom then some (base + i) else none)
  can.foldl (fun (best : Option Nat) c =>
    match best with
    | none => some c
    | some b => if (s.core c).warps.length < (s.core b).warps.length then some c else some b) none

/-! ### The start state of a handler (R62, R387) -/

/-- The vector registers that a lane starts with. -/
def startVector (a : Allot) (cs : List Clause) : SMap Word :=
  (List.range (min 12 a.vregs)).foldl (fun m r => cs.zipIdx.foldl (fun m y => SMap.set 0#32 m (32 * r + y.2) (y.1.v.getD r 0#32)) m) []

/-- The uniform registers that a warp starts with. -/
def startUniform (a : Allot) (c : Clause) : SMap Word :=
  let words := (List.range 12).map (fun i => c.s.getD i 0#32) ++ [c.ident.handle, c.fcb, BitVec.ofNat 32 (c.ident.depth % 8 + c.cls % 8 * 2 ^ 8)]
  ((List.range (min 15 a.sregs)).zip words).foldl (fun m y => SMap.set 0#32 m y.1 y.2) []

/-- A handler warp at its start. -/
def State.startWarp (s : State) (core slot group windex : Nat) (a : Allot) (cs : List Clause) : Warp :=
  match cs.head? with
  | none => {}
  | some c =>
    let place := 64 * (core % 512) + slot
    let e : Entry := { pc := BitVec.ofNat 57 c.entry, prio := s.startPrio c.ctx c.entry (BitVec.ofNat 8 c.bprio), mask := maskOf (List.range cs.length) }
    { group := group, windex := windex, frontier := [e], v := startVector a cs, s := startUniform a c,
      ident := cs.zipIdx.foldl (fun m y => SMap.set {} m y.2 y.1.ident) [],
      tvec := BitVec.ofNat 64 (s.ctxReg c.ctx 0x050), eframe := BitVec.ofNat 64 (s.ctxReg c.ctx 0x038 + 256 * place),
      spillb := BitVec.ofNat 64 (s.ctxReg c.ctx 0x040 + s.ctxReg c.ctx 0x048 * place), lastIssue := (s.core core).clock.toNat }

/-- Places a formed group on a core: its first instruction is the acquire of its flood's signatures (R45, R148), or of the module's
foreign signature (R387). -/
def State.placeGroup (s : State) (core : Nat) (a : Allot) (dom : Nat) (ws : List ClosedWarp) : State :=
  match (ws.head?).bind (fun w => w.clauses.head?) with
  | none => s
  | some c =>
    let k := s.core core
    let n := s.newGroup core
    let slots := k.freeSlots.take ws.length
    let g : Group :=
      { ctx := c.ctx, fcb := c.fcb, cls := c.cls, promise := s.fcbField c.ctx c.fcb 224 1 == 1, deferc := c.deferc, swapth := s.fcbField c.ctx c.fcb 192 16,
        allot := a, stashBase := (k.stashRun a.sbytes).getD 0, slots := slots, seededBy := c.seed }
    let s := (s.setCore core (k.setGroup n (some g))).takeSlice core dom
    let s := ((slots.zip ws).zipIdx).foldl (fun s y => s.setWarp core y.1.1 (s.startWarp core y.1.1 n y.2 a y.1.2.clauses)) s
    let sig := ws.foldl (fun g w => w.clauses.foldl (fun g c => g ||| c.sig) g) 0#512
    s.applySig core (if c.scope = 7 then sig ||| (s.module (coreModule core)).foreign else sig)

/-- `GROUP_PLACE`: the dispatcher forms a group from closed warps of one key and places it (R32), or its lanes end for an undeclared entry (R320) or a
budget (R77). Operands: region, index of the first warp of the key. -/
def execGroupPlace (s : State) : Host.Outcome State Fault Refusal :=
  let region := s.args.region; let r := s.region region; let i := s.args.index
  match (r.closed[i]?).bind (fun w => w.clauses.head?) with
  | none => .refused (.notEnabled "GROUP_PLACE")
  | some c =>
    let s := ((s.touchEntries c.ctx).touchBlocks c.ctx).touchFcb c.ctx c.fcb
    let rec? := s.entryRecord c.ctx c.entry
    let a := match rec? with | some e => allotOf e | none => {}
    match r.formed i a.warps with
    | none => .refused (.notEnabled "GROUP_PLACE")
    | some ws =>
      let taken := s.setRegion region (r.takeClosed ws)
      let warps := ws.map Prod.snd
      let first := region / 32 * 512 + region % 32 * 16
      if rec?.isNone then .next (taken.refuseGroup first warps 0x11)
      else if a.sbytes > s.fcbField c.ctx c.fcb 96 32 ∨ a.tbytes > s.fcbField c.ctx c.fcb 128 32 then .next (taken.refuseGroup first warps 0x31)
      else
        let dom := s.sliceDomain c.ctx c.fcb
        match s.chooseCore region warps.length a dom with
        | none => .refused (.notEnabled "GROUP_PLACE")
        | some core => .next (taken.placeGroup core a dom warps)

end Sys2Proof.Machine
end

