-- ==== Sys2Proof/Machine/Saving.lean ====
section
/-! DEFINITION. Pre-emption, time slices, swap-out, and the return of saved groups (R33 to R38, R353 to R357). -/

namespace Sys2Proof.Machine

/-! ### What a warp leaves under way when it halts (R34) -/

/-- Open lanes abort with INTERRUPT and stand at their recorded TXE (R34, R155). -/
def State.interruptTx (s : State) (c slot : Nat) : State :=
  let w := s.warp c slot
  let opened := (List.range 32).filter w.isOpen
  let txes := distinct (opened.map (fun l => (w.laneTx l).txe))
  let moves := w.frontier.flatMap (fun e => txes.filterMap (fun a =>
    let m := filterMask e.mask (fun l => w.isOpen l && (w.laneTx l).txe == a)
    if m = 0#32 then none else some (m, a)))
  let s := s.abortLanes c slot 8 0 0 opened
  moves.foldl (fun s y => s.moveLanes c slot y.1 y.2) s

/-- Lanes that wait for the escalation token are idle again and stand at their TXB (log 22). -/
def State.leaveTokenQueue (s : State) (c slot : Nat) : State :=
  let w := s.warp c slot
  let queued := (List.range 32).filter (fun l => (w.laneTx l).state == .queued)
  let s := queued.foldl (fun s l => s.releaseToken c slot l) s
  let w := s.warp c slot
  let w := queued.foldl (fun w l => w.setTx l { w.laneTx l with state := .idle }) w
  let f := w.frontier.map (fun e =>
    if e.state = .waiting ∧ e.cause = some .token then { e with pc := e.pc - 8#57, state := .ready, cause := none, age := 0 } else e)
  s.setWarp c slot { w with frontier := f }

/-- A warp halts: its queued stores drain as far as they can, its transactions abort, finished waits end, and its entries show what holds them (R17). Loads
stay listed, to be re-issued (R34). -/
def State.haltWarp (s : State) (c slot : Nat) : State :=
  let s := (((s.drain c slot).interruptTx c slot).leaveTokenQueue c slot).endWaits c slot
  let w := s.warp c slot
  s.setWarp c slot { w with frontier := s.showCauses c slot w.frontier 0, monitor := none, busy := 0 }

/-- Every warp of a group halts, and its matrix operations stop between steps (R33). -/
def State.haltGroup (s : State) (c gi : Nat) : State :=
  let s := (s.groupWarps c gi).foldl (fun s y => s.haltWarp c y.1) s
  s.setCore c { s.core c with matq := (s.core c).matq.filter (fun o => o.group != gi) }

/-- Late returns that are missing (R353). -/
def latePending (ws : List Warp) : Nat :=
  ws.foldl (fun n w => w.inflight.foldl (fun n r => if r.late then n + popcount 32 (r.pend &&& r.unperformed).toNat else n) n) 0

/-- An event that a wait of the warp has been waiting for has come, or the warp waits no more: the wake is kept (R38). -/
def Warp.wakes (w : Warp) : Bool := !w.onlyWaits || w.waits.any (fun y => y.woken || y.done)

/-- The structured image of a group that has halted; no request of an atomic comes back to a warp any more (R34). A group that was to be swapped out and
whose event has come meanwhile is queued for restore (R38). -/
def State.imageOf (s : State) (c gi base len st : Nat) : Saved :=
  let g := s.group c gi; let k := s.core c
  let still (w : Warp) : Warp := { w with inflight := w.inflight.map (fun r => { r with remote := 0#32, pointer := [], reissues := [] }) }
  let ws := sortWarps ((s.groupWarps c gi).map (fun y => still y.2))
  { number := gi, base := base, len := len, state := if st = 1 ∧ ws.any Warp.wakes then 2 else st,
    group := { g with refused := false, unsaved := false, halting := none, idleSince := none, tscbNow := 0#64 }, warps := ws,
    stash := (k.stash.filter (fun y => g.stashBase ≤ y.1 && y.1 < g.stashBase + g.allot.sbytes)).map (fun y => (y.1 - g.stashBase, y.2)),
    latepend := latePending ws }
where
  /-- Warps by warp index. -/
  sortWarps (ws : List Warp) : List Warp := (List.range 16).filterMap (fun i => ws.find? (fun w => w.windex == i))

/-- A group leaves the core. -/
def Core.withoutGroup (k : Core) (gi : Nat) : Core :=
  let k := k.setGroup gi none
  { k with warps := k.warps.filter (fun y => match y.2 with | some w => w.group != gi | none => true), matq := k.matq.filter (fun o => o.group != gi) }

/-! ### LATE_RETURN (R356) -/

/-- Performs an atomic of a saved warp for one lane, where its memory is. -/
def State.lateLane (s : State) (c x : Nat) (r : InFlight) (l : Nat) : Got × State :=
  match SMap.get none r.place l with
  | none => (.stale, s)
  | some p =>
    match s.chase x (SMap.get 0 r.addr l) 2 p, rmwOfInstr r.instr with
    | some q, some m =>
      if s.refusesModule c x q then (refusedModule l (SMap.get 0 r.addr l) 2, s)
      else s.rmwNow c 64 x l m q true r.acq r.rel (SMap.get 0 r.data l) (SMap.get 0 r.data2 l) (SMap.get 0 r.addr l)
    | _, _ => (.stale, s.dropTlb c x (SMap.get 0 r.addr l))

/-- A late return enters the record of a saved warp; the record keeps its place until the group resumes. -/
def Warp.lateSettle (w : Warp) (i l : Nat) (r : InFlight) (got : Got) : Warp :=
  let m := 1#32 <<< l
  let done := { r with unperformed := r.unperformed &&& ~~~m }
  let off := { done with pend := r.pend &&& ~~~m }
  match got with
  | .val v => { w with inflight := setAt w.inflight i { done with val := SMap.set 0 r.val l v } }
  | .trap t => { w with inflight := setAt w.inflight i { off with trapLanes := r.trapLanes ||| m, trap := if r.trapLanes = 0#32 then t else r.trap } }
  | .park f => { w.addLateFault r m f with inflight := setAt w.inflight i off }
  | .gone => { w.addTargetFault r m 0x12 7 2 with inflight := setAt w.inflight i off }
  | _ => { w.addTargetFault r m 0x10 6 2 with inflight := setAt w.inflight i off }

/-- `LATE_RETURN`: an atomic's late value is written into its slot of the save area (R34, R356). Operands: core, group, warp, record, lane. -/
def execLateReturn (s : State) : Host.Outcome State Fault Refusal :=
  let c := s.args.core; let i := s.args.record; let l := s.args.lane
  match (s.core c).savedAt s.args.group with
  | none => .refused (.notEnabled "LATE_RETURN")
  | some v =>
    match v.warps.find? (fun w => w.windex == s.args.warp) with
    | none => .refused (.notEnabled "LATE_RETURN")
    | some w =>
      match w.inflight[i]? with
      | none => .refused (.notEnabled "LATE_RETURN")
      | some r =>
        if !r.late || !(r.pend &&& r.unperformed).getLsbD l then .refused (.notEnabled "LATE_RETURN")
        else
          match s.lateLane c v.group.ctx r l with
          | (.held, _) | (.remote, _) | (.abort _ _, _) => .refused (.notEnabled "LATE_RETURN")
          | (got, s) =>
            let w' := w.lateSettle i l r got
            let ws := v.warps.map (fun u => if u.windex = w.windex then w' else u)
            let v' := { v with warps := ws, latepend := latePending ws }
            let at_ := v.group.areaWarps + w.windex * warpPart v.group.allot + 4736 + 320 * i
            let ps := ((w'.inflight[i]?).map (fun r => r.pieces at_)).getD []
            .next ((s.setCore c ((s.core c).putSaved v')).writePieces v.group.ctx v.base ((34, 2, v'.latepend) :: ps))

/-! ### Coming back (R34, R38, R353) -/

/-- One lane of a load that is re-issued (R34): its address is translated again, and the value is the current one. -/
def State.reissueLane (s : State) (c slot i l : Nat) : State :=
  let w := s.warp c slot; let x := s.ctxOf c slot
  match w.record i with
  | none => s
  | some r =>
    let m := 1#32 <<< l; let va := SMap.get 0 r.addr l; let h := BitVec.ofNat 32 va
    match r.instr with
    | .testf _ =>
      let (v, st) := s.floodResult x h
      let s := if bit st 0 then s.fcbAcquire c x (handleFcb h) (s.fcbScope x h) else s
      s.settle c slot i l (.val (v + st * 2 ^ 64))
    | .finfo f => s.settle c slot i l (.val (s.finfoRead x h f.rs3.toNat))
    | .trd _ => if r.ahead = 0 then s.settle c slot i l (.val (bufRead (s.groupOf c slot).opbuf va 4)) else s
    | .accrd _ | .accrmax _ => s
    | _ =>
      let acc := if (rmwOfInstr r.instr).isSome then Acc.atomic else .load
      match s.reach c x w.privileged false va (r.bytes l) (r.bytes l) acc { pc := r.pc } with
      | (.trap t, s) => s.settle c slot i l (.trap t)
      | (.park f, s) =>
        let w := s.warp c slot
        let late : InFlight := { r with pend := m, trapLanes := 0#32, unperformed := m, remote := 0#32, fault := { f with pc := r.pc, lanes := m } }
        s.setWarp c slot ({ w with targetFaults := w.targetFaults ++ [late] }.putRecord i { r with pend := r.pend &&& ~~~m, unperformed := r.unperformed &&& ~~~m })
      | (.ok p wti _ _, s) =>
        let placed := { r with place := SMap.set none r.place l (some p), wti := if wti then r.wti ||| m else r.wti &&& ~~~m }
        let s := s.setWarp c slot ((s.warp c slot).putRecord i placed)
        if remoteTo c p then s.setWarp c slot ((s.warp c slot).putRecord i { placed with remote := placed.remote ||| m })
        else let (got, s) := s.performLane c slot placed p l; s.settle c slot i l got

/-- A load is re-issued in every lane that still awaits its value; a read of an accumulator keeps its turn. -/
def State.reissueRecord (s : State) (c slot i : Nat) : State :=
  match (s.warp c slot).record i with
  | none => s
  | some r =>
    match r.late, r.instr with
    | true, _ | _, .accrd _ | _, .accrmax _ => s
    | _, _ =>
      let s := s.setWarp c slot ((s.warp c slot).putRecord i { r with issued := (s.core c).clock.toNat, unperformed := r.pend, val := [] })
      (lanes r.pend).foldl (fun s l =>
        match (s.warp c slot).record i with
        | some q => if q.pc = r.pc && q.insn == r.insn && q.pend.getLsbD l then s.reissueLane c slot i l else s
        | none => s) s

/-- Every record, the last first, so that one that ends moves no other still to come. -/
def State.reissueAll (s : State) (c slot : Nat) : (n : Nat) → State
  | 0 => s
  | n + 1 => State.reissueAll (s.reissueRecord c slot n) c slot n

/-- One lane of a kept store is issued again: its address is translated and it joins the store queue (R420). -/
def State.restoreLane (s : State) (c slot : Nat) (r : InFlight) (l : Nat) : State :=
  let va := SMap.get 0 r.addr l; let m := 1#32 <<< l
  match s.reach c (s.ctxOf c slot) (s.warp c slot).privileged false va r.width 1 .store { pc := r.pc } with
  | (.ok p wti _ _, s) => s.enqueue c slot (storeOp c l p wti r.width (SMap.get 0 r.data l) va r.insn r.len r.pc)
  | (.park f, s) =>
    let w := s.warp c slot
    s.setWarp c slot { w with targetFaults := w.targetFaults ++ [{ r with pend := m, unperformed := m, fault := { f with pc := r.pc, lanes := m } }] }
  | (.trap f, s) =>
    let w := s.warp c slot
    s.setWarp c slot { w with pending := w.pending ++ [{ cause := f.cause, lanes := m, pc := r.pc, insn := r.insn, len := r.len, epc := none, info := { f with lanes := m } }] }

/-- The lanes of a kept access join the record of the same instruction that is still under way: they stand in its slot (R356). -/
def InFlight.join (q r : InFlight) : InFlight :=
  let one (q : InFlight) (l : Nat) : InFlight :=
    { q with addr := SMap.set 0 q.addr l (SMap.get 0 r.addr l), data := SMap.set 0 q.data l (SMap.get 0 r.data l), data2 := SMap.set 0 q.data2 l (SMap.get 0 r.data2 l) }
  { (lanes r.pend).foldl one q with pend := q.pend ||| r.pend, unperformed := q.unperformed ||| r.pend, txLanes := q.txLanes &&& ~~~r.pend, acq := max q.acq r.acq, rel := max q.rel r.rel }

/-- A kept access is issued again in its faulting lanes alone (R420). -/
def State.reissueKept (s : State) (c slot : Nat) (r : InFlight) : State :=
  if r.fault.acc = 1 then (lanes r.pend).foldl (fun s l => s.restoreLane c slot r l) s
  else
    let w := s.warp c slot
    let again : InFlight := { r with issued := (s.core c).clock.toNat, unperformed := r.pend, remote := 0#32, pointer := [], reissues := [], val := [] }
    let (i, w) := match findIdx (fun q => q.sameInstr r) w.inflight 0 with
      | some (i, q) => (i, { w with inflight := setAt w.inflight i (q.join again) })
      | none => (w.inflight.length, { w with inflight := w.inflight ++ [again] })
    let s := s.setWarp c slot w
    (lanes r.pend).foldl (fun s l =>
      match (s.warp c slot).record i with
      | some q => if q.pend.getLsbD l then s.reissueLane c slot i l else s
      | none => s) s

/-- A resolved fault: the entry is ready at its pc, and an access kept with it is issued again (R22, R420). -/
def State.replayEntry (s : State) (c slot idx : Nat) (e : Entry) : State :=
  let w := s.warp c slot
  let s := s.setWarp c slot (w.replaceEntry idx [{ e with state := .ready, cause := if e.held.isEmpty || e.replay != 0#32 then none else some .fullFrontier, age := 0, frec := 0#16, kept := none, fault := none, fate := none }])
  match e.kept with | some r => s.reissueKept c slot r | none => s

/-- A killed fault: the faulting lanes exit, a handler's cairn is marked FAULTED, and the lanes of a whole parked entry that had not faulted go on
(R21, R22, R420). -/
def State.killEntry (s : State) (c slot idx : Nat) (e : Entry) : State :=
  let dead := match e.kept with | some r => r.pend &&& e.mask | none => if e.replay = 0#32 then e.mask else e.replay
  let w := s.warp c slot
  let s := (w.cairnsOf dead).foldl State.faultCairn s
  let w := s.warp c slot
  let e' : Entry := { e with state := .ready, cause := none, age := 0, frec := 0#16, kept := none, fault := none, fate := none }
  let s := s.setWarp c slot (w.replaceEntry idx [e'])
  if e.replay = 0#32 then s.killLanes c slot dead
  else
    let len := match (s.fetch c (s.ctxOf c slot) e.pc.toNat w.privileged).1 with | .word n _ => n | _ => 8
    ({ s := s.exitLanes c slot dead, exits := dead } : Out).finish c slot idx len

/-- Acts on the handler's decision for a parked entry: its record is freed (R389). -/
def State.decideEntry (s : State) (c slot idx : Nat) (e : Entry) (replay : Bool) : State :=
  let s := if e.frec = 0xFFFF#16 then s else s.freeRecordAt (s.ctxOf c slot) e.frec.toNat
  if replay then s.replayEntry c slot idx e else s.killEntry c slot idx e

/-- Decisions that came while the warp was saved (R389). -/
def State.decideWarp (s : State) (c slot : Nat) : (n : Nat) → State
  | 0 => s
  | n + 1 =>
    match (s.warp c slot).entry n with
    | some e => State.decideWarp (match e.fate with | some r => s.decideEntry c slot n e r | none => s) c slot n
    | none => State.decideWarp s c slot n

/-- Late values go to their registers (R34): the slots are all filled. -/
def Warp.takeLate (w : Warp) : Warp :=
  let done (r : InFlight) : LaneMask := if r.late then r.pend &&& ~~~r.unperformed else 0#32
  let w := w.inflight.foldl (fun w r => w.deliver r (lanes (done r))) w
  w.putRecords (w.inflight.map (fun r => { r with pend := r.pend &&& ~~~(done r) }))

/-- The wait is that of an MSIGN whose signatures stand: it goes on when the group comes back (R299). -/
def Wait.signs (y : Wait) : Bool := match y.kind with | .engine (.signed _) => true | _ => false

/-- Pending waits are re-executed (R34): their entries stand ready at the waiting instruction, the destinations full as they were. A `WAITF`
goes on, which comes to the same while its flood runs: its handle stays valid until the flood completes, and the result comes with the wake (R73). -/
def Warp.reissueWaits (w : Warp) : Warp :=
  let keeps (y : Wait) : Bool := y.signs || (match y.kind with | .flood _ _ => true | _ => false)
  let again := w.waits.filter (fun y => !keeps y)
  let waits (e : Entry) : Bool := e.state == .waiting && (again.any (fun y => e.mask.getLsbD y.lane) || (e.cause == some .wait && !w.waits.any (fun y => e.mask.getLsbD y.lane)))
  let f := w.frontier.map (fun e => if waits e then { e with state := .ready, cause := none, age := 0 } else e)
  { w.leaveWaits (maskOf (again.map (fun y => y.lane))) with frontier := f }

/-- A saved group takes the core's resources again: its stash range, the lowest free warp slots, and its place among the matrix operations. -/
def State.seat (s : State) (c : Nat) (v : Saved) : State × List (Warp × Nat) :=
  let k := s.core c; let g := v.group
  let slots := k.freeSlots.take v.warps.length
  let at_ := v.warps.zip slots
  let g' : Group := { g with slots := g.slots.zipIdx.map (fun y => match at_.find? (fun z => z.1.windex == y.2) with | some z => z.2 | none => y.1) }
  let kept : SMap Byte := k.stash.filter (fun y => !(g.stashBase ≤ y.1 && y.1 < g.stashBase + g.allot.sbytes))
  let stash : SMap Byte := v.stash.foldl (fun (m : SMap Byte) y => SMap.set 0#8 m (g.stashBase + y.1) y.2) kept
  let ops : List MatOp := g.accOrder.filterMap (fun (o : AccOp) => o.agr.map (fun n => ({ group := v.number, agr := n } : MatOp)))
  let k := { k with saved := k.saved.filter (fun y => y.number != v.number), stash := stash, matq := k.matq ++ ops }
  let s := (s.setCore c (k.setGroup v.number (some g'))).takeSlice c (s.domainOf g)
  let s := at_.foldl (fun s y => s.setWarp c y.2 { y.1 with lastIssue := (s.core c).clock.toNat }) s
  (s.dropArea g.ctx v.base, at_)

/-- The warps of a group that has come back go on (R34): late values are delivered, waits are re-executed, loads are re-issued, and what has been decided on
parked entries happens. -/
def State.restore (s : State) (c : Nat) (v : Saved) (at_ : List (Warp × Nat)) : State :=
  let s := at_.foldl (fun s y => (s.setWarp c y.2 (s.warp c y.2).takeLate.reissueWaits).endWaits c y.2) s
  let s := at_.foldl (fun s y => s.reissueAll c y.2 (s.warp c y.2).inflight.length) s
  let s := at_.foldl (fun s y => s.decideWarp c y.2 (s.warp c y.2).frontier.length) s
  (List.range 4).foldl (fun s a => s.pumpAcc c v.number a ((s.group c v.number).accOrder.length + 1)) s

/-- The lanes of a group whose save area shows another VERSION are killed with a DATA_ERROR record (R353, R86). -/
def State.killGroup (s : State) (c gi : Nat) : State :=
  (s.groupWarps c gi).foldl (fun s y =>
    let w := s.warp c y.1; let g := s.group c gi
    let r := recordBits { cause := 0x16, lanes := w.live } g.fcb (w.laneIdent ((lowestLane w.live).getD 0)).handle c y.1
    let s := s.postFault g.ctx (s.faultDomain g.ctx g.fcb) r 0xFFFF#16
    let s := (w.cairnsOf w.live).foldl State.faultCairn s
    s.killLanes c y.1 w.live) s

/-- A saved group can come back: the running slice is its fault domain's, its late returns are in, and the core has its resources free (R34, R38). -/
def State.returns (s : State) (c : Nat) (v : Saved) : Bool :=
  let k := s.core c
  !v.held && v.latepend == 0 && s.sliceTakes c (s.domainOf v.group) && v.warps.length ≤ k.freeSlots.length &&
    k.roomFor v.group.allot v.warps.length none && k.stashFree v.group.stashBase v.group.allot.sbytes

/-- A saved group comes back; where the area's VERSION is not 1 it is not resumed, and its lanes are killed (R353). -/
def State.bringBack (s : State) (c : Nat) (v : Saved) : State :=
  match s.ctxRead v.group.ctx (v.base + 256) 2 with
  | (ver, s) =>
    let (s, at_) := s.seat c v
    if ver = some 1 then s.restore c v at_ else s.killGroup c v.number

/-- `GROUP_RESUME`: a pre-empted group resumes (R34). Operands: core, group. -/
def execGroupResume (s : State) : Host.Outcome State Fault Refusal :=
  let c := s.args.core
  match (s.core c).savedAt s.args.group with
  | some v => if v.state = 0 ∧ s.returns c v then .next (s.bringBack c v) else .refused (.notEnabled "GROUP_RESUME")
  | none => .refused (.notEnabled "GROUP_RESUME")

/-- `WAKE_MESSAGE`: a swapped-out group whose event has come is restored on its core as soon as that meets its allotment (R38). Operands: core, group. -/
def execWakeMessage (s : State) : Host.Outcome State Fault Refusal :=
  let c := s.args.core
  match (s.core c).savedAt s.args.group with
  | some v => if v.state = 2 ∧ s.returns c v then .next (s.bringBack c v) else .refused (.notEnabled "WAKE_MESSAGE")
  | none => .refused (.notEnabled "WAKE_MESSAGE")

/-! ### Saves (R34, R357) -/

/-- A save that finds no room in the arena is refused and counted (R357). One for a pre-emption is tried again when an area of the context frees. -/
def State.refuseSave (s : State) (c gi st : Nat) : State :=
  let g := s.group c gi
  (s.setGroup c gi { g with refused := true, unsaved := g.unsaved || st == 0 }).count (coreModule c) (0x700 + 8 * (g.ctx % 32)) 1

/-- A halted group that finds no area resumes at once where it is (R34, R357): its loads are re-issued and its waits re-executed. -/
def State.resumeInPlace (s : State) (c gi : Nat) : State :=
  let ws := s.groupWarps c gi
  let ops : List MatOp := (s.group c gi).accOrder.filterMap (fun (o : AccOp) => o.agr.map (fun n => ({ group := gi, agr := n } : MatOp)))
  let s := s.setCore c { s.core c with matq := (s.core c).matq ++ ops }
  let s := ws.foldl (fun s y => s.setWarp c y.1 { (s.warp c y.1).reissueWaits with lastIssue := (s.core c).clock.toNat }) s
  ws.foldl (fun s y => s.reissueAll c y.1 (s.warp c y.1).inflight.length) s

/-- The save of a halted group completes once its store queues are empty (R34): the image is written and the group leaves the core. -/
def State.finishSave (s : State) (c gi : Nat) : State :=
  let g := s.group c gi
  match g.halting with
  | none => s
  | some h =>
    if !(s.groupWarps c gi).all (fun y => y.2.storeq.isEmpty) then s
    else
      let v := { s.imageOf c gi h.base (g.areaLen g.slots.length) h.st with header := s.areaKey g.ctx h.base, held := h.held }
      let k := (s.core c).withoutGroup gi
      (s.setCore c { k with saved := k.saved ++ [v] }).writeArea v

/-- Saves a group (R34, R353 to R357), in state 0 halted or 1 swapped out. It takes its area, halts at once, and leaves the core when its stores have
drained. Without room in the arena a group to be pre-empted halts and resumes at once; one to be swapped out stays as it is. -/
def State.saveGroup (s : State) (c gi st : Nat) : State :=
  let g := s.group c gi; let len := g.areaLen g.slots.length
  if g.halting.isSome then s
  else
    match s.freeArea g.ctx len with
    | none => if st = 0 then ((s.refuseSave c gi st).haltGroup c gi).resumeInPlace c gi else s.refuseSave c gi st
    | some base =>
      let s := s.haltGroup c gi
      let x := s.ctx g.ctx
      let s := s.setCtx g.ctx { x with areas := (base, len) :: x.areas }
      (s.setGroup c gi { s.group c gi with halting := some { st := st, base := base } }).finishSave c gi

/-- Saves listed groups of a core. -/
def State.saveGroups (s : State) (c st : Nat) : List Nat → State
  | [] => s
  | gi :: t => State.saveGroups (s.saveGroup c gi st) c st t

/-! ### Stores that leave -/

/-- `STORE_ACKNOWLEDGEMENT`: the oldest store of a warp's queue is performed and acknowledged (R132, R134, R139); with the last one of a halted group its save
completes (R34). Operands: core, slot. -/
def execStoreAcknowledgement (s : State) : Host.Outcome State Fault Refusal :=
  let c := s.args.core; let slot := s.args.slot; let gi := (s.warp c slot).group
  match (s.warp c slot).storeq with
  | [] =>
    if (s.group c gi).halting.isSome ∧ (s.groupWarps c gi).all (fun y => y.2.storeq.isEmpty) then .next (s.finishSave c gi)
    else .refused (.notEnabled "STORE_ACKNOWLEDGEMENT")
  | o :: t =>
    match s.storeStep c slot o t with
    | (_, some _, _) => .refused (.notEnabled "STORE_ACKNOWLEDGEMENT")
    | (s, none, m, va) =>
      .next ((s.setWarp c slot { s.warp c slot with storeq := match t with | [] => [] | y :: u => y.takeRefused m va :: u }).finishSave c gi)

/-! ### PREEMPT_REQUEST and SLICE_EXPIRE (R33, R35, R36) -/

/-- Groups of a core that a pre-emption request concerns: all, or those that run on for want of an area where one has come free (R357). -/
def State.toPreempt (s : State) (c : Nat) (retry : Bool) : List Nat :=
  (s.core c).groups.filterMap (fun y => match y.2 with
    | some g => if g.halting.isNone && (!retry || (g.unsaved && (s.freeArea g.ctx (g.areaLen g.slots.length)).isSome)) then some y.1 else none
    | none => none)

/-- `PREEMPT_REQUEST`: every warp of a core halts at an instruction boundary and its groups are saved; one that finds no area runs on (R33, R34, R357).
Operands: core; flag: only the groups whose save is tried again. -/
def execPreemptRequest (s : State) : Host.Outcome State Fault Refusal :=
  let c := s.args.core; let gs := s.toPreempt c s.args.flag
  if gs.isEmpty then .refused (.notEnabled "PREEMPT_REQUEST") else .next (s.saveGroups c 0 gs)

/-- `SLICE_EXPIRE`: a time slice ends; its groups are pre-empted and the next contender's slice starts (R35). A group that retires in the same cycle is
counted first (R36). Operands: core. -/
def execSliceExpire (s : State) : Host.Outcome State Fault Refusal :=
  let c := s.args.core; let k := s.core c
  match k.domain with
  | none => .refused (.notEnabled "SLICE_EXPIRE")
  | some d =>
    let gs := s.sliceGroups c d
    let retiring := k.warps.any (fun y => match y.2 with | some w => w.over | none => false)
    if k.sliceLeft ≠ 0 || retiring || (gs.isEmpty && (nextContender (s.contenders c) d).all (fun n => n == d)) then .refused (.notEnabled "SLICE_EXPIRE")
    else
      let s := s.saveGroups c 0 gs
      .next (s.startSlice c ((nextContender (s.contenders c) d).getD d))

/-! ### SWAP_OUT (R37) -/

/-- Every wait of a warp has an event that will wake it, and has not yet: a table entry, a flood or a barrier (R37). -/
def Warp.wakeable (w : Warp) : Bool :=
  w.waits.all (fun y => !y.woken && !y.done && match y.kind with | .value _ _ _ _ _ _ _ _ => y.held | .flood _ _ | .barrier _ _ => true | _ => false)

/-- A group is eligible for swap-out (R37). -/
def State.swappable (s : State) (c gi : Nat) : Bool :=
  let g := s.group c gi
  g.swapth != 0 && !g.refused && g.halting.isNone && s.onlyWaits c gi && (match g.idleSince with | some t => t + 1024 * g.swapth < (s.core c).clock.toNat | none => false) &&
    (s.groupWarps c gi).all (fun y => y.2.wakeable)

/-- `SWAP_OUT`: a group that has only waited for longer than its threshold is saved and frees its resources (R37). Operands: core, group. -/
def execSwapOut (s : State) : Host.Outcome State Fault Refusal :=
  let c := s.args.core; let gi := s.args.group
  if (((s.core c).group gi).isSome && s.swappable c gi) then .next (s.saveGroup c gi 1) else .refused (.notEnabled "SWAP_OUT")

end Sys2Proof.Machine
end

