-- ==== Sys2Proof/Machine/Queues.lean ====
section
/-! DEFINITION. Host queues and the queue processor (R380 to R387): registers of a queue page, packets, seeded threads and the vendor instructions. -/

namespace Sys2Proof.Machine

/-! ### Which function a queue serves (R377, R380) -/

/-- The function that owns a queue: bits [5q+4:5q] of QFUNC. -/
def State.queueFunction (s : State) (q : Nat) : Nat :=
  let r (o : Nat) : Nat := (SMap.get 0#64 (s.module (q / 32)).pf o).toNat
  field (r 0x208 + r 0x210 * 2 ^ 64 + r 0x218 % 2 ^ 32 * 2 ^ 128) (5 * (q % 32)) 5

/-- The context of a queue. -/
def State.queueCtx (s : State) (q : Nat) : Nat := q / 32 * 32 + s.queueFunction q

/-- The context through which the vendor instructions of a thread translate: QCTX (R380). -/
def State.threadCtx (s : State) (q : Nat) : Nat := q / 32 * 32 + (s.queue q).qctx.toNat % 32

/-! ### Accesses of a queue thread (R380: write-through caches; R419: PRIV is ignored) -/

/-- The place of an access of a thread. -/
def State.queuePlace (s : State) (q x va n : Nat) (acc : Acc) : Except Miss Place × State :=
  s.enginePlace false (q / 32 * 512) x true va n acc

/-- Reads bytes. -/
def State.queueRead (s : State) (q x va n : Nat) : Except Miss (Place × Nat) × State :=
  match s.queuePlace q x va n .load with
  | (.error e, s) => (.error e, s)
  | (.ok p, s) => let (_, v, s) := s.engineRead (q / 32) x p n; (.ok (p, v), s)

/-- What a write of a thread comes to. -/
inductive QWrite where
  | ok (s : State)
  | refused (i : FaultInfo) (s : State)
  /-- An escalated transaction pins the word (R168), or the target holds the access back. -/
  | held

/-- The state with no peer of a thread's module lost: how an access to a lost peer would go. -/
def State.withPeers (s : State) (q : Nat) : State := let z := s.module (q / 32); s.setModule (q / 32) { z with lost := [] }

/-- A store of a thread to a lost peer is declared lost: it may or may not be performed (R149, R381); none where no peer is to blame. -/
def State.loseStore (s : State) (q x va n v : Nat) : Option State :=
  match (s.withPeers q).queuePlace q x va n .store with
  | (.ok p, _) =>
    let (b, s) := s.takeBool; let z := s.queue q
    let s := s.setQueue q { z with lost := true }
    some (if b then s.engineWrite x p n v else s)
  | _ => none

/-- Writes one word with a release at .sy: it carries the signatures that the thread has acquired (R134, R136). -/
def State.queueRelease (s : State) (q x va n v : Nat) (add : Bool) : QWrite :=
  match s.queuePlace q x va n (if add then .atomic else .store) with
  | (.error .held, _) => .held
  | (.error (.park i), s) => if i.cause = 0x12 then (match s.loseStore q x va n v with | some s => .ok s | none => .refused i s) else .refused i s
  | (.error (.trap i), s) => .refused i s
  | (.ok p, s) =>
    if s.pinned p n then .held
    else
      let r := if add then s.engineRead (q / 32) x p n else (false, 0, s)
      .ok ((r.2.2.engineWrite x p n ((r.2.1 + v) % 2 ^ (8 * n))).attach p (s.queue q).sig 7)

/-- An acquire at .sy of a location (R135, R141): the thread's caches are write-through and hold nothing stale, so that only the signature counts. -/
def State.queueAcquire (s : State) (q : Nat) (p : Place) : State :=
  let z := s.queue q
  s.setQueue q { z with sig := z.sig ||| s.received (q / 32) p 7 }

/-! ### The state of a queue (R382) -/

/-- A queue that is enabled is running while a packet is under way or to be read, waiting while a WAIT packet waits, else idle. -/
def Queue.settle (z : Queue) : Queue :=
  match z.state with
  | .disabled | .stopped | .paused => z
  | _ =>
    let waits := match z.current with | some p => field p.bytes 0 8 == 3 && z.waiting | none => false
    { z with state := if waits then .waiting else if z.current.isSome || z.ridx.toNat < z.tail.toNat then .running else .idle }

/-- QCTL.ENABLE: a disabled queue, or one that has stopped and holds no error, runs (R382, R386). -/
def State.enableQueue (s : State) (q : Nat) : State :=
  let z := s.queue q
  if z.state = .disabled ∨ (z.state = .stopped ∧ z.qerr = 0#64) then s.setQueue q { z with state := .idle }.settle else s

/-- QCTL.STOP. A queue that activation or migration holds, or that never ran, stays as it is. -/
def State.haltQueue (s : State) (q : Nat) : State :=
  let z := s.queue q
  if z.state = .idle ∨ z.state = .running ∨ z.state = .waiting then s.setQueue q { z with state := .stopped } else s

/-- QCTL.CLEAR clears QERR and sets the read index to TAIL; a packet that has not started is given up. -/
def State.clearQueue (s : State) (q : Nat) : State :=
  let z := s.queue q
  s.setQueue q { z with qerr := 0#64, ridx := z.tail, current := none, waiting := false }.settle

/-- A write to TAIL: a value above it counts, in every state of the queue (R382, R391); in the module's safe state doorbells are ignored (R399). -/
def State.ringTail (s : State) (q : Nat) (v : DWord) : State :=
  let z := s.queue q
  if z.tail.toNat < v.toNat ∧ (s.module (q / 32)).safe = false then s.setQueue q { z with tail := v }.settle else s

/-- `QCTL_ENABLE` (R382). Operands: queue. -/
def execQctlEnable (s : State) : Host.Outcome State Fault Refusal := .next (s.enableQueue s.args.queue)

/-- `QCTL_STOP` (R382). Operands: queue. -/
def execQctlStop (s : State) : Host.Outcome State Fault Refusal := .next (s.haltQueue s.args.queue)

/-- `QCTL_CLEAR` (R382). Operands: queue. -/
def execQctlClear (s : State) : Host.Outcome State Fault Refusal := .next (s.clearQueue s.args.queue)

/-- `TAIL_DOORBELL` (R382). Operands: queue, value. -/
def execTailDoorbell (s : State) : Host.Outcome State Fault Refusal := .next (s.ringTail s.args.queue s.args.value)

/-! ### Packets (R383, R385, R386) -/

/-- A packet stops its queue: QERR tells of it and an event is posted. Kind 1: malformed; kind 2: a translation fault. -/
def State.stopQueue (s : State) (q : Nat) (p : Packet) (kind cause : Nat) : State :=
  let z := s.queue q; let tag := field p.bytes 32 32
  let s := s.setQueue q { z with state := .stopped, current := none, waiting := false, qerr := BitVec.ofNat 64 (tag * 2 ^ 32 + cause % 256 * 2 ^ 8 + kind) }
  s.postEvent (s.queueCtx q) 3 (q % 32) tag p.index

/-- What the thread finds to process next. -/
inductive Head where
  | packet (p : Packet) (s : State)
  /-- The packet's slot does not translate. -/
  | lost (i : FaultInfo) (s : State)
  | nothing

/-- The packet under way, or the one at the read index, read as a whole (R383). -/
def State.headPacket (s : State) (q : Nat) : Head :=
  let z := s.queue q
  -- in the safe state nothing beyond the housekeeping complex runs (R399)
  if (s.module (q / 32)).safe then .nothing else
  match z.state with
  | .disabled | .stopped | .paused => .nothing
  | _ =>
    match z.current with
    | some p => .packet p s
    | none =>
      if z.tail.toNat ≤ z.ridx.toNat then .nothing
      else
        let slot := z.ridx.toNat % 2 ^ (z.qsize.toNat % 32)
        match s.queueRead q (s.queueCtx q) ((z.qbase.toNat + 64 * slot) % 2 ^ 64) 64 with
        | (.ok (_, v), s) => .packet { index := z.ridx.toNat, bytes := v } s
        | (.error (.park i), s) => .lost i s
        | (.error (.trap i), s) => .lost i s
        | (.error .held, _) => .nothing

/-- The packet has been read: the read index rises and is published with a release at .sy; an address that takes no write takes none (log 23). -/
def State.publish (s : State) (q : Nat) (p : Packet) : Option State :=
  let z := s.queue q
  if z.current.isSome then some s
  else
    let s := s.setQueue q { z with ridx := BitVec.ofNat 64 (p.index + 1), current := some p }
    match s.queueRelease q (s.queueCtx q) z.ridxaddr.toNat 8 (p.index + 1) false with
    | .ok s => some s
    | .refused _ s => some s
    | .held => none

/-- Seeded threads of a queue that wait for their placement. -/
def State.unplaced (s : State) (q : Nat) : Bool :=
  s.regions.any (fun r => r.2.closed.any (fun w => w.clauses.any (fun c => match c.seed with | some (a, _) => a == q | none => false)))

/-- Every earlier packet has completed (R385). -/
def State.earlierDone (s : State) (q : Nat) : Bool := (s.queue q).copies.isEmpty && (s.queue q).fences.isEmpty && !s.unplaced q

/-- The thread is through with its packet. -/
def State.packetDone (s : State) (q : Nat) : State :=
  let z := s.queue q
  s.setQueue q { z with current := none, waiting := false, state := if z.state = QState.waiting then QState.running else z.state }.settle

/-- What the start of a packet comes to. -/
inductive Started where
  | done (s : State)
  /-- The packet waits, and the thread with it. -/
  | waits (s : State)
  | malformed (cause : Nat) (s : State)
  | untranslated (i : FaultInfo) (s : State)
  | held

/-- What a refused access of a packet comes to. -/
def Miss.started (e : Miss) (s : State) : Started :=
  match e with
  | .park i => .untranslated i s
  | .trap i => .untranslated i s
  | .held => .held

/-- A packet of a type is processed: it is read, the read index is published, a BARRIER packet waits for the earlier ones, and it starts (R383, R385). -/
def State.process (s : State) (name : String) (type : Nat) (start : (q x : Nat) → Packet → State → Started) : Host.Outcome State Fault Refusal :=
  let q := s.args.queue; let fresh := (s.queue q).current.isNone
  match s.headPacket q with
  | .packet p s =>
    if field p.bytes 0 8 ≠ type then .refused (.notEnabled name)
    else
      match s.publish q p with
      | none => .refused (.notEnabled name)
      | some s =>
        if bit p.bytes 8 && !s.earlierDone q then (if fresh then .next s else .refused (.notEnabled name))
        else if field p.bytes 9 23 ≠ 0 then .next (s.stopQueue q p 1 0x02)
        else
          match start q (s.queueCtx q) p s with
          | .done s => .next (s.packetDone q)
          | .waits s =>
            let z := s.queue q
            if fresh || !z.waiting then .next (s.setQueue q { z with waiting := true }.settle) else .refused (.notEnabled name)
          | .malformed cause s => .next (s.stopQueue q p 1 cause)
          | .untranslated i s => .next (s.stopQueue q p 2 i.cause)
          | .held => if fresh then .next s else .refused (.notEnabled name)
  | _ => .refused (.notEnabled name)

/-! ### SEED (R386, R387) -/

/-- The thread that a SEED packet describes: the clause of its one lane. -/
def State.seedClause (s : State) (q x index b : Nat) : Clause :=
  let fcb : Word := BitVec.ofNat 32 (field b 128 32); let entry := field b 64 64
  { entry := entry, ctx := x, fcb := fcb, cls := s.fcbField x fcb 216 8,
    bprio := match s.blockOf x entry with | some (_, k) => k | none => 128,
    last := true, deferc := s.fcbField x fcb 225 1 == 1, v := [], s := (List.range 8).map (fun i => BitVec.ofNat 32 (field b (192 + 32 * i) 32)),
    byClause := true, seed := some (q, index), ident := { fcb := fcb }, scope := 7, sig := (s.queue q).sig }

/-- The checks of a SEED packet (R386): a cause, a translation fault, or none. -/
def State.seedCheck (s : State) (x b : Nat) : Option (Bool × Nat) × State :=
  let fcb : Word := BitVec.ofNat 32 (field b 128 32)
  let s := (s.touchEntries x).touchBlocks x
  if field b 160 8 > 31 ∨ field b 168 24 ≠ 0 ∨ field b 448 64 ≠ 0 then (some (false, 0x02), s)
  else if bit b 64 then (some (false, 0x06), s)
  else if fcb.toNat < 0x40000 then (some (false, 0x02), s)
  else if (s.entryRecord x (field b 64 64)).isNone then (some (false, 0x11), s)
  else
    match s.ctxLoad x (s.fcbAddr x fcb) 512 with
    | (.error (_, r), s) => (some (true, r.cause), s)
    | (.ok _, s) =>
      let s := s.touchDomain x (s.faultDomain x fcb)
      if s.domainAssigned x (s.faultDomain x fcb) then (none, s) else (some (false, 0x11), s)

/-- Seeds a thread: its one-lane warp waits in REGION for its placement (R32, R387). -/
def State.seedThread (s : State) (q x index b : Nat) : State :=
  let region := q / 32 * 32 + field b 160 5; let r := s.region region; let z := s.queue q
  let c := s.seedClause q x index b
  (s.setRegion region { r with closed := r.closed ++ [{ clauses := [c], flush := true }] }).setQueue q { z with seeds := z.seeds ++ [index] }

/-- `SEED_PACKET` (R385 to R387). Operands: queue. -/
def execSeedPacket (s : State) : Host.Outcome State Fault Refusal :=
  s.process "SEED_PACKET" 1 (fun q x p s =>
    match s.seedCheck x p.bytes with
    | (some (true, cause), s) => .untranslated { cause := cause } s
    | (some (false, cause), s) => .malformed cause s
    | (none, s) => .done (s.seedThread q x p.index p.bytes))

/-! ### COPY (R305, R385) -/

/-- The engine command that a queue issues. -/
def State.queueCmd (_s : State) (q x index : Nat) (txfer : Bool) (va rec : Nat) : EngineCmd :=
  { txfer := txfer, record := rec, va := va, ctx := x, module := q / 32, priv := true, state := if txfer then .reporting else .proceeds,
    queue := some (q, index) }

/-- Issues a command of a queue to the copy engine of a region. -/
def State.issueCmd (s : State) (q region index : Nat) (k : EngineCmd) : State :=
  let z := s.queue q
  (s.setQueue q { z with copies := z.copies ++ [index] }).acceptCmd (q / 32 * 32 + region) k

/-- `COPY_PACKET` (R385, R386). Operands: queue. -/
def execCopyPacket (s : State) : Host.Outcome State Fault Refusal :=
  s.process "COPY_PACKET" 2 (fun q x p s =>
    let va := field p.bytes 64 64
    if field p.bytes 128 8 > 31 ∨ field p.bytes 136 376 ≠ 0 then .malformed 0x02 s
    else if va % 64 ≠ 0 then .malformed 0x06 s
    else
      match s.queueRead q x va 64 with
      | (.error e, s) => e.started s
      | (.ok (_, rec), s) =>
        if field rec 424 4 ≠ 0 ∨ field rec 416 2 ≠ 0 then .malformed 0x02 s
        else
          match recordCheck 0 rec 0 with
          | some cause => .malformed cause s
          | none => .done (s.issueCmd q (field p.bytes 128 5) p.index (s.queueCmd q x p.index false va rec)))

/-! ### WAIT, SIGNAL, FENCE and CANCEL (R385) -/

/-- The comparisons of QWAIT: 0 eq, 1 ne, 2 geu, 3 ltu (R381). -/
def qwaitHolds (cmp a b : Nat) : Bool :=
  match cmp with | 0 => a == b | 1 => a != b | 2 => b ≤ a | _ => a < b

/-- `WAIT_PACKET`: its re-checks are the same step, which is then enabled only where the condition holds (R385, R280, R281). Operands: queue. -/
def execWaitPacket (s : State) : Host.Outcome State Fault Refusal :=
  s.process "WAIT_PACKET" 3 (fun q x p s =>
    if field p.bytes 192 8 > 3 ∨ field p.bytes 200 312 ≠ 0 then .malformed 0x02 s
    else if field p.bytes 64 64 % 8 ≠ 0 then .malformed 0x06 s
    else
      match s.queueRead q x (field p.bytes 64 64) 8 with
      | (.error e, s) => e.started s
      | (.ok (at_, v), s) => if qwaitHolds (field p.bytes 192 8) v (field p.bytes 128 64) then .done (s.queueAcquire q at_) else .waits s)

/-- `SIGNAL_PACKET`: a store or a 64-bit add with a release at .sy (R385). Operands: queue. -/
def execSignalPacket (s : State) : Host.Outcome State Fault Refusal :=
  s.process "SIGNAL_PACKET" 4 (fun q x p s =>
    if field p.bytes 192 8 > 1 ∨ field p.bytes 200 312 ≠ 0 then .malformed 0x02 s
    else if field p.bytes 64 64 % 8 ≠ 0 then .malformed 0x06 s
    else
      match s.queueRelease q x (field p.bytes 64 64) 8 (field p.bytes 128 64) (field p.bytes 192 8 == 1) with
      | .ok s => .done s
      | .refused i s => .untranslated i s
      | .held => .held)

/-- The oldest FENCE under way has nothing earlier to wait for: its COPYs are done and its seeded threads have retired (R385). -/
def Queue.fenceDone (z : Queue) : Bool := match z.fences with | i :: _ => z.copies.all (fun k => i ≤ k) && z.seeds.all (fun k => i ≤ k) | [] => false

/-- The oldest FENCE completes. Its release at SCOPE has nothing left to write back: the thread's stores are write-through, and its next SIGNAL carries
its signatures. -/
def State.endFence (s : State) (q : Nat) : State := let z := s.queue q; s.setQueue q { z with fences := z.fences.drop 1 }

/-- `FENCE_PACKET`: the oldest FENCE under way completes, or a FENCE packet starts (R385). Operands: queue. -/
def execFencePacket (s : State) : Host.Outcome State Fault Refusal :=
  let q := s.args.queue
  if (s.queue q).fenceDone then .next (s.endFence q)
  else
    s.process "FENCE_PACKET" 5 (fun q _ p s =>
      let sc := field p.bytes 64 8
      if sc < 3 ∨ 7 < sc ∨ field p.bytes 72 440 ≠ 0 then .malformed 0x02 s
      else let z := s.queue q; .done (s.setQueue q { z with fences := z.fences ++ [p.index] }))

/-- `CANCEL_PACKET`: the cancel flood leaves as by CANCELF, where the handle names a flood of its FCB (R385, R386, R317). Operands: queue. -/
def execCancelPacket (s : State) : Host.Outcome State Fault Refusal :=
  s.process "CANCEL_PACKET" 6 (fun q x p s =>
    let h : Word := BitVec.ofNat 32 (field p.bytes 64 32)
    if field p.bytes 96 416 ≠ 0 then .malformed 0x02 s
    else if !bit (s.cdom x) (handleMod h) then .malformed 0x33 s
    else if s.handleValid x h then
      .done { s with net := s.net ++ [NetMsg.cancel (originUnit (handleRegion h)) h (handleSlot h / 32) (q / 32 * 32) 0 0] }
    else .done s)

/-- `INVALID_PACKET_TYPE`: TYPE 0 or above 6, or a slot that does not translate, stops the queue (R386). Operands: queue. -/
def execInvalidPacketType (s : State) : Host.Outcome State Fault Refusal :=
  let q := s.args.queue
  match s.headPacket q with
  | .lost i s => .next (s.stopQueue q { index := (s.queue q).ridx.toNat, bytes := 0 } 2 i.cause)
  | .nothing => .refused (.notEnabled "INVALID_PACKET_TYPE")
  | .packet p s =>
    if field p.bytes 0 8 ≠ 0 ∧ field p.bytes 0 8 ≤ 6 then .refused (.notEnabled "INVALID_PACKET_TYPE")
    else
      match s.publish q p with
      | none => .refused (.notEnabled "INVALID_PACKET_TYPE")
      | some s => .next (s.stopQueue q p 1 0x02)

/-! ### The vendor instructions (R381) -/

/-- A register of the thread; x0 reads 0. -/
def Queue.reg (z : Queue) (r : BitVec 5) : DWord := if r = 0#5 then 0#64 else SMap.get 0#64 z.x r.toNat

/-- Writes a register of the thread; x0 discards it. -/
def Queue.putReg (z : Queue) (r : BitVec 5) (v : DWord) : Queue := if r = 0#5 then z else { z with x := SMap.set 0#64 z.x r.toNat v }

/-- mstatus on an exception taken in machine mode: MPIE takes MIE, MIE clears, MPP is machine mode (log 6). -/
def trapStatus (v : DWord) : DWord := BitVec.ofNat 64 (putField (putField (putField v.toNat 7 1 (field v.toNat 3 1)) 3 1 0) 11 2 3)

/-- An exception of the thread (R381; the registers are the machine-mode ones of the RISC-V privileged architecture, log 6). -/
def State.queueTrap (s : State) (q cause tval : Nat) : State :=
  let z := s.queue q
  s.setQueue q { z with mepc := z.pc, mcause := BitVec.ofNat 64 cause, mtval := BitVec.ofNat 64 tval, mstatus := trapStatus z.mstatus,
                        pc := BitVec.ofNat 64 (z.mtvec.toNat / 4 * 4), waiting := false, seeding := false }

/-- The instruction ends: a result in rd, and the pc behind it. -/
def State.queueNext (s : State) (q : Nat) (rd : BitVec 5) (v : Nat) : State :=
  let z := (s.queue q).putReg rd (BitVec.ofNat 64 v)
  s.setQueue q { z with pc := z.pc + 4#64, waiting := false, seeding := false }

/-- The thread waits with its instruction (R381). -/
def State.queueStall (s : State) (q : Nat) : State := let z := s.queue q; s.setQueue q { z with waiting := true }

/-- A vendor instruction of the thread that holds the step. -/
def runQueue (s : State) (eff : (q : Nat) → State → State) : Host.Outcome State Fault Refusal :=
  match s.cur with
  | .queue q => .next { eff q s with cur := .idle }
  | _ => .fault .noIssuer

/-- The word of a vendor instruction. -/
def vendorWord (funct7 : Nat) (f : FormR) : Nat := wordR funct7 f

/-- A refused access of a vendor instruction: the load page-fault exception; a held one is tried again. -/
def Miss.vendor (e : Miss) (q va : Nat) (s : State) : State :=
  match e with
  | .park _ => s.queueTrap q 13 va
  | .trap _ => s.queueTrap q 13 va
  | .held => s.queueStall q

/-- `QWAIT` (R381). -/
def execQwait (f : FormR) (s : State) : Host.Outcome State Fault Refusal :=
  runQueue s (fun q s =>
    let va := ((s.queue q).reg f.rs1).toNat
    if f.funct3.toNat > 3 then s.queueTrap q 2 (vendorWord 0 f)
    else if va % 8 ≠ 0 then s.queueTrap q 4 va
    else
      match s.queueRead q (s.threadCtx q) va 8 with
      | (.error e, s) => e.vendor q va s
      | (.ok (p, v), s) =>
        if qwaitHolds f.funct3.toNat v ((s.queue q).reg f.rs2).toNat then (s.queueAcquire q p).queueNext q f.rd v else s.queueStall q)

/-- `QSEED` (R381, R387): rd takes the cause of the failed check, or 0 once the thread is placed; until then the barrel slot waits. -/
def execQseed (f : FormR) (s : State) : Host.Outcome State Fault Refusal :=
  runQueue s (fun q s =>
    let z := s.queue q; let x := s.threadCtx q; let va := (z.reg f.rs1).toNat
    if f.funct3 ≠ 0#3 then s.queueTrap q 2 (vendorWord 1 f)
    else if va % 64 ≠ 0 then s.queueTrap q 4 va
    else if z.waiting && z.seeding then (if s.unplaced q then s else s.queueNext q f.rd 0)
    else
      match s.queueRead q x va 64 with
      | (.error e, s) => e.vendor q va s
      | (.ok (_, b), s) =>
        if field b 0 8 ≠ 1 ∨ field b 9 23 ≠ 0 then s.queueNext q f.rd 0x02
        else
          match s.seedCheck x b with
          | (some (true, _), s) => s.queueTrap q 13 va
          | (some (false, cause), s) => s.queueNext q f.rd cause
          | (none, s) => let s := s.seedThread q x (s.queue q).ridx.toNat b; let z := s.queue q; s.setQueue q { z with waiting := true, seeding := true })

/-- A descriptor or record that a thread reads for QENG. -/
def State.vendorRead (s : State) (q x va n : Nat) (next : Nat → State → State) : State :=
  match s.queueRead q x va n with
  | (.error e, s) => e.vendor q va s
  | (.ok (_, v), s) => next v s

/-- The checks of a tensor descriptor (R112) and of its shard map entry, or the cause. -/
def State.vendorTensor (s : State) (x d : Nat) : Option Nat × State :=
  if tensorBad d then (some 0x02, s)
  else if !bit d 395 then (none, s)
  else
    match s.mapRead x (field d 396 12) with
    | (.entry e, s) => (if mapFmt e ≠ tFmt d ∨ mapRank e ≠ tRank d then some 0x41 else none, s)
    | (.refused _ r, s) => (some r.cause, s)
    | (_, s) => (some 0x14, s)

/-- A TXFER that a queue thread issues: R307 with the group record named by GREC, as under TRIG (log 24). -/
def State.vendorTxfer (s : State) (q x va rec region : Nat) (rd : BitVec 5) : State :=
  let grp := field rec 192 64; let m := q / 32
  if grp % 16 ≠ 0 then s.queueNext q rd 0x06
  else if grp = 0 then s.queueNext q rd 0x02
  else if field rec 0 64 % 64 ≠ 0 ∨ field rec 64 64 % 64 ≠ 0 then s.queueNext q rd 0x06
  else
    s.vendorRead q x (field rec 0 64) 64 (fun src s =>
      match s.vendorTensor x src with
      | (some cause, s) => s.queueNext q rd cause
      | (none, s) =>
        s.vendorRead q x (field rec 64 64) 64 (fun dst s =>
          match s.vendorTensor x dst with
          | (some cause, s) => s.queueNext q rd cause
          | (none, s) =>
            if collMismatch src dst m then s.queueNext q rd 0x41
            else if tRepl dst = 0 then s.queueNext q rd 0x02
            else if ((scalesBad src).or (scalesBad dst)).isSome then s.queueNext q rd (((scalesBad src).or (scalesBad dst)).getD {}).cause
            else
              s.vendorRead q x grp 16 (fun g s =>
                let mem := field g 96 32
                if !bit mem m || mem &&& tRepl dst != tRepl dst then s.queueNext q rd 0x11
                else
                  let i := (s.queue q).ridx.toNat
                  let k : EngineCmd := { s.queueCmd q x i true va rec with src := src, dst := dst, gid := field g 64 32, members := mem }
                  match s.takeSeq k grp with
                  | (.ok n, s) => (s.issueCmd q region i { k with seq := n }).queueNext q rd 0
                  | (.error e, s) => e.vendor q grp s)))

/-- `QENG` (R381): rd takes 0, or the cause of the failed check of R305 or R307. -/
def execQeng (f : FormR) (s : State) : Host.Outcome State Fault Refusal :=
  runQueue s (fun q s =>
    let z := s.queue q; let x := s.threadCtx q; let va := (z.reg f.rs1).toNat; let region := (z.reg f.rs2).toNat % 32
    if f.funct3 ≠ 0#3 then s.queueTrap q 2 (vendorWord 2 f)
    else if va % 64 ≠ 0 then s.queueTrap q 4 va
    else
      s.vendorRead q x va 64 (fun rec s =>
        let txfer := field rec 424 4 == 1
        match recordCheck txfer.toNat rec 0 with
        | some cause => s.queueNext q f.rd cause
        | none =>
          if txfer then s.vendorTxfer q x va rec region f.rd
          else let i := (s.queue q).ridx.toNat; (s.issueCmd q region i (s.queueCmd q x i false va rec)).queueNext q f.rd 0))

/-- `QFENCE` (R381): the thread's stores stand at their homes; lost ones set bit 0 of QFSTAT (R149). -/
def execQfence (f : FormR) (s : State) : Host.Outcome State Fault Refusal :=
  runQueue s (fun q s =>
    if f.funct3.toNat < 3 ∨ f.rd ≠ 0#5 ∨ f.rs1 ≠ 0#5 ∨ f.rs2 ≠ 0#5 then s.queueTrap q 2 (vendorWord 3 f)
    else
      let z := s.queue q
      (s.setQueue q { z with lost := false, qfstat := if z.lost then z.qfstat ||| 1#64 else z.qfstat }).queueNext q 0#5 0)

/-- `ILLEGAL_INSTRUCTION_EXCEPTION` (R381): mcause 2. -/
def execIllegalInstructionException (word : Word) (s : State) : Host.Outcome State Fault Refusal := runQueue s (fun q s => s.queueTrap q 2 word.toNat)

end Sys2Proof.Machine
end

