-- ==== Sys2Proof/Machine/Hubs.lean ====
section
/-! DEFINITION. The memory system's own steps: rollover (R137), token buckets (R101), page migration (R124, R125), writes from outside (R141, R375, R376), lost peers (R149) and bit errors (R414). -/

namespace Sys2Proof.Machine

/-! ### Rollover (R137) -/

/-- The modules in a core's instance of a scope, as a test on their numbers: none below .mo, for no home slice lies in a region or die. -/
def rolloverModule (scope c m : Nat) : Bool := if scope < 5 then false else if scope = 5 then m == coreModule c else true

/-- Clears what a rollover clears outside the cores: sidebands, overflow signatures, the sequencers of the scope (R283), the sidebands of the port agents
that the instance holds (R269), and at .sy the foreign signatures. -/
def State.rolloverRest (s : State) (scope c : Nat) : State :=
  let s := { s with slices := s.slices.map (fun z => if rolloverModule scope c (z.1 / 512) then (z.1, z.2.rollover scope) else z) }
  let s := if scope = 3 then s.setRegion (coreRegion c) { s.region (coreRegion c) with sequencer := 0#512 }
    else
      let h := if scope = 4 then coreModule c * 4 + coreDie c else if scope = 5 then coreModule c * 4 else 0
      let drop (h : Nat) (s : State) : State := let k := s.hub h; s.setHub h { k with sequencer := k.sequencer.filter (fun y => y.1 != scope) }
      if scope < 6 then drop h s else s.hubs.foldl (fun s y => drop y.1 s) s
  let s := { s with modules := s.modules.map (fun m => (m.1,
    if rolloverModule scope c m.1 then { m.2 with hostSig := 0#512, poolSig := 0#512, foreign := if scope = 7 then 0#512 else m.2.foreign } else m.2)) }
  if scope = 7 then { s with queues := s.queues.map (fun q => (q.1, { q.2 with sig := 0#512 })) } else s

/-- A dirty byte of some core of the instance lies in a pinned word, so that the write-back waits (R168). -/
def State.rolloverPinned (s : State) (scope c : Nat) : Bool := s.cores.any (fun k => inScope scope c k.1 && s.corePinned k.1)

/-- `SIGNATURE_ROLLOVER` (R137): a signature of 256 or more bits. Operands: core, scope. -/
def execSignatureRollover (s : State) : Host.Outcome State Fault Refusal :=
  let c := s.args.core; let scope := s.args.scope
  if 3 ≤ scope ∧ scope ≤ 7 ∧ 256 ≤ sigCount ((s.core c).sigOf scope) ∧ s.rolloverPinned scope c = false then
    .next ((((SMap.keys s.cores).filter (fun d => inScope scope c d)).foldl (fun s d => s.rolloverCore scope d) s).rolloverRest scope c)
  else .refused (.notEnabled "SIGNATURE_ROLLOVER")

/-! ### Token buckets (R101, R412) -/

/-- Port numbers: home-slice port n of module m is 512m + n; the host port of module m is 2^20 + 2m, its pool port 2^20 + 2m + 1. -/
def portModule (p : Nat) : Nat := if p < 2 ^ 20 then p / 512 else (p - 2 ^ 20) / 2

/-- The rate of a context at a port: HSRATE, HOSTRATE or POOLRATE; 0 is unlimited. -/
def State.rateAt (s : State) (x p : Nat) : Nat :=
  if p < 2 ^ 20 then field (s.ctxReg x 0x100) 0 24 else if p % 2 = 0 then field (s.ctxReg x 0x108) 0 24 else field (s.ctxReg x 0x108) 24 24

/-- `BUCKET_WINDOW`: every context's bucket is set to its rate, and what was left passes to the port's pool; a context without a limit gives nothing
(R101, R412). Operands: port. -/
def execBucketWindow (s : State) : Host.Outcome State Fault Refusal :=
  let p := s.args.port; let k := s.port p; let m := portModule p
  let left := k.bucket.foldl (fun n b => n + b.2.tokens) 0
  let full := (List.range 32).foldl (fun (b : SMap Bucket) f =>
    let r := s.rateAt (32 * m + f) p
    if r = 0 then b else SMap.set {} b (32 * m + f) { tokens := r, borrowed := 0 }) []
  .next (s.setPort p { bucket := full, pool := k.pool + left })

/-! ### Page migration (R124, R125) -/

/-- Moves the memory cells of a page; the source keeps its bytes, which nothing reaches any more. -/
def movePage (mem : List Host.Cell) (from_ dest size : Nat) : List Host.Cell :=
  let cleared := mem.filter (fun b => !(dest ≤ b.1 && b.1 < dest + size))
  (mem.filter (fun b => from_ ≤ b.1 && b.1 < from_ + size)).foldl (fun m b => writeByte m (dest + (b.1 - from_)) b.2) cleared

/-- Writes back and drops every core's copies of a page of domain memory. -/
def State.flushPage (s : State) (pa size : Nat) : State :=
  (SMap.keys s.cores).foldl (fun s c =>
    let k := s.core c
    let mine := k.l1.filter (fun l => pa ≤ l.line * 1024 && l.line * 1024 < pa + size)
    let s := s.recallLines c mine
    let k := s.core c
    let (mem, _) := writeBackLines s.pinMask s.mem (k.l1.filter (fun l => mine.any (fun y => y.line == l.line)))
    let s := { s with mem := mem }
    let k := { k with l1 := k.l1.filter (fun l => !mine.any (fun y => y.line == l.line)) }
    s.setCore c (k.hitLines (mine.map (fun l => l.line)))) s

/-- The sideband signatures of a page's lines go with them (R124, R125). -/
def State.moveSidebands (s : State) (pa size : Nat) (dest : Place) : State :=
  s.slices.foldl (fun s z => z.2.side.foldl (fun s y =>
    if pa ≤ y.1 * 1024 ∧ y.1 * 1024 < pa + size then
      let n := s.slice z.1
      (s.setSlice z.1 { n with side := SMap.set {} n.side y.1 {} }).attach (dest.plus (y.1 * 1024 - pa)) y.2.sig y.2.scope
    else s) s) s

/-- The forwarding records of a page that has left its home module, with the oldest of 4,096 giving way; pages that come to a module have not left
it (R121). -/
def State.leaveForward (s : State) (x pa size : Nat) (dest : Place) : State :=
  let pages := (List.range (size / 4096)).map (fun i => pa / 4096 + i)
  let s := match dest with
    | .dom b =>
      let h := s.hub (paModule b * 4)
      let back (p : Nat) : Bool := b / 4096 ≤ p && p < (b + size) / 4096
      s.setHub (paModule b * 4) { h with gone := h.gone.filter (fun p => !back p), fwd := h.fwd.filter (fun f => !back f.page) }
    | _ => s
  let h := s.hub (paModule pa * 4)
  let all := h.fwd ++ pages.map (fun p => ({ ctx := x, page := p, dest := dest.plus ((p - pa / 4096) * 4096) } : Forward))
  s.setHub (paModule pa * 4) { h with gone := (h.gone.filter (fun p => !pages.contains p)) ++ pages, fwd := all.drop (all.length - 4096) }

/-- Writes PPN into an entry, or into the sixteen of a 64 KiB group. -/
def State.writePpn (s : State) (m : Nat) (l : Leaf) (dest : Nat) : State :=
  let e := putField l.e 12 40 (dest / 4096)
  (List.range (if l.bits = 16 then 16 else 1)).foldl (fun s i => s.homeWrite none (placeOf m (l.ea + 8 * i)) 8 (fullMask 8) e) s

/-- A wait watches an element of a page. -/
def Wait.inPage (pa size : Nat) (y : Wait) : Bool :=
  match y.kind with | .value (.dom a) _ _ _ _ _ _ _ => pa ≤ a && a < pa + size | _ => false

/-- The waits on a page that moves are woken, those of swapped-out groups by message: each reads again, where the page now is (R124, R280). -/
def State.wakePage (s : State) (pa size : Nat) : State :=
  let here (y : Wait) : Bool := y.inPage pa size && !y.done
  (s.wakeSaved (fun w => w.waits.any here)).mapCores (fun _ k => k.mapWarps (fun _ w =>
    { w with waits := w.waits.map (fun y => if here y then { y with woken := true } else y) }))

/-- A tile store still has bytes to move to a page, or an escalated transaction pins a word of it (R142, R168). -/
def State.pageHeld (s : State) (pa size : Nat) : Bool :=
  s.modules.any (fun y => y.2.pins.any (fun p => pa ≤ p && p < pa + size)) || s.storesTo pa size

/-- `PAGE_MIGRATE`: the copy engine moves the page of a virtual address to a physical page (R124). A page with a line that an engine owns or an
escalated transaction pins waits (R142, R168). Queued stores leave after the forwarding record stands, and follow it (R125). A STRIPE page is none that one
entry moves. Operands: ctx, va, pa (the new physical page). -/
def execPageMigrate (s : State) : Host.Outcome State Fault Refusal :=
  let a := s.args; let x := a.ctx; let m := x / 32; let dest := placeOf m a.pa
  match walkPage x 3 s a.va with
  | (s, .ok (_, l)) =>
    let size := 2 ^ l.bits; let old := ptePpn l.e
    if bit l.e 54 ∨ a.pa % size ≠ 0 ∨ badPa a.pa ∨ 2 ^ 52 ≤ a.pa ∨ a.pa = old ∨ s.pageHeld old size then .refused (.notEnabled "PAGE_MIGRATE")
    else
      let src := placeOf m old
      let s := match src with | .dom pa => (s.flushPage pa size).recallRange none src size | _ => s
      let s := match dest with | .dom pa => s.flushPage pa size | _ => s
      let s := { s with mem := movePage s.mem (memKey src) (memKey dest) size }
      let s := match src with | .dom pa => s.moveSidebands pa size dest | _ => s
      let s := s.writePpn m l a.pa
      let base := a.va - a.va % size
      let s := match src with | .dom pa => (s.leaveForward x pa size dest).wakePage pa size | _ => s
      .next ((s.tlbi (m * 512) 6 (.va (x % 32) base size)).drainIn (m * 512) 6)
  | _ => .refused (.notEnabled "PAGE_MIGRATE")

/-! ### Writes and reads from outside (R141, R375, R376) -/

/-- The written sectors enter the foreign signature of the module whose port they come through. -/
def State.noteForeign (s : State) (m pa n : Nat) : State :=
  let z := s.module m
  s.setModule m { z with foreign := (List.range ((pa % 256 + n + 255) / 256)).foldl (fun g i => sigInsert g (pa / 256 + i)) z.foreign }

/-- A write that enters a module and reaches domain memory: first the signature, then the data at the home slice (R141). -/
def State.foreignWrite (s : State) (m pa : Nat) (data : List Byte) : State :=
  (s.noteForeign m pa data.length).homeWrite none (.dom pa) data.length (fullMask data.length) (ofLe data)

/-- The host updates a word of its own memory: it writes it, or adds to it by a locked add (flag). A locked add and a device atomic on a page with
SYSATOM = 0 may both have read the same old value: then the device's update is lost (index 1), or the host's (index 2) (R150). -/
def State.hostUpdate (s : State) (m pa : Nat) (data : List Byte) (locked : Bool) (index : Nat) : Option State :=
  let z := s.module m; let key := memKey (.port m pa); let n := data.length
  let t := s.setModule m { z with hostRmw := none }
  let write (v : Nat) : State := { t with mem := writeBytes t.mem key n v }
  if !locked then some (write (ofLe data))
  else if n ≠ 4 ∧ n ≠ 8 ∨ pa % n ≠ 0 then none
  else if index = 0 then some (write ((readBytes s.mem key n + ofLe data) % 2 ^ (8 * n)))
  else
    match z.hostRmw with
    | some (k, w, old) =>
      if k = key ∧ w = n then some (if index = 1 then write ((old + ofLe data) % 2 ^ (8 * n)) else t) else none
    | none => none

/-- `FOREIGN_WRITE`: a write of the host, or of a peer over PCIe or CXL, enters through the host or pool port (R141); at an address of host memory the host
updates its own memory, which no signature records (R144, R150). Operands: module, pa, data; for host memory flag and index. -/
def execForeignWrite (s : State) : Host.Outcome State Fault Refusal :=
  let a := s.args
  if bit a.pa 51 then
    if bit a.pa 50 ∨ 2 ^ 52 ≤ a.pa ∨ a.data.isEmpty then .refused (.notEnabled "FOREIGN_WRITE")
    else
      match s.hostUpdate a.module a.pa a.data a.flag a.index with
      | some s => .next s
      | none => .refused (.notEnabled "FOREIGN_WRITE")
  else if badPa a.pa ∨ 2 ^ 51 ≤ a.pa ∨ a.data.isEmpty ∨ s.pinned (.dom a.pa) a.data.length then .refused (.notEnabled "FOREIGN_WRITE")
  else .next (s.foreignWrite a.module a.pa a.data)

/-- Where a host access through the BAR2 window goes that lies within one page; none where it does not translate. -/
def State.bar2Place (s : State) (x va : Nat) (acc : Acc) : Option (Place × State) :=
  match s.xlatCtx x va acc with
  | (.ok p _ _ _, s) => some ((s.chase x va 2 p).getD p, s)
  | _ => none

/-- The access itself: bytes read, or written as a foreign write (R141). -/
def State.bar2At (s : State) (m : Nat) (q : Place) (write : Option (List Byte)) (n : Nat) : List Byte × State :=
  match write with
  | none => let (v, s) := s.homeRead none q n; (leBytes n v, s)
  | some d =>
    match q with
    | .dom pa => ([], s.foreignWrite m pa d)
    | _ => ([], s.homeWrite none q n (fullMask n) (ofLe d))

/-- A host access through the BAR2 window at a virtual address, of bytes that lie in one page or two: none where some of them do not translate. -/
def State.bar2 (s : State) (x va : Nat) (write : Option (List Byte)) (n : Nat) : Option (List Byte × State) :=
  let acc : Acc := if write.isSome then .store else .load
  let first := min n (4096 - va % 4096)
  match s.bar2Place x va acc with
  | none => none
  | some (p, s) =>
    if first = n then some (s.bar2At (x / 32) p write n)
    else
      match s.bar2Place x (va + first) acc with
      | none => none
      | some (q, s) =>
        let (a, s) := s.bar2At (x / 32) p (write.map (fun d => d.take first)) first
        let (b, s) := s.bar2At (x / 32) q (write.map (fun d => d.drop first)) (n - first)
        some (a ++ b, s)

/-- `BAR2_ACCESS` (R376): a read (operand size) or a write (operand data, flag set) of the context's memory; one that meets a translation fault reads
all ones or is dropped, and counts; in the safe state reads give all ones and writes are dropped (R399). A request of the host lies within 4 KiB of the
window. Operands: ctx, offset, flag, size, data. -/
def execBar2Access (s : State) : Host.Outcome State Fault Refusal :=
  let a := s.args; let x := a.ctx; let m := x / 32
  let n := if a.flag then a.data.length else a.size
  let va := (s.ctxReg x 0x058 + a.offset) % 2 ^ 64
  if n = 0 ∨ 2 ^ 36 ≤ a.offset ∨ a.offset % 4096 + n > 4096 then .refused (.notEnabled "BAR2_ACCESS")
  else
    let ones (s : State) : State := if a.flag then s else { s with log := s.log ++ [.data m (List.replicate n 255#8)] }
    if (s.module m).safe then .next (ones s)
    else
      match s.bar2 x va (if a.flag then some a.data else none) n with
      | some (d, s) => .next (if a.flag then s else { s with log := s.log ++ [.data m d] })
      | none => .next (ones (s.count m (0x200 + 8 * (x % 32)) 1))

/-- `CXL_MEM_REQUEST` (R375): the host reads or writes domain memory of a module by its physical address, while the host port is trained as CXL.
Operands: module, pa (within the module), flag, size, data. -/
def execCxlMemRequest (s : State) : Host.Outcome State Fault Refusal :=
  let a := s.args
  let n := if a.flag then a.data.length else a.size
  if (s.module a.module).hostPort ≠ .cxl ∨ n = 0 ∨ badPa a.pa ∨ 2 ^ 51 ≤ a.pa ∨ paModule a.pa ≠ a.module ∨ (a.flag ∧ s.pinned (.dom a.pa) n) then
    .refused (.notEnabled "CXL_MEM_REQUEST")
  else if a.flag then .next (s.foreignWrite a.module a.pa a.data)
  else let (v, s) := s.homeRead none (.dom a.pa) n; .next { s with log := s.log ++ [.data a.module (leBytes n v)] }

/-- `PCIE_CXL_LINK_TRAINING` (R375, R411): the host or pool port trains or changes state; the pool port is CXL 3.1 only. A port that is not up is a
lost peer, 32 or 33 (R149). Operands: module, flag (the pool port), mode, value (bytes of pool memory reachable). -/
def execPcieCxlLinkTraining (s : State) : Host.Outcome State Fault Refusal :=
  let a := s.args; let z := s.module a.module
  if a.flag ∧ a.mode = .pcie then .refused (.notEnabled "PCIE_CXL_LINK_TRAINING")
  else
    let z := if a.flag then { z with poolPort := a.mode, poolBytes := if a.mode = .cxl then a.value else 0#64 } else { z with hostPort := a.mode }
    let p := if a.flag then 33 else 32
    .next (s.setModule a.module { z with lost := if a.mode = .down then p :: z.lost.filter (· != p) else z.lost.filter (· != p) })

/-! ### Lost peers (R149) -/

/-- An access of a warp that issued before a time waits for an answer of a peer. -/
def Warp.awaitsPeer (w : Warp) (peer before : Nat) : Bool :=
  let at_ (p : Place) : Bool := match p with | .dom pa => paModule pa == peer | .port _ pa => portPeer pa == peer | _ => false
  w.storeq.any (fun o => o.issued ≤ before && at_ o.place) ||
    w.inflight.any (fun r => r.issued ≤ before && (lanes r.unperformed).any (fun l => match SMap.get none r.place l with | some p => at_ p | none => false))

/-- The requests of a warp to a peer that has been declared lost come to nothing: their lanes find the peer gone (R90, R149). -/
def State.dropRequests (s : State) (c slot peer : Nat) : (n : Nat) → State
  | 0 => s
  | n + 1 =>
    let s := match (s.warp c slot).record n with
      | none => s
      | some r => (lanes r.remote).foldl (fun s l =>
          match (s.warp c slot).record n with
          | some q =>
            (match SMap.get none q.place l with
             | some (.dom pa) => if q.pc = r.pc && q.remote.getLsbD l && paModule pa == peer then s.settle c slot n l .gone else s
             | _ => s)
          | none => s) s
    State.dropRequests s c slot peer n

/-- A module declares a peer lost: stores to it are declared lost as they leave, and requests to it find it gone. -/
def State.losePeer (s : State) (m peer : Nat) : State :=
  let z := s.module m
  let s := s.setModule m { z with lost := peer :: z.lost.filter (· != peer) }
  (s.warpsIn (m * 512) 5).foldl (fun s y => s.dropRequests y.1 y.2 peer (s.warp y.1 y.2).inflight.length) s

/-- `HUB_TIMEOUT`: an acknowledgement of a peer that has not come within the hub timeout, counted in local cycles of the hub, declares the peer lost
(R149, R413). Operands: module, peer (32: the host port, 33: the pool port). -/
def execHubTimeout (s : State) : Host.Outcome State Fault Refusal :=
  let m := s.args.module; let p := s.args.peer
  let timeout := 2 ^ (s.module m).hubTmo; let now := s.moduleClock m
  if p ≠ m ∧ p ≤ 33 ∧ !(s.module m).lost.contains p ∧ timeout ≤ now ∧ (s.warpsIn (m * 512) 5).any (fun y => (s.warp y.1 y.2).awaitsPeer p (now - timeout)) then .next (s.losePeer m p)
  else .refused (.notEnabled "HUB_TIMEOUT")

/-! ### Bit errors (R414) -/

/-- `SCRUB_STEP`: the patrol scrubber reads, corrects and writes back one DRAM word; an uncorrectable one is logged only (R414). Operands: pa. -/
def execScrubStep (s : State) : Host.Outcome State Fault Refusal :=
  let pa := s.args.pa / 8 * 8
  if badPa pa ∨ 2 ^ 51 ≤ pa then .refused (.notEnabled "SCRUB_STEP") else .next (s.eccRead (paModule pa) 0xFFFFFFFF 4 (.dom pa) 8).2

/-- One more bit error of a word: two are not corrected. -/
def BitError.more (b : BitError) (double : Bool) : BitError := if double then .double else match b with | .clean => .single | _ => .double

/-- A word of a structure suffers a bit error. -/
def State.hitWord (s : State) (key : Nat) (double : Bool) : State :=
  { s with ecc := SMap.set .clean s.ecc key ((SMap.get .clean s.ecc key).more double) }

/-- A structure without a copy of its own in the model: a corrected error is counted; an uncorrectable one in a clean copy is counted, logged and
fetched again (R414). -/
def State.hitUnit (s : State) (m st at_ addr : Nat) (double : Bool) : State :=
  if double then s.logWord m st at_ addr 3 0xFFFFFFFF else s.count m (16 * st) 1

/-- `ECC_ERROR`: a storage word suffers a bit error (R414). Operands: index (the structure of R415), flag (two bits at once), and where: core, slot,
record (register), lane; core, offset; core, pa; core, group, offset; core, group, record (the cell, 12,288 for each accumulator); pa; or module. -/
def execEccError (s : State) : Host.Outcome State Fault Refusal :=
  let a := s.args; let d := a.flag
  match a.index with
  | 0 => .next (s.hitWord (regWord a.core a.slot (.v a.record) a.lane) d)
  | 1 => .next (s.hitWord (regWord a.core a.slot (.s a.record) 0) d)
  | 2 => .next (s.hitWord (memKey (.stash a.core (a.offset % 2 ^ 19)) / 8) d)
  | 3 =>
    let k := s.core a.core
    if (k.findLine (a.pa / 1024)).isNone then .refused (.notEnabled "ECC_ERROR")
    else if d then .next (s.setCore a.core (k.putSector a.pa (k.lineFor (a.pa / 1024) false).wti { k.sector a.pa with bad := true }))
    else .next (s.count (coreModule a.core) 48 1)
  | 8 => if badPa a.pa ∨ 2 ^ 51 ≤ a.pa then .refused (.notEnabled "ECC_ERROR") else .next (s.hitWord (a.pa / 8) d)
  | 4 =>
    if (s.groupAt a.core a.group).isNone ∨ 393216 ≤ a.offset then .refused (.notEnabled "ECC_ERROR")
    else .next (s.hitWord (groupWords a.core a.group + a.offset / 8) d)
  | 5 =>
    if (s.groupAt a.core a.group).isNone ∨ 49152 ≤ a.record then .refused (.notEnabled "ECC_ERROR")
    else .next (s.hitWord (groupWords a.core a.group + 2 ^ 16 + a.record) d)
  | n => if n < 14 then .next (s.hitUnit a.module n a.unit a.pa d) else .refused (.notEnabled "ECC_ERROR")

end Sys2Proof.Machine
end

