-- ==== Sys2Proof/Machine/Training.lean ====
section
/-! DEFINITION. DRAM channel training (R406, R407) and fabric link training (R408, R409). -/

namespace Sys2Proof.Machine

/-! ### DRAM channel training (R406, R407) -/

/-- The PHY block of a channel. -/
def Module.phyOf (z : Module) (n : Nat) : Phy := SMap.get {} z.phy n

/-- Replaces a PHY block. -/
def State.setPhy (s : State) (m n : Nat) (p : Phy) : State := let z := s.module m; s.setModule m { z with phy := SMap.set {} z.phy n p }

/-- The run ends. -/
def Phy.stop (p : Phy) (failstep : Option Nat) : Phy :=
  { p with running := false, done := true, aborting := false, step := 0, fail := failstep.isSome, failstep := failstep.getD 0 }

/-- START: runs steps FIRST to LAST; a bad FIRST or LAST fails with 0xF. -/
def Phy.start (p : Phy) : Phy :=
  if p.running then p
  else
    let p := { p with done := false, fail := false, failstep := 0, aborting := false }
    if p.first = 0 ∨ p.last > 7 ∨ p.first > p.last then p.stop (some 0xF) else { p with running := true, step := p.first }

/-- START takes effect only during self-test (R407). -/
def State.startTraining (s : State) (m n : Nat) : State :=
  let z := s.module m
  if z.stage = 2 ∨ z.stage = 3 then s.setPhy m n (z.phyOf n).start else s

/-- ABORT: the run stops at the next step boundary. -/
def State.abortTraining (s : State) (m n : Nat) : State :=
  let p := (s.module m).phyOf n
  if p.running then s.setPhy m n { p with aborting := true } else s

/-- `TRAINING_START` (R406). Operands: module, channel. -/
def execTrainingStart (s : State) : Host.Outcome State Fault Refusal := .next (s.startTraining s.args.module s.args.channel)

/-- `TRAINING_ABORT` (R406). Operands: module, channel. -/
def execTrainingAbort (s : State) : Host.Outcome State Fault Refusal := .next (s.abortTraining s.args.module s.args.channel)

/-- Every byte lane of an eye has a width of 24 or more. -/
def eyeOpen (e : DWord) : Bool := (List.range 4).all (fun k => 24 ≤ field e.toNat (16 * k + 8) 8)

/-- The longest run of set bits among 64, the first of equal ones: its first code and its length. -/
def longestRun (v : Nat) : Nat × Nat :=
  let r := (List.range 64).foldl (fun (a : (Nat × Nat) × Nat) i =>
    if bit v i then (let n := a.2 + 1; (if a.1.2 < n then (i + 1 - n, n) else a.1, n)) else (a.1, 0)) ((0, 0), 0)
  r.1

/-- What a step that has ended leaves in the result registers, and whether it passed (R407). -/
def Phy.result (p : Phy) (r : TrainResult) : Phy × Bool :=
  match p.step with
  | 1 => ({ p with zqup := r.zqup.toNat, zqdn := r.zqdn.toNat }, r.zqup != 0#6 && r.zqup != 63#6 && r.zqdn != 0#6 && r.zqdn != 63#6)
  | 2 => ({ p with wl := r.wl }, r.found)
  | 3 => ({ p with rg := r.rg }, r.found)
  | 4 => ({ p with reye := r.reye }, eyeOpen r.reye)
  | 5 => ({ p with weye := r.weye }, eyeOpen r.weye)
  | 6 =>
    let (a, n) := longestRun r.passing.toNat
    if n = 0 then (p, false) else ({ p with vref := a + (n - 1) / 2, reye := r.reye, weye := r.weye }, true)
  | _ => ({ p with errcnt := min 255 r.errors }, r.errors == 0)

/-- A step that writes the channel destroys its data: the bytes that the model lists for it become free values (R407). -/
def State.destroyChannel (s : State) (m n : Nat) : State :=
  let mine (k : Nat) : Bool := k < 2 ^ 51 && sliceOf k == m * 512 + n
  s.mem.foldl (fun s b => if mine b.1 then (let (v, s) := s.takeFree; { s with mem := writeByte s.mem b.1 (v.setWidth 8) }) else s) s

/-- `TRAINING_STEP`: the running step ends with what it has measured (R407). Operands: module, channel, train. -/
def execTrainingStep (s : State) : Host.Outcome State Fault Refusal :=
  let m := s.args.module; let n := s.args.channel; let p := (s.module m).phyOf n
  match s.args.train with
  | none => .refused (.notEnabled "TRAINING_STEP")
  | some r =>
    if !p.running then .refused (.notEnabled "TRAINING_STEP")
    else
      let s := if p.step = 2 ∨ p.step = 5 ∨ p.step = 6 ∨ p.step = 7 then s.destroyChannel m n else s
      let (q, ok) := p.result r
      .next (s.setPhy m n (if !ok then q.stop (some p.step) else if p.aborting then q.stop (some 0xE) else if p.step = p.last then q.stop none else { q with step := p.step + 1 }))

/-- `TRAINING_STEP_TIMEOUT`: a step longer than 2^24 local cycles fails (R407). Operands: module, channel. -/
def execTrainingStepTimeout (s : State) : Host.Outcome State Fault Refusal :=
  let m := s.args.module; let n := s.args.channel; let p := (s.module m).phyOf n
  if p.running then .next (s.setPhy m n (p.stop (some p.step))) else .refused (.notEnabled "TRAINING_STEP_TIMEOUT")

/-! ### Fabric link training (R408, R409) -/

/-- The block of a port: 16 · hub + port. -/
def Module.fabricOf (z : Module) (n : Nat) : FabricPort := SMap.get {} z.fabric n

/-- Replaces a port block. -/
def State.setFabric (s : State) (m n : Nat) (p : FabricPort) : State := let z := s.module m; s.setModule m { z with fabric := SMap.set {} z.fabric n p }

/-- While a port is not up its partner is a lost peer (R149, R409). -/
def State.leaveLink (s : State) (m n : Nat) : State :=
  let p := (s.module m).fabricOf n
  if p.state = 6 then s.losePeer m p.pmod else s

/-- DOWN takes the port to state 0. -/
def State.linkOff (s : State) (m n : Nat) : State :=
  let s := s.leaveLink m n
  s.setFabric m n { (s.module m).fabricOf n with state := 0, laneok := 0#8, pvalid := false, retrain := false }

/-- START begins at state 1 from state 0, 7 or 8. -/
def State.linkOn (s : State) (m n : Nat) : State :=
  let p := (s.module m).fabricOf n
  if p.state = 0 ∨ p.state = 7 ∨ p.state = 8 then s.setFabric m n { p with state := 1, laneok := 0#8, pvalid := false, retrain := false } else s

/-- `LINK_START` (R408). Operands: module, port. -/
def execLinkStart (s : State) : Host.Outcome State Fault Refusal := .next (s.linkOn s.args.module s.args.port)

/-- `LINK_DOWN` (R408). Operands: module, port. -/
def execLinkDown (s : State) : Host.Outcome State Fault Refusal := .next (s.linkOff s.args.module s.args.port)

/-- A port fails, or finds no partner. -/
def FabricPort.fail (p : FabricPort) (dest : Nat) : FabricPort := { p with state := dest, reached := p.state, retrain := false }

/-- A port in its training state has seen what lets it advance, or what fails it at once (R409). -/
def FabricPort.advance (p : FabricPort) (k : LinkSeen) : Option FabricPort :=
  match p.state with
  | 1 => if k.lanesOk = 255#8 then some { p with state := 2 } else none
  | 2 => if k.lanesOk = 255#8 then some { p with state := 3, laneok := 255#8 } else none
  | 3 => some { p with state := 4, leq := if p.autoeq then k.presets else p.leq }
  | 4 => if 8 ≤ k.codewords then some { p with state := 5 } else none
  | 5 =>
    if 64 < k.skew then some (p.fail 7)
    else some { p with state := 6, skew := k.skew, pvalid := true, pmod := k.partnerModule.toNat, phub := k.partnerHub.toNat, pport := k.partnerPort.toNat, retrain := false }
  | _ => none

/-- `LINK_STATE_ADVANCE` (R409). Operands: module, port, link. -/
def execLinkStateAdvance (s : State) : Host.Outcome State Fault Refusal :=
  let m := s.args.module; let n := s.args.port
  match s.args.link.bind (fun k => ((s.module m).fabricOf n).advance k) with
  | none => .refused (.notEnabled "LINK_STATE_ADVANCE")
  | some p =>
    let s := s.setFabric m n p; let z := s.module m
    .next (if p.state = 6 then s.setModule m { z with lost := z.lost.filter (· != p.pmod) } else s)

/-- `LINK_STATE_TIMEOUT`: a state's limit expires (R409); a retrain that fails ends in state 7. Operands: module, port, link. -/
def execLinkStateTimeout (s : State) : Host.Outcome State Fault Refusal :=
  let m := s.args.module; let n := s.args.port; let p := (s.module m).fabricOf n
  let seen := match s.args.link with | some k => k.lanesOk | none => 0#8
  if p.state = 1 ∧ seen ≠ 255#8 then .next (s.setFabric m n (p.fail (if seen = 0#8 ∧ p.retrain = false then 8 else 7)))
  else if p.state = 2 ∨ p.state = 4 then .next (s.setFabric m n ({ p with laneok := if p.state = 2 then seen else p.laneok }.fail 7))
  else .refused (.notEnabled "LINK_STATE_TIMEOUT")

/-- `LINK_LOSS`: an up port that loses FEC lock or a lane retrains once (R409). Operands: module, port. -/
def execLinkLoss (s : State) : Host.Outcome State Fault Refusal :=
  let m := s.args.module; let n := s.args.port
  if ((s.module m).fabricOf n).state ≠ 6 then .refused (.notEnabled "LINK_LOSS")
  else
    let s := s.leaveLink m n; let p := (s.module m).fabricOf n
    .next (s.setFabric m n { p with state := 1, retries := min 255 (p.retries + 1), retrain := true })

end Sys2Proof.Machine
end

