-- ==== Sys2Proof/Machine/Boot.lean ====
section
/-! DEFINITION. Rails and power (R393 to R396), self-test and the safe state (R398 to R400), measured boot (R401 to R403). -/

namespace Sys2Proof.Machine

/-! ### Rails (R393) -/

/-- The rails of a step, by the numbers of FIRSTBAD: 48 V, VBASE, VSRAM, VCORE0 to VCORE3, VDRAM. -/
def stepRails (step : Nat) : List Nat :=
  match step with | 1 => [0] | 2 => [1] | 3 => [2] | 4 => [3, 4, 5, 6] | 5 => [7] | _ => []

/-- Bits of listed rails. -/
def railMask (rs : List Nat) : Word := rs.foldl (fun m r => m ||| (1#32 <<< r)) 0#32

/-- The module enters the safe state (R399). -/
def State.enterSafe (s : State) (m : Nat) : State := let z := s.module m; s.setModule m { z with safe := true, stage := 15 }

/-- `RAIL_STEP`: the rails of the next step have been good for 1 ms, so that the step after it may start (R393); from VSRAM on the mask ROM raises
them. Operands: module. -/
def execRailStep (s : State) : Host.Outcome State Fault Refusal :=
  let m := s.args.module; let z := s.module m
  if 5 ≤ z.railsUp ∨ z.railFault.isSome ∨ (2 ≤ z.railsUp ∧ z.romStarted = false) then .refused (.notEnabled "RAIL_STEP")
  else .next (s.setModule m { z with railsUp := z.railsUp + 1, railsGood := z.railsGood ||| railMask (stepRails (z.railsUp + 1)) })

/-- `RAIL_WINDOW_MISS`: a rail being raised is not good within its window: no later rail is raised; a failure of VBASE leaves the module off, a later
one leaves it in the safe state (R393). Operands: module, rail. -/
def execRailWindowMiss (s : State) : Host.Outcome State Fault Refusal :=
  let m := s.args.module; let r := s.args.rail; let z := s.module m
  if 5 ≤ z.railsUp ∨ z.railFault.isSome ∨ r = 0 ∨ !(stepRails (z.railsUp + 1)).contains r ∨ (2 ≤ z.railsUp ∧ z.romStarted = false) then
    .refused (.notEnabled "RAIL_WINDOW_MISS")
  else
    let z := { z with railFault := some r, firstbad := if z.firstbad = 15 then r else z.firstbad }
    if r = 1 then .next (s.setModule m z)
    else
      let e : ReportEntry := { cls := 5#8, test := 0#8, inst := BitVec.ofNat 16 r, result := 2#8, spares := 0#16, detail := 0#64 }
      .next ((s.setModule m { z with report := z.report ++ [e] }).enterSafe m)

/-- `RAIL_LOSS`: a rail other than the input leaves its window after sequencing: its GOOD bit clears (R393, R396). Operands: module, rail. -/
def execRailLoss (s : State) : Host.Outcome State Fault Refusal :=
  let m := s.args.module; let r := s.args.rail; let z := s.module m
  if r = 0 ∨ 7 < r ∨ !z.railsGood.getLsbD r then .refused (.notEnabled "RAIL_LOSS")
  else .next (s.setModule m { z with railsGood := z.railsGood &&& ~~~(1#32 <<< r), firstbad := if z.firstbad = 15 then r else z.firstbad })

/-- What is kept of a module without power: fuses, flash, straps and what the vendor has set. -/
def Module.fused (z : Module) : Module :=
  { keyen := z.keyen, keys := z.keys, keyOff := z.keyOff, vendorOff := z.vendorOff, minSvn := z.minSvn, banks := z.banks, activeBank := z.activeBank, certificate := z.certificate }

/-- Keys of a global numbering outside a module of `n` numbers. -/
def awayFrom {α : Type} (m n : Nat) (xs : SMap α) : SMap α := xs.filter (fun y => y.1 / n != m)

/-- Everything a module holds in its units goes: work in flight is lost and nothing is saved. Cairns of region r are r, of its origin cairns 1024 + r,
of hub h 2048 + h. -/
def State.dropUnits (s : State) (m : Nat) : State :=
  let unitMine (u : Nat) : Bool := if u < 1024 then u / 32 == m else if u < 2048 then (u - 1024) / 32 == m else (u - 2048) / 4 == m
  let dest (n : NetMsg) : Bool := match n with | .flood u _ _ _ _ => unitMine u | .cancel u _ _ _ _ _ => unitMine u | .echo u _ _ _ _ _ _ => unitMine u
  { s with cores := awayFrom m 512 s.cores, regions := awayFrom m 32 s.regions, hubs := awayFrom m 4 s.hubs, slices := awayFrom m 512 s.slices,
           ports := s.ports.filter (fun p => portModule p.1 != m), contexts := awayFrom m 32 s.contexts, queues := awayFrom m 32 s.queues,
           cairns := s.cairns.filter (fun k => !unitMine (k.1 / 256)), net := s.net.filter (fun n => !dest n), late := s.late.filter (fun y => !unitMine y.unit) }

/-- The DRAM of a module without power keeps nothing. -/
def State.dropMemory (s : State) (m : Nat) : State :=
  { s with mem := s.mem.filter (fun b => !(b.1 < 2 ^ 51 && paModule b.1 == m)), ecc := s.ecc.filter (fun e => !(e.1 < 2 ^ 48 && paModule (8 * e.1) == m)) }

/-- `POWER_DOWN`: the last rails that are up are lowered; with the first of them the module's work is gone (R393). Operands: module. -/
def execPowerDown (s : State) : Host.Outcome State Fault Refusal :=
  let m := s.args.module; let z := s.module m
  if z.railsUp = 0 then .refused (.notEnabled "POWER_DOWN")
  else
    let good := z.railsGood &&& ~~~(railMask (stepRails z.railsUp))
    .next (((s.dropUnits m).dropMemory m).setModule m { z.fused with railsUp := z.railsUp - 1, railsGood := good, firstbad := z.firstbad })

/-- `INPUT_LOSS`: every rail drops in reverse order within 1 ms; work in flight is lost (R393). Operands: module. -/
def execInputLoss (s : State) : Host.Outcome State Fault Refusal :=
  let m := s.args.module; let z := s.module m
  if z.railsGood.getLsbD 0 then .next (((s.dropUnits m).dropMemory m).setModule m { z.fused with firstbad := if z.firstbad = 15 then 0 else z.firstbad }) else .refused (.notEnabled "INPUT_LOSS")

/-! ### Operating points and power (R394, R395) -/

/-- A die of a module. -/
def Module.die (z : Module) (d : Nat) : Die := SMap.get {} z.dies d

/-- Replaces a die. -/
def Module.setDie (z : Module) (d : Nat) (x : Die) : Module := { z with dies := SMap.set {} z.dies d x }

/-- `DVFS_CHANGE`: a die has reached its target point: voltage then clock on the way up, clock then voltage on the way down (R394). Operands: module,
die. -/
def execDvfsChange (s : State) : Host.Outcome State Fault Refusal :=
  let m := s.args.module; let z := s.module m; let d := z.die s.args.die
  if d.point = d.target then .refused (.notEnabled "DVFS_CHANGE") else .next (s.setModule m (z.setDie s.args.die { d with point := d.target }))

/-- `POWER_SAMPLE`: a sample above 1.125 times PLIM stretches every die until the window ends (R395). Operands: module, watts. -/
def execPowerSample (s : State) : Host.Outcome State Fault Refusal :=
  let m := s.args.module; let z := s.module m
  if 100 ≤ z.powerCount then .refused (.notEnabled "POWER_SAMPLE")
  else
    let z := { z with powerSum := z.powerSum + s.args.watts, powerCount := z.powerCount + 1 }
    let z := if 9 * z.plim < 8 * s.args.watts then (List.range 4).foldl (fun z d => z.setDie d { z.die d with stretched := true }) z else z
    .next (s.setModule m z)

/-- The point of a die is lowered by one. -/
def Die.lower (d : Die) : Die := { d with target := min 3 (d.target + 1) }
/-- It is raised by one, but never above its cap. -/
def Die.raise (d : Die) : Die := { d with target := if d.cap < d.target then d.target - 1 else d.target }

/-- `POWER_WINDOW`: a window of 100 samples ends (R395); after a raise three more windows are counted (log 65). Operands: module, hottest (the die with the highest power), coolest (the lowest die). -/
def execPowerWindow (s : State) : Host.Outcome State Fault Refusal :=
  let m := s.args.module; let z := s.module m
  if z.powerCount ≠ 100 then .refused (.notEnabled "POWER_WINDOW")
  else
    let avg := z.powerSum / 100
    let h := s.args.hottest % 4; let c := s.args.coolest % 4
    let quiet := if 10 * z.powerSum < 900 * z.plim then z.quiet + 1 else 0
    let z := if 100 * z.plim < z.powerSum then z.setDie h (z.die h).lower else if quiet = 3 then z.setDie c (z.die c).raise else z
    let z := (List.range 4).foldl (fun (z : Module) d => z.setDie d { z.die d with stretched := false }) z
    .next (s.setModule m { z with pavg := avg, powerSum := 0, powerCount := 0, quiet := if quiet = 3 then 0 else quiet,
                                  plim := z.plimNext.getD z.plim, plimNext := none })

/-! ### Images and measurements (R402, R403) -/

/-- An image of a bank: its header of 128 bytes and its payload. -/
structure Image where
  head : List Byte
  payload : List Byte

/-- Bytes [lo, lo + n) of the header as a number, the first lowest. -/
def Image.le (i : Image) (lo n : Nat) : Nat := ofLe ((i.head.drop lo).take n)
/-- TARGET. -/
def Image.target (i : Image) : Nat := i.le 6 1
/-- SVN. -/
def Image.svn (i : Image) : Nat := i.le 8 4
/-- KEYIDX. -/
def Image.keyidx (i : Image) : Nat := i.le 7 1

/-- The bytes of a bank from an offset on. -/
def Bank.read (b : Bank) (off n : Nat) : List Byte := (List.range n).map (fun i => SMap.get 0#8 b.bytes (off + i))

/-- The images of a bank, one behind another from offset 0 on (log 27). -/
def Bank.images (b : Bank) : (n : Nat) → (off : Nat) → List Image
  | 0, _ => []
  | n + 1, off =>
    if b.len < off + 128 then []
    else
      let head := b.read off 128; let len := ofLe ((head.drop 12).take 4)
      if ofLe (head.take 4) ≠ 0x51474D49 ∨ b.len < off + 128 + len then []
      else { head := head, payload := b.read (off + 128) len } :: Bank.images b n (off + 128 + len)

/-- The image of a target in a bank. -/
def Bank.image (b : Bank) (target : Nat) : Option Image := (b.images 8 0).find? (fun i => i.target == target)

/-- The public key that KEYIDX names: an enrolled slot that is not disabled, or the vendor key while VENDOROFF is clear. -/
def Module.keyFor (z : Module) (k : Nat) : Option (Nat × Nat) :=
  let split (v : BitVec 768) : Nat × Nat := (v.toNat / 2 ^ 384, v.toNat % 2 ^ 384)
  if k = 0xFF then (if z.vendorOff then none else some (split Config.vendorKey))
  else if k < 4 ∧ !z.keyOff.contains k then (SMap.get none z.keys k).map split else none

/-- An image is accepted (R402). -/
def Module.accepts (z : Module) (i : Image) : Bool :=
  i.le 0 4 == 0x51474D49 && i.le 4 2 == 1 && SMap.get 0 z.minSvn i.target ≤ i.svn &&
    (match z.keyFor i.keyidx with
     | some k => ecdsaVerify k (sha384 (i.head.take 32 ++ i.payload)) (ofBe ((i.head.drop 32).take 48)) (ofBe ((i.head.drop 80).take 48))
     | none => false)

/-- Extends a measurement slot with a digest: SHA-384 of the slot followed by the digest (R403). -/
def Module.extend (z : Module) (n : Nat) (digest : List Byte) : Module :=
  let old := beBytes 48 (SMap.get 0#384 z.slots n).toNat
  { z with slots := SMap.set 0#384 z.slots n (BitVec.ofNat 384 (ofBe (sha384 (old ++ digest)))) }

/-- A digest as bytes. -/
def digestBytes (d : BitVec 384) : List Byte := beBytes 48 d.toNat

/-- The digest of an image: over its whole byte string. -/
def Image.digest (i : Image) : List Byte := sha384 (i.head ++ i.payload)

/-- What the key manifest records: per slot its state (0 empty, 1 enrolled, 2 disabled) and key hash, and VENDOROFF. -/
def Module.manifest (z : Module) : List Nat :=
  (List.range 4).flatMap (fun k =>
    match SMap.get none z.keys k with
    | none => [0, 0]
    | some v => [if z.keyOff.contains k then 2 else 1, ofBe (sha384 (beBytes 96 v.toNat))]) ++ [z.vendorOff.toNat]

/-- The bank that has booted. -/
def Module.bootBank (z : Module) : Bank := SMap.get {} z.banks (if z.fallback then 1 - z.activeBank else z.activeBank)

/-- An accepted image of a target in a bank. -/
def Module.goodImage (z : Module) (b : Bank) (target : Nat) : Option Image := (b.image target).filter z.accepts

/-- `ROM_BOOT`: the mask ROM starts with VBASE good and extends slot 0; once every rail is good it extends slots 1 to 3 and jumps to the housekeeping
image of the active bank, or of the other; with neither the module is in the safe state (R401). Operands: module. -/
def execRomBoot (s : State) : Host.Outcome State Fault Refusal :=
  let m := s.args.module; let z := s.module m
  if z.booted ∨ z.safe ∨ z.stage ≠ 0 then .refused (.notEnabled "ROM_BOOT")
  else if !z.romStarted then
    if z.railsUp < 2 then .refused (.notEnabled "ROM_BOOT")
    else .next (s.setModule m { z.extend 0 (digestBytes Config.romDigest) with romStarted := true })
  else if z.railsUp < 5 then .refused (.notEnabled "ROM_BOOT")
  else
    let bank (n : Nat) : Option Image := z.goodImage (SMap.get {} z.banks n) 0
    let go (i : Image) (fallback : Bool) : State :=
      let z := ((z.extend 1 (digestBytes (Config.manifestDigest z.manifest))).extend 2 i.digest).extend 3 (digestBytes (Config.fuseDigest m z.keyen))
      s.setModule m { z with booted := true, stage := 1, fallback := fallback, hksvn := i.svn, keyidx := if i.keyidx = 0xFF then 15 else i.keyidx }
    match bank z.activeBank, bank (1 - z.activeBank) with
    | some i, _ => .next (go i false)
    | none, some i => .next (go i true)
    | none, none => .next (s.enterSafe m)

/-! ### Self-test (R398 to R400) -/

/-- The result register of a channel's failing step. -/
def Phy.detail (p : Phy) : Nat :=
  match p.failstep with
  | 1 => p.zqup + p.zqdn * 2 ^ 8 | 2 => p.wl.toNat | 3 => p.rg.toNat | 4 => p.reye.toNat | 5 => p.weye.toNat | 6 => p.vref | _ => p.errcnt

/-- The port's word at 0x08. -/
def FabricPort.status (p : FabricPort) : Nat := p.state + p.laneok.toNat * 2 ^ 8 + p.skew % 256 * 2 ^ 16 + p.retries * 2 ^ 24

/-- The report entries of training: failing channels, failed and absent ports. -/
def Module.trainingReport (z : Module) : List ReportEntry :=
  ((List.range 512).filter (fun n => (z.phyOf n).fail)).map (fun n =>
    let p := z.phyOf n
    { cls := 3#8, test := BitVec.ofNat 8 p.failstep, inst := BitVec.ofNat 16 n, result := 2#8, spares := 0#16, detail := BitVec.ofNat 64 p.detail }) ++
  ((List.range 64).filter (fun n => (z.fabricOf n).state != 6)).map (fun n =>
    let p := z.fabricOf n
    { cls := 4#8, test := BitVec.ofNat 8 p.reached, inst := BitVec.ofNat 16 n, result := if p.state = 8 then 1#8 else 2#8, spares := 0#16, detail := BitVec.ofNat 64 p.status })

/-- START on every channel and port, steps 1 to 7. -/
def Module.startAll (z : Module) : Module :=
  let z := (List.range 512).foldl (fun (z : Module) n => { z with phy := SMap.set {} z.phy n ({ z.phyOf n with first := 1, last := 7 } : Phy).start }) z
  (List.range 64).foldl (fun (z : Module) n => { z with fabric := SMap.set {} z.fabric n { z.fabricOf n with state := 1, laneok := 0#8, pvalid := false } }) z

/-- Training is over: every channel is done and every port is up, failed or absent. -/
def Module.trained (z : Module) : Bool := (List.range 512).all (fun n => (z.phyOf n).done) && (List.range 64).all (fun n => 6 ≤ (z.fabricOf n).state)

/-- The payload of the queue-processor image is loaded, and the threads stand at its ENTRY. -/
def State.loadFirmware (s : State) (m : Nat) (i : Image) : State :=
  let z := s.module m
  let s := s.setModule m { z with qpsvn := i.svn, firmware := writeBytes [] (i.le 16 8) i.payload.length (ofLe i.payload) }
  (List.range 32).foldl (fun s q => let k := s.queue (32 * m + q); s.setQueue (32 * m + q) { k with pc := BitVec.ofNat 64 (i.le 24 8) }) s

/-- The virtual functions of a module that have an address space (log 66). -/
def State.enabledVfs (s : State) (m : Nat) : Nat := ((List.range 32).filter (fun f => f != 0 && s.ctxReg (32 * m + f) 0 != 0)).length

/-- `SELF_TEST`: the housekeeping core runs the self-test in its order: it starts; memory and logic BIST end with their findings, slot 5 is extended and
training starts; training ends, slot 4 is extended and the module runs. Any failure leads to the safe state (R398 to R400, R403).
Operands: module, report (what BIST has found). -/
def execSelfTest (s : State) : Host.Outcome State Fault Refusal :=
  let m := s.args.module; let z := s.module m
  match z.stage with
  | 1 => .next (s.setModule m { z with stage := 2 })
  | 2 =>
    let found := s.args.report.filter (fun e => e.cls == 1#8 || e.cls == 2#8)
    let z := { z with report := z.report ++ found }
    if found.any (fun e => e.result == 2#8) then .next ((s.setModule m z).enterSafe m)
    else
      match z.goodImage z.bootBank 2 with
      | none => .next ((s.setModule m z).enterSafe m)
      | some i => .next (s.setModule m { (z.extend 5 i.digest).startAll with stage := 3, ttsvn := i.svn })
  | 3 =>
    if !z.trained then .refused (.notEnabled "SELF_TEST")
    else
      let found := z.trainingReport
      let s := s.setModule m { z with report := z.report ++ found }
      if found.any (fun e => e.result == 2#8) then .next (s.enterSafe m)
      else
        match z.goodImage z.bootBank 1 with
        | none => .next (s.enterSafe m)
        | some i => let z := s.module m; .next ((s.setModule m { z.extend 4 i.digest with stage := 4, vfs := s.enabledVfs m }).loadFirmware m i)
  | _ => .refused (.notEnabled "SELF_TEST")

end Sys2Proof.Machine
end

