-- ==== Sys2Proof/Machine/Caches.lean ====
section
/-! DEFINITION. Prefetch and cache control (R272, R273), and stash-mapped ranges (R92, R274, R275). -/

namespace Sys2Proof.Machine

/-! ### PREF and CCTL -/

/-- A fill of a sector would fault at its target (R272): the page has left, its module does not serve the context or is lost, or its words have an
uncorrectable error. -/
def State.fillFaults (s : State) (c x va pa : Nat) : Bool :=
  (s.forwardOf x va (.dom pa)).isSome || s.refusesModule c x (.dom pa) || (s.lostPeer c (.dom pa)).isSome || s.eccAt (.dom (pa / 256 * 256)) 256 == .double

/-- The domain address that a lane's address translates to, if it does: neither instruction faults (R272, R273). -/
def Iss.domainOf (x : Iss) (w : Warp) (s : State) (l : Nat) : Option (Nat × Bool) × State :=
  match s.xlatLane x.core (s.ctxOf x.core x.slot) (x.ea w l) .load w.privileged with
  | (.ok (.dom pa) wti _ _, s) => (some (pa, wti), s)
  | (_, s) => (none, s)

/-- Prefetches of listed lanes: .l1 fills the sector into the core's L1; .home fills a line of a home slice, which no read distinguishes. -/
def Iss.prefEach (x : Iss) (w : Warp) (s : State) : List Nat → State
  | [] => s
  | l :: t =>
    let (r, s) := x.domainOf w s l
    match r with
    | some (pa, wti) =>
      let skip := x.f.c3 ≠ 0#3 || s.engineOwns (pa / 1024) || s.fillFaults x.core (s.ctxOf x.core x.slot) (x.ea w l) pa
      Iss.prefEach x w (if skip then s else (s.l1Load x.core pa 1 wti).2) t
    | none => Iss.prefEach x w s t

/-- `PREF` (R272): it has no effect in an open lane (R154). -/
def execPref (f : Form64) (s : State) : Host.Outcome State Fault Refusal :=
  runCore (.pref f) (fun x s =>
    let w := s.warp x.core x.slot
    .done { s := x.prefEach w s (lanes (x.part w &&& ~~~(x.openPart w))) }) s

/-- Invalidates one L1 sector, dirty bytes kept (R95); monitors on its line are hit (R282). -/
def State.invalidateSector (s : State) (c pa : Nat) : State :=
  let k := s.core c
  match k.findLine (pa / 1024) with
  | none => s
  | some _ =>
    let drop (l : Line) : Line := { l with sectors := SMap.set {} l.sectors (pa / 256 % 4) (SMap.get {} l.sectors (pa / 256 % 4)).invalidate }
    let ls := k.l1.map (fun l => if l.line = pa / 1024 then drop l else l)
    s.setCore c (({ k with l1 := ls } : Core).hitLines [pa / 1024])

/-- The sector operations of CCTL 0 to 2 and the instruction-cache drop of 3, in one lane (R273). -/
def State.cctlLane (s : State) (c op pa : Nat) : State :=
  match op with
  | 0 => s.writeBackSector c pa
  | 1 => s.invalidateSector c pa
  | 2 => (s.writeBackSector c pa).invalidateSector c pa
  | _ => s.setCore c { s.core c with icache := (s.core c).icache.filter (fun p => p.1 / 512 != pa / 1024) }

/-- The operations of listed lanes. -/
def Iss.cctlEach (x : Iss) (w : Warp) (op : Nat) (s : State) : List Nat → State
  | [] => s
  | l :: t =>
    let (r, s) := x.domainOf w s l
    Iss.cctlEach x w op (match r with | some (pa, _) => s.cctlLane x.core op pa | none => s) t

/-- The write-backs of listed lanes must wait for a pinned word (R168). -/
def Iss.cctlPinned (x : Iss) (w : Warp) (s : State) (ls : List Nat) : Bool :=
  ls.any (fun l => match (x.domainOf w s l).1 with | some (pa, _) => s.sectorPinned x.core pa | none => false)

/-- Every sector of the core's L1 becomes invalid; the caller has written the dirty bytes back (R273). -/
def State.invalidateAll (s : State) (c : Nat) : State :=
  let k := s.core c
  let drop (l : Line) : Line := { l with sectors := (l.sectors.map (fun x => (x.1, x.2.invalidate))).filter (fun x => x.2 != ({} : Sector)) }
  s.setCore c (({ k with l1 := k.l1.map drop } : Core).hitLines (k.l1.map (fun l => l.line)))

/-- `CCTL` (R273). -/
def execCctl (f : Form64) (s : State) : Host.Outcome State Fault Refusal :=
  runCore (.cctl f) (fun x s => x.closed s (fun m s =>
    let c := x.core; let slot := x.slot; let op := x.f.c3.toNat
    let s := s.drain c slot
    let w := s.warp c slot
    if op ≥ 3 then
      x.release s 3 m (fun s =>
        if op = 5 then .done { s := s.invalidateAll c } else if op = 4 then .done { s := s } else .done { s := x.cctlEach w op s (lanes m) })
    else if op ≠ 1 && x.cctlPinned w s (lanes m) then .stall s
    else .done { s := x.cctlEach w op s (lanes m) })) s

/-! ### MAPS, UNMAPS and FLUSHS -/

/-- Two intervals, by start and length, overlap. -/
def overlaps (a n b m : Nat) : Bool := a < b + m && b < a + n

/-- `MAPS` (R274); bits [63:57] of the global address are those of any base register pair (R87). -/
def execMaps (f : Form64) (s : State) : Host.Outcome State Fault Refusal :=
  runCore (.maps f) (fun x s => x.closed s (fun m s =>
    let w := s.warp x.core x.slot; let l := x.warpLane m
    let g := s.groupOf x.core x.slot
    let gaddr := x.a64 w l; let soff := x.b w l; let len := x.c w l
    if gaddr % 256 ≠ 0 ∨ soff % 256 ≠ 0 ∨ len % 256 ≠ 0 then x.trap s 0x06 m { fva := gaddr }
    else if len = 0 then .done { s := s }
    else if soff + len > g.allot.sbytes ∨ field gaddr 57 7 ≠ 0 then x.trap s 0x11 m { fva := gaddr, kind := 10 }
    else if g.maps.any (fun r => overlaps soff len r.soff r.len || overlaps gaddr len r.gaddr r.len) then x.trap s 0x11 m { fva := gaddr, kind := 10 }
    else if g.maps.length ≥ 8 then x.trap s 0x11 m { fva := gaddr, kind := 10 }
    else
      let s := s.drain x.core x.slot
      let g := s.groupOf x.core x.slot
      let r : MapRange := { gaddr := gaddr, soff := soff, len := len, priv := w.privileged, sectors := [] }
      .done { s := s.setGroup x.core w.group { g with maps := g.maps ++ [r] } })) s

/-- The sectors of a range within an interval of the allocation. -/
def MapRange.inside (r : MapRange) (soff len : Nat) : List Nat :=
  (List.range (r.len / 256)).filter (fun j => soff ≤ r.soff + 256 * j && r.soff + 256 * j < soff + len)

/-- Writes back the dirty sectors of an interval, range by range; the first refusal ends it, with the rest still dirty (R275). -/
def State.flushInterval (s : State) (c gi soff len : Nat) : (n : Nat) → MapReply × State
  | 0 => (.ok, s)
  | n + 1 =>
    match State.flushInterval s c gi soff len n with
    | (.ok, s) =>
      (match (s.group c gi).maps[n]? with
       | some r => s.flushSectors c gi n ((r.inside soff len).filter (fun j => (SMap.get ({} : MapSector) r.sectors j).dirty != 0#256))
       | none => (.ok, s))
    | r => r

/-- A dirty sector of the interval waits for a pinned word (R168). -/
def State.intervalPinned (s : State) (c gi soff len : Nat) : Bool :=
  let g := s.group c gi
  (List.range g.maps.length).any (fun i => match g.maps[i]? with
    | some r => (r.inside soff len).any (fun j => s.mapPinned c gi i j)
    | none => false)

/-- The part of a range from a sector on, of a number of sectors. -/
def MapRange.cut (r : MapRange) (first n : Nat) : Option MapRange :=
  if n = 0 then none
  else some { r with gaddr := r.gaddr + 256 * first, soff := r.soff + 256 * first, len := 256 * n,
                     sectors := (r.sectors.filter (fun x => first ≤ x.1 && x.1 < first + n)).map (fun x => (x.1 - first, x.2)) }

/-- What is left of a range outside an interval: at most a part below it and a part above it (R275). -/
def MapRange.outside (r : MapRange) (soff len : Nat) : List MapRange :=
  let n := r.len / 256
  let js := r.inside soff len
  match js.head? with
  | none => [r]
  | some a => ([r.cut 0 a, r.cut (a + js.length) (n - (a + js.length))]).filterMap id

/-- The unfilled sectors of a range within an interval become zero (R275). -/
def State.zeroUnfilled (s : State) (c base : Nat) (r : MapRange) (soff len : Nat) : State :=
  (r.inside soff len).foldl (fun s j =>
    if (SMap.get ({} : MapSector) r.sectors j).filled then s
    else s.setCore c { s.core c with stash := writeMasked (s.core c).stash (base + r.soff + 256 * j) 256 (fullMask 256) 0 }) s

/-- Ends the mapping of the sectors of an interval. -/
def State.unmapInterval (s : State) (c gi soff len : Nat) : State :=
  let g := s.group c gi
  let s := g.maps.foldl (fun s r => s.zeroUnfilled c g.stashBase r soff len) s
  s.setGroup c gi { s.group c gi with maps := g.maps.flatMap (fun r => r.outside soff len) }

/-- The frame of UNMAPS and FLUSHS (R275): checks, write-backs, and what follows; a write-back that faults parks the whole entry. -/
def Iss.flushFrame (x : Iss) (s : State) (after : State → Nat → Nat → Nat → State) : Res :=
  x.closed s (fun m s =>
    let s := s.drain x.core x.slot
    let w := s.warp x.core x.slot; let l := x.warpLane m
    let soff := x.a w l; let len := x.b w l
    if soff % 256 ≠ 0 ∨ len % 256 ≠ 0 then x.trap s 0x06 m
    else if soff + len > (s.groupOf x.core x.slot).allot.sbytes then x.trap s 0x11 m { kind := 10 }
    else if s.intervalPinned x.core w.group soff len then .stall s
    else
      match s.flushInterval x.core w.group soff len (s.group x.core w.group).maps.length with
      | (.ok, s) => .done { s := after s w.group soff len }
      | (.perm va k lv, s) => x.trap s 0x11 m { fva := va, acc := 1, kind := k, level := lv }
      | (.fault va k lv, s) =>
        .done { s := s, park := x.act &&& ~~~(x.openPart w),
                info := { cause := 0x10, pc := x.pc, fva := va, lanes := x.act, acc := 1, kind := k, level := lv } })

/-- `UNMAPS` (R275). -/
def execUnmaps (f : Form64) (s : State) : Host.Outcome State Fault Refusal :=
  runCore (.unmaps f) (fun x s => x.flushFrame s (fun s g soff len => s.unmapInterval x.core g soff len)) s

/-- `FLUSHS` (R275). -/
def execFlushs (f : Form64) (s : State) : Host.Outcome State Fault Refusal :=
  runCore (.flushs f) (fun x s => x.flushFrame s (fun s _ _ _ => s)) s

end Sys2Proof.Machine
end

