-- ==== Sys2Proof/Machine/Integer.lean ====
section
/-! DEFINITION. Integer and address arithmetic (R233 to R236): values by R234, one meaning per form. -/

namespace Sys2Proof.Machine

/-- A 32-bit value under the signedness of TY: code 2 is .i32, code 4 is .n32 (R207, R233). -/
def Iss.byTy (x : Iss) (v : Nat) : Int := if x.f.ty = 2#4 then signed 32 v else ((v % 2 ^ 32 : Nat) : Int)

/-- The exact sum clamped to the TY range (R234). -/
def Iss.clamp (x : Iss) (v : Int) : Nat :=
  if x.f.ty = 2#4 then (if v > 0x7FFFFFFF then 0x7FFFFFFF else if v < -0x80000000 then 0x80000000 else wrap 32 v)
  else (if v > 0xFFFFFFFF then 0xFFFFFFFF else if v < 0 then 0 else wrap 32 v)

/-- `IADD` (R234): a + b, or under .sat the exact sum clamped. -/
def iaddVal (x : Iss) (w : Warp) (l : Nat) : Nat :=
  if x.f.rm = 1#2 then x.clamp (x.byTy (x.a w l) + x.byTy (x.b w l)) else (x.a w l + x.b w l) % 2 ^ 32

/-- `ISUB` (R234). -/
def isubVal (x : Iss) (w : Warp) (l : Nat) : Nat :=
  if x.f.rm = 1#2 then x.clamp (x.byTy (x.a w l) - x.byTy (x.b w l)) else wrap 32 ((x.a w l : Int) - x.b w l)

/-- `IMUL` (R234). -/
def imulVal (x : Iss) (w : Warp) (l : Nat) : Nat := (x.a w l * x.b w l) % 2 ^ 32

/-- `IMULH` (R234): the high word of the exact product by TY. -/
def imulhVal (x : Iss) (w : Warp) (l : Nat) : Nat := wrap 64 (x.byTy (x.a w l) * x.byTy (x.b w l)) / 2 ^ 32

/-- `IMIN` and `IMAX` (R234), compared by TY. -/
def iminVal (x : Iss) (w : Warp) (l : Nat) : Nat := if x.byTy (x.b w l) < x.byTy (x.a w l) then x.b w l else x.a w l
/-- `IMAX` (R234). -/
def imaxVal (x : Iss) (w : Warp) (l : Nat) : Nat := if x.byTy (x.a w l) < x.byTy (x.b w l) then x.b w l else x.a w l

/-- `SHL` (R234). -/
def shlVal (x : Iss) (w : Warp) (l : Nat) : Nat := if x.b w l ≥ 32 then 0 else (x.a w l * 2 ^ x.b w l) % 2 ^ 32
/-- `SHR` (R234). -/
def shrVal (x : Iss) (w : Warp) (l : Nat) : Nat := if x.b w l ≥ 32 then 0 else x.a w l / 2 ^ x.b w l
/-- `SAR` (R234): filled with a[31]. -/
def sarVal (x : Iss) (w : Warp) (l : Nat) : Nat := wrap 32 (signed 32 (x.a w l) / ((2 ^ min 31 (x.b w l) : Nat) : Int))
/-- `ROT` (R234): left by b mod 32. -/
def rotVal (x : Iss) (w : Warp) (l : Nat) : Nat :=
  let n := x.b w l % 32
  (x.a w l * 2 ^ n + x.a w l / 2 ^ (32 - n)) % 2 ^ 32
/-- `SHF` (R234): the 64-bit shift of b : a, right or left by c[5:0]. -/
def shfVal (x : Iss) (w : Warp) (l : Nat) : Nat :=
  let ba := x.b w l * 2 ^ 32 + x.a w l; let n := x.c w l % 64
  if x.f.c3 = 0#3 then ba / 2 ^ n % 2 ^ 32 else ba * 2 ^ n / 2 ^ 32 % 2 ^ 32

/-- The truth table in modifier bits [9:2]: TY, RM and the low two bits of C3 (R205, R233). -/
def Iss.truth (x : Iss) : Nat := x.f.ty.toNat + 16 * x.f.rm.toNat + 64 * (x.f.c3.toNat % 4)

/-- The truth table at three bits. -/
def truthAt (t : Nat) (a b c : Bool) : Bool := bit t (a.toNat + 2 * b.toNat + 4 * c.toNat)

/-- `BLUT` (R234). -/
def blutVal (x : Iss) (w : Warp) (l : Nat) : Nat :=
  fromBits (fun i => truthAt x.truth (bit (x.a w l) i) (bit (x.b w l) i) (bit (x.c w l) i)) 32

/-- Position and length of `BXTR` (R235): from b and c, or both from the z16. -/
def Iss.bxtrAt (x : Iss) (w : Warp) (l : Nat) : Nat × Nat :=
  if x.imm = .reg then (x.b w l % 32, min (x.c w l % 64) 32) else (imm16 x.f % 32, min (field (imm16 x.f) 5 6) 32)

/-- `BXTR` (R235). -/
def bxtrVal (x : Iss) (w : Warp) (l : Nat) : Nat :=
  let (pos, len) := x.bxtrAt w l
  let sg := x.f.ty = 2#4
  let a := if sg then sextNat 32 64 (x.a w l) else x.a w l
  let v := a / 2 ^ pos % 2 ^ len
  if len = 0 then 0 else if sg then sextNat len 32 v else v

/-- `BINS` (R235). -/
def binsVal (x : Iss) (w : Warp) (l : Nat) : Nat :=
  let pos := x.c w l % 32; let len := min (field (x.c w l) 5 6) 32
  let m := ((2 ^ len - 1) * 2 ^ pos) % 2 ^ 32
  (x.a w l &&& (2 ^ 32 - 1 - m)) ||| ((x.b w l * 2 ^ pos) % 2 ^ 32 &&& m)

/-- Byte `i` of the result of `BSEL` (R235). -/
def bselByte (x c i : Nat) : Nat :=
  let s := field c (4 * i) 4; let y := field x (8 * (s % 8)) 8
  if s < 8 then y else if y = 0 then 0 else 0xFF

/-- `BSEL` (R235). -/
def bselVal (x : Iss) (w : Warp) (l : Nat) : Nat :=
  let v := x.b w l * 2 ^ 32 + x.a w l; let c := x.c w l
  bselByte v c 0 + 2 ^ 8 * bselByte v c 1 + 2 ^ 16 * bselByte v c 2 + 2 ^ 24 * bselByte v c 3

/-- `LEA` (R236): base plus the shifted operand, or under IV 2 the address of a label. -/
def leaVal (x : Iss) (w : Warp) (l : Nat) : Nat :=
  if x.imm = .reg then wrap 64 ((x.a64 w l : Int) + x.byTy (x.b w l) * ((2 ^ x.f.rs3.toNat : Nat) : Int))
  else wrap 64 ((x.pc : Int) + 2 * signed 24 (imm24 x.f))

/-- The comparisons of R208 by TY. -/
def icmpVal (x : Iss) (w : Warp) (l : Nat) : Bool := cmpNat x.f.c3.toNat (x.byTy (x.a w l)) (x.byTy (x.b w l))

/-- `INEG` (R234). -/
def inegVal (x : Iss) (w : Warp) (l : Nat) : Nat := wrap 32 (-(x.a w l : Int))
/-- `IABS` (R234). -/
def iabsVal (x : Iss) (w : Warp) (l : Nat) : Nat := wrap 32 ((signed 32 (x.a w l)).natAbs : Int)
/-- `NOT` (R234). -/
def notVal (x : Iss) (w : Warp) (l : Nat) : Nat := 2 ^ 32 - 1 - x.a w l
/-- `POPC` (R234). -/
def popcVal (x : Iss) (w : Warp) (l : Nat) : Nat := popcount 32 (x.a w l)
/-- `CLZ` (R234). -/
def clzVal (x : Iss) (w : Warp) (l : Nat) : Nat := clz 32 (x.a w l)
/-- `CTZ` (R234). -/
def ctzVal (x : Iss) (w : Warp) (l : Nat) : Nat := ctz 32 (x.a w l)
/-- `BREV` (R234). -/
def brevVal (x : Iss) (w : Warp) (l : Nat) : Nat := bitReverse 32 (x.a w l)
/-- `AND` (R234). -/
def andVal (x : Iss) (w : Warp) (l : Nat) : Nat := x.a w l &&& x.b w l
/-- `OR` (R234). -/
def orVal (x : Iss) (w : Warp) (l : Nat) : Nat := x.a w l ||| x.b w l
/-- `XOR` (R234). -/
def xorVal (x : Iss) (w : Warp) (l : Nat) : Nat := x.a w l ^^^ x.b w l

/-- `IADD_16` (R198, R234). -/
def execIadd16 (f : Form16) (s : State) : Host.Outcome State Fault Refusal := runCore (.iadd16 f) (laneOp 1 iaddVal) s
/-- `IADD_32` (R201, R234). -/
def execIadd32 (f : Form32) (s : State) : Host.Outcome State Fault Refusal := runCore (.iadd32 f) (laneOp 1 iaddVal) s
/-- `IADD_64` (R234). -/
def execIadd64 (f : Form64) (s : State) : Host.Outcome State Fault Refusal := runCore (.iadd64 f) (laneOp 1 iaddVal) s
/-- `ISUB_16` (R198, R234). -/
def execIsub16 (f : Form16) (s : State) : Host.Outcome State Fault Refusal := runCore (.isub16 f) (laneOp 1 isubVal) s
/-- `ISUB_32` (R201, R234). -/
def execIsub32 (f : Form32) (s : State) : Host.Outcome State Fault Refusal := runCore (.isub32 f) (laneOp 1 isubVal) s
/-- `ISUB_64` (R234). -/
def execIsub64 (f : Form64) (s : State) : Host.Outcome State Fault Refusal := runCore (.isub64 f) (laneOp 1 isubVal) s
/-- `IMUL_16` (R198, R234). -/
def execImul16 (f : Form16) (s : State) : Host.Outcome State Fault Refusal := runCore (.imul16 f) (laneOp 1 imulVal) s
/-- `IMUL_32` (R201, R234). -/
def execImul32 (f : Form32) (s : State) : Host.Outcome State Fault Refusal := runCore (.imul32 f) (laneOp 1 imulVal) s
/-- `IMUL_64` (R234). -/
def execImul64 (f : Form64) (s : State) : Host.Outcome State Fault Refusal := runCore (.imul64 f) (laneOp 1 imulVal) s
/-- `AND_16` (R198, R234). -/
def execAnd16 (f : Form16) (s : State) : Host.Outcome State Fault Refusal := runCore (.and16 f) (laneOp 1 andVal) s
/-- `AND_32` (R201, R234). -/
def execAnd32 (f : Form32) (s : State) : Host.Outcome State Fault Refusal := runCore (.and32 f) (laneOp 1 andVal) s
/-- `AND_64` (R234). -/
def execAnd64 (f : Form64) (s : State) : Host.Outcome State Fault Refusal := runCore (.and64 f) (laneOp 1 andVal) s
/-- `OR_16` (R198, R234). -/
def execOr16 (f : Form16) (s : State) : Host.Outcome State Fault Refusal := runCore (.or16 f) (laneOp 1 orVal) s
/-- `OR_32` (R201, R234). -/
def execOr32 (f : Form32) (s : State) : Host.Outcome State Fault Refusal := runCore (.or32 f) (laneOp 1 orVal) s
/-- `OR_64` (R234). -/
def execOr64 (f : Form64) (s : State) : Host.Outcome State Fault Refusal := runCore (.or64 f) (laneOp 1 orVal) s
/-- `XOR_16` (R198, R234). -/
def execXor16 (f : Form16) (s : State) : Host.Outcome State Fault Refusal := runCore (.xor16 f) (laneOp 1 xorVal) s
/-- `XOR_32` (R201, R234). -/
def execXor32 (f : Form32) (s : State) : Host.Outcome State Fault Refusal := runCore (.xor32 f) (laneOp 1 xorVal) s
/-- `XOR_64` (R234). -/
def execXor64 (f : Form64) (s : State) : Host.Outcome State Fault Refusal := runCore (.xor64 f) (laneOp 1 xorVal) s
/-- `SHL_16` (R198, R234). -/
def execShl16 (f : Form16) (s : State) : Host.Outcome State Fault Refusal := runCore (.shl16 f) (laneOp 1 shlVal) s
/-- `SHL_32` (R201, R234). -/
def execShl32 (f : Form32) (s : State) : Host.Outcome State Fault Refusal := runCore (.shl32 f) (laneOp 1 shlVal) s
/-- `SHL_64` (R234). -/
def execShl64 (f : Form64) (s : State) : Host.Outcome State Fault Refusal := runCore (.shl64 f) (laneOp 1 shlVal) s
/-- `SHR_16` (R198, R234). -/
def execShr16 (f : Form16) (s : State) : Host.Outcome State Fault Refusal := runCore (.shr16 f) (laneOp 1 shrVal) s
/-- `SHR_32` (R201, R234). -/
def execShr32 (f : Form32) (s : State) : Host.Outcome State Fault Refusal := runCore (.shr32 f) (laneOp 1 shrVal) s
/-- `SHR_64` (R234). -/
def execShr64 (f : Form64) (s : State) : Host.Outcome State Fault Refusal := runCore (.shr64 f) (laneOp 1 shrVal) s
/-- `SAR_16` (R198, R234). -/
def execSar16 (f : Form16) (s : State) : Host.Outcome State Fault Refusal := runCore (.sar16 f) (laneOp 1 sarVal) s
/-- `SAR_32` (R201, R234). -/
def execSar32 (f : Form32) (s : State) : Host.Outcome State Fault Refusal := runCore (.sar32 f) (laneOp 1 sarVal) s
/-- `SAR_64` (R234). -/
def execSar64 (f : Form64) (s : State) : Host.Outcome State Fault Refusal := runCore (.sar64 f) (laneOp 1 sarVal) s
/-- `IMULH_I32_32` (R201, R234). -/
def execImulhi32 (f : Form32) (s : State) : Host.Outcome State Fault Refusal := runCore (.imulhi32 f) (laneOp 1 imulhVal) s
/-- `IMULH_N32_32` (R201, R234). -/
def execImulhn32 (f : Form32) (s : State) : Host.Outcome State Fault Refusal := runCore (.imulhn32 f) (laneOp 1 imulhVal) s
/-- `IMULH_64` (R234). -/
def execImulh64 (f : Form64) (s : State) : Host.Outcome State Fault Refusal := runCore (.imulh64 f) (laneOp 1 imulhVal) s
/-- `IMIN_I32_32` (R201, R234). -/
def execImini32 (f : Form32) (s : State) : Host.Outcome State Fault Refusal := runCore (.imini32 f) (laneOp 1 iminVal) s
/-- `IMIN_N32_32` (R201, R234). -/
def execIminn32 (f : Form32) (s : State) : Host.Outcome State Fault Refusal := runCore (.iminn32 f) (laneOp 1 iminVal) s
/-- `IMIN_64` (R234). -/
def execImin64 (f : Form64) (s : State) : Host.Outcome State Fault Refusal := runCore (.imin64 f) (laneOp 1 iminVal) s
/-- `IMAX_I32_32` (R201, R234). -/
def execImaxi32 (f : Form32) (s : State) : Host.Outcome State Fault Refusal := runCore (.imaxi32 f) (laneOp 1 imaxVal) s
/-- `IMAX_N32_32` (R201, R234). -/
def execImaxn32 (f : Form32) (s : State) : Host.Outcome State Fault Refusal := runCore (.imaxn32 f) (laneOp 1 imaxVal) s
/-- `IMAX_64` (R234). -/
def execImax64 (f : Form64) (s : State) : Host.Outcome State Fault Refusal := runCore (.imax64 f) (laneOp 1 imaxVal) s
/-- `ROT_32` (R201, R234). -/
def execRot32 (f : Form32) (s : State) : Host.Outcome State Fault Refusal := runCore (.rot32 f) (laneOp 1 rotVal) s
/-- `ROT_64` (R234). -/
def execRot64 (f : Form64) (s : State) : Host.Outcome State Fault Refusal := runCore (.rot64 f) (laneOp 1 rotVal) s
/-- `INEG_32` (R201, R234). -/
def execIneg32 (f : Form32) (s : State) : Host.Outcome State Fault Refusal := runCore (.ineg32 f) (laneOp 1 inegVal) s
/-- `INEG_64` (R234). -/
def execIneg64 (f : Form64) (s : State) : Host.Outcome State Fault Refusal := runCore (.ineg64 f) (laneOp 1 inegVal) s
/-- `IABS_32` (R201, R234). -/
def execIabs32 (f : Form32) (s : State) : Host.Outcome State Fault Refusal := runCore (.iabs32 f) (laneOp 1 iabsVal) s
/-- `IABS_64` (R234). -/
def execIabs64 (f : Form64) (s : State) : Host.Outcome State Fault Refusal := runCore (.iabs64 f) (laneOp 1 iabsVal) s
/-- `NOT_32` (R201, R234). -/
def execNot32 (f : Form32) (s : State) : Host.Outcome State Fault Refusal := runCore (.not32 f) (laneOp 1 notVal) s
/-- `NOT_64` (R234). -/
def execNot64 (f : Form64) (s : State) : Host.Outcome State Fault Refusal := runCore (.not64 f) (laneOp 1 notVal) s
/-- `POPC_32` (R201, R234). -/
def execPopc32 (f : Form32) (s : State) : Host.Outcome State Fault Refusal := runCore (.popc32 f) (laneOp 1 popcVal) s
/-- `POPC_64` (R234). -/
def execPopc64 (f : Form64) (s : State) : Host.Outcome State Fault Refusal := runCore (.popc64 f) (laneOp 1 popcVal) s
/-- `CLZ_32` (R201, R234). -/
def execClz32 (f : Form32) (s : State) : Host.Outcome State Fault Refusal := runCore (.clz32 f) (laneOp 1 clzVal) s
/-- `CLZ_64` (R234). -/
def execClz64 (f : Form64) (s : State) : Host.Outcome State Fault Refusal := runCore (.clz64 f) (laneOp 1 clzVal) s
/-- `CTZ_32` (R201, R234). -/
def execCtz32 (f : Form32) (s : State) : Host.Outcome State Fault Refusal := runCore (.ctz32 f) (laneOp 1 ctzVal) s
/-- `CTZ_64` (R234). -/
def execCtz64 (f : Form64) (s : State) : Host.Outcome State Fault Refusal := runCore (.ctz64 f) (laneOp 1 ctzVal) s
/-- `BREV_32` (R201, R234). -/
def execBrev32 (f : Form32) (s : State) : Host.Outcome State Fault Refusal := runCore (.brev32 f) (laneOp 1 brevVal) s
/-- `BREV_64` (R234). -/
def execBrev64 (f : Form64) (s : State) : Host.Outcome State Fault Refusal := runCore (.brev64 f) (laneOp 1 brevVal) s
/-- `ISUM` (R234). -/
def execIsum (f : Form64) (s : State) : Host.Outcome State Fault Refusal := runCore (.isum f) (laneOp 1 (fun x w l => (x.a w l + x.b w l + x.c w l) % 2 ^ 32)) s
/-- `IMAD` (R234). -/
def execImad (f : Form64) (s : State) : Host.Outcome State Fault Refusal := runCore (.imad f) (laneOp 1 (fun x w l => (x.a w l * x.b w l + x.c w l) % 2 ^ 32)) s
/-- `IMADW` (R234). -/
def execImadw (f : Form64) (s : State) : Host.Outcome State Fault Refusal := runCore (.imadw f) (laneOp 2 (fun x w l => wrap 64 (x.byTy (x.a w l) * x.byTy (x.b w l) + x.c64 w l))) s
/-- `ISAD` (R234). -/
def execIsad (f : Form64) (s : State) : Host.Outcome State Fault Refusal := runCore (.isad f) (laneOp 1 (fun x w l => wrap 32 (((x.byTy (x.a w l) - x.byTy (x.b w l)).natAbs : Int) + x.c w l))) s
/-- `BLUT` (R234). -/
def execBlut (f : Form64) (s : State) : Host.Outcome State Fault Refusal := runCore (.blut f) (laneOp 1 blutVal) s
/-- `SHF` (R234). -/
def execShf (f : Form64) (s : State) : Host.Outcome State Fault Refusal := runCore (.shf f) (laneOp 1 shfVal) s
/-- `BXTR` (R235). -/
def execBxtr (f : Form64) (s : State) : Host.Outcome State Fault Refusal := runCore (.bxtr f) (laneOp 1 bxtrVal) s
/-- `BINS` (R235). -/
def execBins (f : Form64) (s : State) : Host.Outcome State Fault Refusal := runCore (.bins f) (laneOp 1 binsVal) s
/-- `BSEL` (R235). -/
def execBsel (f : Form64) (s : State) : Host.Outcome State Fault Refusal := runCore (.bsel f) (laneOp 1 bselVal) s
/-- `LEA` (R236). -/
def execLea (f : Form64) (s : State) : Host.Outcome State Fault Refusal := runCore (.lea f) (laneOp 2 leaVal) s
/-- `ICMP` (R234). -/
def execIcmp (f : Form64) (s : State) : Host.Outcome State Fault Refusal := runCore (.icmp f) (predOp icmpVal) s
/-- `ISEL` (R234). -/
def execIsel (f : Form64) (s : State) : Host.Outcome State Fault Refusal := runCore (.isel f) (laneOp 1 (fun x w l => if w.pred x.f.rs3.toNat l then x.a w l else x.b w l)) s

end Sys2Proof.Machine
end

