-- ==== Sys2Proof/Machine/Mailbox.lean ====
section
/-! DEFINITION. The management mailbox (R397): its commands for flash, fuses, measurements, power and links (R395, R402 to R404, R409), and RESYNC (R417, R418). -/

namespace Sys2Proof.Machine

/-! ### Commands (R397) -/

/-- A command completes: BUSY clears, RESULT and the response stand, and vector 0 of the physical function fires. -/
def State.reply (s : State) (m result : Nat) (bytes : List Byte) : State :=
  let z := s.module m
  let d := bytes.zipIdx.foldl (fun (d : SMap Byte) b => SMap.set 0#8 d b.2 b.1) z.mbData
  let s := s.setModule m { z with mbBusy := false, mbResult := result, mbRlen := bytes.length, mbData := d }
  { s with log := s.log ++ [.vector (32 * m) 0] }

/-- The request bytes. -/
def Module.request (z : Module) : List Byte := (List.range z.mbLen).map (fun i => SMap.get 0#8 z.mbData i)

/-- The codes of the table. -/
def mailboxCodes : List Nat := [0x10, 0x11, 0x12, 0x13, 0x20, 0x21, 0x22, 0x28, 0x30, 0x40, 0x41, 0x50, 0x51, 0x60, 0x70]

/-- What the ROM's own mailbox accepts (R401). -/
def romCodes : List Nat := [0x10, 0x11, 0x12, 0x30, 0x60]

/-- The running command of a module, if it has a code: a request that is too long is out of range, the safe state turns away what it does not allow,
and the ROM's own mailbox knows few codes. -/
def State.command (s : State) (name : String) (code : Nat) (safe : Bool) (eff : (m : Nat) → (req : List Byte) → State → State) :
    Host.Outcome State Fault Refusal :=
  let m := s.args.module; let z := s.module m
  if !z.mbBusy ∨ z.mbCode ≠ code ∨ z.lifecycle ≠ .none ∧ z.mbHeld then .refused (.notEnabled name)
  else if 3840 < z.mbLen then .next (s.reply m 2 [])
  else if z.safe && !safe then .next (s.reply m 5 [])
  else if z.safe && !z.booted && !romCodes.contains code then .next (s.reply m 1 [])
  else .next (eff m z.request s)

/-- `BADCMD`: a code that is not in the table (R397). Operands: module. -/
def execBadcmd (s : State) : Host.Outcome State Fault Refusal :=
  let m := s.args.module; let z := s.module m
  if z.mbBusy && !mailboxCodes.contains z.mbCode then .next (s.reply m 1 []) else .refused (.notEnabled "BADCMD")

/-! ### Flash (R397, R402) -/

/-- Bytes of a flash bank: half of 64 MiB. -/
def bankBytes : Nat := 2 ^ 25

/-- `STAGE`: image bytes go into the inactive bank, and UPDOK clears. Operands: module. -/
def execStage (s : State) : Host.Outcome State Fault Refusal :=
  s.command "STAGE" 0x10 true (fun m req s =>
    let off := ofLe (req.take 4); let bs := req.drop 4
    if req.length < 4 ∨ bankBytes < off + bs.length then s.reply m 2 []
    else
      let z := s.module m; let k := 1 - z.activeBank; let b := SMap.get ({} : Bank) z.banks k
      let b := { b with bytes := bs.zipIdx.foldl (fun (d : SMap Byte) y => SMap.set 0#8 d (off + y.2) y.1) b.bytes, len := max b.len (off + bs.length) }
      (s.setModule m { z with banks := SMap.set {} z.banks k b, updok := false }).reply m 0 [])

/-- `VERIFY`: every staged image is accepted by R402, or the result is BADSIG. Operands: module. -/
def execVerify (s : State) : Host.Outcome State Fault Refusal :=
  s.command "VERIFY" 0x11 true (fun m _ s =>
    let z := s.module m; let is := (SMap.get ({} : Bank) z.banks (1 - z.activeBank)).images 8 0
    if !is.isEmpty && is.all z.accepts then (s.setModule m { z with updok := true }).reply m 0 [] else s.reply m 3 [])

/-! ### Fuses and measurements (R403, R404) -/

/-- The security version of the running image of a target. -/
def Module.runningSvn (z : Module) (target : Nat) : Nat := match target with | 0 => z.hksvn | 1 => z.qpsvn | _ => z.ttsvn

/-- `RAISESVN` (R404). Operands: module. -/
def execRaisesvn (s : State) : Host.Outcome State Fault Refusal :=
  s.command "RAISESVN" 0x13 true (fun m req s =>
    let t := ofLe (req.take 1); let z := s.module m
    if req.isEmpty ∨ 2 < t then s.reply m 2 []
    else (s.setModule m { z with minSvn := SMap.set 0 z.minSvn t (max (SMap.get 0 z.minSvn t) (z.runningSvn t)) }).reply m 0 [])

/-- `ENROL` (R404): an empty slot only, while KEYEN was high at reset. Operands: module. -/
def execEnrol (s : State) : Host.Outcome State Fault Refusal :=
  s.command "ENROL" 0x20 true (fun m req s =>
    let k := ofLe (req.take 1); let z := s.module m
    if req.length < 97 ∨ 3 < k then s.reply m 2 []
    else if !z.keyen then s.reply m 4 []
    else if (SMap.get none z.keys k).isSome then s.reply m 7 []
    else (s.setModule m { z with keys := SMap.set none z.keys k (some (BitVec.ofNat 768 (ofBe ((req.drop 1).take 96)))) }).reply m 0 [])

/-- A slot is enrolled and not disabled. -/
def Module.enrolled (z : Module) (k : Nat) : Bool := (SMap.get none z.keys k).isSome && !z.keyOff.contains k

/-- `KEYDIS` (R404). Operands: module. -/
def execKeydis (s : State) : Host.Outcome State Fault Refusal :=
  s.command "KEYDIS" 0x21 true (fun m req s =>
    let k := ofLe (req.take 1); let z := s.module m
    if req.isEmpty ∨ 3 < k then s.reply m 2 []
    else if !z.keyen then s.reply m 4 []
    else if !z.enrolled k then s.reply m 7 []
    else (s.setModule m { z with keyOff := k :: z.keyOff }).reply m 0 [])

/-- `VENDOROFF` (R404): while at least one slot is enrolled and not disabled. Operands: module. -/
def execVendoroff (s : State) : Host.Outcome State Fault Refusal :=
  s.command "VENDOROFF" 0x22 true (fun m _ s =>
    let z := s.module m
    if !z.keyen then s.reply m 4 []
    else if !(List.range 4).any z.enrolled then s.reply m 7 []
    else (s.setModule m { z with vendorOff := true }).reply m 0 [])

/-- `EXTEND` (R403): slots 6 to 15. Operands: module. -/
def execExtend (s : State) : Host.Outcome State Fault Refusal :=
  s.command "EXTEND" 0x28 true (fun m req s =>
    let n := ofLe (req.take 1)
    if req.length < 49 ∨ n < 6 ∨ 15 < n then s.reply m 2 []
    else (s.setModule m ((s.module m).extend n ((req.drop 1).take 48))).reply m 0 [])

/-! ### Power and links (R395, R409) -/

/-- `SETPLIM` (R395): it takes effect at the next window. Operands: module. -/
def execSetplim (s : State) : Host.Outcome State Fault Refusal :=
  s.command "SETPLIM" 0x40 false (fun m req s =>
    let w := ofLe (req.take 4)
    if req.length < 4 ∨ w < 500 ∨ 3200 < w then s.reply m 2 [] else (s.setModule m { s.module m with plimNext := some w }).reply m 0 [])

/-- `SETPOINT` (R395): a die above its cap comes down to it. Operands: module. -/
def execSetpoint (s : State) : Host.Outcome State Fault Refusal :=
  s.command "SETPOINT" 0x41 false (fun m req s =>
    let d := ofLe (req.take 1); let c := ofLe ((req.drop 1).take 1); let z := s.module m
    if req.length < 2 ∨ 3 < d ∨ 3 < c then s.reply m 2 []
    else (s.setModule m (z.setDie d { z.die d with cap := c, target := max c (z.die d).target })).reply m 0 [])

/-- `LINKTRAIN` (R409): DOWN, then START. Operands: module. -/
def execLinktrain (s : State) : Host.Outcome State Fault Refusal :=
  s.command "LINKTRAIN" 0x70 false (fun m req s =>
    let h := ofLe (req.take 1); let p := ofLe ((req.drop 1).take 1)
    if req.length < 2 ∨ 3 < h ∨ 15 < p then s.reply m 2 [] else ((s.linkOff m (16 * h + p)).linkOn m (16 * h + p)).reply m 0 [])

/-! ### RESYNC (R417, R418) -/

/-- The words 0x000 to 0x030 of the status window (R396). -/
def Module.statusWords (z : Module) : List Nat :=
  [z.stage % 16 + z.fallback.toNat * 2 ^ 7 + z.safe.toNat * 2 ^ 8 + z.updok.toNat * 2 ^ 9 + z.vendorOff.toNat * 2 ^ 10 + z.keyen.toNat * 2 ^ 11 + z.keyidx % 16 * 2 ^ 12,
   z.railsGood.toNat % 256 + z.firstbad * 2 ^ 8, (List.range 4).foldl (fun n k => n + (z.die k).point % 4 * 2 ^ (4 * k)) 0,
   z.pavg, z.plim, z.hksvn, z.qpsvn]

/-- The captured wait of a queue: its address, comparison and value (R391). -/
def Queue.captured (z : Queue) : List Nat :=
  match z.current with
  | some p => if z.state = .paused ∧ field p.bytes 0 8 = 3 then [field p.bytes 64 64, field p.bytes 192 8, field p.bytes 128 64] else [0, 0, 0]
  | none => [0, 0, 0]

/-- The code of QSTATE (R382). -/
def QState.code : QState → Nat
  | .disabled => 0 | .idle => 1 | .running => 2 | .waiting => 3 | .stopped => 4 | .paused => 5

/-- The words of section 2. -/
def State.queueWords (s : State) (m : Nat) : List Nat :=
  (List.range 32).flatMap (fun i => let q := 32 * m + i; let z := s.queue q
    [s.queueFunction q, z.state.code, z.qerr.toNat, z.ridx.toNat, z.tail.toNat] ++ z.captured)

/-- Cairns of a unit and class in use. -/
def State.cairnsUsed (s : State) (u d : Nat) : Nat := ((List.range 32).filter (fun i => (s.cairn u (32 * d + i)).state != .free)).length

/-- The words of section 3: rope and origin cairns of each region and class, then hub cairns. -/
def State.cairnWords (s : State) (m : Nat) : List Nat :=
  (List.range 32).flatMap (fun r => (List.range 8).flatMap (fun d => [s.cairnsUsed (32 * m + r) d, s.cairnsUsed (1024 + 32 * m + r) d])) ++
    (List.range 4).flatMap (fun h => (List.range 8).map (fun d => s.cairnsUsed (2048 + 4 * m + h) d))

/-- The words of section 4: the root FCBs of each context that still have a flood in drain, up to 64, then their count. -/
def State.rootWords (s : State) (m : Nat) : List Nat :=
  (List.range 32).flatMap (fun f =>
    let x := 32 * m + f
    let roots := distinct (s.cairns.filterMap (fun k => match k.2.msg with
      | some g => if k.2.state = .drain ∧ 1024 ≤ k.1 / 256 ∧ k.1 / 256 < 2048 ∧ (k.1 / 256 - 1024) / 32 = m ∧ g.ctx % 32 = f then some (s.fcbField x g.fcb 32 32) else none
      | none => none))
    let ids := (roots.filter (fun i => 0x40000 ≤ i)).take 64
    ids ++ List.replicate (64 - ids.length) 0 ++ [roots.length])

/-- Lanes of a context's parked entries. -/
def State.parkedLanes (s : State) (x : Nat) : Nat :=
  s.cores.foldl (fun n k => k.2.warps.foldl (fun n y => match y.2 with
    | some w => if s.ctxOf k.1 y.1 = x then w.frontier.foldl (fun n e => if e.state = .parked then n + (lanes e.mask).length else n) n else n
    | none => n) n) 0

/-- The words of section 5: the indices of every fault domain's ring, and the parked lanes. -/
def State.faultWords (s : State) (m : Nat) : List Nat :=
  (List.range 32).flatMap (fun f =>
    let x := 32 * m + f
    (List.range (s.ctxReg x 0x068)).flatMap (fun d =>
      let ridx := match s.domainEntry x d with | some e => ((s.ctxRead x (field e 128 64) 8).1).getD 0 | none => 0
      [SMap.get 0 (s.ctx x).faultWidx d, ridx]) ++ [s.parkedLanes x])

/-- The words 0x00 to 0x18 of a port block (R408). -/
def FabricPort.words (p : FabricPort) : List Nat :=
  [(1 ≤ p.state ∧ p.state ≤ 5 : Bool).toNat + p.autoeq.toNat * 2 ^ 8, p.status, p.leq.toNat, p.pport % 16 + p.phub % 4 * 2 ^ 8 + p.pmod % 32 * 2 ^ 10 + p.pvalid.toNat * 2 ^ 15]

/-- A word of the counter block (R415, R416). -/
def Module.counterWord (z : Module) (off : Nat) : Nat :=
  if 0x400 ≤ off ∧ off < 0x600 then
    match z.errlog.find? (fun e => e.1 % 16 == (off - 0x400) / 32) with
    | some e => field e.2 (8 * (off % 32)) 64
    | none => 0
  else SMap.get 0 z.counters off


/-- The sections of the summary record, by id; in the safe state 2 to 5 hold zeros (R418). -/
def State.sections (s : State) (m : Nat) : List (Nat × List Nat) :=
  let z := s.module m
  let hide (ws : List Nat) : List Nat := if z.safe then ws.map (fun _ => 0) else ws
  [(1, z.statusWords ++ (List.range 16).flatMap (fun n => (List.range 6).map (fun i => ofLe (((digestBytes (SMap.get 0#384 z.slots n)).drop (8 * i)).take 8)))),
   (2, hide (s.queueWords m)), (3, hide (s.cairnWords m)), (4, hide (s.rootWords m)), (5, hide (s.faultWords m)),
   (6, (List.range 64).flatMap (fun n => (z.fabricOf n).words)), (7, (List.range 256).map (fun i => z.counterWord (8 * i))),
   (8, (List.range 32).flatMap (fun f => [s.ctxReg (32 * m + f) 0x100, s.ctxReg (32 * m + f) 0x108]) ++ [z.hubTmo])]

/-- The sections that fit whole below a length, with the header of R410 each, NEXT counted from the record's start. -/
def packSections (room : Nat) : List (Nat × List Nat) → (at_ : Nat) → List Byte × Nat
  | [], _ => ([], 0)
  | (id, ws) :: t, at_ =>
    let len := 8 + 8 * ws.length
    if room < at_ + len then packSections room t at_
    else
      let (rest, n) := packSections room t (at_ + len)
      let head := id + 2 ^ 16 + len % 2 ^ 16 * 2 ^ 32 + (if rest.isEmpty then 0 else (at_ + len) % 2 ^ 16) * 2 ^ 48
      (leBytes 8 head ++ ws.flatMap (fun w => leBytes 8 w) ++ rest, n + 1)

/-- `RESYNC`: the summary record goes to host memory by DMA (R417, R418). Operands: module. -/
def execResync (s : State) : Host.Outcome State Fault Refusal :=
  s.command "RESYNC" 0x60 true (fun m req s =>
    let addr := ofLe (req.take 8); let room := ofLe ((req.drop 8).take 4)
    if req.length < 12 ∨ addr % 64 ≠ 0 ∨ room < 64 then s.reply m 2 []
    else
      let ss := s.sections m; let need := ss.foldl (fun n y => n + 8 + 8 * y.2.length) 64
      let (body, n) := packSections room ss 64; let len := 64 + body.length
      let head := 0x51475253 + 2 ^ 32 + n * 2 ^ 48 + (if len < need then 1 else 0) * 2 ^ 56 + (s.module m).safe.toNat * 2 ^ 57 + len * 2 ^ 64
      let s := s.homeWrite none (.port m (2 ^ 51 + addr % 2 ^ 50)) len (fullMask len) (ofLe (leBytes 64 head ++ body))
      s.reply m 0 (leBytes 4 len ++ leBytes 4 need))

end Sys2Proof.Machine
end

