-- ==== Sys2Proof/Machine/Resolve.lean ====
section
/-! DEFINITION. Fault domains at work (R120, R388, R389): resolving parked faults, records that free, and held fault entries. -/

namespace Sys2Proof.Machine

/-- The parked entry that names a record of a context among the resident warps: core, slot, place in the frontier, entry. -/
def State.parkedAt (s : State) (x n : Nat) : Option (Nat × Nat × Nat × Entry) :=
  (s.cores.flatMap (fun k => k.2.warps.flatMap (fun y => match y.2 with
    | some w =>
      if s.ctxOf k.1 y.1 = x then ((w.frontier.zipIdx.filter (fun z => z.1.state == .parked && z.1.frec.toNat == n)).map (fun z => (k.1, y.1, z.2, z.1))) else []
    | none => []))).head?

/-- A parked entry of a saved group names a record, and nothing has been decided on it. -/
def Entry.awaits (e : Entry) (n : Nat) : Bool := e.state == .parked && e.frec.toNat == n && e.fate.isNone

/-- The saved group, with its core, that holds such an entry. -/
def State.parkedSaved (s : State) (x n : Nat) : Option (Nat × Saved) :=
  (s.cores.flatMap (fun k => (k.2.saved.filter (fun v => v.group.ctx == x && v.warps.any (fun w => w.frontier.any (fun e => e.awaits n)))).map (fun v => (k.1, v)))).head?

/-- FDRESOLVE is written (R389): the device reads the record at its home; 1 replays, 2 and 3 kill; RESOLVE 0, or an index that no parked entry names,
counts as a stale resolve. -/
def State.resolveFault (s : State) (x n : Nat) : State :=
  let (rec, s) := s.ctxRead x (s.ctxReg x 0x030 + 64 * n) 64
  let r := field (rec.getD 0) 216 2
  let stale (s : State) : State := s.count (x / 32) (0x300 + 8 * (x % 32)) 1
  if r = 0 ∨ n ≥ 0xFFFF then stale s
  else
    match s.parkedAt x n with
    | some (c, slot, idx, e) => s.decideEntry c slot idx e (r == 1)
    | none =>
      match s.parkedSaved x n with
      | some (c, v) =>
        let fate (e : Entry) : Entry := if e.awaits n then { e with fate := some (r == 1) } else e
        s.setCore c ((s.core c).putSaved { v with warps := v.warps.map (fun w => { w with frontier := w.frontier.map fate }) })
      | none => stale s

/-- `FDRESOLVE` (R389). Operands: ctx, value. -/
def execFdresolve (s : State) : Host.Outcome State Fault Refusal := .next (s.resolveFault s.args.ctx s.args.value.toNat)

/-- `FAULT_RECORD_FREE`: with a record free, an entry that parked without one gets its record (R120). Operands: core, slot, entry. -/
def execFaultRecordFree (s : State) : Host.Outcome State Fault Refusal :=
  let c := s.args.core; let slot := s.args.slot; let idx := s.args.entry
  match (s.warp c slot).entry idx with
  | none => .refused (.notEnabled "FAULT_RECORD_FREE")
  | some e =>
    match e.fault with
    | none => .refused (.notEnabled "FAULT_RECORD_FREE")
    | some i =>
      let g := s.groupOf c slot
      if e.state ≠ .parked ∨ e.frec ≠ 0xFFFF#16 ∨ ¬ (s.ctx g.ctx).records.length < 0xFFFF then .refused (.notEnabled "FAULT_RECORD_FREE")
      else
        let lane := (lowestLane (if i.lanes = 0#32 then e.mask else i.lanes)).getD 0
        let (s, frec) := s.recordFault g.ctx g.fcb ((s.warp c slot).laneIdent lane).handle c slot i
        .next (s.setWarp c slot ((s.warp c slot).replaceEntry idx [{ e with frec := frec }]))

/-- `FAULT_ENTRY_WRITE`: the oldest entry held for a fault domain is written once the domain is assigned and its ring has room (R388).
Operands: ctx, domain. -/
def execFaultEntryWrite (s : State) : Host.Outcome State Fault Refusal :=
  let x := s.args.ctx; let d := s.args.domain
  match SMap.get [] (s.ctx x).heldFaults d, s.domainEntry x d with
  | entry :: t, some e =>
    if field e 232 8 != 0 && s.domainRoom x d e then
      let k := s.ctx x
      .next ((s.setCtx x { k with heldFaults := SMap.set [] k.heldFaults d t }).writeFaultEntry x d e entry)
    else .refused (.notEnabled "FAULT_ENTRY_WRITE")
  | _, _ => .refused (.notEnabled "FAULT_ENTRY_WRITE")

end Sys2Proof.Machine
end

