-- ==== Sys2Proof/Machine/Lifecycle.lean ====
section
/-! DEFINITION. Firmware activation, live migration, and the resets of a function and of a module (R6, R391, R392, R397). -/

namespace Sys2Proof.Machine

/-! ### Groups and queues of some contexts -/

/-- Resident groups of a module whose contexts are chosen: core and number. -/
def State.residents (s : State) (m : Nat) (who : Nat → Bool) : List (Nat × Nat) :=
  s.cores.flatMap (fun k =>
    if coreModule k.1 = m then k.2.groups.filterMap (fun y => match y.2 with | some g => if who g.ctx then some (k.1, y.1) else none | none => none) else [])

/-- Holds the saved groups of chosen contexts of a module, or lets them go. -/
def State.holdSaved (s : State) (m : Nat) (who : Nat → Bool) (b : Bool) : State :=
  s.mapCores (fun c k => if coreModule c = m then { k with saved := k.saved.map (fun v => if who v.group.ctx then { v with held := b } else v) } else k)

/-- The queues of a module whose contexts are chosen. -/
def State.queuesOf (s : State) (m : Nat) (who : Nat → Bool) : List Nat := ((List.range 32).map (fun i => 32 * m + i)).filter (fun q => who (s.queueCtx q))

/-- A queue thread stops after the packet that it executes; a WAIT in progress is captured with its packet (R391 step 3). -/
def State.pauseQueue (s : State) (q : Nat) : State :=
  let z := s.queue q
  if z.state = QState.idle ∨ z.state = QState.running ∨ z.state = QState.waiting then s.setQueue q { z with state := .paused } else s

/-- A paused queue runs on; a captured wait is re-armed (R391 step 5, R392). -/
def State.resumeQueue (s : State) (q : Nat) : State :=
  let z := s.queue q
  if z.state = QState.paused then s.setQueue q { z with state := .idle }.settle else s

/-- Groups, as core and number, are pre-empted into their save areas and stay there (R391 step 3); false as soon as no area can be had for one, which
runs on (R357). -/
def State.freezeGroups (s : State) : List (Nat × Nat) → State × Bool
  | [] => (s, true)
  | (c, gi) :: t =>
    let g := s.group c gi
    if g.halting.isNone && (s.freeArea g.ctx (g.areaLen g.slots.length)).isNone then (s.count (coreModule c) (0x700 + 8 * (g.ctx % 32)) 1, false)
    else
      let s := s.saveGroup c gi 0
      let s := match (s.group c gi).halting with
        | some h => s.setGroup c gi { s.group c gi with halting := some { h with held := true } }
        | none => s
      State.freezeGroups s t

/-- Step 3 of R391 over chosen contexts: queues stop and groups are saved; false where a group finds no area (R357). -/
def State.freeze (s : State) (m : Nat) (who : Nat → Bool) : State × Bool :=
  let (s, ok) := ((s.queuesOf m who).foldl State.pauseQueue s).freezeGroups (s.residents m who)
  (s.holdSaved m who true, ok)

/-- Queues and groups that were frozen go on; a group whose stores still drain comes back when its save is done. -/
def State.thaw (s : State) (m : Nat) (who : Nat → Bool) : State :=
  let s := (s.residents m who).foldl (fun s y =>
    let g := s.group y.1 y.2
    if g.halting.isSome then s.setGroup y.1 y.2 { g with halting := g.halting.map (fun h => { h with held := false }) } else s) s
  (s.queuesOf m who).foldl State.resumeQueue (s.holdSaved m who false)

/-- Every group of chosen contexts has been saved (R357). -/
def State.frozen (s : State) (m : Nat) (who : Nat → Bool) : Bool := (s.residents m who).isEmpty

/-! ### Activation (R391) -/

/-- The enabled functions of a module: those that have an address space (R378). -/
def State.enabled (s : State) (m : Nat) : List Nat := (List.range 32).filter (fun f => s.ctxReg (32 * m + f) 0 != 0)

/-- A function is paused, and PAUSE is posted. -/
def State.pauseFunction (s : State) (x : Nat) : State := let k := s.ctx x; (s.setCtx x { k with paused := true }).postEvent x 1 0 0 0

/-- RESUME is posted, and ACK clears. -/
def State.resumeFunction (s : State) (x : Nat) : State := let k := s.ctx x; (s.setCtx x { k with paused := false, acked := false }).postEvent x 2 0 0 0

/-- The module resets: units and registers are as after reset, so that the rails are raised again (R6, R393, R396), and fuses, flash and memory are
kept. -/
def State.resetModule (s : State) (m : Nat) : State :=
  let z := s.module m
  (s.dropUnits m).setModule m z.fused

/-- The banks swap. -/
def Module.swapBanks (z : Module) : Module := { z with activeBank := 1 - z.activeBank, updok := false, fallback := false }

/-- `ACTIVATE` (R391, R397): PAUSE goes to every enabled function, and the command stays under way until its activation ends; in the safe state the
banks swap and the module resets through the mask ROM. Operands: module. -/
def execActivate (s : State) : Host.Outcome State Fault Refusal :=
  s.command "ACTIVATE" 0x12 true (fun m _ s =>
    let z := s.module m
    if z.lifecycle ≠ .none then s.reply m 6 []
    else if !z.updok then s.reply m 4 []
    else if z.safe then (s.setModule m z.swapBanks).resetModule m
    else
      let fs := s.enabled m
      fs.foldl (fun s f => s.pauseFunction (32 * m + f)) (s.setModule m { z with lifecycle := .activating fs, mbHeld := true }))

/-- `ACK_PAUSED`: a guest sets ACK.PAUSED (R378, R391). Operands: ctx. -/
def execAckPaused (s : State) : Host.Outcome State Fault Refusal :=
  let x := s.args.ctx; let k := s.ctx x
  .next (s.setCtx x { k with acked := true })

/-- The new images run: their versions show in the status window, and the queue processor has its new firmware. -/
def State.startImages (s : State) (m : Nat) : State :=
  let z := (s.module m).swapBanks; let b := SMap.get ({} : Bank) z.banks z.activeBank
  let z := match b.image 0 with | some i => { z with hksvn := i.svn, keyidx := if i.keyidx = 0xFF then 15 else i.keyidx } | none => z
  let z := match b.image 2 with | some i => { z with ttsvn := i.svn } | none => z
  let s := s.setModule m z
  match b.image 1 with | some i => s.loadFirmware m i | none => s

/-- The path of an activation is over: its functions go on and the command completes. -/
def State.endActivation (s : State) (m result : Nat) (fs : List Nat) : State :=
  let s := fs.foldl (fun s f => s.resumeFunction (32 * m + f)) (s.thaw m (fun _ => true))
  (s.setModule m { s.module m with lifecycle := .none, mbHeld := false }).reply m result []

/-- `ACTIVATION_QUIESCE`: every function has acknowledged: queues stop, groups are saved, the new images start and work goes on; a group without a save
area abandons the activation (R357, R391). While stores of a halted group drain the step is taken again (R34). Operands: module. -/
def execActivationQuiesce (s : State) : Host.Outcome State Fault Refusal :=
  let m := s.args.module
  match (s.module m).lifecycle with
  | .activating fs =>
    if !fs.all (fun f => (s.ctx (32 * m + f)).acked) then .refused (.notEnabled "ACTIVATION_QUIESCE")
    else
      match s.freeze m (fun _ => true) with
      | (s, false) => .next (s.endActivation m 4 fs)
      | (s, true) => if s.frozen m (fun _ => true) then .next ((s.startImages m).endActivation m 0 fs) else .next s
  | _ => .refused (.notEnabled "ACTIVATION_QUIESCE")

/-! ### Migration (R392) -/

/-- Engine commands and fences of chosen queues that are still under way. -/
def State.queuesBusy (s : State) (qs : List Nat) : Bool := qs.any (fun q => !(s.queue q).copies.isEmpty || !(s.queue q).fences.isEmpty || s.unplaced q)

/-- A migration may not capture yet: engine work of the function's queues is under way. -/
def State.captureWaits (s : State) (m : Nat) (req : List Byte) : Bool :=
  let x := 32 * m + ofLe (req.take 1); let mine (y : Nat) : Bool := y == x
  s.queuesBusy (s.queuesOf m mine)

/-- `MIGRATE_OUT`: the queues and groups of one function are paused and saved (R392); without a save area the command is abandoned (R357).
It goes on while stores of a halted group drain (R34). Operands: module. -/
def execMigrateOut (s : State) : Host.Outcome State Fault Refusal :=
  let z := s.module s.args.module
  if z.mbBusy && z.mbCode == 0x50 && !z.safe && s.captureWaits s.args.module z.request then .refused (.notEnabled "MIGRATE_OUT")
  else
    s.command "MIGRATE_OUT" 0x50 false (fun m req s =>
      let f := ofLe (req.take 1); let x := 32 * m + f; let mine (y : Nat) : Bool := y == x
      if req.isEmpty ∨ 31 < f then s.reply m 2 []
      else
        match s.freeze m mine with
        | (s, false) => ((s.thaw m mine).resumeFunction x).reply m 4 []
        | (s, true) =>
          let k := s.ctx x
          if s.frozen m mine then (s.setCtx x { k with migrated := true, paused := true }).reply m 0 [] else s)

/-- A queue of a migrated function takes the place of its image: its captured wait is re-armed, and its first read compares at once. -/
def State.moveQueue (s : State) (qs : Nat × Nat) : State :=
  let z := s.queue qs.1; let dest := s.queue qs.2
  let s := s.setQueue qs.2 { z with qctx := dest.qctx }
  (s.setQueue qs.1 { qctx := z.qctx }).resumeQueue qs.2

/-- A saved group of a migrated function waits on the core of the same number of its new module. -/
def State.moveSaved (s : State) (m x y : Nat) (qs : List (Nat × Nat)) (c : Nat) (v : Saved) : State :=
  let d := 512 * m + c % 512; let n := s.newGroup d
  let seed : Option (Nat × Nat) := v.group.seededBy.map (fun a => (((qs.find? (fun p => p.1 == a.1)).map Prod.snd).getD a.1, a.2))
  let g : Group := { v.group with ctx := y, seededBy := seed }
  let k := s.core c
  let s := s.setCore c { k with saved := k.saved.filter (fun u => !(u.number == v.number && u.group.ctx == x)) }
  let k := s.core d
  let warps : List Warp := v.warps.map (fun w => { w with group := n })
  s.setCore d { k with saved := k.saved ++ [{ v with number := n, group := g, warps := warps, header := s.areaKey y v.base, held := false }] }

/-- The function's saved groups. -/
def State.savedOf (s : State) (x : Nat) : List (Nat × Saved) :=
  s.cores.flatMap (fun k => (k.2.saved.filter (fun v => v.group.ctx == x)).map (fun v => (k.1, v)))

/-- Restores function `f` of module `a` on module `m`. The register block of the context there is its own driver's (R379). -/
def State.migrate (s : State) (a m f : Nat) : State :=
  let x := 32 * a + f; let y := 32 * m + f
  let qs := (s.queuesOf a (fun k => k == x)).zip (s.queuesOf m (fun k => k == y))
  let k := s.ctx x
  let k' : Ctx := { k with regs := (s.ctx y).regs, paused := false, acked := false, migrated := false }
  let s := (s.setCtx y k').setCtx x { regs := k.regs }
  let s := (s.savedOf x).foldl (fun s v => s.moveSaved m x y qs v.1 v.2) s
  (qs.foldl State.moveQueue s).postEvent y 5 0 0 f

/-- `MIGRATE_IN`: the images of a captured function are restored, its captured waits are re-armed, and MIGRATED is posted (R392).
Operands: module, peer (the module that has captured the function). -/
def execMigrateIn (s : State) : Host.Outcome State Fault Refusal :=
  s.command "MIGRATE_IN" 0x51 false (fun m req s =>
    let f := ofLe (req.take 1); let a := s.args.peer
    let room := (s.queuesOf a (fun k => k == 32 * a + f)).length ≤ (s.queuesOf m (fun k => k == 32 * m + f)).length
    if req.isEmpty ∨ 31 < f then s.reply m 2 []
    else if a = m ∨ !(s.ctx (32 * a + f)).migrated ∨ !bit (s.domMask m) a ∨ !room then s.reply m 4 []
    else (s.migrate a m f).reply m 0 [])

/-! ### Resets (R6, R391) -/

/-- A warp's work is discarded: its lanes end and contribute the identity, its stores and loads are gone. -/
def State.discardWarp (s : State) (c slot : Nat) : State :=
  let w := s.warp c slot
  let s := s.setWarp c slot { w with trapping := none, pending := [], waits := [], inflight := [], storeq := [], targetFaults := [] }
  let s := (lanes w.live).foldl (fun s l => if (w.laneTx l).state == .idle then s else s.abortLane c slot l 8 0 0) s
  (s.killLanes c slot w.live).retireWarp c slot

/-- A group's work is discarded. -/
def State.discardGroup (s : State) (c gi : Nat) : State :=
  let g := s.group c gi
  let s := s.setGroup c gi { g with maps := [], landings := [], trig := [] }
  (s.groupWarps c gi).foldl (fun s y => s.discardWarp c y.1) s

/-- A saved group's work is discarded. -/
def State.discardSaved (s : State) (c : Nat) (v : Saved) : State :=
  let s := v.warps.foldl (fun s w => (lanes w.live).foldl (fun s l => s.contributeIdentity (w.laneIdent l)) s) s
  let s := v.warps.foldl (fun s w => match w.cairn with | some k => s.workDone k | none => s) s
  let k := s.core c
  ((s.setCore c { k with saved := k.saved.filter (fun u => u.number != v.number) }).dropArea v.group.ctx v.base).seedDone v.group.seededBy

/-- The cairns of a context in a module that stand for a live flood: unit and slot. -/
def State.liveCairns (s : State) (x : Nat) : List (Nat × Nat × FloodMsg) :=
  s.cairns.filterMap (fun k => match k.2.msg with
    | some f => if k.2.live && unitModule (k.1 / 256) == x / 32 && f.ctx % 32 == x % 32 then some (k.1 / 256, k.1 % 256, f) else none
    | none => none)

/-- Seeded threads of a context that wait for their placement, and its copies, are dropped; a collective goes on for its other members. -/
def State.dropQueued (s : State) (x : Nat) : State :=
  (List.range 32).foldl (fun s i =>
    let n := x / 32 * 32 + i; let r := s.region n
    let seeded (w : ClosedWarp) : Bool := match w.clauses.head? with | some c => c.ctx == x && c.seed.isSome | none => false
    s.setRegion n { r with closed := r.closed.filter (fun w => !seeded w), copyq := r.copyq.filter (fun k => k.txfer || k.ctx != x) }) s

/-- `FUNCTION_RESET`: a function's work is discarded, and counts as acknowledged (R391). Its context block and its queues' thread registers stay.
Operands: ctx. -/
def execFunctionReset (s : State) : Host.Outcome State Fault Refusal :=
  let x := s.args.ctx; let m := x / 32; let mine (y : Nat) : Bool := y == x
  let s := (s.residents m mine).foldl (fun s g => s.discardGroup g.1 g.2) s
  let s := (s.savedOf x).foldl (fun s v => s.discardSaved v.1 v.2) s
  let s := (s.liveCairns x).foldl (fun s k => s.cancelCairn k.1 k.2.1 k.2.2) s
  let s := s.dropQueued x
  let s := (s.queuesOf m mine).foldl (fun s q =>
    let z := s.queue q
    s.setQueue q { x := z.x, pc := z.pc, qctx := z.qctx, qfstat := z.qfstat, mepc := z.mepc, mcause := z.mcause, mtval := z.mtval, mtvec := z.mtvec, mstatus := z.mstatus }) s
  let k := s.ctx x
  .next (s.setCtx x { k with records := [], heldFaults := [], faultFull := [], areas := [], acked := true, migrated := false })

/-- `MODULE_RESET`: every register takes its reset value, and the module boots again (R6, R401). Operands: module. -/
def execModuleReset (s : State) : Host.Outcome State Fault Refusal := .next (s.resetModule s.args.module)

end Sys2Proof.Machine
end

