-- ==== Sys2Proof/Machine/Moves.lean ====
section
/-! DEFINITION. Predicates, votes and matches (R237 to R239), moves and lane exchange (R240 to R242), and special registers (R243 to R245). -/

namespace Sys2Proof.Machine

/-- The value that `PGATH` gathers over the participating lanes (R238). -/
def pgathVal (x : Iss) (w : Warp) (_ : Nat) : Nat :=
  let p := x.part w; let t := filterMask p (w.pred x.f.rs1.toNat)
  match x.f.c3.toNat with
  | 0 => t.toNat
  | 1 => (t != 0#32).toNat
  | 2 => (t == p).toNat
  | 3 => (t == p || t == 0#32).toNat
  | 4 => (lanes t).length
  | _ => (lowestLane t).getD 32

/-- The participating lanes whose register equals a lane's (R239). -/
def Iss.peers (x : Iss) (w : Warp) (l : Nat) : LaneMask := filterMask (x.part w) (fun k => x.a w k == x.a w l)

/-- `LPEER` (R239). -/
def lpeerVal (x : Iss) (w : Warp) (l : Nat) : Nat :=
  if x.f.c3 = 0#3 then (x.peers w l).toNat else (lowestLane (x.peers w l) == some l).toNat

/-- The source lane of `LXCH` (R242). -/
def Iss.lxchSource (x : Iss) (w : Warp) (l : Nat) : Nat :=
  let n := 2 ^ min (x.c w l % 8) 5; let g := l - l % n; let o := l % n; let b := x.b w l % n
  match x.f.c3.toNat with
  | 0 => g + b
  | 1 => g + (o + n - b) % n
  | 2 => g + (o + b) % n
  | _ => g + (o ^^^ b)

/-- `LXCH` (R242): the source lane's register where that lane participates, else the lane's own. -/
def lxchVal (x : Iss) (w : Warp) (l : Nat) : Nat :=
  let k := x.lxchSource w l
  if (x.part w).getLsbD k then x.a w k else x.a w l

/-- `PSET` (R237). -/
def psetVal (x : Iss) (w : Warp) (l : Nat) : Bool := if x.f.c3 = 0#3 then x.a w l != 0 else bit (x.a w l) l

/-- The immediate of `MOVI`, sign-extended (R240). -/
def moviVal (x : Iss) (_ : Warp) (_ : Nat) : Nat := immValue x.imm x.f

/-- `MOVW` and `MOVW.hi` (R240). -/
def movwVal (x : Iss) (w : Warp) (l : Nat) : Nat :=
  if x.f.c3 = 0#3 then imm16 x.f else imm16 x.f * 2 ^ 16 + (w.get x.rd l).toNat % 2 ^ 16

/-- `V2S` (R241): lane j's register, once, when a lane participates. -/
def v2sEff (x : Iss) (s : State) : Res :=
  let w := s.warp x.core x.slot
  if x.part w = 0#32 then .done { s := s }
  else .done { s := x.withWarp s (w.put x.rd 0 (w.get x.r1 (x.v2sLane w))) }

/-- `LXCH`: every value is read before any lane writes (R242). -/
def lxchEff (x : Iss) (s : State) : Res :=
  let w := s.warp x.core x.slot
  let vals := (lanes (x.part w)).map (fun l => (l, lxchVal x w l))
  .done { s := x.withWarp s (w.writeLanes x.rd 1 (fun l => SMap.get 0 vals l) (lanes (x.part w))) }

/-- `SRR` (R243): TSCB is an acquire for each bit that it shows set (R143, R245). -/
def srrEff (x : Iss) (s : State) : Res :=
  let w := s.warp x.core x.slot
  let n := imm16 x.f
  let s' := x.withWarp s (w.writeLanes x.rd (specialRegs n) (x.special s n) (x.exec w))
  .done { s := if n = 0x013 ∧ x.part w ≠ 0#32 then s'.tscbAcquire x.core w.group (s.groupOf x.core x.slot).tscb else s' }

/-- `SRW` (R243): the value of the lowest participating lane. -/
def srwEff (x : Iss) (s : State) : Res :=
  let w := s.warp x.core x.slot
  match lowestLane (x.part w) with
  | none => .done { s := s }
  | some l => .done { s := x.withWarp s (w.writeSpecial (imm16 x.f) (w.getRun x.r1 l (specialRegs (imm16 x.f)))) }

/-- `MOV` writes its one source operand (R240). -/
def movVal (x : Iss) (w : Warp) (l : Nat) : Nat := x.a w l

/-- `MOV_16` (R198, R240); the parcel 0x0000 is the unassigned opcode (R199). -/
def execMov16 (f : Form16) (s : State) : Host.Outcome State Fault Refusal := runCore (.mov16 f) (laneOp 1 movVal) s
/-- `MOV_32` (R240). -/
def execMov32 (f : Form32) (s : State) : Host.Outcome State Fault Refusal := runCore (.mov32 f) (laneOp 1 movVal) s
/-- `MOV_64` (R240). -/
def execMov64 (f : Form64) (s : State) : Host.Outcome State Fault Refusal := runCore (.mov64 f) (laneOp 1 movVal) s
/-- `MOVI_16` (R240). -/
def execMovi16 (f : Form16) (s : State) : Host.Outcome State Fault Refusal := runCore (.movi16 f) (laneOp 1 moviVal) s
/-- `MOVI_64` (R240). -/
def execMovi64 (f : Form64) (s : State) : Host.Outcome State Fault Refusal := runCore (.movi64 f) (laneOp 1 moviVal) s
/-- `MOVW` (R240). -/
def execMovw (f : Form64) (s : State) : Host.Outcome State Fault Refusal := runCore (.movw f) (laneOp 1 movwVal) s
/-- `S2V` (R240). -/
def execS2v (f : Form64) (s : State) : Host.Outcome State Fault Refusal := runCore (.s2v f) (laneOp 1 movVal) s
/-- `V2S` (R241). -/
def execV2s (f : Form64) (s : State) : Host.Outcome State Fault Refusal := runCore (.v2s f) (v2sEff) s
/-- `LXCH` (R242). -/
def execLxch (f : Form64) (s : State) : Host.Outcome State Fault Refusal := runCore (.lxch f) (lxchEff) s
/-- `SRR` (R243, R245). -/
def execSrr (f : Form64) (s : State) : Host.Outcome State Fault Refusal := runCore (.srr f) (srrEff) s
/-- `SRW` (R243, R245). -/
def execSrw (f : Form64) (s : State) : Host.Outcome State Fault Refusal := runCore (.srw f) (srwEff) s
/-- `PSET` (R237). -/
def execPset (f : Form64) (s : State) : Host.Outcome State Fault Refusal := runCore (.pset f) (predOp psetVal) s
/-- `PMOV` (R237). -/
def execPmov (f : Form64) (s : State) : Host.Outcome State Fault Refusal := runCore (.pmov f) (predOp (fun x w l => w.pred x.f.rs1.toNat l != (x.f.c3 == 1#3))) s
/-- `PLUT` (R237). -/
def execPlut (f : Form64) (s : State) : Host.Outcome State Fault Refusal := runCore (.plut f) (predOp (fun x w l => truthAt x.truth (w.pred x.f.rs1.toNat l) (w.pred x.f.rs2.toNat l) (w.pred x.f.rs3.toNat l))) s
/-- `PGATH` (R238). -/
def execPgath (f : Form64) (s : State) : Host.Outcome State Fault Refusal := runCore (.pgath f) (laneOp 1 pgathVal) s
/-- `LPEER` (R239). -/
def execLpeer (f : Form64) (s : State) : Host.Outcome State Fault Refusal := runCore (.lpeer f) (laneOp 1 lpeerVal) s

end Sys2Proof.Machine
end

