-- ==== Sys2Proof/Machine/Registers.lean ====
section
/-! DEFINITION. Register writes of the host and of the housekeeping core: the BAR0 blocks of R376, R377, R378, R382, R397, R412, R413 and R415, and the control space of R406 and R408. -/

namespace Sys2Proof.Machine

/-- A write of `size` bytes at an offset merged into a 64-bit register. -/
def mergeWrite (old off size : Nat) (v : DWord) : Nat := putField old (8 * (off % 8)) (8 * size) (field v.toNat 0 (8 * size))

/-- What a write sets in a register whose bits are written by ones, or that takes a doorbell: bytes that it does not name are zero. -/
def newBits (off size : Nat) (v : DWord) : Nat := mergeWrite 0 off size v

/-- The low bits of a field that breaks its alignment read back as zero. -/
def aligned (v n : Nat) : Nat := v / n * n

/-! ### Mailbox (R397) -/

/-- Starts the command. -/
def Module.go (z : Module) (v : Nat) : Module := if bit v 0 ∧ z.mbBusy = false then { z with mbBusy := true } else z

/-- Bytes of the running command's data are corrupted: free values (R397). -/
def State.corrupt (s : State) (m : Nat) : List Nat → State
  | [] => s
  | i :: t =>
    let (v, s) := s.takeFree; let z := s.module m
    State.corrupt (s.setModule m { z with mbData := SMap.set 0#8 z.mbData i (v.setWidth 8) }) m t

/-- A write to the mailbox block; one to MBCMD or MBDATA while a command runs corrupts its data. -/
def State.writeMailbox (s : State) (m off size : Nat) (v : DWord) : State :=
  let z := s.module m
  if off < 8 then
    let w := mergeWrite (z.mbCode + z.mbLen * 2 ^ 16) off size v
    let s := if z.mbBusy then s.corrupt m (List.range (min 3840 z.mbLen)) else s
    s.setModule m { s.module m with mbCode := field w 0 8, mbLen := field w 16 16 }
  else if off < 16 then s.setModule m (z.go (newBits off size v))
  else if off < 0x100 then s
  else
    let i := off - 0x100
    if z.mbBusy then s.corrupt m ((List.range size).map (fun k => i + k))
    else
      let bs := leBytes size (field v.toNat 0 (8 * size))
      s.setModule m { z with mbData := bs.zipIdx.foldl (fun (d : SMap Byte) b => SMap.set 0#8 d (i + b.2) b.1) z.mbData }

/-! ### Queue pages (R382) -/

/-- The bits of QCTL act: CLEAR, then STOP, then ENABLE. -/
def State.writeQctl (s : State) (q w : Nat) : State :=
  let s := if bit w 2 then s.clearQueue q else s
  let s := if bit w 1 then s.haltQueue q else s
  if bit w 0 then s.enableQueue q else s

/-- A write to a queue page: QBASE, QSIZE and RIDXADDR take effect only in state 0 or 4. -/
def State.writeQueuePage (s : State) (q off size : Nat) (v : DWord) : State :=
  let z := s.queue q
  let still := z.state = QState.disabled ∨ z.state = QState.stopped
  match off / 8 with
  | 0 => if still then s.setQueue q { z with qbase := BitVec.ofNat 64 (aligned (mergeWrite z.qbase.toNat off size v) 4096) } else s
  | 1 => if still then s.setQueue q { z with qsize := BitVec.ofNat 64 (mergeWrite z.qsize.toNat off size v % 32) } else s
  | 2 => if still then s.setQueue q { z with ridxaddr := BitVec.ofNat 64 (aligned (mergeWrite z.ridxaddr.toNat off size v) 8) } else s
  | 3 => s.writeQctl q (newBits off size v)
  | 6 => if size = 8 then s.ringTail q v else s
  | _ => s

/-! ### Module block (R377, R413) -/

/-- A queue of the module runs, or a group of any context is resident: writes to the module block are ignored. -/
def State.moduleInUse (s : State) (m : Nat) : Bool :=
  (List.range 32).any (fun i => let z := s.queue (32 * m + i); z.state == .running || z.state == .waiting) || !(s.residents m (fun _ => true)).isEmpty

/-- QFUNC has changed: the CSR QCTX of every thread holds its queue's function (R380). -/
def State.spreadQfunc (s : State) (m : Nat) : State :=
  (List.range 32).foldl (fun s i => let q := 32 * m + i; let z := s.queue q; s.setQueue q { z with qctx := BitVec.ofNat 64 (s.queueFunction q) }) s

/-- A physical address that the driver writes: bits [50:44] of one in domain memory are ignored and read back clear (R88). -/
def driverPa (v : Nat) : Nat := if bit v 51 then v else putField v 44 7 0

/-- What a register of the module block keeps of a value. -/
def moduleField (off v : Nat) : Nat :=
  if off < 0x200 then (if off % 16 = 0 then driverPa (aligned v 4096) else v)
  else if off = 0x200 then driverPa (aligned v (2 ^ 21))
  else if off = 0x218 then v % 2 ^ 32
  else if off = 0x220 then max 16 (min 28 (v % 32))
  else v % 2 ^ 32

/-- A write to the module block. -/
def State.writeModuleBlock (s : State) (m off size : Nat) (v : DWord) : State :=
  let z := s.module m; let w := off / 8 * 8
  let known := w ≤ 0x220 ∨ w = 0x230
  if s.moduleInUse m ∨ !known then s
  else
    let old := if w = 0x220 then z.hubTmo else (SMap.get 0#64 z.pf w).toNat; let new := mergeWrite old off size v
    let kept := if w = 0x208 ∨ w = 0x210 then new else moduleField w new
    let s := s.setModule m { z with pf := SMap.set 0#64 z.pf w (BitVec.ofNat 64 kept) }
    if 0x208 ≤ w ∧ w ≤ 0x218 then s.spreadQfunc m else s

/-- A write to the counter block: ones clear their bits of a counter, all ones the whole of it (R6, R415). -/
def State.writeCounter (s : State) (m off size : Nat) (v : DWord) : State :=
  let z := s.module m; let w := off / 8 * 8; let ones := newBits off size v
  if 0x400 ≤ off ∧ off < 0x600 then s
  else
    let old := SMap.get 0 z.counters w
    s.setModule m { z with counters := SMap.set 0 z.counters w (old - (old &&& ones)) }

/-! ### Context blocks (R378, R412) -/

/-- What a register of a context block keeps of a value, given what it held. -/
def State.ctxField (s : State) (x off old v : Nat) : Option Nat :=
  match off with
  | 0x000 => some (driverPa (aligned v (2 ^ 17)))
  | 0x008 => some (aligned v 128) | 0x010 => some (aligned v 256) | 0x018 => some (aligned v 512) | 0x020 => some (aligned v 256)
  | 0x030 => some (aligned v 64) | 0x048 => some (aligned v 256) | 0x060 => some (aligned v 32) | 0x070 => some (aligned v 4096)
  | 0x028 | 0x038 | 0x040 | 0x050 | 0x058 | 0x068 | 0x090 | 0x098 | 0x0A0 | 0x0A8 => some v
  | 0x078 => some (field v 0 5 + field v 8 8 * 2 ^ 8 + field old 32 32 * 2 ^ 32)
  | 0x0B0 => some ((v % 2 ^ 32 &&& s.domMask (x / 32)) ||| 2 ^ (x / 32))
  | 0x100 => some (v % 2 ^ 25)
  | 0x108 => some (v % 2 ^ 48)
  | _ => none

/-- A write to a context block. -/
def State.writeCtxBlock (s : State) (x off size : Nat) (v : DWord) : State :=
  let w := off / 8 * 8
  if w = 0x080 then s.resolveFault x (newBits off size v)
  else if w = 0x088 then (if bit (newBits off size v) 0 then (let k := s.ctx x; s.setCtx x { k with acked := true }) else s)
  else
    let k := s.ctx x; let old := (SMap.get 0#64 k.regs w).toNat
    match s.ctxField x w old (mergeWrite old off size v) with
    | some n => s.setCtx x { k with regs := SMap.set 0#64 k.regs w (BitVec.ofNat 64 n) }
    | none => s

/-! ### The blocks of BAR0 (R376) -/

/-- A write through the physical function's BAR0. -/
def State.writePf (s : State) (m off size : Nat) (v : DWord) : State :=
  if 0x1000 ≤ off ∧ off < 0x2000 then s.writeMailbox m (off - 0x1000) size v
  else if 0x100000 ≤ off ∧ off < 0x120000 then s.writeQueuePage (32 * m + (off - 0x100000) / 4096) (off % 4096) size v
  else if 0x200000 ≤ off ∧ off < 0x201000 then s.writeModuleBlock m (off - 0x200000) size v
  else if 0x202000 ≤ off ∧ off < 0x203000 then s.writeCounter m (off - 0x202000) size v
  else if 0x300000 ≤ off ∧ off < 0x320000 then s.writeCtxBlock (32 * m + (off - 0x300000) / 4096) (off % 4096) size v
  else s

/-- A write through a virtual function's BAR0: its queues by rank, and its doorbell page. -/
def State.writeVf (s : State) (m f off size : Nat) (v : DWord) : State :=
  if off < 0x20000 then
    match (s.queuesOf m (fun x => x == 32 * m + f))[off / 4096]? with
    | some q => s.writeQueuePage q (off % 4096) size v
    | none => s
  else if 0x20000 ≤ off ∧ off < 0x20008 then s.writeCtxBlock (32 * m + f) (0x080 + off % 8) size v
  else if 0x20008 ≤ off ∧ off < 0x20010 then s.writeCtxBlock (32 * m + f) (0x088 + off % 8) size v
  else s

/-! ### The control space (R406, R408) -/

/-- A write to a PHY block. -/
def State.writePhy (s : State) (m n off size : Nat) (v : DWord) : State :=
  if 8 ≤ off then s
  else
    let p := (s.module m).phyOf n; let w := mergeWrite (p.first * 2 ^ 8 + p.last * 2 ^ 12) off size v; let acts := newBits off size v
    let s := s.setPhy m n { p with first := field w 8 4, last := field w 12 4 }
    let s := if bit acts 1 then s.abortTraining m n else s
    if bit acts 0 then s.startTraining m n else s

/-- A write to a fabric port block. -/
def State.writeFabric (s : State) (m n off size : Nat) (v : DWord) : State :=
  let p := (s.module m).fabricOf n
  if off < 8 then
    let acts := newBits off size v
    let s := s.setFabric m n { p with autoeq := bit (mergeWrite (p.autoeq.toNat * 2 ^ 8) off size v) 8 }
    let s := if bit acts 1 then s.linkOff m n else s
    if bit acts 0 then s.linkOn m n else s
  else if 0x10 ≤ off ∧ off < 0x18 then s.setFabric m n { p with leq := BitVec.ofNat 32 (mergeWrite p.leq.toNat off size v) }
  else s

/-- A write to the housekeeping control space. -/
def State.writeControl (s : State) (m a size : Nat) (v : DWord) : State :=
  if 0x21000000 ≤ a ∧ a < 0x21020000 then s.writePhy m ((a - 0x21000000) / 256) (a % 256) size v
  else if 0x22000000 ≤ a ∧ a < 0x22004000 then s.writeFabric m ((a - 0x22000000) / 256) (a % 256) size v
  else s

/-- The offset of a target. -/
def regOffset : RegTarget → Nat
  | .pf _ o => o
  | .vf _ _ o => o
  | .control _ a => a

/-- `REGISTER_WRITE`: a naturally aligned write of 1, 2, 4 or 8 bytes (R6). Operands: target, size, value. -/
def execRegisterWrite (s : State) : Host.Outcome State Fault Refusal :=
  let a := s.args
  match a.target with
  | none => .refused (.notEnabled "REGISTER_WRITE")
  | some t =>
    if !([1, 2, 4, 8] : List Nat).contains a.size ∨ regOffset t % a.size ≠ 0 then .refused (.notEnabled "REGISTER_WRITE")
    else
      match t with
      | .pf m o => .next (s.writePf m o a.size a.value)
      | .vf m f o => if f = 0 ∨ 31 < f then .refused (.notEnabled "REGISTER_WRITE") else .next (s.writeVf m f o a.size a.value)
      | .control m o => .next (s.writeControl m o a.size a.value)

end Sys2Proof.Machine
end

