-- ==== Sys2Proof/Machine/Spdm.lean ====
section
/-! DEFINITION. The SPDM 1.3 responder (R405). Message layouts and signing contexts are those of the SPDM standard (log 28). -/

namespace Sys2Proof.Machine

/-! ### Messages -/

/-- A response: version, code, two parameters and a body. -/
def spdmMessage (code p1 p2 : Nat) (body : List Byte) : List Byte := leBytes 4 (0x13 + code * 2 ^ 8 + p1 % 256 * 2 ^ 16 + p2 % 256 * 2 ^ 24) ++ body

/-- An ERROR response. -/
def spdmError (code data : Nat) : List Byte := spdmMessage 0x7F code data []

/-- A number in a message, by its first byte and length, the low byte first. -/
def spdmField (msg : List Byte) (lo n : Nat) : Nat := ofLe ((msg.drop lo).take n)

/-- Capabilities: certificates, challenges, signed measurements and SET_CERTIFICATE. -/
def spdmFlags : Nat := 2 ^ 1 + 2 ^ 2 + 2 ^ 4 + 2 ^ 19

/-- Largest message of a transport. -/
def spdmSize : Nat := 3840

/-- What the responder knows and holds while it forms a response: the connection, the module's certificate of slot 1, and the response. -/
structure SpdmReply where
  conn : Spdm
  certificate : List Byte
  message : List Byte

/-- The requests of R405. -/
def spdmRequests : List Nat := [0x84, 0xE1, 0xE3, 0x81, 0x82, 0x83, 0xE0, 0xEE]

/-- The SPDM request that is to be answered: one that the mailbox holds under command 0x30, or one that has come over the DOE capability. -/
def State.spdmPending (s : State) : Option (List Byte) :=
  let z := s.module s.args.module
  if s.args.doe then some s.args.data
  else if z.mbBusy ∧ z.mbCode = 0x30 ∧ z.mbLen ≤ spdmSize then some z.request
  else none

/-- Answers a request on the transport that it came on. -/
def State.spdmAnswer (s : State) (r : SpdmReply) : State :=
  let m := s.args.module; let z := s.module m; let t := if s.args.doe then 1 else 0
  let s := s.setModule m { z with spdm := SMap.set {} z.spdm t r.conn, certificate := r.certificate }
  if s.args.doe then { s with log := s.log ++ [.spdm m true r.message] } else s.reply m 0 r.message

/-- A request of a code is answered: another version, or a request before its turn, is an error. Operands: module; doe with data. -/
def State.spdm (s : State) (name : String) (code : Nat) (turn : Spdm → Bool) (answer : (conn : Spdm) → (certificate msg : List Byte) → SpdmReply) :
    Host.Outcome State Fault Refusal :=
  let z := s.module s.args.module; let k : Spdm := SMap.get {} z.spdm (if s.args.doe then 1 else 0)
  let bad (e : Nat) : Host.Outcome State Fault Refusal := .next (s.spdmAnswer { conn := k, certificate := z.certificate, message := spdmError e 0 })
  match s.spdmPending with
  | none => .refused (.notEnabled name)
  | some msg =>
    if msg.length < 4 ∨ spdmField msg 1 1 ≠ code then .refused (.notEnabled name)
    else if spdmField msg 0 1 ≠ (if code = 0x84 then 0x10 else 0x13) then bad 0x41
    else if turn k then .next (s.spdmAnswer (answer k z.certificate msg))
    else bad 0x04

/-! ### Opening a connection -/

/-- `GET_VERSION` (R405): version 1.3; the connection starts afresh. -/
def execGetVersion (s : State) : Host.Outcome State Fault Refusal :=
  s.spdm "GET_VERSION" 0x84 (fun _ => true) (fun _ c msg =>
    let r := leBytes 8 (0x10 + 0x04 * 2 ^ 8 + 1 * 2 ^ 40 + 0x1300 * 2 ^ 48)
    { conn := { version := true, opening := msg ++ r }, certificate := c, message := r })

/-- `GET_CAPABILITIES` (R405). -/
def execGetCapabilities (s : State) : Host.Outcome State Fault Refusal :=
  s.spdm "GET_CAPABILITIES" 0xE1 (fun k => k.version) (fun k c msg =>
    let r := spdmMessage 0x61 0 0 (leBytes 4 0 ++ leBytes 4 spdmFlags ++ leBytes 4 spdmSize ++ leBytes 4 spdmSize)
    { conn := { k with capabilities := true, opening := k.opening ++ msg ++ r }, certificate := c, message := r })

/-- `NEGOTIATE_ALGORITHMS` (R405): ECDSA P-384 and SHA-384 only; a requester that offers neither is turned away. -/
def execNegotiateAlgorithms (s : State) : Host.Outcome State Fault Refusal :=
  s.spdm "NEGOTIATE_ALGORITHMS" 0xE3 (fun k => k.capabilities) (fun k c msg =>
    if spdmField msg 8 4 / 2 ^ 7 % 2 = 0 ∨ spdmField msg 12 4 / 2 % 2 = 0 then { conn := k, certificate := c, message := spdmError 0x01 0 }
    else
      let r := spdmMessage 0x63 0 0 (leBytes 2 36 ++ leBytes 2 1 ++ leBytes 4 4 ++ leBytes 4 0x80 ++ leBytes 4 2 ++ leBytes 16 0)
      { conn := { k with algorithms := true, opening := k.opening ++ msg ++ r }, certificate := c, message := r })

/-! ### Certificates -/

/-- The chain of a certificate slot of a module: slot 0 the vendor's, slot 1 the one that SET_CERTIFICATE wrote. -/
def spdmChain (m : Nat) (certificate : List Byte) (slot : Nat) : Option (List Byte) :=
  match slot with
  | 0 => some ((List.range (Config.vendorChainLength m)).map (Config.vendorChain m))
  | 1 => if certificate.isEmpty then none else some certificate
  | _ => none

/-- The slots that hold a chain. -/
def spdmSlots (certificate : List Byte) : Nat := if certificate.isEmpty then 1 else 3

/-- `GET_DIGESTS` (R405). -/
def execGetDigests (s : State) : Host.Outcome State Fault Refusal :=
  s.spdm "GET_DIGESTS" 0x81 (fun k => k.algorithms) (fun k c msg =>
    let ds := (List.range 2).flatMap (fun i => match spdmChain s.args.module c i with | some b => sha384 b | none => [])
    let r := spdmMessage 0x01 3 (spdmSlots c) ds
    { conn := { k with certs := k.certs ++ msg ++ r }, certificate := c, message := r })

/-- `GET_CERTIFICATE` (R405): a portion of a chain. -/
def execGetCertificate (s : State) : Host.Outcome State Fault Refusal :=
  s.spdm "GET_CERTIFICATE" 0x82 (fun k => k.algorithms) (fun k c msg =>
    let slot := spdmField msg 2 1 % 16; let off := spdmField msg 4 2; let n := spdmField msg 6 2
    match spdmChain s.args.module c slot with
    | none => { conn := k, certificate := c, message := spdmError 0x01 0 }
    | some b =>
      if b.length ≤ off then { conn := k, certificate := c, message := spdmError 0x01 0 }
      else
        let part := (b.drop off).take (min n (spdmSize - 8))
        let r := spdmMessage 0x02 slot 0 (leBytes 2 part.length ++ leBytes 2 (b.length - off - part.length) ++ part)
        { conn := { k with certs := k.certs ++ msg ++ r }, certificate := c, message := r })

/-- `SET_CERTIFICATE` (R405): slot 1, while KEYEN is high. -/
def execSetCertificate (s : State) : Host.Outcome State Fault Refusal :=
  s.spdm "SET_CERTIFICATE" 0xEE (fun k => k.algorithms) (fun k c msg =>
    if spdmField msg 2 1 % 16 ≠ 1 ∨ (s.module s.args.module).keyen = false then { conn := k, certificate := c, message := spdmError 0x01 0 }
    else { conn := k, certificate := msg.drop 4, message := spdmMessage 0x6E 1 0 [] })

/-! ### Measurements and signatures -/

/-- A measurement block (R405): block n is slot n − 1, a 48-byte digest; block 1 has type immutable ROM, the others mutable firmware. -/
def Module.block (z : Module) (n : Nat) : List Byte :=
  leBytes 4 (n + 1 * 2 ^ 8 + 51 * 2 ^ 16) ++ leBytes 3 ((if n = 1 then 0 else 1) + 48 * 2 ^ 8) ++ digestBytes (SMap.get 0#384 z.slots (n - 1))

/-- All sixteen blocks. -/
def Module.blocks (z : Module) : List Byte := (List.range 16).flatMap (fun i => z.block (i + 1))

/-- The signature of a module's device key over a transcript, under the signing context of SPDM 1.3. -/
def spdmSign (m : Nat) (context : String) (transcript : List Byte) : List Byte :=
  let bytes (t : String) : List Byte := t.toList.map (fun c => BitVec.ofNat 8 c.toNat)
  let version := bytes "dmtf-spdm-v1.3.*"; let ctx := bytes context
  let prefixed := version ++ version ++ version ++ version ++ List.replicate (36 - ctx.length) 0#8 ++ ctx ++ sha384 transcript
  beBytes 96 (Config.deviceSignature m (BitVec.ofNat 384 (ofBe (sha384 prefixed)))).toNat

/-- `CHALLENGE` (R405): a signed response over the connection's transcript. -/
def execChallenge (s : State) : Host.Outcome State Fault Refusal :=
  s.spdm "CHALLENGE" 0x83 (fun k => k.algorithms) (fun k c msg =>
    let slot := spdmField msg 2 1 % 16; let kind := spdmField msg 3 1
    match spdmChain s.args.module c slot with
    | none => { conn := k, certificate := c, message := spdmError 0x01 0 }
    | some b =>
      if msg.length < 44 then { conn := k, certificate := c, message := spdmError 0x01 0 }
      else
        let sum := if kind = 0 then [] else sha384 (s.module s.args.module).blocks
        let body := sha384 b ++ leBytes 32 s.args.nonce.toNat ++ sum ++ leBytes 2 0 ++ (msg.drop 36).take 8
        let r := spdmMessage 0x03 slot (spdmSlots c) body
        let sig := spdmSign s.args.module "responder-challenge_auth signing" (k.opening ++ k.certs ++ msg ++ r)
        { conn := { k with certs := [] }, certificate := c, message := r ++ sig })

/-- `GET_MEASUREMENTS` (R405): the number of blocks, one block or all of them, with a signature on request. -/
def execGetMeasurements (s : State) : Host.Outcome State Fault Refusal :=
  s.spdm "GET_MEASUREMENTS" 0xE0 (fun k => k.algorithms) (fun k c msg =>
    let z := s.module s.args.module
    let signed := spdmField msg 2 1 % 2 = 1; let op := spdmField msg 3 1
    let slot := if signed then spdmField msg 36 1 % 16 else 0
    let lead := if signed then 37 else 4
    if msg.length < lead + 8 ∨ (16 < op ∧ op ≠ 0xFF) ∨ (signed ∧ (spdmChain s.args.module c slot).isNone) then
      { conn := k, certificate := c, message := spdmError 0x01 0 }
    else
      let record := if op = 0 then [] else if op = 0xFF then z.blocks else z.block op
      let n := if op = 0 then 0 else if op = 0xFF then 16 else 1
      let body := leBytes 4 (n + record.length % 2 ^ 24 * 2 ^ 8) ++ record ++ leBytes 32 s.args.nonce.toNat ++ leBytes 2 0 ++ (msg.drop lead).take 8
      let r := spdmMessage 0x60 (if op = 0 then 16 else 0) slot body
      let transcript := k.measured ++ msg ++ r
      if signed then
        let sig := spdmSign s.args.module "responder-measurements signing" (k.opening ++ transcript)
        { conn := { k with measured := [] }, certificate := c, message := r ++ sig }
      else { conn := { k with measured := transcript }, certificate := c, message := r })

/-- `UNSUPPORTED_SPDM_REQUEST`: any other message is answered with ERROR UnsupportedRequest (R405). -/
def execUnsupportedSpdmRequest (s : State) : Host.Outcome State Fault Refusal :=
  let z := s.module s.args.module; let k : Spdm := SMap.get {} z.spdm (if s.args.doe then 1 else 0)
  match s.spdmPending with
  | none => .refused (.notEnabled "UNSUPPORTED_SPDM_REQUEST")
  | some msg =>
    if 4 ≤ msg.length ∧ spdmRequests.contains (spdmField msg 1 1) then .refused (.notEnabled "UNSUPPORTED_SPDM_REQUEST")
    else .next (s.spdmAnswer { conn := k, certificate := z.certificate, message := spdmError 0x07 (spdmField msg 1 1) })

end Sys2Proof.Machine
end

