-- ==== Sys2Proof/Machine/Special.lean ====
section
/-! DEFINITION. The special functions of R255 and R256: each delivers the exact value of its function rounded once to f32. Roots and reciprocals are exact with a sticky bit; the transcendental ones are enclosed between two fixed-point numbers, at growing precision until both round alike. -/

namespace Sys2Proof.Machine

/-- The integer square root, bit by bit from a given bit down. -/
def isqrtFrom (n : Nat) : (bits : Nat) → (r : Nat) → Nat
  | 0, r => r
  | b + 1, r => isqrtFrom n b (if (r + 2 ^ b) * (r + 2 ^ b) ≤ n then r + 2 ^ b else r)

/-- ⌊√n⌋. -/
def isqrt (n : Nat) : Nat := isqrtFrom n (Nat.log2 n / 2 + 1) 0

/-- A root of num / den times 2^(2h), as a value with a sticky bit. -/
def rootOf (num den : Nat) (h : Int) : FVal :=
  let k := 2 * (100 + Nat.log2 (den + 1))
  let x := num * 2 ^ k / den
  let r := isqrt x
  .fin false (2 * r + (if r * r = x ∧ num * 2 ^ k % den = 0 then 0 else 1)) (h - (k / 2 : Nat) - 1)

/-- FSQRT (R255, R256). -/
def sqrtVal (v : FVal) : FVal :=
  match v with
  | .fin neg m e =>
    if m = 0 then .fin neg 0 0 else if neg then .nan
    else if e % 2 = 0 then rootOf m 1 (e / 2) else rootOf (2 * m) 1 ((e - 1) / 2)
  | .inf false => .inf false
  | _ => .nan

/-- FRSQ (R255, R256). -/
def rsqVal (v : FVal) : FVal :=
  match v with
  | .fin neg m e =>
    if m = 0 then .inf neg else if neg then .nan
    else if e % 2 = 0 then rootOf 1 m (-(e / 2)) else rootOf 1 (2 * m) (-((e - 1) / 2))
  | .inf false => .fin false 0 0
  | _ => .nan

/-- FRCP (R255, R256). -/
def rcpVal (v : FVal) : FVal :=
  match v with
  | .fin neg m e => if m = 0 then .inf neg else (FVal.fin neg 1 0).quot (.fin false m e)
  | .inf neg => .fin neg 0 0
  | .nan => .nan

/-! ### Fixed point: an integer `x` stands for x / 2^p -/

/-- Terms x^k / k!, from a term on, each truncated; `step` gives the divisor of the next term. -/
def powerSum (p : Nat) (x : Int) (div : Nat → Int) : (fuel : Nat) → (k : Nat) → (term : Int) → Int
  | 0, _, _ => 0
  | n + 1, k, t => if t = 0 then 0 else t + powerSum p x div n (k + 1) ((t * x / (2 ^ p : Nat)) / div k)

/-- e^x − 1. -/
def expm1 (p : Nat) (x : Int) : Int := powerSum p x (fun k => (k + 2 : Nat)) (2 * p) 0 x

/-- Σ z^(2k+1) / (2k+1) over the odd powers, with the sign of alternate terms given by `sg`: atanh for +1, arctangent for −1. -/
def oddSum (p : Nat) (z2 : Int) (sg : Int) : (fuel : Nat) → (k : Nat) → (pow : Int) → Int
  | 0, _, _ => 0
  | n + 1, k, t => if t = 0 then 0 else t / (2 * k + 1 : Nat) + sg * oddSum p z2 sg n (k + 1) (t * z2 / (2 ^ p : Nat))

/-- atanh z, for |z| at most 1/3. -/
def atanhFix (p : Nat) (z : Int) : Int := oddSum p (z * z / (2 ^ p : Nat)) 1 (2 * p) 0 z
/-- ln 2. -/
def ln2Fix (p : Nat) : Int := 2 * atanhFix p ((2 ^ p : Nat) / 3)
/-- arctan (1 / n). -/
def atanInv (p n : Nat) : Int := oddSum p ((2 ^ p : Nat) / (n * n : Nat)) (-1) (2 * p) 0 ((2 ^ p : Nat) / (n : Int))
/-- π / 2. -/
def halfPi (p : Nat) : Int := 8 * atanInv p 5 - 2 * atanInv p 239

/-- Sine and cosine, for |r| at most π / 4 and a little. -/
def sinFix (p : Nat) (r : Int) : Int := powerSum p (-(r * r / (2 ^ p : Nat))) (fun k => ((2 * k + 2) * (2 * k + 3) : Nat)) (2 * p) 0 r
/-- Cosine. -/
def cosFix (p : Nat) (r : Int) : Int := powerSum p (-(r * r / (2 ^ p : Nat))) (fun k => ((2 * k + 1) * (2 * k + 2) : Nat)) (2 * p) 0 (2 ^ p : Nat)

/-- A finite value in fixed point, its bits below 2^−p cut off. -/
def FVal.fix (v : FVal) (p : Nat) : Int :=
  match v with
  | .fin neg m e =>
    let k : Int := e + p
    let n : Int := if 0 ≤ k then (m * 2 ^ k.toNat : Nat) else (m / 2 ^ (-k).toNat : Nat)
    if neg then -n else n
  | _ => 0

/-- 2^a for a finite a: the mantissa in fixed point and the exponent beside it. -/
def exp2Fix (v : FVal) (p : Nat) : Int × Int :=
  let x := v.fix p; let n := x / (2 ^ p : Nat); let f := x % (2 ^ p : Nat)
  ((2 ^ p : Nat) + expm1 p (f * ln2Fix p / (2 ^ p : Nat)), n)

/-- log2 of a finite positive value: the mantissa is taken in [3/4, 3/2) so that nothing cancels. -/
def log2Fix (v : FVal) (p : Nat) : Int × Int :=
  match v with
  | .fin _ m e =>
    let b := Nat.log2 m
    let big := 2 * m ≥ 3 * 2 ^ b
    let one : Int := (2 ^ (if big then b + 1 else b) : Nat)
    let k : Int := e + b + (if big then 1 else 0)
    let z := (((m : Int) - one) * (2 ^ p : Nat)) / ((m : Int) + one)
    (k * (2 ^ p : Nat) + 2 * atanhFix p z * (2 ^ p : Nat) / ln2Fix p, 0)
  | _ => (0, 0)

/-- Sine or cosine of a finite value in radians, reduced by multiples of π / 2. -/
def trigFix (cosine : Bool) (v : FVal) (p : Nat) : Int × Int :=
  let x := v.fix p; let h := halfPi p
  let k := (2 * x + h) / (2 * h); let r := x - k * h
  let q := (k + (if cosine then 1 else 0)) % 4
  (if q = 0 then sinFix p r else if q = 1 then cosFix p r else if q = 2 then -(sinFix p r) else -(cosFix p r), 0)

/-- tanh of a finite value: (e^2a − 1) / (e^2a + 1). -/
def tanhFix (v : FVal) (p : Nat) : Int × Int :=
  match v with
  | .fin neg m e =>
    let y := expm1 p (2 * (FVal.fin false m e).fix p)
    let t := y * (2 ^ p : Nat) / (y + 2 * (2 ^ p : Nat))
    (if neg then -t else t, 0)
  | _ => (0, 0)

/-- A fixed-point number as a value. -/
def fixVal (p : Nat) (x k : Int) : FVal := ofScaled false x (k - p)

/-- Rounds an enclosed value to f32 by .rne: the bounds lie 2^24 units of the last place apart on either side; where they round differently the
precision grows. -/
def roundEnclosed (f : Nat → Int × Int) : (fuel : Nat) → (p : Nat) → Nat
  | 0, p => let (x, k) := f p; (fmtOf 0).round (fixVal p x k) 0 false
  | n + 1, p =>
    let (x, k) := f p
    let lo := (fmtOf 0).round (fixVal p (x - 2 ^ 24) k) 0 false; let hi := (fmtOf 0).round (fixVal p (x + 2 ^ 24) k) 0 false
    if lo = hi then lo else roundEnclosed f n (2 * p)

/-- FEXP2 (R255, R256). -/
def exp2Bits (v : FVal) : Nat :=
  match v with
  | .nan => (fmtOf 0).canon
  | .inf neg => if neg then 0 else (fmtOf 0).infBits
  | v =>
    if v.compare (ofInt 128) ≥ 0 then (fmtOf 0).infBits
    else if v.compare (ofInt (-150)) ≤ 0 then 0
    else if v.compare (ofInt (v.toInt 1)) = 0 then (fmtOf 0).round (.fin false 1 (v.toInt 1)) 0 false
    else roundEnclosed (exp2Fix v) 4 256

/-- FLOG2 (R255, R256). -/
def log2Bits (v : FVal) : Nat :=
  match v with
  | .fin neg m e =>
    if m = 0 then (fmtOf 0).signed true (fmtOf 0).infBits
    else if neg then (fmtOf 0).canon
    else if m = 2 ^ Nat.log2 m then (fmtOf 0).round (ofInt (e + Nat.log2 m)) 0 false
    else roundEnclosed (log2Fix v) 4 256
  | .inf false => (fmtOf 0).infBits
  | _ => (fmtOf 0).canon

/-- FSIN and FCOS (R255, R256). -/
def trigBits (cosine : Bool) (v : FVal) : Nat :=
  match v with
  | .fin neg m e =>
    if m = 0 then (if cosine then 0x3F800000 else (fmtOf 0).signed neg 0)
    else roundEnclosed (trigFix cosine (.fin neg m e)) 4 512
  | _ => (fmtOf 0).canon

/-- FTANH (R255, R256). -/
def tanhBits (v : FVal) : Nat :=
  match v with
  | .nan => (fmtOf 0).canon
  | .inf neg => (fmtOf 0).signed neg 0x3F800000
  | .fin neg m e =>
    if m = 0 then (fmtOf 0).signed neg 0
    else if (FVal.fin false m e).compare (.fin false 19 (-1)) ≥ 0 then (fmtOf 0).signed neg 0x3F800000
    else roundEnclosed (tanhFix v) 4 512

end Sys2Proof.Machine
end

