-- ==== Sys2Proof/Machine/Vector.lean ====
section
/-! DEFINITION. Vector floating point (R246 to R258) and conversion (R259 to R264). -/

namespace Sys2Proof.Machine

/-- Operand a decoded as f32 (R173). -/
def Iss.fa (x : Iss) (w : Warp) (l : Nat) : FVal := (fmtOf 0).decode (x.a w l)
/-- Operand b decoded; an h16 immediate is the upper half of an f32 value (R206, R248). -/
def Iss.fb (x : Iss) (w : Warp) (l : Nat) : FVal := (fmtOf 0).decode (x.b w l)
/-- Operand c decoded. -/
def Iss.fc (x : Iss) (w : Warp) (l : Nat) : FVal := (fmtOf 0).decode (x.c w l)
/-- The rounding mode RM (R175). -/
def Iss.rm (x : Iss) : Nat := x.f.rm.toNat

/-- The comparisons of R251 by the codes of R208. -/
def fcmp (code : Nat) (a b : FVal) : Bool :=
  if a = .nan || b = .nan then code == 1 || code == 7
  else if code = 6 then true else if code = 7 then false else cmpNat code (a.compare b) 0

/-- The class of a value as a bit number (R253). -/
def fclassBit (x : Nat) : Nat :=
  match (fmtOf 0).decode x with
  | .nan => 8
  | .inf neg => if neg then 0 else 7
  | .fin neg m _ => if m = 0 then (if neg then 3 else 4) else if field x 23 8 = 0 then (if neg then 2 else 5) else (if neg then 1 else 6)

/-- FRND (R254): infinities and integral values are unchanged, a zero result takes the sign of a. -/
def frndBits (x rm : Nat) : Nat :=
  match (fmtOf 0).decode x with
  | .nan => (fmtOf 0).canon
  | .inf _ => x
  | .fin neg m e =>
    if 0 ≤ e then x
    else
      let n := roundShift neg m (-e).toNat rm
      (fmtOf 0).round (.fin neg n 0) rm false

/-- Element h of a packed register (R257). -/
def half (x h : Nat) : Nat := field x (16 * h) 16

/-- A packed result from its two halves. -/
def packed (f : Nat → Nat) : Nat := f 0 + 2 ^ 16 * f 1

/-- Element h of a packed operand, decoded under TY (R257). -/
def Iss.elem (x : Iss) (v h : Nat) : FVal := (fmtOf x.f.ty.toNat).decode (half v h)

/-! ### Conversion -/

/-- One conversion (R259, R260, R261): from a source code and signedness to a destination. A 64-bit side under L holds a 64-bit integer. -/
def convert (src : Nat) (su : Bool) (dst : Nat) (du l : Bool) (rm : Nat) (sat : Bool) (x : Nat) : Nat :=
  let v := if src = 11 ∧ l then ofInt (if su then ((x % 2 ^ 64 : Nat) : Int) else signed 64 x) else decodeElem src su x
  if dst = 7 then
    let r := intConvert 8 du v rm sat
    if du then r else sextNat 8 32 r
  else if dst = 11 then intConvert (if l then 64 else 32) du v rm sat
  else (fmtOf dst).round v rm sat

/-- The conversion that CVT and CVTD name (R259). -/
def Iss.cvt (x : Iss) (v : Nat) : Nat :=
  let k := x.f.rs3.toNat
  convert (field k 0 4) (bit k 5) x.f.ty.toNat (bit k 6) (bit k 7) x.rm (bit k 4) v

/-- CVTQ (R262): decoding under the scale word, or encoding. -/
def cvtqVal (x : Iss) (w : Warp) (l : Nat) : Nat :=
  let k := x.f.rs3.toNat; let code := x.f.ty.toNat; let plain := field k 0 4; let sat := bit k 4; let word := x.b w l
  if x.f.c3 = 0#3 then (fmtOf plain).round (decodeScaled code word (x.a w l % 2 ^ fmtBits code)) x.rm sat
  else
    let v := (fmtOf plain).decode (x.a w l)
    if code = 5 ∨ code = 6 then (if word % 256 = 0xFF then 0 else encodeMx code (word % 256) v x.rm sat)
    else
      match v, (fmtOf 1).decode word with
      | .nan, _ => 0
      | v, .fin _ m _ => if m = 0 then zeroPoint code word else encodeQ code word v
      | _, _ => zeroPoint code word

/-- PACK (R263). -/
def packVal (x : Iss) (w : Warp) (l : Nat) : Nat :=
  let k := x.f.rs3.toNat; let fmt := x.f.ty.toNat; let n := fmtBits fmt
  let cv (v : Nat) : Nat := convert (field k 0 4) false fmt false false x.rm (bit k 4) v % 2 ^ n
  if n = 16 then cv (x.b w l) * 2 ^ 16 + cv (x.a w l)
  else putField (w.get x.rd l).toNat (if bit k 5 then 16 else 0) 16 (cv (x.b w l) * 2 ^ 8 + cv (x.a w l))

/-- UNPK (R264). -/
def unpkVal (x : Iss) (w : Warp) (l : Nat) : Nat :=
  let k := x.f.rs3.toNat; let fmt := x.f.ty.toNat; let n := fmtBits fmt; let v := x.a w l
  let e (i : Nat) : Nat := convert fmt false (field k 0 4) false false 0 false (field v (n * (i + (if bit k 5 then 2 else 0))) n)
  e 0 + 2 ^ 32 * e 1

/-! ### Values of the FP32, packed and FP64 instructions -/

/-- `FADD` (R249, R250). -/
def faddVal (x : Iss) (w : Warp) (l : Nat) : Nat := (fmtOf 0).add (x.fa w l) (x.fb w l) x.rm
/-- `FSUB` (R249, R250). -/
def fsubVal (x : Iss) (w : Warp) (l : Nat) : Nat := (fmtOf 0).add (x.fa w l) (x.fb w l).neg x.rm
/-- `FMUL` (R249, R250). -/
def fmulVal (x : Iss) (w : Warp) (l : Nat) : Nat := (fmtOf 0).mul (x.fa w l) (x.fb w l) x.rm
/-- `FMIN` (R249, R250). -/
def fminVal (x : Iss) (w : Warp) (l : Nat) : Nat := (fmtOf 0).pick false (x.f.c3 == 1#3) (x.a w l) (x.b w l)
/-- `FMAX` (R249, R250). -/
def fmaxVal (x : Iss) (w : Warp) (l : Nat) : Nat := (fmtOf 0).pick true (x.f.c3 == 1#3) (x.a w l) (x.b w l)
/-- `PFADD` (R257). -/
def pfaddVal (x : Iss) (w : Warp) (l : Nat) : Nat := packed (fun h => (fmtOf x.f.ty.toNat).add (x.elem (x.a w l) h) (x.elem (x.b w l) h) x.rm)
/-- `PFMUL` (R257). -/
def pfmulVal (x : Iss) (w : Warp) (l : Nat) : Nat := packed (fun h => (fmtOf x.f.ty.toNat).mul (x.elem (x.a w l) h) (x.elem (x.b w l) h) x.rm)
/-- `PFMIN` (R257). -/
def pfminVal (x : Iss) (w : Warp) (l : Nat) : Nat := packed (fun h => (fmtOf x.f.ty.toNat).pick false (x.f.c3 == 1#3) (half (x.a w l) h) (half (x.b w l) h))
/-- `PFMAX` (R257). -/
def pfmaxVal (x : Iss) (w : Warp) (l : Nat) : Nat := packed (fun h => (fmtOf x.f.ty.toNat).pick true (x.f.c3 == 1#3) (half (x.a w l) h) (half (x.b w l) h))
/-- `DADD` (R258). -/
def daddVal (x : Iss) (w : Warp) (l : Nat) : Nat := (fmtOf 10).add ((fmtOf 10).decode (x.a64 w l)) ((fmtOf 10).decode (x.b64 w l)) x.rm
/-- `DMUL` (R258). -/
def dmulVal (x : Iss) (w : Warp) (l : Nat) : Nat := (fmtOf 10).mul ((fmtOf 10).decode (x.a64 w l)) ((fmtOf 10).decode (x.b64 w l)) x.rm
/-- `DMIN` (R258). -/
def dminVal (x : Iss) (w : Warp) (l : Nat) : Nat := (fmtOf 10).pick false (x.f.c3 == 1#3) (x.a64 w l) (x.b64 w l)
/-- `DMAX` (R258). -/
def dmaxVal (x : Iss) (w : Warp) (l : Nat) : Nat := (fmtOf 10).pick true (x.f.c3 == 1#3) (x.a64 w l) (x.b64 w l)
/-- `FRCP` (R255). -/
def frcpVal (x : Iss) (w : Warp) (l : Nat) : Nat := (fmtOf 0).round (rcpVal (x.fa w l)) x.rm false
/-- `FRSQ` (R255). -/
def frsqVal (x : Iss) (w : Warp) (l : Nat) : Nat := (fmtOf 0).round (rsqVal (x.fa w l)) 0 false
/-- `FSQRT` (R255). -/
def fsqrtVal (x : Iss) (w : Warp) (l : Nat) : Nat := (fmtOf 0).round (sqrtVal (x.fa w l)) x.rm false
/-- `FEXP2` (R255). -/
def fexp2Val (x : Iss) (w : Warp) (l : Nat) : Nat := exp2Bits (x.fa w l)
/-- `FLOG2` (R255). -/
def flog2Val (x : Iss) (w : Warp) (l : Nat) : Nat := log2Bits (x.fa w l)

/-! ### Meanings -/

/-- `FADD_16` (R249). -/
def execFadd16 (f : Form16) (s : State) : Host.Outcome State Fault Refusal := runCore (.fadd16 f) (laneOp 1 faddVal) s
/-- `FADD_32` (R249). -/
def execFadd32 (f : Form32) (s : State) : Host.Outcome State Fault Refusal := runCore (.fadd32 f) (laneOp 1 faddVal) s
/-- `FADD_64` (R249). -/
def execFadd64 (f : Form64) (s : State) : Host.Outcome State Fault Refusal := runCore (.fadd64 f) (laneOp 1 faddVal) s
/-- `FSUB_16` (R249). -/
def execFsub16 (f : Form16) (s : State) : Host.Outcome State Fault Refusal := runCore (.fsub16 f) (laneOp 1 fsubVal) s
/-- `FSUB_32` (R249). -/
def execFsub32 (f : Form32) (s : State) : Host.Outcome State Fault Refusal := runCore (.fsub32 f) (laneOp 1 fsubVal) s
/-- `FSUB_64` (R249). -/
def execFsub64 (f : Form64) (s : State) : Host.Outcome State Fault Refusal := runCore (.fsub64 f) (laneOp 1 fsubVal) s
/-- `FMUL_16` (R249). -/
def execFmul16 (f : Form16) (s : State) : Host.Outcome State Fault Refusal := runCore (.fmul16 f) (laneOp 1 fmulVal) s
/-- `FMUL_32` (R249). -/
def execFmul32 (f : Form32) (s : State) : Host.Outcome State Fault Refusal := runCore (.fmul32 f) (laneOp 1 fmulVal) s
/-- `FMUL_64` (R249). -/
def execFmul64 (f : Form64) (s : State) : Host.Outcome State Fault Refusal := runCore (.fmul64 f) (laneOp 1 fmulVal) s
/-- `FMIN_16` (R250). -/
def execFmin16 (f : Form16) (s : State) : Host.Outcome State Fault Refusal := runCore (.fmin16 f) (laneOp 1 fminVal) s
/-- `FMIN_32` (R250). -/
def execFmin32 (f : Form32) (s : State) : Host.Outcome State Fault Refusal := runCore (.fmin32 f) (laneOp 1 fminVal) s
/-- `FMIN_64` (R250). -/
def execFmin64 (f : Form64) (s : State) : Host.Outcome State Fault Refusal := runCore (.fmin64 f) (laneOp 1 fminVal) s
/-- `FMAX_16` (R250). -/
def execFmax16 (f : Form16) (s : State) : Host.Outcome State Fault Refusal := runCore (.fmax16 f) (laneOp 1 fmaxVal) s
/-- `FMAX_32` (R250). -/
def execFmax32 (f : Form32) (s : State) : Host.Outcome State Fault Refusal := runCore (.fmax32 f) (laneOp 1 fmaxVal) s
/-- `FMAX_64` (R250). -/
def execFmax64 (f : Form64) (s : State) : Host.Outcome State Fault Refusal := runCore (.fmax64 f) (laneOp 1 fmaxVal) s
/-- `FFMA` (R249). -/
def execFfma (f : Form64) (s : State) : Host.Outcome State Fault Refusal := runCore (.ffma f) (laneOp 1 (fun x w l => (fmtOf 0).fma (x.fa w l) (x.fb w l) (x.fc w l) x.rm)) s
/-- `FCMP` (R251). -/
def execFcmp (f : Form64) (s : State) : Host.Outcome State Fault Refusal := runCore (.fcmp f) (predOp (fun x w l => fcmp x.f.c3.toNat (x.fa w l) (x.fb w l))) s
/-- `FSEL` (R252). -/
def execFsel (f : Form64) (s : State) : Host.Outcome State Fault Refusal := runCore (.fsel f) (laneOp 1 (fun x w l => if w.pred x.f.rs3.toNat l then x.a w l else x.b w l)) s
/-- `FCLASS` (R253). -/
def execFclass (f : Form64) (s : State) : Host.Outcome State Fault Refusal := runCore (.fclass f) (laneOp 1 (fun x w l => 2 ^ fclassBit (x.a w l))) s
/-- `FRND` (R254). -/
def execFrnd (f : Form64) (s : State) : Host.Outcome State Fault Refusal := runCore (.frnd f) (laneOp 1 (fun x w l => frndBits (x.a w l) x.rm)) s
/-- `FRCP_32` (R255, R256). -/
def execFrcp32 (f : Form32) (s : State) : Host.Outcome State Fault Refusal := runCore (.frcp32 f) (laneOp 1 frcpVal) s
/-- `FRCP_64` (R255, R256). -/
def execFrcp64 (f : Form64) (s : State) : Host.Outcome State Fault Refusal := runCore (.frcp64 f) (laneOp 1 frcpVal) s
/-- `FRSQ_32` (R255, R256). -/
def execFrsq32 (f : Form32) (s : State) : Host.Outcome State Fault Refusal := runCore (.frsq32 f) (laneOp 1 frsqVal) s
/-- `FRSQ_64` (R255, R256). -/
def execFrsq64 (f : Form64) (s : State) : Host.Outcome State Fault Refusal := runCore (.frsq64 f) (laneOp 1 frsqVal) s
/-- `FSQRT_32` (R255, R256). -/
def execFsqrt32 (f : Form32) (s : State) : Host.Outcome State Fault Refusal := runCore (.fsqrt32 f) (laneOp 1 fsqrtVal) s
/-- `FSQRT_64` (R255, R256). -/
def execFsqrt64 (f : Form64) (s : State) : Host.Outcome State Fault Refusal := runCore (.fsqrt64 f) (laneOp 1 fsqrtVal) s
/-- `FEXP2_32` (R255, R256). -/
def execFexp232 (f : Form32) (s : State) : Host.Outcome State Fault Refusal := runCore (.fexp232 f) (laneOp 1 fexp2Val) s
/-- `FEXP2_64` (R255, R256). -/
def execFexp264 (f : Form64) (s : State) : Host.Outcome State Fault Refusal := runCore (.fexp264 f) (laneOp 1 fexp2Val) s
/-- `FLOG2_32` (R255, R256). -/
def execFlog232 (f : Form32) (s : State) : Host.Outcome State Fault Refusal := runCore (.flog232 f) (laneOp 1 flog2Val) s
/-- `FLOG2_64` (R255, R256). -/
def execFlog264 (f : Form64) (s : State) : Host.Outcome State Fault Refusal := runCore (.flog264 f) (laneOp 1 flog2Val) s
/-- `FSIN` (R255, R256). -/
def execFsin (f : Form64) (s : State) : Host.Outcome State Fault Refusal := runCore (.fsin f) (laneOp 1 (fun x w l => trigBits false (x.fa w l))) s
/-- `FCOS` (R255, R256). -/
def execFcos (f : Form64) (s : State) : Host.Outcome State Fault Refusal := runCore (.fcos f) (laneOp 1 (fun x w l => trigBits true (x.fa w l))) s
/-- `FTANH` (R255, R256). -/
def execFtanh (f : Form64) (s : State) : Host.Outcome State Fault Refusal := runCore (.ftanh f) (laneOp 1 (fun x w l => tanhBits (x.fa w l))) s
/-- `PFADD_32` (R257). -/
def execPfadd32 (f : Form32) (s : State) : Host.Outcome State Fault Refusal := runCore (.pfadd32 f) (laneOp 1 pfaddVal) s
/-- `PFADD_64` (R257). -/
def execPfadd64 (f : Form64) (s : State) : Host.Outcome State Fault Refusal := runCore (.pfadd64 f) (laneOp 1 pfaddVal) s
/-- `PFMUL_32` (R257). -/
def execPfmul32 (f : Form32) (s : State) : Host.Outcome State Fault Refusal := runCore (.pfmul32 f) (laneOp 1 pfmulVal) s
/-- `PFMUL_64` (R257). -/
def execPfmul64 (f : Form64) (s : State) : Host.Outcome State Fault Refusal := runCore (.pfmul64 f) (laneOp 1 pfmulVal) s
/-- `PFMIN_32` (R257). -/
def execPfmin32 (f : Form32) (s : State) : Host.Outcome State Fault Refusal := runCore (.pfmin32 f) (laneOp 1 pfminVal) s
/-- `PFMIN_64` (R257). -/
def execPfmin64 (f : Form64) (s : State) : Host.Outcome State Fault Refusal := runCore (.pfmin64 f) (laneOp 1 pfminVal) s
/-- `PFMAX_32` (R257). -/
def execPfmax32 (f : Form32) (s : State) : Host.Outcome State Fault Refusal := runCore (.pfmax32 f) (laneOp 1 pfmaxVal) s
/-- `PFMAX_64` (R257). -/
def execPfmax64 (f : Form64) (s : State) : Host.Outcome State Fault Refusal := runCore (.pfmax64 f) (laneOp 1 pfmaxVal) s
/-- `PFFMA` (R257). -/
def execPffma (f : Form64) (s : State) : Host.Outcome State Fault Refusal := runCore (.pffma f) (laneOp 1 (fun x w l => packed (fun h => (fmtOf x.f.ty.toNat).fma (x.elem (x.a w l) h) (x.elem (x.b w l) h) (x.elem (x.c w l) h) x.rm))) s
/-- `DADD_32` (R258). -/
def execDadd32 (f : Form32) (s : State) : Host.Outcome State Fault Refusal := runCore (.dadd32 f) (laneOp 2 daddVal) s
/-- `DADD_64` (R258). -/
def execDadd64 (f : Form64) (s : State) : Host.Outcome State Fault Refusal := runCore (.dadd64 f) (laneOp 2 daddVal) s
/-- `DMUL_32` (R258). -/
def execDmul32 (f : Form32) (s : State) : Host.Outcome State Fault Refusal := runCore (.dmul32 f) (laneOp 2 dmulVal) s
/-- `DMUL_64` (R258). -/
def execDmul64 (f : Form64) (s : State) : Host.Outcome State Fault Refusal := runCore (.dmul64 f) (laneOp 2 dmulVal) s
/-- `DMIN_32` (R258). -/
def execDmin32 (f : Form32) (s : State) : Host.Outcome State Fault Refusal := runCore (.dmin32 f) (laneOp 2 dminVal) s
/-- `DMIN_64` (R258). -/
def execDmin64 (f : Form64) (s : State) : Host.Outcome State Fault Refusal := runCore (.dmin64 f) (laneOp 2 dminVal) s
/-- `DMAX_32` (R258). -/
def execDmax32 (f : Form32) (s : State) : Host.Outcome State Fault Refusal := runCore (.dmax32 f) (laneOp 2 dmaxVal) s
/-- `DMAX_64` (R258). -/
def execDmax64 (f : Form64) (s : State) : Host.Outcome State Fault Refusal := runCore (.dmax64 f) (laneOp 2 dmaxVal) s
/-- `DFMA` (R258). -/
def execDfma (f : Form64) (s : State) : Host.Outcome State Fault Refusal := runCore (.dfma f) (laneOp 2 (fun x w l => (fmtOf 10).fma ((fmtOf 10).decode (x.a64 w l)) ((fmtOf 10).decode (x.b64 w l)) ((fmtOf 10).decode (x.c64 w l)) x.rm)) s
/-- `DCMP` (R258). -/
def execDcmp (f : Form64) (s : State) : Host.Outcome State Fault Refusal := runCore (.dcmp f) (predOp (fun x w l => fcmp x.f.c3.toNat ((fmtOf 10).decode (x.a64 w l)) ((fmtOf 10).decode (x.b64 w l)))) s
/-- `CVT` (R259, R260). -/
def execCvt (f : Form64) (s : State) : Host.Outcome State Fault Refusal := runCore (.cvt f) (laneOp 1 (fun x w l => x.cvt (x.a w l))) s
/-- `CVTD` (R259, R261). -/
def execCvtd (f : Form64) (s : State) : Host.Outcome State Fault Refusal := runCore (.cvtd f) (fun x => laneOp (cvtdRegs x.f.ty.toNat (bit x.f.rs3.toNat 7)) (fun x w l => x.cvt (w.getRun x.r1 l (cvtdRegs (field x.f.rs3.toNat 0 4) (bit x.f.rs3.toNat 7)))) x) s
/-- `CVTQ` (R262). -/
def execCvtq (f : Form64) (s : State) : Host.Outcome State Fault Refusal := runCore (.cvtq f) (laneOp 1 cvtqVal) s
/-- `PACK` (R263). -/
def execPack (f : Form64) (s : State) : Host.Outcome State Fault Refusal := runCore (.pack f) (laneOp 1 packVal) s
/-- `UNPK` (R264). -/
def execUnpk (f : Form64) (s : State) : Host.Outcome State Fault Refusal := runCore (.unpk f) (laneOp 2 unpkVal) s

end Sys2Proof.Machine
end

