-- ==== Sys2Proof/Machine/Dispatch.lean ====
section
/-! DEFINITION. The meaning of every instruction and step: one arm per constructor. -/

namespace Sys2Proof.Machine

/-- Executes an instruction, or makes a step, in a state whose `cur` and `args` say who holds it. -/
def exec (i : Instr) (s : State) : Host.Outcome State Fault Refusal :=
  match i with
  | .mov16 f => Sys2Proof.Machine.execMov16 f s
  | .movi16 f => Sys2Proof.Machine.execMovi16 f s
  | .iadd16 f => Sys2Proof.Machine.execIadd16 f s
  | .isub16 f => Sys2Proof.Machine.execIsub16 f s
  | .imul16 f => Sys2Proof.Machine.execImul16 f s
  | .and16 f => Sys2Proof.Machine.execAnd16 f s
  | .or16 f => Sys2Proof.Machine.execOr16 f s
  | .xor16 f => Sys2Proof.Machine.execXor16 f s
  | .shl16 f => Sys2Proof.Machine.execShl16 f s
  | .shr16 f => Sys2Proof.Machine.execShr16 f s
  | .sar16 f => Sys2Proof.Machine.execSar16 f s
  | .fadd16 f => Sys2Proof.Machine.execFadd16 f s
  | .fsub16 f => Sys2Proof.Machine.execFsub16 f s
  | .fmul16 f => Sys2Proof.Machine.execFmul16 f s
  | .fmin16 f => Sys2Proof.Machine.execFmin16 f s
  | .fmax16 f => Sys2Proof.Machine.execFmax16 f s
  | .iadd32 f => Sys2Proof.Machine.execIadd32 f s
  | .isub32 f => Sys2Proof.Machine.execIsub32 f s
  | .imul32 f => Sys2Proof.Machine.execImul32 f s
  | .imulhi32 f => Sys2Proof.Machine.execImulhi32 f s
  | .imulhn32 f => Sys2Proof.Machine.execImulhn32 f s
  | .imini32 f => Sys2Proof.Machine.execImini32 f s
  | .imaxi32 f => Sys2Proof.Machine.execImaxi32 f s
  | .iminn32 f => Sys2Proof.Machine.execIminn32 f s
  | .imaxn32 f => Sys2Proof.Machine.execImaxn32 f s
  | .and32 f => Sys2Proof.Machine.execAnd32 f s
  | .or32 f => Sys2Proof.Machine.execOr32 f s
  | .xor32 f => Sys2Proof.Machine.execXor32 f s
  | .shl32 f => Sys2Proof.Machine.execShl32 f s
  | .shr32 f => Sys2Proof.Machine.execShr32 f s
  | .sar32 f => Sys2Proof.Machine.execSar32 f s
  | .rot32 f => Sys2Proof.Machine.execRot32 f s
  | .fadd32 f => Sys2Proof.Machine.execFadd32 f s
  | .fsub32 f => Sys2Proof.Machine.execFsub32 f s
  | .fmul32 f => Sys2Proof.Machine.execFmul32 f s
  | .fmin32 f => Sys2Proof.Machine.execFmin32 f s
  | .fmax32 f => Sys2Proof.Machine.execFmax32 f s
  | .pfadd32 f => Sys2Proof.Machine.execPfadd32 f s
  | .pfmul32 f => Sys2Proof.Machine.execPfmul32 f s
  | .pfmin32 f => Sys2Proof.Machine.execPfmin32 f s
  | .pfmax32 f => Sys2Proof.Machine.execPfmax32 f s
  | .dadd32 f => Sys2Proof.Machine.execDadd32 f s
  | .dmul32 f => Sys2Proof.Machine.execDmul32 f s
  | .dmin32 f => Sys2Proof.Machine.execDmin32 f s
  | .dmax32 f => Sys2Proof.Machine.execDmax32 f s
  | .mov32 f => Sys2Proof.Machine.execMov32 f s
  | .ineg32 f => Sys2Proof.Machine.execIneg32 f s
  | .iabs32 f => Sys2Proof.Machine.execIabs32 f s
  | .not32 f => Sys2Proof.Machine.execNot32 f s
  | .popc32 f => Sys2Proof.Machine.execPopc32 f s
  | .clz32 f => Sys2Proof.Machine.execClz32 f s
  | .ctz32 f => Sys2Proof.Machine.execCtz32 f s
  | .brev32 f => Sys2Proof.Machine.execBrev32 f s
  | .frcp32 f => Sys2Proof.Machine.execFrcp32 f s
  | .frsq32 f => Sys2Proof.Machine.execFrsq32 f s
  | .fsqrt32 f => Sys2Proof.Machine.execFsqrt32 f s
  | .fexp232 f => Sys2Proof.Machine.execFexp232 f s
  | .flog232 f => Sys2Proof.Machine.execFlog232 f s
  | .bra f => Sys2Proof.Machine.execBra f s
  | .brx f => Sys2Proof.Machine.execBrx f s
  | .call f => Sys2Proof.Machine.execCall f s
  | .callx f => Sys2Proof.Machine.execCallx f s
  | .ret f => Sys2Proof.Machine.execRet f s
  | .reconv f => Sys2Proof.Machine.execReconv f s
  | .prio f => Sys2Proof.Machine.execPrio f s
  | .yield f => Sys2Proof.Machine.execYield f s
  | .loop f => Sys2Proof.Machine.execLoop f s
  | .nop f => Sys2Proof.Machine.execNop f s
  | .exit f => Sys2Proof.Machine.execExit f s
  | .iadd64 f => Sys2Proof.Machine.execIadd64 f s
  | .isum f => Sys2Proof.Machine.execIsum f s
  | .isub64 f => Sys2Proof.Machine.execIsub64 f s
  | .ineg64 f => Sys2Proof.Machine.execIneg64 f s
  | .iabs64 f => Sys2Proof.Machine.execIabs64 f s
  | .imul64 f => Sys2Proof.Machine.execImul64 f s
  | .imulh64 f => Sys2Proof.Machine.execImulh64 f s
  | .imad f => Sys2Proof.Machine.execImad f s
  | .imadw f => Sys2Proof.Machine.execImadw f s
  | .imin64 f => Sys2Proof.Machine.execImin64 f s
  | .imax64 f => Sys2Proof.Machine.execImax64 f s
  | .isad f => Sys2Proof.Machine.execIsad f s
  | .and64 f => Sys2Proof.Machine.execAnd64 f s
  | .or64 f => Sys2Proof.Machine.execOr64 f s
  | .xor64 f => Sys2Proof.Machine.execXor64 f s
  | .not64 f => Sys2Proof.Machine.execNot64 f s
  | .blut f => Sys2Proof.Machine.execBlut f s
  | .shl64 f => Sys2Proof.Machine.execShl64 f s
  | .shr64 f => Sys2Proof.Machine.execShr64 f s
  | .sar64 f => Sys2Proof.Machine.execSar64 f s
  | .shf f => Sys2Proof.Machine.execShf f s
  | .rot64 f => Sys2Proof.Machine.execRot64 f s
  | .popc64 f => Sys2Proof.Machine.execPopc64 f s
  | .clz64 f => Sys2Proof.Machine.execClz64 f s
  | .ctz64 f => Sys2Proof.Machine.execCtz64 f s
  | .brev64 f => Sys2Proof.Machine.execBrev64 f s
  | .bxtr f => Sys2Proof.Machine.execBxtr f s
  | .bins f => Sys2Proof.Machine.execBins f s
  | .bsel f => Sys2Proof.Machine.execBsel f s
  | .lea f => Sys2Proof.Machine.execLea f s
  | .icmp f => Sys2Proof.Machine.execIcmp f s
  | .isel f => Sys2Proof.Machine.execIsel f s
  | .pset f => Sys2Proof.Machine.execPset f s
  | .plut f => Sys2Proof.Machine.execPlut f s
  | .pmov f => Sys2Proof.Machine.execPmov f s
  | .pgath f => Sys2Proof.Machine.execPgath f s
  | .lpeer f => Sys2Proof.Machine.execLpeer f s
  | .mov64 f => Sys2Proof.Machine.execMov64 f s
  | .movi64 f => Sys2Proof.Machine.execMovi64 f s
  | .movw f => Sys2Proof.Machine.execMovw f s
  | .s2v f => Sys2Proof.Machine.execS2v f s
  | .v2s f => Sys2Proof.Machine.execV2s f s
  | .lxch f => Sys2Proof.Machine.execLxch f s
  | .srr f => Sys2Proof.Machine.execSrr f s
  | .srw f => Sys2Proof.Machine.execSrw f s
  | .fadd64 f => Sys2Proof.Machine.execFadd64 f s
  | .fsub64 f => Sys2Proof.Machine.execFsub64 f s
  | .fmul64 f => Sys2Proof.Machine.execFmul64 f s
  | .ffma f => Sys2Proof.Machine.execFfma f s
  | .fmin64 f => Sys2Proof.Machine.execFmin64 f s
  | .fmax64 f => Sys2Proof.Machine.execFmax64 f s
  | .fcmp f => Sys2Proof.Machine.execFcmp f s
  | .fsel f => Sys2Proof.Machine.execFsel f s
  | .fclass f => Sys2Proof.Machine.execFclass f s
  | .frnd f => Sys2Proof.Machine.execFrnd f s
  | .frcp64 f => Sys2Proof.Machine.execFrcp64 f s
  | .frsq64 f => Sys2Proof.Machine.execFrsq64 f s
  | .fsqrt64 f => Sys2Proof.Machine.execFsqrt64 f s
  | .fexp264 f => Sys2Proof.Machine.execFexp264 f s
  | .flog264 f => Sys2Proof.Machine.execFlog264 f s
  | .fsin f => Sys2Proof.Machine.execFsin f s
  | .fcos f => Sys2Proof.Machine.execFcos f s
  | .ftanh f => Sys2Proof.Machine.execFtanh f s
  | .pfadd64 f => Sys2Proof.Machine.execPfadd64 f s
  | .pfmul64 f => Sys2Proof.Machine.execPfmul64 f s
  | .pffma f => Sys2Proof.Machine.execPffma f s
  | .pfmin64 f => Sys2Proof.Machine.execPfmin64 f s
  | .pfmax64 f => Sys2Proof.Machine.execPfmax64 f s
  | .dadd64 f => Sys2Proof.Machine.execDadd64 f s
  | .dmul64 f => Sys2Proof.Machine.execDmul64 f s
  | .dfma f => Sys2Proof.Machine.execDfma f s
  | .dmin64 f => Sys2Proof.Machine.execDmin64 f s
  | .dmax64 f => Sys2Proof.Machine.execDmax64 f s
  | .dcmp f => Sys2Proof.Machine.execDcmp f s
  | .cvt f => Sys2Proof.Machine.execCvt f s
  | .cvtq f => Sys2Proof.Machine.execCvtq f s
  | .cvtd f => Sys2Proof.Machine.execCvtd f s
  | .pack f => Sys2Proof.Machine.execPack f s
  | .unpk f => Sys2Proof.Machine.execUnpk f s
  | .ld f => Sys2Proof.Machine.execLd f s
  | .st f => Sys2Proof.Machine.execSt f s
  | .ldx f => Sys2Proof.Machine.execLdx f s
  | .stx f => Sys2Proof.Machine.execStx f s
  | .pref f => Sys2Proof.Machine.execPref f s
  | .cctl f => Sys2Proof.Machine.execCctl f s
  | .maps f => Sys2Proof.Machine.execMaps f s
  | .unmaps f => Sys2Proof.Machine.execUnmaps f s
  | .flushs f => Sys2Proof.Machine.execFlushs f s
  | .atom f => Sys2Proof.Machine.execAtom f s
  | .atomc f => Sys2Proof.Machine.execAtomc f s
  | .red f => Sys2Proof.Machine.execRed f s
  | .waitv f => Sys2Proof.Machine.execWaitv f s
  | .lmon f => Sys2Proof.Machine.execLmon f s
  | .lmwait f => Sys2Proof.Machine.execLmwait f s
  | .fence f => Sys2Proof.Machine.execFence f s
  | .barInit f => Sys2Proof.Machine.execBarInit f s
  | .barExp f => Sys2Proof.Machine.execBarExp f s
  | .barArv f => Sys2Proof.Machine.execBarArv f s
  | .barWait f => Sys2Proof.Machine.execBarWait f s
  | .barTest f => Sys2Proof.Machine.execBarTest f s
  | .claim f => Sys2Proof.Machine.execClaim f s
  | .tres f => Sys2Proof.Machine.execTres f s
  | .trel f => Sys2Proof.Machine.execTrel f s
  | .tld f => Sys2Proof.Machine.execTld f s
  | .tst f => Sys2Proof.Machine.execTst f s
  | .twr f => Sys2Proof.Machine.execTwr f s
  | .trd f => Sys2Proof.Machine.execTrd f s
  | .magree f => Sys2Proof.Machine.execMagree f s
  | .msign f => Sys2Proof.Machine.execMsign f s
  | .mma f => Sys2Proof.Machine.execMma f s
  | .mmaq f => Sys2Proof.Machine.execMmaq f s
  | .mmas f => Sys2Proof.Machine.execMmas f s
  | .dmma f => Sys2Proof.Machine.execDmma f s
  | .accz f => Sys2Proof.Machine.execAccz f s
  | .accrd f => Sys2Proof.Machine.execAccrd f s
  | .accwr f => Sys2Proof.Machine.execAccwr f s
  | .accrmax f => Sys2Proof.Machine.execAccrmax f s
  | .accscl f => Sys2Proof.Machine.execAccscl f s
  | .copy f => Sys2Proof.Machine.execCopy f s
  | .txfer f => Sys2Proof.Machine.execTxfer f s
  | .trig f => Sys2Proof.Machine.execTrig f s
  | .scbset f => Sys2Proof.Machine.execScbset f s
  | .scbclr f => Sys2Proof.Machine.execScbclr f s
  | .flood f => Sys2Proof.Machine.execFlood f s
  | .echo f => Sys2Proof.Machine.execEcho f s
  | .waitf f => Sys2Proof.Machine.execWaitf f s
  | .testf f => Sys2Proof.Machine.execTestf f s
  | .cancelf f => Sys2Proof.Machine.execCancelf f s
  | .finfo f => Sys2Proof.Machine.execFinfo f s
  | .clause f => Sys2Proof.Machine.execClause f s
  | .role f => Sys2Proof.Machine.execRole f s
  | .txb f => Sys2Proof.Machine.execTxb f s
  | .txe f => Sys2Proof.Machine.execTxe f s
  | .txa f => Sys2Proof.Machine.execTxa f s
  | .txst f => Sys2Proof.Machine.execTxst f s
  | .syscall f => Sys2Proof.Machine.execSyscall f s
  | .eret f => Sys2Proof.Machine.execEret f s
  | .trap f => Sys2Proof.Machine.execTrap f s
  | .bpt f => Sys2Proof.Machine.execBpt f s
  | .tlbi f => Sys2Proof.Machine.execTlbi f s
  | .qwait f => Sys2Proof.Machine.execQwait f s
  | .qseed f => Sys2Proof.Machine.execQseed f s
  | .qeng f => Sys2Proof.Machine.execQeng f s
  | .qfence f => Sys2Proof.Machine.execQfence f s
  | .illegalOpcode len word => Sys2Proof.Machine.execIllegalOpcode len word s
  | .illegalInstructionException word => Sys2Proof.Machine.execIllegalInstructionException word s
  | .agePromotion => Sys2Proof.Machine.execAgePromotion s
  | .reconvRelease => Sys2Proof.Machine.execReconvRelease s
  | .heldSplit => Sys2Proof.Machine.execHeldSplit s
  | .valueArrival => Sys2Proof.Machine.execValueArrival s
  | .targetFaultPark => Sys2Proof.Machine.execTargetFaultPark s
  | .warpRetire => Sys2Proof.Machine.execWarpRetire s
  | .groupPlace => Sys2Proof.Machine.execGroupPlace s
  | .preemptRequest => Sys2Proof.Machine.execPreemptRequest s
  | .groupResume => Sys2Proof.Machine.execGroupResume s
  | .lateReturn => Sys2Proof.Machine.execLateReturn s
  | .sliceExpire => Sys2Proof.Machine.execSliceExpire s
  | .swapOut => Sys2Proof.Machine.execSwapOut s
  | .wakeMessage => Sys2Proof.Machine.execWakeMessage s
  | .roleSwitch => Sys2Proof.Machine.execRoleSwitch s
  | .matrixIssue => Sys2Proof.Machine.execMatrixIssue s
  | .matrixStep => Sys2Proof.Machine.execMatrixStep s
  | .floodMessageArrive => Sys2Proof.Machine.execFloodMessageArrive s
  | .cairnOpen => Sys2Proof.Machine.execCairnOpen s
  | .clauseDispatch => Sys2Proof.Machine.execClauseDispatch s
  | .gatherTimeoutClose => Sys2Proof.Machine.execGatherTimeoutClose s
  | .spillClauseDrain => Sys2Proof.Machine.execSpillClauseDrain s
  | .cancelArrive => Sys2Proof.Machine.execCancelArrive s
  | .echoArrive => Sys2Proof.Machine.execEchoArrive s
  | .cairnEcho => Sys2Proof.Machine.execCairnEcho s
  | .cairnFree => Sys2Proof.Machine.execCairnFree s
  | .silenceExpire => Sys2Proof.Machine.execSilenceExpire s
  | .mapReread => Sys2Proof.Machine.execMapReread s
  | .signatureRollover => Sys2Proof.Machine.execSignatureRollover s
  | .waitWake => Sys2Proof.Machine.execWaitWake s
  | .waitRecheck => Sys2Proof.Machine.execWaitRecheck s
  | .monitorFire => Sys2Proof.Machine.execMonitorFire s
  | .lmwaitTimeout => Sys2Proof.Machine.execLmwaitTimeout s
  | .bucketWindow => Sys2Proof.Machine.execBucketWindow s
  | .remoteRequest => Sys2Proof.Machine.execRemoteRequest s
  | .forwardResponse => Sys2Proof.Machine.execForwardResponse s
  | .pageMigrate => Sys2Proof.Machine.execPageMigrate s
  | .foreignWrite => Sys2Proof.Machine.execForeignWrite s
  | .bar2Access => Sys2Proof.Machine.execBar2Access s
  | .hubTimeout => Sys2Proof.Machine.execHubTimeout s
  | .txValidateCheck => Sys2Proof.Machine.execTxValidateCheck s
  | .tokenGrant => Sys2Proof.Machine.execTokenGrant s
  | .tokenTimeout => Sys2Proof.Machine.execTokenTimeout s
  | .tileLanding => Sys2Proof.Machine.execTileLanding s
  | .engineComplete => Sys2Proof.Machine.execEngineComplete s
  | .collectiveReport => Sys2Proof.Machine.execCollectiveReport s
  | .trigFire => Sys2Proof.Machine.execTrigFire s
  | .trapEntry => Sys2Proof.Machine.execTrapEntry s
  | .faultRecordFree => Sys2Proof.Machine.execFaultRecordFree s
  | .faultEntryWrite => Sys2Proof.Machine.execFaultEntryWrite s
  | .scrubStep => Sys2Proof.Machine.execScrubStep s
  | .tailDoorbell => Sys2Proof.Machine.execTailDoorbell s
  | .qctlEnable => Sys2Proof.Machine.execQctlEnable s
  | .qctlStop => Sys2Proof.Machine.execQctlStop s
  | .qctlClear => Sys2Proof.Machine.execQctlClear s
  | .fdresolve => Sys2Proof.Machine.execFdresolve s
  | .ackPaused => Sys2Proof.Machine.execAckPaused s
  | .registerWrite => Sys2Proof.Machine.execRegisterWrite s
  | .seedPacket => Sys2Proof.Machine.execSeedPacket s
  | .copyPacket => Sys2Proof.Machine.execCopyPacket s
  | .waitPacket => Sys2Proof.Machine.execWaitPacket s
  | .signalPacket => Sys2Proof.Machine.execSignalPacket s
  | .fencePacket => Sys2Proof.Machine.execFencePacket s
  | .cancelPacket => Sys2Proof.Machine.execCancelPacket s
  | .stage => Sys2Proof.Machine.execStage s
  | .verify => Sys2Proof.Machine.execVerify s
  | .activate => Sys2Proof.Machine.execActivate s
  | .activationQuiesce => Sys2Proof.Machine.execActivationQuiesce s
  | .raisesvn => Sys2Proof.Machine.execRaisesvn s
  | .enrol => Sys2Proof.Machine.execEnrol s
  | .keydis => Sys2Proof.Machine.execKeydis s
  | .vendoroff => Sys2Proof.Machine.execVendoroff s
  | .extend => Sys2Proof.Machine.execExtend s
  | .setplim => Sys2Proof.Machine.execSetplim s
  | .setpoint => Sys2Proof.Machine.execSetpoint s
  | .migrateOut => Sys2Proof.Machine.execMigrateOut s
  | .migrateIn => Sys2Proof.Machine.execMigrateIn s
  | .resync => Sys2Proof.Machine.execResync s
  | .linktrain => Sys2Proof.Machine.execLinktrain s
  | .getVersion => Sys2Proof.Machine.execGetVersion s
  | .getCapabilities => Sys2Proof.Machine.execGetCapabilities s
  | .negotiateAlgorithms => Sys2Proof.Machine.execNegotiateAlgorithms s
  | .getDigests => Sys2Proof.Machine.execGetDigests s
  | .getCertificate => Sys2Proof.Machine.execGetCertificate s
  | .challenge => Sys2Proof.Machine.execChallenge s
  | .getMeasurements => Sys2Proof.Machine.execGetMeasurements s
  | .setCertificate => Sys2Proof.Machine.execSetCertificate s
  | .railStep => Sys2Proof.Machine.execRailStep s
  | .railWindowMiss => Sys2Proof.Machine.execRailWindowMiss s
  | .inputLoss => Sys2Proof.Machine.execInputLoss s
  | .romBoot => Sys2Proof.Machine.execRomBoot s
  | .selfTest => Sys2Proof.Machine.execSelfTest s
  | .powerSample => Sys2Proof.Machine.execPowerSample s
  | .powerWindow => Sys2Proof.Machine.execPowerWindow s
  | .dvfsChange => Sys2Proof.Machine.execDvfsChange s
  | .trainingStart => Sys2Proof.Machine.execTrainingStart s
  | .trainingAbort => Sys2Proof.Machine.execTrainingAbort s
  | .trainingStep => Sys2Proof.Machine.execTrainingStep s
  | .trainingStepTimeout => Sys2Proof.Machine.execTrainingStepTimeout s
  | .linkStart => Sys2Proof.Machine.execLinkStart s
  | .linkDown => Sys2Proof.Machine.execLinkDown s
  | .linkStateAdvance => Sys2Proof.Machine.execLinkStateAdvance s
  | .linkStateTimeout => Sys2Proof.Machine.execLinkStateTimeout s
  | .linkLoss => Sys2Proof.Machine.execLinkLoss s
  | .functionReset => Sys2Proof.Machine.execFunctionReset s
  | .moduleReset => Sys2Proof.Machine.execModuleReset s
  | .storeAcknowledgement => Sys2Proof.Machine.execStoreAcknowledgement s
  | .dirtyWriteBack => Sys2Proof.Machine.execDirtyWriteBack s
  | .eccError => Sys2Proof.Machine.execEccError s
  | .powerDown => Sys2Proof.Machine.execPowerDown s
  | .railLoss => Sys2Proof.Machine.execRailLoss s
  | .pcieCxlLinkTraining => Sys2Proof.Machine.execPcieCxlLinkTraining s
  | .cxlMemRequest => Sys2Proof.Machine.execCxlMemRequest s
  | .invalidPacketType => Sys2Proof.Machine.execInvalidPacketType s
  | .badcmd => Sys2Proof.Machine.execBadcmd s
  | .unsupportedSpdmRequest => Sys2Proof.Machine.execUnsupportedSpdmRequest s

end Sys2Proof.Machine
end

