-- ==== Sys2Proof/Machine/Agenda.lean ====
section
/-! DEFINITION. What the next step of the machine is (log 1): the turn at the head of the agenda; with an empty agenda a core's instruction, and where no core can do anything the first step of another agent that is enabled. -/

namespace Sys2Proof.Machine

/-! ### Steps that a core takes before it issues -/

/-- The step of a warp that comes before the core's next issue, if any. -/
def State.warpEvent (s : State) (c slot : Nat) (w : Warp) : Option (Instr × StepArgs) :=
  if (s.trapDue c slot).isSome then some (.trapEntry, { core := c, slot := slot })
  else if w.over then some (.warpRetire, { core := c, slot := slot })
  else if w.releasable && w.trapping.isNone then some (.reconvRelease, { core := c, slot := slot })
  else
    match (w.tx.find? (fun t => t.2.state == .opened && 16384 ≤ t.2.issued)).map Prod.fst with
    | some l => some (.txValidateCheck, { core := c, slot := slot, lane := l })
    | none =>
    match w.findEntry (fun e => w.splitFits e) with
    | some i => some (.heldSplit, { core := c, slot := slot, entry := i })
    | none => (w.findEntry promotable).map (fun i => (.agePromotion, { core := c, slot := slot, entry := i }))

/-- The first armed command of a group that fires (R310). -/
def fireEvent (c gi : Nat) (g : Group) : Option (Instr × StepArgs) :=
  ((SMap.keys g.trig).find? (fun i => (g.fires i).isSome)).map (fun i => (.trigFire, { core := c, group := gi, index := i }))

/-- The step of a group that comes before the core's next issue, if any: a signed matrix operation issues at the first moment (R299), and an armed
command fires as soon as the scoreboard covers its mask (R310). -/
def groupEvent (c gi : Nat) (g : Group) : Option (Instr × StepArgs) :=
  match (SMap.keys g.agr).find? (fun n => g.halting.isNone && (g.issues n).isSome) with
  | some n => some (.matrixIssue, { core := c, group := gi, agreement := n })
  | none => fireEvent c gi g

/-- The first such step among the groups and the warps of a core; the armed commands of its saved groups go on testing (R310). -/
def State.firstEvent (s : State) (c : Nat) : Option (Instr × StepArgs) :=
  let k := s.core c
  ((k.groups.findSome? (fun y => y.2.bind (groupEvent c y.1))).or (k.saved.findSome? (fun v => fireEvent c v.number v.group))).or
    (k.warps.findSome? (fun y => y.2.bind (fun w => if (s.group c w.group).halting.isSome then none else s.warpEvent c y.1 w)))

/-! ### What the next step is -/

/-- The next step: an instruction to execute in a state that says who holds the step, a state reached without one, or a stop. -/
inductive Plan where
  | run (i : Instr) (s : State)
  | done (s : State)
  | stop (r : Refusal)

/-- A fetch that meets a page fault parks the whole entry (R196); open lanes abort (R156). -/
def State.fetchPark (s : State) (c slot idx va kind level : Nat) : State :=
  match (s.warp c slot).entry idx with
  | none => s
  | some e =>
    let info : FaultInfo := { cause := 0x10, pc := e.pc.toNat, fva := va, lanes := e.mask, level := level, acc := 3, kind := kind }
    let (s, go, park) := s.pageFault c slot e.mask info
    ({ s := s, go := go, park := park, info := { info with lanes := park } } : Out).finish c slot idx 0

/-- A fetch that is refused traps PERMISSION at the instruction that would be fetched (R87, R105, R196). -/
def State.fetchTrap (s : State) (c slot idx va kind level : Nat) : State :=
  match (s.warp c slot).entry idx with
  | none => s
  | some e =>
    let info : FaultInfo := { cause := 0x11, pc := e.pc.toNat, fva := va, lanes := e.mask, level := level, acc := 3, kind := kind }
    s.raise c slot idx { cause := 0x11, lanes := e.mask, pc := e.pc.toNat, insn := 0, len := 2, info := info } true

/-- The step of a core: its own steps first, then the issue of its next entry, or the end of the cycle where nothing can issue (R26). In the module's
safe state its clock stands (R399). -/
def State.planCore (s : State) (c : Nat) : Plan :=
  if (s.module (coreModule c)).safe then .done s else
  match s.firstEvent c with
  | some (i, a) => .run i { s with cur := .idle, args := a }
  | none =>
    match s.pick c with
    | none => .done (s.tickCore c)
    | some (slot, idx) =>
      match (s.warp c slot).entry idx with
      | none => .done (s.tickCore c)
      | some e =>
        match s.fetch c (s.ctxOf c slot) e.pc.toNat (s.warp c slot).privileged with
        | (.word len w, s) => .run (instrOf len w) { s with cur := .warp c slot idx }
        | (.park va k l, s) => .done (s.fetchPark c slot idx va k l)
        | (.perm va k l, s) => .done (s.fetchTrap c slot idx va k l)

/-- The instruction of a word that a queue thread fetches (R381). -/
def vendorOf (w : Nat) : Option Instr :=
  match decodeVendor w with
  | .ok i => some (if i.wf then i else .illegalInstructionException (BitVec.ofNat 32 w))
  | .error _ => if field w 0 7 = 0x0B then some (.illegalInstructionException (BitVec.ofNat 32 w)) else none

/-- The step of a queue thread: the word at its pc in the firmware memory of its module (R380, R381). -/
def State.planQueue (s : State) (q : Nat) : Plan :=
  let w := readBytes (s.module (q / 32)).firmware (s.queue q).pc.toNat 4
  match vendorOf w with
  | some i => .run i { s with cur := .queue q }
  | none => .stop .baseInstruction

/-- The core whose turn it is when the agenda names none: the first with a resident warp among those with the lowest CLOCK. -/
def State.turnCore (s : State) : Option Nat :=
  (s.cores.foldl (fun (best : Option (Nat × Nat)) x =>
    if x.2.warps.isEmpty || (s.module (coreModule x.1)).safe then best
    else match best with
      | some (_, t) => if x.2.clock.toNat < t then some (x.1, x.2.clock.toNat) else best
      | none => some (x.1, x.2.clock.toNat)) none).map Prod.fst

/-- A core can do nothing of its own in this cycle: no step of its own is due, and no entry can issue. -/
def State.coreIdle (s : State) (c : Nat) : Bool := (s.firstEvent c).isNone && (s.pick c).isNone

/-! ### Steps that the machine's own agents may take -/

/-- Steps that concern a resident warp. -/
def warpSteps (c slot : Nat) (w : Warp) : List (Instr × StepArgs) :=
  let at_ : StepArgs := { core := c, slot := slot }
  (List.range w.inflight.length).flatMap (fun i =>
    let m := ((w.inflight[i]?).map (fun r => r.pend)).getD 0#32
    [(.valueArrival, { at_ with record := i, lanes := m }), (.remoteRequest, { at_ with record := i, lanes := m }), (.forwardResponse, { at_ with record := i, lanes := m })]) ++
  (List.range w.targetFaults.length).map (fun i => (.targetFaultPark, { at_ with record := i })) ++
  (if w.storeq.isEmpty then [] else [(.storeAcknowledgement, at_)]) ++
  w.waits.flatMap (fun y => [(.waitWake, { at_ with lane := y.lane }), (.waitRecheck, { at_ with lane := y.lane })]) ++
  (match w.monitor with
   | some y => (match y.hit with | some h => [(.monitorFire, { at_ with cause := h })] | none => [])
   | none => []) ++
  [(.lmwaitTimeout, at_)] ++ (List.range w.frontier.length).map (fun i => (.faultRecordFree, { at_ with entry := i }))

/-- Steps that concern a group of a core. -/
def groupSteps (c n : Nat) (g : Group) : List (Instr × StepArgs) :=
  let at_ : StepArgs := { core := c, group := n }
  (List.range g.landings.length).map (fun i => (.tileLanding, { at_ with index := i, bytes := ((g.landings[i]?).map (fun l => l.left)).getD 0 })) ++
  (SMap.keys g.agr).map (fun a => (.matrixIssue, { at_ with agreement := a })) ++ (SMap.keys g.trig).map (fun i => (.trigFire, { at_ with index := i })) ++
  [(.roleSwitch, at_), (.swapOut, at_)] ++ (if g.halting.isSome then g.slots.map (fun i => (.storeAcknowledgement, { at_ with slot := i })) else [])

/-- Steps that concern a saved group of a core. -/
def savedSteps (c : Nat) (v : Saved) : List (Instr × StepArgs) :=
  let at_ : StepArgs := { core := c, group := v.number }
  v.warps.flatMap (fun w => (List.range w.inflight.length).flatMap (fun i =>
    (lanes (((w.inflight[i]?).map (fun r => r.pend)).getD 0#32)).map (fun l => (.lateReturn, { at_ with warp := w.windex, record := i, lane := l })))) ++
  [(.groupResume, at_), (.wakeMessage, at_)]

/-- Steps of a core. -/
def coreSteps (c : Nat) (k : Core) : List (Instr × StepArgs) :=
  k.warps.flatMap (fun y => match y.2 with | some w => warpSteps c y.1 w | none => []) ++
  k.groups.flatMap (fun y => match y.2 with | some g => groupSteps c y.1 g | none => []) ++
  [(.matrixStep, { core := c })] ++ (SMap.keys k.sig).map (fun sc => (.signatureRollover, { core := c, scope := sc })) ++ k.saved.flatMap (savedSteps c)

/-- The end of a core's time slice, where another fault domain contends for the core (R35), and a save that is tried again (R357). -/
def State.sliceSteps (s : State) (c : Nat) : List (Instr × StepArgs) :=
  (if (s.contenders c).any (fun d => (s.core c).domain != some d) then [(.sliceExpire, { core := c })] else []) ++
    (if (s.toPreempt c true).isEmpty then [] else [(.preemptRequest, { core := c, flag := true })])

/-- Steps of a region. -/
def regionSteps (n : Nat) (r : Region) : List (Instr × StepArgs) :=
  let at_ : StepArgs := { region := n }
  (List.range r.closed.length).map (fun i => (.groupPlace, { at_ with index := i })) ++
  (List.range r.copyq.length).flatMap (fun i => [(.collectiveReport, { at_ with index := i }), (.engineComplete, { at_ with index := i })]) ++
  (List.range r.opened.length).map (fun i => (.gatherTimeoutClose, { at_ with index := i })) ++ [(.spillClauseDrain, at_)]

/-- Steps of a cairn. -/
def cairnSteps (n : Nat) (k : Cairn) : List (Instr × StepArgs) :=
  let at_ : StepArgs := { unit := n / 256, slot := n % 256, region := n / 256 }
  [(.clauseDispatch, at_), (.mapReread, { at_ with reader := some (.cairn (n / 256) (n % 256)) }), (.cairnEcho, at_), (.cairnFree, at_)] ++
  (List.range k.children.length).map (fun i => (.silenceExpire, { at_ with child := i }))

/-- Openings of cairns for the messages that wait at a unit. -/
def openSteps (u : Nat) (wait : SMap (List (Nat × NetMsg))) : List (Instr × StepArgs) := (SMap.keys wait).map (fun d => (.cairnOpen, { unit := u, cls := d }))

/-- Steps of a queue: its packets, except the re-check of a WAIT, which comes last. -/
def queueSteps (q : Nat) : List (Instr × StepArgs) :=
  [.invalidPacketType, .seedPacket, .copyPacket, .signalPacket, .fencePacket, .cancelPacket, .waitPacket].map (fun i => (i, { queue := q }))

/-- Steps of a module's escalation unit. -/
def tokenSteps (m : Nat) : List (Instr × StepArgs) := [(.tokenGrant, { module := m }), (.tokenTimeout, { module := m })]

/-- Every step that the domain's own agents might take next, in a fixed order. What the outside world does, and what takes time or an error of the
hardware to happen, is not among them. -/
def State.ownSteps (s : State) : List (Instr × StepArgs) :=
  s.cores.flatMap (fun k => coreSteps k.1 k.2 ++ s.sliceSteps k.1) ++
  (List.range s.net.length).flatMap (fun i => [(.floodMessageArrive, { index := i }), (.cancelArrive, { index := i }), (.echoArrive, { index := i })]) ++
  s.regions.flatMap (fun r => openSteps r.1 r.2.wait ++ regionSteps r.1 r.2) ++ s.hubs.flatMap (fun h => openSteps (2048 + h.1) h.2.wait) ++
  s.cairns.flatMap (fun k => cairnSteps k.1 k.2) ++ (SMap.keys s.modules).flatMap tokenSteps ++ (SMap.keys s.queues).flatMap queueSteps ++
  s.contexts.flatMap (fun x => (SMap.keys x.2.heldFaults).map (fun d => (.faultEntryWrite, { ctx := x.1, domain := d })))

/-- A step that has a next state, and changes the machine. -/
def State.enables (s : State) (y : Instr × StepArgs) : Bool :=
  match exec y.1 { s with cur := .idle, args := y.2 } with
  | .next t =>
    let after : State := { t with args := s.args, free := s.free }
    let before : State := { s with cur := .idle }
    after != before
  | _ => false

/-- The cores of regions in which time must pass although no warp is resident: an open warp waits for its close, or a cairn for its children. -/
def State.timeCore (s : State) : Option Nat :=
  let rs := (s.regions.filter (fun r => !r.2.opened.isEmpty)).map Prod.fst ++
    (s.cairns.filter (fun k => k.2.state != .free)).map (fun k => if k.1 / 256 < 1024 then k.1 / 256 else if k.1 / 256 < 2048 then k.1 / 256 - 1024 else (k.1 / 256 - 2048) / 4 * 32)
  rs.head?.map (fun r => r / 32 * 512 + r % 32 * 16)

/-- The next step where the agenda is empty. -/
def State.ownPlan (s : State) : Plan :=
  let core := s.turnCore
  match core.filter (fun c => !s.coreIdle c) with
  | some c => s.planCore c
  | none =>
    match s.ownSteps.find? s.enables with
    | some (i, a) => .run i { s with cur := .idle, args := a }
    | none =>
      match core.orElse (fun _ => s.timeCore) with
      | some c => .done (s.tickCore c)
      | none => .done s

/-- The next step of the machine: the turn at the head of the agenda, or its own where the agenda is empty (log 1). -/
def State.plan (s : State) : Plan :=
  match s.agenda with
  | .issue c :: t => ({ s with agenda := t }).planCore c
  | .queue q :: t => ({ s with agenda := t }).planQueue q
  | .event i a :: t => .run i { s with agenda := t, cur := .idle, args := a }
  | [] => s.ownPlan

end Sys2Proof.Machine
end

