-- ==== Sys2Proof/Machine/Step.lean ====
section
/-! DEFINITION. One step of the machine: the plan of Machine/Agenda.lean says which instruction or step comes next and in what state; `exec` gives its meaning. -/

namespace Sys2Proof.Machine

/-- One step of a domain. -/
def step (s : State) : Host.Outcome State Fault Refusal :=
  match s.plan with
  | .run i t => exec i t
  | .done t => .next t
  | .stop r => .refused r

/-- The state with the instruction of a table word placed where the next step fetches: a vendor instruction of the queue processor in its firmware
memory, a core instruction in the page of a warp placed on core 0. -/
def State.withFetchWord (s : State) (nbits w : Nat) : State :=
  if nbits = 32 ∧ field w 0 7 = 0x0B then s.withQueueWord (w % 2 ^ nbits) else s.withCoreWord (w % 2 ^ nbits)

end Sys2Proof.Machine
end

