-- ==== Sys2Proof/Safety.lean ====
section
/-! DEFINITION. The terms in which claims speak of the machine: when a core instruction executes, where a lane stands, and the form that memory keeps. -/

namespace Sys2Proof.Safety

open Machine

/-- The memory of the machine is in its canonical form. -/
def memoryCanonical (s : State) : Prop := Memory.wf s.mem

/-- A core instruction executes in full: the entry `x` holds the step, every check of R197 passes, the operands are full (R17, R28), no bit error
stands (R414), and the entry holds lanes and no replay (R21). These are conditions on the state and the operands alone. -/
structure Executes (i : Instr) (s : State) (x : Iss) : Prop where
  holds : issOf i s = some x
  fields : i.wf = true
  mode : x.g.priv = true → (s.warp x.core x.slot).privileged = true
  allotted : x.allotted (s.groupOf x.core x.slot).allot = true
  issuable : x.issuable s = true
  full : x.emptyReads (s.warp x.core x.slot) = 0#32
  foreign : x.foreignEmpty (s.warp x.core x.slot) = 0#32
  clean : s.ecc = []
  plain : x.e.replay = 0#32
  lanes : x.e.mask ≠ 0#32

/-- The issuing warp. -/
def warpOf (x : Iss) (s : State) : Warp := s.warp x.core x.slot

/-- No participating lane has an open transaction (R154). -/
def closedLanes (x : Iss) (s : State) : Prop := x.openPart (warpOf x s) = 0#32

/-- The entry of the issuing warp that the instruction issued from stands, ready and with its lanes, at an address. -/
def entryAt (x : Iss) (t : State) (pc : Nat) : Prop :=
  ∃ e, (warpOf x t).entry x.idx = some e ∧ e.pc = BitVec.ofNat 57 pc ∧ e.mask = x.e.mask ∧ e.state = .ready ∧ e.age = 0 ∧ e.held = []

/-- The entry has moved past the instruction. -/
def advanced (x : Iss) (t : State) : Prop := entryAt x t (x.pc + x.len)

/-- A lane stands in a ready entry at an address. -/
def laneAt (w : Warp) (l pc : Nat) : Prop := ∃ e ∈ w.frontier, e.mask.getLsbD l = true ∧ e.pc = BitVec.ofNat 57 pc ∧ e.state = .ready

/-- Two warps are alike but for what every issue touches: the frontier, the last issue, the issue slot and the instruction counts of open
transactions (R23, R26, R157). -/
def sameButIssue (w w' : Warp) : Prop :=
  w' = { w with frontier := w'.frontier, lastIssue := w'.lastIssue, busy := w'.busy, tx := w'.tx }

/-- Two warps are alike but for that and the vector and uniform registers. -/
def sameButRegs (w w' : Warp) : Prop :=
  w' = { w with v := w'.v, s := w'.s, frontier := w'.frontier, lastIssue := w'.lastIssue, busy := w'.busy, tx := w'.tx }

/-- Two warps are alike but for that and the predicates. -/
def sameButPreds (w w' : Warp) : Prop :=
  w' = { w with p := w'.p, frontier := w'.frontier, lastIssue := w'.lastIssue, busy := w'.busy, tx := w'.tx }

/-- The instructions that only compute registers from registers (R224): moves, integer, single, packed and double precision arithmetic, conversion,
and TXST. -/
def registerOnly : Instr → Bool
  | .mov16 _ | .movi16 _ | .iadd16 _ | .isub16 _ | .imul16 _ | .and16 _ | .or16 _ | .xor16 _ | .shl16 _ | .shr16 _ | .sar16 _ | .fadd16 _ | .fsub16 _
    | .fmul16 _ | .fmin16 _ | .fmax16 _ | .iadd32 _ | .isub32 _ | .imul32 _ | .imulhi32 _ | .imulhn32 _ | .imini32 _ | .imaxi32 _ | .iminn32 _
    | .imaxn32 _ | .and32 _ | .or32 _ | .xor32 _ | .shl32 _ | .shr32 _ | .sar32 _ | .rot32 _ | .fadd32 _ | .fsub32 _ | .fmul32 _ | .fmin32 _
    | .fmax32 _ | .pfadd32 _ | .pfmul32 _ | .pfmin32 _ | .pfmax32 _ | .dadd32 _ | .dmul32 _ | .dmin32 _ | .dmax32 _ | .mov32 _ | .ineg32 _
    | .iabs32 _ | .not32 _ | .popc32 _ | .clz32 _ | .ctz32 _ | .brev32 _ | .frcp32 _ | .frsq32 _ | .fsqrt32 _ | .fexp232 _ | .flog232 _ | .iadd64 _
    | .isum _ | .isub64 _ | .ineg64 _ | .iabs64 _ | .imul64 _ | .imulh64 _ | .imad _ | .imadw _ | .imin64 _ | .imax64 _ | .isad _ | .and64 _
    | .or64 _ | .xor64 _ | .not64 _ | .blut _ | .shl64 _ | .shr64 _ | .sar64 _ | .shf _ | .rot64 _ | .popc64 _ | .clz64 _ | .ctz64 _ | .brev64 _
    | .bxtr _ | .bins _ | .bsel _ | .lea _ | .isel _ | .pgath _ | .lpeer _ | .mov64 _ | .movi64 _ | .movw _ | .s2v _ | .fadd64 _ | .fsub64 _
    | .fmul64 _ | .ffma _ | .fmin64 _ | .fmax64 _ | .fsel _ | .fclass _ | .frnd _ | .frcp64 _ | .frsq64 _ | .fsqrt64 _ | .fexp264 _ | .flog264 _
    | .fsin _ | .fcos _ | .ftanh _ | .pfadd64 _ | .pfmul64 _ | .pffma _ | .pfmin64 _ | .pfmax64 _ | .dadd64 _ | .dmul64 _ | .dfma _ | .dmin64 _
    | .dmax64 _ | .cvt _ | .cvtq _ | .cvtd _ | .pack _ | .unpk _ | .txst _ => true
  | _ => false

/-- The instructions that only compute a predicate from registers and predicates (R208, R238). -/
def predicateOnly : Instr → Bool
  | .icmp _ | .pset _ | .plut _ | .pmov _ | .fcmp _ | .dcmp _ => true
  | _ => false

/-- A register in a lane is a destination of the instruction: it lies in the run that rd names, and the lane takes part (R209, R210, R224). -/
def inDest (x : Iss) (w : Warp) (r : RegRef) (l : Nat) : Prop :=
  match x.rd, r with
  | .v k, .v j => k ≤ j ∧ j < k + slotRun x.g.rd ∧ (x.part w).getLsbD l = true
  | .s k, .s j => k ≤ j ∧ j < k + slotRun x.g.rd ∧ x.part w ≠ 0#32
  | _, _ => False

/-- Each lane that computes writes a value to the one register that rd names (R209, R210, R234). -/
def writesLane (i : Instr) (s : State) (x : Iss) (v : Nat → Word) : Prop :=
  ∃ w, exec i s = .next (s.setWarp x.core x.slot w) ∧ ∀ l ∈ x.exec (warpOf x s), w.get x.rd l = v l

/-- Each lane that computes writes a 64-bit value to the pair that rd names (R209). -/
def writesPair (i : Instr) (s : State) (x : Iss) (v : Nat → Nat) : Prop :=
  ∃ w, exec i s = .next (s.setWarp x.core x.slot w) ∧ ∀ l ∈ x.exec (warpOf x s), w.pair x.rd l = v l

/-- Each participating lane writes a truth value to the predicate that rd names, but for p15, and p14 of a deferred warp (R55, R209). -/
def writesPred (i : Instr) (s : State) (x : Iss) (v : Nat → Bool) : Prop :=
  ∃ w, exec i s = .next (s.setWarp x.core x.slot w) ∧
    (x.f.rd.toNat ≠ 15 → ¬ (x.f.rd.toNat = 14 ∧ (warpOf x s).deferred = true) →
      ∀ l, (x.part (warpOf x s)).getLsbD l = true → w.pred x.f.rd.toNat l = v l)

/-- The state once the effect of an instruction is done: written registers lose their bit errors (R414), and the lanes move on (R18). -/
def after (x : Iss) (o : Out) : State := (Res.done { o with s := x.heal o.s }).finish x {}

/-- The state once the effect of an instruction with per-lane addresses is done, moves in ascending order of lanes. -/
def afterMemory (x : Iss) (o : Out) : State := after x { o with go := sortGo o.go, park := 0#32 ||| o.park }

/-- Every participating lane's access passes its checks (R268) at the places `oks`, which leaves the state `t`. -/
def reaches (x : Iss) (s : State) (check : Warp → State → Nat → Reach × State) (oks : List LaneAt) (t : State) : Prop :=
  ∃ rs, (x.note s).reachLanes (check (warpOf x (x.note s))) (lanes (x.part (warpOf x (x.note s)))) = (rs, t) ∧
    reachTraps rs = [] ∧ reachParks rs = [] ∧ reachOks rs = oks

/-- The state from which an engine command goes on: a pending release of a fence comes before it (R130, R131). -/
def commandState (x : Iss) (s : State) : State :=
  match (warpOf x (x.note s)).rel with | none => x.note s | some sc => (x.note s).releaseSteps x.core x.slot sc

/-- That release, if any, can be performed (R90, R168). -/
def commandFree (x : Iss) (s : State) : Prop := ∀ sc, (warpOf x (x.note s)).rel = some sc → (x.note s).releaseReady x.core x.slot sc = true

/-- A releasing access of listed lanes can be performed now: its release is ready, and no word that it names is pinned or owned (R134, R142, R168). -/
def mayRelease (x : Iss) (s : State) (rel n : Nat) (oks : List LaneAt) : Prop :=
  3 ≤ rel → s.releaseReady x.core x.slot rel = true ∧ x.relPinned s rel n oks = false

/-- An atomic of listed lanes can be performed now. -/
def mayPerform (x : Iss) (s : State) (rel n : Nat) (oks : List LaneAt) : Prop := mayRelease x s rel n oks ∧ x.rmwWaits s rel n oks = false

end Sys2Proof.Safety
end

