-- ==== Sys2Proof/Certificates/Slice0/Obligations.lean ====
section
/-! DEFINITION. The statements for the provers: what decoding, the core instructions, the vendor instructions and the steps of the other agents do, each named for what it says. -/

section

open Sys2Proof Sys2Proof.Machine Sys2Proof.Safety

/-! ### Registers computed from registers (R224, R233 to R240) -/

/-- R224: every register-only instruction that executes completes; the entry moves past it, and every register in every lane but its destination
in the participating lanes, every predicate, every other warp and every byte of memory keep their value. -/
def Obligations.RegisterOnlyCompletes : Prop :=
  ∀ (i : Instr) (s : State) (x : Iss), registerOnly i = true → Executes i s x →
    ∃ w, exec i s = .next (s.setWarp x.core x.slot w) ∧ sameButRegs (warpOf x s) w ∧ advanced x (s.setWarp x.core x.slot w) ∧
      ∀ r l, l < 32 → ¬ inDest x (warpOf x s) r l → w.get r l = (warpOf x s).get r l

/-- R208, R209, R224, R237: every instruction that writes a predicate and executes completes; the entry moves past it, and every register, every other
predicate and every lane that does not take part keep their value; a write to p15 is ignored. -/
def Obligations.PredicateOnlyCompletes : Prop :=
  ∀ (i : Instr) (s : State) (x : Iss), predicateOnly i = true → Executes i s x →
    ∃ w, exec i s = .next (s.setWarp x.core x.slot w) ∧ sameButPreds (warpOf x s) w ∧ advanced x (s.setWarp x.core x.slot w) ∧
      (∀ q l, (q ≠ x.f.rd.toNat ∨ q = 15 ∨ (x.part (warpOf x s)).getLsbD l = false) → w.pred q l = (warpOf x s).pred q l)

/-- R234: the arithmetic rows whose result does not depend on TY, modulo 2^32, on the operands before the instruction; SHL, SHR and SAR take the whole of b
as their count, so that a count of 32 or more gives 0, or 32 copies of a[31]; AND, OR, XOR and NOT are bitwise. -/
def Obligations.IntegerAndBitwiseResults : Prop :=
  ∀ (f : Form64) (s : State) (x : Iss),
    let w := warpOf x s; let a := fun l => BitVec.ofNat 32 (x.a w l); let b := fun l => BitVec.ofNat 32 (x.b w l); let c := fun l => BitVec.ofNat 32 (x.c w l)
    (Executes (.iadd64 f) s x → x.f.rm = 0#2 → writesLane (.iadd64 f) s x (fun l => a l + b l)) ∧
    (Executes (.isub64 f) s x → x.f.rm = 0#2 → writesLane (.isub64 f) s x (fun l => a l - b l)) ∧
    (Executes (.isum f) s x → writesLane (.isum f) s x (fun l => a l + b l + c l)) ∧
    (Executes (.ineg64 f) s x → writesLane (.ineg64 f) s x (fun l => - a l)) ∧
    (Executes (.iabs64 f) s x → writesLane (.iabs64 f) s x (fun l => if (a l).msb then - a l else a l)) ∧
    (Executes (.imul64 f) s x → writesLane (.imul64 f) s x (fun l => a l * b l)) ∧
    (Executes (.imad f) s x → writesLane (.imad f) s x (fun l => a l * b l + c l)) ∧
    (Executes (.shl64 f) s x → writesLane (.shl64 f) s x (fun l => a l <<< (b l).toNat)) ∧
    (Executes (.shr64 f) s x → writesLane (.shr64 f) s x (fun l => a l >>> (b l).toNat)) ∧
    (Executes (.sar64 f) s x → writesLane (.sar64 f) s x (fun l => (a l).sshiftRight (b l).toNat)) ∧
    (Executes (.rot64 f) s x → writesLane (.rot64 f) s x (fun l => (a l).rotateLeft ((b l).toNat % 32))) ∧
    (Executes (.and64 f) s x → writesLane (.and64 f) s x (fun l => a l &&& b l)) ∧
    (Executes (.or64 f) s x → writesLane (.or64 f) s x (fun l => a l ||| b l)) ∧
    (Executes (.xor64 f) s x → writesLane (.xor64 f) s x (fun l => a l ^^^ b l)) ∧
    (Executes (.not64 f) s x → writesLane (.not64 f) s x (fun l => ~~~ (a l)))

/-- R234, R236: under .i32 IADD.sat clamps the exact sum, IMULH gives the high word of the exact product, and IMADW and LEA a 64-bit sum. -/
def Obligations.ExactProductsAndSaturation : Prop :=
  ∀ (f : Form64) (s : State) (x : Iss), x.f.ty = 2#4 →
    let w := warpOf x s; let a := fun l => (BitVec.ofNat 32 (x.a w l)).toInt; let b := fun l => (BitVec.ofNat 32 (x.b w l)).toInt
    (Executes (.iadd64 f) s x → x.f.rm = 1#2 →
      writesLane (.iadd64 f) s x (fun l => BitVec.ofInt 32 (max (-2147483648) (min 2147483647 (a l + b l))))) ∧
    (Executes (.imulh64 f) s x → writesLane (.imulh64 f) s x (fun l => BitVec.ofInt 32 (a l * b l / 4294967296))) ∧
    (Executes (.imadw f) s x → writesPair (.imadw f) s x (fun l => ((a l * b l + (x.c64 w l : Int)) % 18446744073709551616).toNat)) ∧
    (Executes (.lea f) s x → x.imm = .reg →
      writesPair (.lea f) s x (fun l => (((x.a64 w l : Int) + b l * 2 ^ x.f.rs3.toNat) % 18446744073709551616).toNat))

/-- R208, R237, R238: ICMP writes the comparison of its operands by TY; ISEL chooses by its predicate, PGATH.mask gathers a predicate over the participating
lanes into every lane, and PMOV copies a predicate, inverted under .not. Nothing changes p15. -/
def Obligations.ComparesSelectionsAndVotes : Prop :=
  (∀ (f : Form64) (s : State) (x : Iss), Executes (.icmp f) s x → x.f.ty = 2#4 →
      writesPred (.icmp f) s x (fun l =>
        let a := (BitVec.ofNat 32 (x.a (warpOf x s) l)).toInt; let b := (BitVec.ofNat 32 (x.b (warpOf x s) l)).toInt
        match x.f.c3.toNat with
        | 0 => a == b | 1 => a != b | 2 => decide (a < b) | 3 => decide (a ≤ b) | 4 => decide (b < a) | _ => decide (b ≤ a))) ∧
  (∀ (f : Form64) (s : State) (x : Iss),
      let w := warpOf x s
      (Executes (.isel f) s x → x.imm = .reg →
        writesLane (.isel f) s x (fun l => if w.pred x.f.rs3.toNat l then w.get x.r1 l else w.get x.r2 l)) ∧
      (Executes (.pgath f) s x → x.f.c3 = 0#3 → writesLane (.pgath f) s x (fun _ => filterMask (x.part w) (w.pred x.f.rs1.toNat))) ∧
      (Executes (.pmov f) s x → writesPred (.pmov f) s x (fun l => w.pred x.f.rs1.toNat l != (x.f.c3 == 1#3))))

/-- R240: MOV gives its source, a uniform one in every lane; MOVI its sign-extended immediate; MOVW its zero-extended one, and MOVW.hi keeps the low half;
S2V its uniform source in every participating lane. A TY other than 0, and every C3 but 0, or 1 of MOVW, traps ILLEGAL_FIELD. -/
def Obligations.MovesWriteTheirSource : Prop :=
  ∀ (f : Form64) (h : Form16) (k : Form32) (s : State) (x : Iss),
    let w := warpOf x s
    (Executes (.mov16 h) s x → writesLane (.mov16 h) s x (fun l => w.get x.r1 l)) ∧
    (Executes (.mov32 k) s x → writesLane (.mov32 k) s x (fun l => w.get x.r1 l)) ∧
    (Executes (.mov64 f) s x → writesLane (.mov64 f) s x (fun l => w.get x.r1 l)) ∧
    (Executes (.movi16 h) s x → writesLane (.movi16 h) s x (fun _ => h.rs.signExtend 32)) ∧
    (Executes (.movi64 f) s x → writesLane (.movi64 f) s x (fun _ => BitVec.ofInt 32 (BitVec.ofNat 24 (imm24 f)).toInt)) ∧
    (Executes (.movw f) s x → writesLane (.movw f) s x (fun l =>
      if f.c3 = 0#3 then BitVec.ofNat 32 (imm16 f) else BitVec.ofNat 16 (imm16 f) ++ (w.get x.rd l).setWidth 16)) ∧
    (Executes (.s2v f) s x → writesLane (.s2v f) s x (fun l => w.get (.s f.rs1.toNat) l)) ∧
    (∀ i ∈ [Instr.mov64 f, .movi64 f, .movw f, .s2v f], issOf i s = some x → filterMask x.e.mask (warpOf x (x.note s)).isOpen = 0#32 →
      (f.ty ≠ 0#4 ∨ 1 < f.c3.toNat ∨ (f.c3 = 1#3 ∧ i ≠ .movw f)) →
      exec i s = .next ((x.note s).takeTrap x.core x.slot x.idx (x.trapReq 0x02 x.e.mask)))

/-! ### Control flow (R19, R24, R226 to R232) -/

/-- R226, R228: in every participating lane BRA goes to the address of the instruction plus twice its immediate, and BRX to the lane's own target where every
participating lane's is even and below 2^57; the other lanes go past the instruction. Registers, predicates, other warps and memory are unchanged. -/
def Obligations.BranchesGoToTheirTargets : Prop :=
  ∀ (f : Form64) (s : State) (x : Iss),
    (Executes (.bra f) s x → (warpOf x s).frontier.length ≤ 7 →
      ∃ w, exec (.bra f) s = .next (s.setWarp x.core x.slot w) ∧ sameButIssue (warpOf x s) w ∧
        ∀ l, x.e.mask.getLsbD l = true → laneAt w l (if (x.part (warpOf x s)).getLsbD l then x.target else x.pc + x.len)) ∧
    (∀ ts : List Nat, Executes (.brx f) s x →
      (∀ l, (x.part (warpOf x s)).getLsbD l = true → x.a64 (warpOf x s) l % 2 = 0 ∧ x.a64 (warpOf x s) l < 2 ^ 57) →
      (∀ l, x.e.mask.getLsbD l = true → (if (x.part (warpOf x s)).getLsbD l then x.a64 (warpOf x s) l else x.pc + x.len) ∈ ts) →
      (warpOf x s).frontier.length + ts.length ≤ 9 →
      ∃ w, exec (.brx f) s = .next (s.setWarp x.core x.slot w) ∧ sameButIssue (warpOf x s) w ∧
        ∀ l, x.e.mask.getLsbD l = true → laneAt w l (if (x.part (warpOf x s)).getLsbD l then x.a64 (warpOf x s) l else x.pc + x.len))

/-- R228: the targets of BRX and CALLX are checked before any lane moves, and the lowest participating lane whose target fails decides: bit 0 set traps
MISALIGNED, else a bit of [63:57] PERMISSION, for the lanes whose targets fail; no lane moves and no address is pushed. The targets of BRA and CALL have
the parity of the instruction's own address, which is even, and lie below 2^57. -/
def Obligations.RegisterTargetsAreChecked : Prop :=
  ∀ (i : Instr) (f : Form64) (s : State) (x : Iss) (l : Nat),
    (i ∈ [Instr.brx f, .callx f] → Executes i s x → closedLanes x s →
      let a := x.a64 (warpOf x s); let bad := fun k => a k % 2 = 1 ∨ 2 ^ 57 ≤ a k
      (x.part (warpOf x s)).getLsbD l = true → bad l → (∀ k, k < l → (x.part (warpOf x s)).getLsbD k = true → ¬ bad k) →
      ∃ t : TrapReq, exec i s = .next ((x.note s).takeTrap x.core x.slot x.idx t) ∧ t.cause = (if a l % 2 = 1 then 0x06 else 0x11) ∧ t.info.fva = a l ∧
        t.pc = x.pc ∧ ∀ k, t.lanes.getLsbD k = true ↔ ((x.part (warpOf x s)).getLsbD k = true ∧ bad k)) ∧
    (i ∈ [Instr.bra f, .call f] → Executes i s x → x.target % 2 = x.pc % 2 ∧ x.target < 2 ^ 57)

/-- R226, R227: CALL and CALLX push the address after them in every participating lane, spilling first where sixteen addresses are held, and go to their
target. Where no lane spills, the address after the instruction is the newest of the lane's stack, its depth is one greater, and nothing else changes. -/
def Obligations.CallPushesAndTransfers : Prop :=
  ∀ (i : Instr) (f : Form64) (s : State) (x : Iss) (goal : Nat → Nat),
    (i = .call f ∧ goal = (fun _ => x.target) ∨
      i = .callx f ∧ goal = x.a64 (warpOf x s) ∧ ∀ l, (x.part (warpOf x s)).getLsbD l = true → x.a64 (warpOf x s) l % 2 = 0 ∧ x.a64 (warpOf x s) l < 2 ^ 57) →
    Executes i s x → x.spillFaults (x.note s) .store spillIdx (lanes (x.part (warpOf x s))) = [] →
    exec i s = .next (after x
      { s := x.pushEach (x.note s) (s.ctxOf x.core x.slot) (x.pc + x.len) (lanes (x.part (warpOf x s))), go := goEach goal (lanes (x.part (warpOf x s))) }) ∧
    ((∀ l, (SMap.get [] (warpOf x s).rstack l).length < 16) →
      ∃ w, exec i s = .next (s.setWarp x.core x.slot w) ∧
        w = { warpOf x s with rstack := w.rstack, depth := w.depth, frontier := w.frontier, lastIssue := w.lastIssue, busy := w.busy, tx := w.tx } ∧
        ∀ l, SMap.get [] w.rstack l = (if (x.part (warpOf x s)).getLsbD l then [x.pc + x.len] else []) ++ SMap.get [] (warpOf x s).rstack l ∧
          SMap.get 0 w.depth l = (if (x.part (warpOf x s)).getLsbD l then 1 else 0) + SMap.get 0 (warpOf x s).depth l)

/-- R226, R227: RET pops in every participating lane, refilling first where none is held, and goes to the popped address; a lane of depth 0 exits. Where
every participating lane holds an address, each goes to the newest, its depth is one smaller, and no register, predicate, other warp or memory changes.
That a popped address is held to what R228 asks of a register target is the model's choice (log 85). -/
def Obligations.ReturnPopsAndTransfers : Prop :=
  ∀ (f : Form64) (s u : State) (x : Iss) (ps : List (Nat × Except Got (List Nat))) (ts : List Nat), Executes (.ret f) s x →
    (x.popEach (x.note s) (s.ctxOf x.core x.slot) (lanes (x.part (warpOf x s))) = (ps, u) →
      (∀ p ∈ ps, popTrap p.2 = none ∧ popPark p.2 = none ∧ popHeld p.2 = false) →
      exec (.ret f) s = .next (after x
        { s := (ps.foldl (fun s p => s.popLane x.core x.slot p) u).exitLanes x.core x.slot (popExits ps), go := sortGo (popGo ps), exits := popExits ps })) ∧
    (let old := fun l => SMap.get [] (warpOf x s).rstack l
     let goal := fun l => if (x.part (warpOf x s)).getLsbD l then (old l).headD 0 else x.pc + x.len
     (∀ l, (x.part (warpOf x s)).getLsbD l = true → SMap.get 0 (warpOf x s).depth l ≠ 0 ∧ old l ≠ [] ∧ goal l % 2 = 0 ∧ goal l < 2 ^ 57) →
     (∀ l, x.e.mask.getLsbD l = true → goal l ∈ ts) → (warpOf x s).frontier.length + ts.length ≤ 9 →
      ∃ w, exec (.ret f) s = .next (s.setWarp x.core x.slot w) ∧
        w = { warpOf x s with rstack := w.rstack, depth := w.depth, frontier := w.frontier, lastIssue := w.lastIssue, busy := w.busy, tx := w.tx } ∧
        ∀ l, SMap.get [] w.rstack l = (if (x.part (warpOf x s)).getLsbD l then (old l).tail else old l) ∧
          SMap.get 0 w.depth l = SMap.get 0 (warpOf x s).depth l - (if (x.part (warpOf x s)).getLsbD l then 1 else 0) ∧
          (x.e.mask.getLsbD l = true → laneAt w l (goal l)))

/-- R231: LOOP lowers the register by 1, modulo 2^32, in each participating lane, and sends to its target the lanes in which the result is not 0. -/
def Obligations.LoopCountsDown : Prop :=
  ∀ (f : Form64) (s : State) (x : Iss), Executes (.loop f) s x → (warpOf x s).frontier.length ≤ 7 →
    ∃ w, exec (.loop f) s = .next (s.setWarp x.core x.slot w) ∧ sameButRegs (warpOf x s) w ∧
      (∀ l, (x.part (warpOf x s)).getLsbD l = true → w.get x.rd l = (warpOf x s).get x.rd l - 1#32) ∧
      (∀ r l, l < 32 → ¬ (r = x.rd ∧ (x.part (warpOf x s)).getLsbD l = true) → w.get r l = (warpOf x s).get r l) ∧
      ∀ l, x.e.mask.getLsbD l = true →
        laneAt w l (if (x.part (warpOf x s)).getLsbD l = true ∧ (warpOf x s).get x.rd l ≠ 1#32 then x.target else x.pc + x.len)

/-- R15, R19, R24, R230, R232: NOP moves its entry past itself; RECONV makes its lanes wait at it; YIELD moves its entry past itself, marked as yielding; PRIO
moves every lane past itself, the participating ones with the immediate's low byte as their priority and the others with their own, but for a move into
another block of the priority table, which takes that block's. None of them changes a register, a predicate, another warp or memory. -/
def Obligations.NopReconvYieldAndPrio : Prop :=
  ∀ (f : Form64) (s : State) (x : Iss),
    (Executes (.nop f) s x →
      ∃ w, exec (.nop f) s = .next (s.setWarp x.core x.slot w) ∧ sameButIssue (warpOf x s) w ∧ advanced x (s.setWarp x.core x.slot w)) ∧
    (Executes (.reconv f) s x → ∃ w, exec (.reconv f) s = .next (s.setWarp x.core x.slot w) ∧ sameButIssue (warpOf x s) w ∧
      ∀ l, x.e.mask.getLsbD l = true → ∃ e ∈ w.frontier, e.mask.getLsbD l = true ∧ e.pc = x.e.pc ∧ e.state = .waiting ∧ e.cause = some .reconv) ∧
    (Executes (.yield f) s x → ∃ w, exec (.yield f) s = .next (s.setWarp x.core x.slot w) ∧ sameButIssue (warpOf x s) w ∧
      ∃ e, w.entry x.idx = some e ∧ e.pc = BitVec.ofNat 57 (x.pc + x.len) ∧ e.mask = x.e.mask ∧ e.state = .ready ∧ e.yielded = true) ∧
    (Executes (.prio f) s x → (warpOf x s).frontier.length ≤ 7 →
      ∃ w, exec (.prio f) s = .next (s.setWarp x.core x.slot w) ∧ sameButIssue (warpOf x s) w ∧
        ∀ l, x.e.mask.getLsbD l = true → ∃ e ∈ w.frontier, e.mask.getLsbD l = true ∧ e.pc = BitVec.ofNat 57 (x.pc + x.len) ∧ e.state = .ready ∧
          e.prio = (x.note s).prioAt (s.ctxOf x.core x.slot) x.pc (x.pc + x.len)
            (if (x.part (warpOf x s)).getLsbD l then BitVec.ofNat 8 (imm16 x.f) else x.e.prio))

/-- R232: EXIT ends the participating lanes, by every step of R232; the others go on after it. -/
def Obligations.ExitEndsItsLanes : Prop :=
  ∀ (f : Form64) (s : State) (x : Iss), Executes (.exit f) s x →
    exec (.exit f) s = .next (after x { s := (x.note s).exitLanes x.core x.slot (x.part (warpOf x s)), exits := x.part (warpOf x s) })

/-! ### Lane exchange and special registers (R241 to R245) -/

/-- R241: V2S writes the uniform register with the value that the register holds in lane k mod 32, k being the immediate or the operand of the lowest
participating lane, once, when a lane takes part; that lane need not take part itself. With no participating lane nothing is written. -/
def Obligations.OneLaneIsCopied : Prop :=
  ∀ (f : Form64) (s : State) (x : Iss), Executes (.v2s f) s x →
    let w := warpOf x s; let k := (if x.imm = .reg then x.b w ((lowestLane (x.part w)).getD 0) else imm16 x.f) % 32
    ∃ u, exec (.v2s f) s = .next (s.setWarp x.core x.slot u) ∧ sameButRegs w u ∧ advanced x (s.setWarp x.core x.slot u) ∧
      (x.part w ≠ 0#32 → ∀ l, u.get x.rd l = w.get x.r1 k) ∧ ∀ r l, l < 32 → ¬ inDest x w r l → u.get r l = w.get r l

/-- R242: LXCH gives each participating lane the value that its source lane held before any lane wrote, or its own where the source does not take part.
In a segment of w = 2^min(c mod 8, 5) lanes from g on the source is g + (b mod w) under .lane, the offset less or more b, modulo w, under .back and .fwd,
and the offset exclusive-or b mod w under .xor. Every other register keeps its value, and every other C3 traps ILLEGAL_FIELD. -/
def Obligations.LanesExchangeWithinSegments : Prop :=
  ∀ (f : Form64) (s : State) (x : Iss),
    (3 < f.c3.toNat → issOf (.lxch f) s = some x → filterMask x.e.mask (warpOf x (x.note s)).isOpen = 0#32 →
      exec (.lxch f) s = .next ((x.note s).takeTrap x.core x.slot x.idx (x.trapReq 0x02 x.e.mask))) ∧
    (Executes (.lxch f) s x →
      let w := warpOf x s
      ∃ u, exec (.lxch f) s = .next (s.setWarp x.core x.slot u) ∧ sameButRegs w u ∧ advanced x (s.setWarp x.core x.slot u) ∧
        (∀ l, (x.part w).getLsbD l = true →
          let n := 2 ^ min (x.c w l % 8) 5; let g := l - l % n; let o := l % n; let b := x.b w l % n
          let k := match f.c3.toNat with | 0 => g + b | 1 => g + (o + n - b) % n | 2 => g + (o + b) % n | _ => g + (o ^^^ b)
          u.get x.rd l = w.get x.r1 (if (x.part w).getLsbD k then k else l)) ∧
        ∀ r l, l < 32 → ¬ inDest x w r l → u.get r l = w.get r l)

/-- R243 to R245, R352: SRR gives each lane that computes the value of the special register named: of TSCB, whose read is an acquire for each bit that it
shows set, and of every other one, whose read has no other effect. SRW takes the value of the lowest participating lane: FSTAT clears the bits that are
written 1, SPILLB keeps its low eight bits zero, PRIVST takes PREVPRIV alone, and TVEC, EPC and EFRAME take it whole; with no participating lane it writes
nothing, and no other register of the warp changes. -/
def Obligations.SpecialRegistersReadAndWritten : Prop :=
  ∀ (f : Form64) (s : State) (x : Iss),
    let old := warpOf x s; let g := s.groupOf x.core x.slot; let n := imm16 x.f
    let words := fun (l : Nat) => [(0x000, l), (0x001, x.slot), (0x002, old.windex), (0x003, g.slots.length), (0x004, x.core % 512),
      (0x005, coreRegion x.core % 32), (0x006, coreDie x.core), (0x007, coreModule x.core), (0x008, x.e.mask.toNat), (0x011, g.allot.sbytes),
      (0x014, old.fstat.toNat), (0x016, SMap.get 0 old.depth l), (0x100, old.privst.toNat), (0x103, old.ecause.toNat), (0x105, g.ctx % 32)]
    let pairs := [(0x010, 2 ^ 56 + x.core % 512 * 2 ^ 19 + g.stashBase), (0x012, (s.core x.core).clock.toNat), (0x013, g.tscb.toNat),
      (0x015, old.spillb.toNat), (0x101, old.tvec.toNat), (0x102, old.epc.toNat), (0x104, old.eframe.toNat)]
    (Executes (.srr f) s x →
      ∃ w, w = { warpOf x (x.note s) with v := w.v, s := w.s } ∧
        (∀ l ∈ x.exec old, (∀ y ∈ words l, n = y.1 → w.get x.rd l = BitVec.ofNat 32 y.2) ∧ (∀ y ∈ pairs, n = y.1 → w.pair x.rd l = y.2 % 2 ^ 64)) ∧
        (let u := (x.note s).setWarp x.core x.slot w
         exec (.srr f) s = .next (after x { s := if n = 0x013 ∧ x.part old ≠ 0#32 then u.tscbAcquire x.core old.group g.tscb else u })) ∧
        (n ≠ 0x013 → ∃ z, exec (.srr f) s = .next (s.setWarp x.core x.slot z) ∧ z = { w with frontier := z.frontier } ∧
          advanced x (s.setWarp x.core x.slot z))) ∧
    (Executes (.srw f) s x →
      ∃ w, exec (.srw f) s = .next (s.setWarp x.core x.slot w) ∧ advanced x (s.setWarp x.core x.slot w) ∧
        (x.part old = 0#32 → sameButIssue old w) ∧
        ∀ l, lowestLane (x.part old) = some l → let v := old.getRun x.r1 l (specialRegs n)
          sameButIssue { old with fstat := w.fstat, lostShown := w.lostShown, spillb := w.spillb, privst := w.privst, tvec := w.tvec, epc := w.epc,
                                  eframe := w.eframe } w ∧
          w.fstat = (if n = 0x014 then fstatWrite old.fstat v else old.fstat) ∧
          w.spillb = (if n = 0x015 then BitVec.ofNat 64 (v - v % 256) else old.spillb) ∧
          w.privst = (if n = 0x100 then (old.privst &&& 1#32) ||| (if bit v 1 then 2#32 else 0#32) else old.privst) ∧
          w.tvec = (if n = 0x101 then BitVec.ofNat 64 v else old.tvec) ∧ w.epc = (if n = 0x102 then BitVec.ofNat 64 v else old.epc) ∧
          w.eframe = (if n = 0x104 then BitVec.ofNat 64 v else old.eframe))

/-! ### Memory (R134, R266 to R287) -/

/-- R92, R154, R203, R268, R270, R271, R277: with no participating lane an instruction with per-lane operands has no effect but the advance of its lanes. -/
def Obligations.NoParticipantNoEffect : Prop :=
  ∀ (i : Instr) (f : Form64) (s : State) (x : Iss), Executes i s x → x.part (warpOf x s) = 0#32 →
    i ∈ [Instr.ld f, .st f, .ldx f, .stx f, .atom f, .atomc f, .red f, .claim f, .waitv f, .lmon f, .lmwait f, .cctl f, .pref f, .flood f, .echo f, .waitf f,
      .testf f, .cancelf f, .clause f, .syscall f, .trap f, .bpt f, .txa f, .trd f, .msign f, .accrd f, .accrmax f, .accwr f] →
    exec i s = .next (after x { s := x.note s })

/-- R134, R135, R266 to R270, R283: a load of lanes that are in no transaction and whose accesses pass every check completes, its accesses performed or
under way, and so does a store, which at .rg or wider needs its release to be ready and no word that it names to be pinned or owned. That a load that needs
no other module reads its value when it issues is the model's choice (log 9). -/
def Obligations.LoadsAndReleasingStoresComplete : Prop :=
  ∀ (f : Form64) (s t : State) (x : Iss) (oks : List LaneAt),
    let n := tyBytes x.f.ty.toNat; let data := fun l => (warpOf x s).getRun x.rd l (tyRegs x.f.ty.toNat) % 2 ^ (8 * n)
    closedLanes x s →
    (Executes (.ld f) s x → reaches x s (fun w => x.reachPlain w n n .load) oks t → (∀ a ∈ oks, (warpOf x t).isOpen a.lane = false) →
      ∃ o, x.loadEff n (extendTy x.f.ty.toNat) oks t = .done o ∧ exec (.ld f) s = .next (afterMemory x o)) ∧
    (Executes (.st f) s x → reaches x s (fun w => x.reachPlain w n n .store) oks t → mayRelease x t (relScope x.ownRel (warpOf x t)) n oks →
      ∃ o, x.storeEff n data oks t = .done o ∧ exec (.st f) s = .next (afterMemory x o))

/-- R28, R95, R129, R270, R356: a plain load of domain memory whose bytes the core's L1 holds, in lanes of no transaction, takes those bytes, under the
warp's own queued stores, sign-extended under .i8 and .i16: the destination is empty in the lanes until their values arrive. -/
def Obligations.LoadHitTakesTheHeldBytes : Prop :=
  ∀ (f : Form64) (s t : State) (x : Iss) (oks : List LaneAt),
    let n := tyBytes x.f.ty.toNat
    Executes (.ld f) s x → closedLanes x s → reaches x s (fun w => x.reachPlain w n n .load) oks t → oks ≠ [] →
    acqScope x.ownAcq (warpOf x t) < 3 → (warpOf x t).acq = none →
    (∀ a ∈ oks, (warpOf x t).isOpen a.lane = false ∧ ∃ pa, a.place = .dom pa ∧ (t.core x.core).hits pa n = true ∧ ((t.core x.core).sector pa).bad = false) →
    ∃ u, exec (.ld f) s = .next (after x { s := u }) ∧ ∃ r ∈ (warpOf x u).inflight, r.pc = x.pc ∧ r.dreg = x.f.rd.toNat ∧ r.pend = maskAt oks ∧
      ∀ a ∈ oks, ∃ pa, a.place = .dom pa ∧
        SMap.get 0 r.val a.lane =
          extendTy x.f.ty.toNat (overlay (warpOf x t).storeq (.dom pa) n (((t.core x.core).sector pa).bytes (pa % 256) n))

/-- R132, R134, R149, R270: a store that releases nothing, in lanes of no transaction whose accesses pass every check, queues its bytes at the lanes'
addresses, ascending by lane, each with the cycle of its issue, and changes nothing else; no byte of memory changes before the queue drains. -/
def Obligations.StoreQueuesItsBytes : Prop :=
  ∀ (f : Form64) (s t : State) (x : Iss) (oks : List LaneAt),
    let n := tyBytes x.f.ty.toNat
    Executes (.st f) s x → closedLanes x s → reaches x s (fun w => x.reachPlain w n n .store) oks t →
    oks ≠ [] → relScope x.ownRel (warpOf x t) < 3 → (warpOf x t).rel = none → (∀ a ∈ oks, (warpOf x t).isOpen a.lane = false) →
    exec (.st f) s = .next (after x { s := (t.setWarp x.core x.slot
      { warpOf x t with storeq := (warpOf x t).storeq ++ oks.map (fun a =>
          { storeOp x.core a.lane a.place a.wti n ((warpOf x s).getRun x.rd a.lane (tyRegs x.f.ty.toNat) % 2 ^ (8 * n)) a.va x.insn x.len x.pc with
            issued := (t.core x.core).clock.toNat, rel := relScope x.ownRel (warpOf x t) }) }) })

/-- R116, R271, R274, R275: LDX and STX through maps that can be read and whose coordinate and data registers are full complete in lanes of no transaction whose
accesses pass every check. MAPS adds a range that meets no other to the group's mapped ranges; FLUSHS writes the dirty sectors of an interval back, and UNMAPS
ends their mapping as well, once every write-back translates. -/
def Obligations.MappedAccessesAndRanges : Prop :=
  (∀ (f : Form64) (s t : State) (x : Iss) (oks : List LaneAt),
      let size := x.mapSize (x.note s)
      x.mapWaits (x.note s) = false → x.mapEmpty (x.note s) = (0#32, 0#32) → closedLanes x s →
      (Executes (.ldx f) s x → reaches x s (fun w => x.reachMap .load w) oks t → (∀ a ∈ oks, (warpOf x t).isOpen a.lane = false) →
        ∃ o, x.loadMapped size (fun l => match x.anyEntry (x.note s) l with | some e => mapFmt e | none => 0) oks t = .done o ∧
          exec (.ldx f) s = .next (afterMemory x o)) ∧
      (Executes (.stx f) s x → reaches x s (fun w => x.reachMap .store w) oks t →
        oks ≠ [] → relScope x.ownRel (warpOf x t) < 3 → (warpOf x t).rel = none → (∀ a ∈ oks, (warpOf x t).isOpen a.lane = false) →
        exec (.stx f) s = .next (after x { s := (t.setWarp x.core x.slot
          { warpOf x t with storeq := (warpOf x t).storeq ++ oks.map (fun a =>
              { storeOp x.core a.lane a.place a.wti (size a.lane) ((warpOf x s).getRun x.rd a.lane (if size a.lane = 8 then 2 else 1) % 2 ^ (8 * size a.lane))
                  a.va x.insn x.len x.pc with issued := (t.core x.core).clock.toNat, rel := relScope x.ownRel (warpOf x t) }) }) }))) ∧
  (∀ (f : Form64) (s u : State) (x : Iss),
      let w := warpOf x s; let l := x.warpLane (x.part w); let g := s.groupOf x.core x.slot; let d := (x.note s).drain x.core x.slot
      closedLanes x s →
      (Executes (.maps f) s x → x.a64 w l % 256 = 0 → x.b w l % 256 = 0 → x.c w l % 256 = 0 → x.c w l ≠ 0 → x.b w l + x.c w l ≤ g.allot.sbytes → x.a64 w l < 2 ^ 57 →
        (∀ r ∈ g.maps, overlaps (x.b w l) (x.c w l) r.soff r.len = false ∧ overlaps (x.a64 w l) (x.c w l) r.gaddr r.len = false) → g.maps.length < 8 →
        exec (.maps f) s = .next (after x { s := (d.setGroup x.core w.group
          { d.groupOf x.core x.slot with maps := (d.groupOf x.core x.slot).maps ++
              [{ gaddr := x.a64 w l, soff := x.b w l, len := x.c w l, priv := w.privileged, sectors := [] }] }) })) ∧
      (∀ i ∈ [Instr.unmaps f, .flushs f], Executes i s x → x.a (warpOf x d) l % 256 = 0 → x.b (warpOf x d) l % 256 = 0 →
        x.a (warpOf x d) l + x.b (warpOf x d) l ≤ (d.groupOf x.core x.slot).allot.sbytes →
        d.intervalPinned x.core (warpOf x d).group (x.a (warpOf x d) l) (x.b (warpOf x d) l) = false →
        d.flushInterval x.core (warpOf x d).group (x.a (warpOf x d) l) (x.b (warpOf x d) l) (d.group x.core (warpOf x d).group).maps.length = (.ok, u) →
        exec i s = .next (after x { s := (if i = .flushs f then u else
          u.unmapInterval x.core (warpOf x d).group (x.a (warpOf x d) l) (x.b (warpOf x d) l)) })))

/-- R144, R277 to R279, R287: an atomic in lanes of no transaction whose accesses pass every check, and whose words nothing holds, is performed in every
participating lane, or under way to another module; ATOM, ATOMC and CLAIM leave their results under way to their registers, RED returns none. -/
def Obligations.AtomicsComplete : Prop :=
  ∀ (f : Form64) (s t : State) (x : Iss) (oks : List LaneAt),
    let u := t.drain x.core x.slot
    let free := fun (r : Rmw) rel => mayPerform x u rel r.width oks
    closedLanes x s →
    (Executes (.atom f) s x → reaches x s (x.reachRmw x.atomOf) oks t → free x.atomOf (relScope x.ownRel (warpOf x u)) →
      ∃ o, x.rmwEff x.atomOf (x.operand (warpOf x (x.note s)) x.r2) (fun _ => 0) oks t = .done o ∧ exec (.atom f) s = .next (afterMemory x o)) ∧
    (Executes (.atomc f) s x → reaches x s (x.reachRmw (.cas x.f.ty.toNat)) oks t → free (.cas x.f.ty.toNat) (relScope x.ownRel (warpOf x u)) →
      ∃ o, x.rmwEff (.cas x.f.ty.toNat) (x.operand (warpOf x (x.note s)) x.r2) (x.operand (warpOf x (x.note s)) x.r3) oks t = .done o ∧
        exec (.atomc f) s = .next (afterMemory x o)) ∧
    (Executes (.claim f) s x → reaches x s (x.reachRmw .claim) oks t → free .claim (relScope 0 (warpOf x u)) →
      ∃ o, x.rmwEff .claim (fun _ => 0) (fun _ => 0) oks t = .done o ∧ exec (.claim f) s = .next (afterMemory x o)) ∧
    (Executes (.red f) s x → reaches x s (x.reachRmw x.atomOf) oks t → free x.atomOf (relScope x.ownRel (warpOf x u)) →
      (∀ a ∈ oks, ∀ k off, a.place = .stash k off → u.stashCheck (u.ctxOf x.core x.slot) k off x.atomOf.width ≠ .heldBack) →
      ∃ o, x.redEff x.atomOf (x.operand (warpOf x (x.note s)) x.r2) oks t = .done o ∧ exec (.red f) s = .next (afterMemory x o))

/-- R276, R278: what the integer atomics write and return: the old value comes back, and the new one is what the table of R276 says, by TY and modulo the
width; ATOMC writes only where its comparison holds. -/
def Obligations.AtomicOperationResults : Prop :=
  ∀ (ty o b d : Nat),
    let n := 8 * atomWidth ty; let sg := ty = 2 ∨ ty = 3; let v : Nat → Int := fun a => if sg then (BitVec.ofNat n a).toInt else (a : Int)
    o < 2 ^ n → b < 2 ^ n →
    (∀ op fl, ((Rmw.atom op fl ty).apply o b d).2 = o) ∧
    (Rmw.atom 0 false ty).apply o b d = (some ((o + b) % 2 ^ n), o) ∧
    (Rmw.atom 1 false ty).apply o b d = (some (if v b < v o then b else o), o) ∧
    (Rmw.atom 2 false ty).apply o b d = (some (if v o < v b then b else o), o) ∧
    (Rmw.atom 3 false ty).apply o b d = (some (o &&& b), o) ∧
    (Rmw.atom 4 false ty).apply o b d = (some (o ||| b), o) ∧
    (Rmw.atom 5 false ty).apply o b d = (some (o ^^^ b), o) ∧
    (Rmw.atom 6 false ty).apply o b d = (some b, o) ∧
    (Rmw.atom 7 false ty).apply o b d = (some (if o ≥ b then 0 else o + 1), o) ∧
    (Rmw.atom 8 false ty).apply o b d = (some (if o = 0 ∨ o > b then b else o - 1), o) ∧
    (Rmw.cas ty).apply o b d = (if o = b then some d else none, o)

/-- R122, R280, R282: WAITV whose lanes have all compared true when they read, or met their trap, completes at once: the values read stand in its registers,
and the traps wait for the next boundary. LMON arms the monitor of its warp on the line of its address, where its page is now, and on a port line the
monitor fires at once; LMWAIT returns at once where the monitor has fired, disarming it, or is not armed. -/
def Obligations.WaitsOnValuesAndMonitors : Prop :=
  (∀ (f : Form64) (s t : State) (x : Iss) (oks : List LaneAt),
      let n := atomWidth x.f.ty.toNat; let ty := x.f.ty.toNat
      let kind : LaneAt → WaitKind := fun a => .value a.place n (x.operand (warpOf x t) x.r2 a.lane) (x.operand (warpOf x t) x.r3 a.lane) x.f.c3.toNat
        (ty == 2 || ty == 3) (acqScope x.waitScope (warpOf x t)) x.f.rd.toNat
      let u := (t.clearFence x.core x.slot true false).drain x.core x.slot
      let v := x.waitEach (u.setWarp x.core x.slot { warpOf x u with waits := (warpOf x u).waits.filter (fun z => !(maskAt oks).getLsbD z.lane) }) kind n oks
      let ys := (warpOf x v).waits.filter (fun z => (maskAt oks).getLsbD z.lane)
      Executes (.waitv f) s x → closedLanes x s → reaches x s (fun w => x.reachPlain w n n .load) oks t → oks ≠ [] →
      (∀ y ∈ ys, y.done = true) →
      exec (.waitv f) s = .next (after x { s := (v.setWarp x.core x.slot { (warpOf x v).writeWaits ys with
        waits := ((warpOf x v).writeWaits ys).waits.filter (fun z => !(maskAt oks).getLsbD z.lane), pending := ((warpOf x v).writeWaits ys).pending ++ ((warpOf x v).writeWaits ys).owedTraps ys }) })) ∧
  (∀ (f : Form64) (s t : State) (x : Iss) (a : LaneAt) (oks : List LaneAt), closedLanes x s →
      (Executes (.lmon f) s x → reaches x s (fun w => x.reachPlain w 1 1 .load) (a :: oks) t →
        (∀ pa qa, a.place = .dom pa → t.chase (t.ctxOf x.core x.slot) a.va 2 (.dom pa) = some (.dom qa) →
          t.refusesModule x.core (t.ctxOf x.core x.slot) (.dom qa) = false → exec (.lmon f) s = .next (after x
          { s := (let u := t.fillLine x.core (qa / 1024 * 1024) a.wti 4
                  u.setWarp x.core x.slot { warpOf x u with monitor := some { line := .dom (qa / 1024 * 1024), fired := false } }) })) ∧
        (∀ m pa, a.place = .port m pa → exec (.lmon f) s = .next (after x
          { s := t.setWarp x.core x.slot { warpOf x t with monitor := some { line := .port m (pa / 1024 * 1024), fired := true } } })) ∧
        (∀ k off g, a.place = .stash k off → t.stashCheck (t.ctxOf x.core x.slot) k off 1 = .served g → exec (.lmon f) s = .next (after x
          { s := t.setWarp x.core x.slot { warpOf x t with monitor := some { line := .stash k (off / 1024 * 1024), fired := false } } }))) ∧
      (Executes (.lmwait f) s x → x.part (warpOf x s) ≠ 0#32 → (∀ y, (warpOf x s).monitor = some y → y.fired = true) →
        ∃ w, exec (.lmwait f) s = .next (s.setWarp x.core x.slot w) ∧ sameButIssue { warpOf x s with monitor := none } w ∧
          advanced x (s.setWarp x.core x.slot w)))

/-- R131, R134, R149, R283: a fence whose loads have arrived and whose release is ready completes: it has released, leaves to later accesses what its kind
leaves, and at .dm and .sy reports stores declared lost in FSTAT; under .trap it so completes where no store was declared lost. -/
def Obligations.FenceCompletes : Prop :=
  ∀ (f : Form64) (s : State) (x : Iss), Executes (.fence f) s x → closedLanes x s → x.fenceLoads (x.note s) = false →
    (∀ sc, x.fenceRelease = some sc → (x.note s).releaseReady x.core x.slot sc = true) →
    let u := x.fenceBody (match x.fenceRelease with | some sc => (x.note s).releaseSteps x.core x.slot sc | none => x.note s)
    ((warpOf x u).lost = 0 ∨ x.f.c3.toNat < 6 → exec (.fence f) s = .next (after x { s := u })) ∧
    ((warpOf x u).lost ≠ 0 → 6 ≤ x.f.c3.toNat → x.f.ty = 0#4 → exec (.fence f) s = .next (after x { s := (u.setWarp x.core x.slot
      (warpOf x u).reportLost) }))

/-- R129, R284, R285, R286: what each barrier instruction does to an object that it can read, `o`, at offset `b`. INIT writes phase 0, ARRIVE and EXPECT n and
BYTES k and wakes the waiters; EXP adds to BYTES; ARV, once its release at .gp is ready, lowers ARRIVE and tests for a flip; WAIT and TEST of a parity that has passed go on, TEST with true. -/
def Obligations.BarrierInstructions : Prop :=
  ∀ (f : Form64) (s u : State) (x : Iss) (b o : Nat),
    let w := warpOf x s; let l := x.warpLane (x.part w); let v := x.a w l; let gi := w.group
    let found := fun (i : Instr) (parity : Bool) => Executes i s x ∧ closedLanes x s ∧ (if parity then v % 16 / 2 = 0 else v % 16 = 0) ∧ b = v / 16 * 16 ∧
      b + 16 ≤ (s.groupOf x.core x.slot).allot.sbytes ∧
      ∃ u1, ((x.note s).drain x.core x.slot).stashLoad x.core gi
          (((x.note s).groupOf x.core x.slot).stashBase + b) 16 = (.ok, o, u1) ∧
        u1.eccRead (coreModule x.core) (((x.note s).groupOf x.core x.slot).ctx % 32) 1 (.stash x.core (((x.note s).groupOf x.core x.slot).stashBase + b)) 16 = (false, u)
    (found (.barInit f) false → (warpOf x u).group = gi → x.b (warpOf x u) l ≤ 64 → x.c (warpOf x u) l ≤ 0xFFFFFF →
      exec (.barInit f) s = .next (after x { s :=
        ((u.setGroup x.core gi { u.group x.core gi with barSig := SMap.set 0#512 (u.group x.core gi).barSig b 0#512 }).putBar (some (x.core, x.slot)) x.core gi b
          (x.c (warpOf x u) l * 2 ^ 40 + x.b (warpOf x u) l * 2 ^ 33 + x.b (warpOf x u) l * 2 ^ 26)).wakeBarrier x.core gi b false (slotsOf (barWaiters o)) })) ∧
    (found (.barExp f) false → (warpOf x u).group = gi → barBytes o + x.b (warpOf x u) l ≤ 0xFFFFFF →
      exec (.barExp f) s = .next (after x { s := u.putBar (some (x.core, x.slot)) x.core gi b (putField o 40 24 (barBytes o + x.b (warpOf x u) l)) })) ∧
    (found (.barArv f) false → u.releaseReady x.core x.slot 0 = true →
      let r := u.releaseSteps x.core x.slot 0
      (warpOf x r).group = gi →
      exec (.barArv f) s = .next (after x { s :=
        (if barArrive o = 0 then r else r.putBar (some (x.core, x.slot)) x.core gi b (putField o 26 7 (barArrive o - 1))).flipTest x.core gi b })) ∧
    (found (.barWait f) true → (warpOf x u).group = gi → barPhase o ≠ bit v 0 →
      exec (.barWait f) s = .next (after x { s := u.barAcquire x.core gi b })) ∧
    (found (.barTest f) true → (warpOf x u).group = gi →
      let r := if barPhase o != bit v 0 then u.barAcquire x.core gi b else u
      exec (.barTest f) s = .next (after x { s := (r.setWarp x.core x.slot
        ((warpOf x r).putPred x.f.rd.toNat (x.part w) (if barPhase o != bit v 0 then 0xFFFFFFFF#32 else 0#32))) }))

/-- R134, R272, R273: PREF completes whatever its addresses, without a fault; under .l1 it fills the sectors that translate to domain memory and whose fill
no fault meets. CCTL whose write-backs
nothing holds back completes: the sector operations act on the lanes' addresses, the operations 3 to 5 come after every dirty sector of the core has been written back, and 5 invalidates every sector of the L1 as well. -/
def Obligations.PrefetchAndCacheControl : Prop :=
  ∀ (f : Form64) (s : State) (x : Iss),
    (Executes (.pref f) s x →
      exec (.pref f) s = .next (after x { s := x.prefEach (warpOf x (x.note s)) (x.note s) (lanes (x.part (warpOf x s) &&& ~~~(x.openPart (warpOf x s)))) })) ∧
    (Executes (.cctl f) s x → closedLanes x s → x.part (warpOf x s) ≠ 0#32 →
      let u := (x.note s).drain x.core x.slot; let op := x.f.c3.toNat; let ls := lanes (x.part (warpOf x s))
      (op < 3 → (op = 1 ∨ x.cctlPinned (warpOf x u) u ls = false) → exec (.cctl f) s = .next (after x { s := x.cctlEach (warpOf x u) op u ls })) ∧
      (3 ≤ op → u.releaseReady x.core x.slot 3 = true →
        let v := u.releaseSteps x.core x.slot 3
        exec (.cctl f) s = .next (after x { s := if op = 5 then v.invalidateAll x.core else if op = 4 then v else x.cctlEach (warpOf x u) op v ls })))

/-! ### Tiles, matrices and engines (R288 to R310) -/

/-- R291 to R293: where no command waits for the tile, TRES of one that nothing uses writes its record: the plan of its format at the lowest free run of the
operand buffer, or the record itself for a virtual tile; TREL of one that nothing uses frees it, and of a free tile does nothing. Every other tile keeps its
record. -/
def Obligations.TileReservations : Prop :=
  ∀ (f : Form64) (s u : State) (x : Iss) (rec : Nat),
    let td := x.f.rd.toNat; let n := x.note s
    (Executes (.tres f) s x →
      ((∃ ok, x.imm = .z24 ok) ∧ rec = immRecord (imm24 x.f) ∧ u = n ∨
        (∀ ok, x.imm ≠ .z24 ok) ∧ x.a64 (warpOf x s) (x.warpLane (x.part (warpOf x s))) % 32 = 0 ∧
          n.readRecord x.core x.slot (x.warpLane (x.part (warpOf x s))) x.pc 4 (x.a64 (warpOf x s) (x.warpLane (x.part (warpOf x s)))) = (.val rec, u)) →
      (x.tile n td = 0 ∨ n.tileUsed x.core (warpOf x s).group td = false) → (n.groupOf x.core x.slot).tileFirst td = none → recordIllegal rec = false → recordShapeBad rec = false →
      (u.groupOf x.core x.slot).names .proposed td = false →
      (tileVirt rec = true → unfoldOff rec + unfoldBytes rec ≤ (u.groupOf x.core x.slot).allot.sbytes →
        exec (.tres f) s = .next (after x { s := x.withGroup u (fun g => { g with tiles := SMap.set 0#256 g.tiles td (BitVec.ofNat 256 rec) }) })) ∧
      (tileVirt rec = false → ∀ b, (u.groupOf x.core x.slot).freeTile td (tilePlan rec).2.2 = some b →
        exec (.tres f) s = .next (after x { s := (x.withGroup u (fun g => { g with tiles :=
          (SMap.set 0#256 g.tiles td (BitVec.ofNat 256
            (rec % 2 ^ 96 + b * 2 ^ 96 + (tilePlan rec).2.2 * 2 ^ 128 + (tilePlan rec).1 * 2 ^ 160 + (tilePlan rec).2.1 * 2 ^ 192))) })) }))) ∧
    (Executes (.trel f) s x → (n.groupOf x.core x.slot).tileFirst td = none →
      (x.tile n td = 0 → exec (.trel f) s = .next (after x { s := n })) ∧
      (x.tile n td ≠ 0 → n.tileUsed x.core (warpOf x s).group td = false → (n.groupOf x.core x.slot).names .proposed td = false →
        exec (.trel f) s = .next (after x { s := x.withGroup n (fun g => { g with tiles := SMap.set 0#256 g.tiles td 0#256 }) })))

/-- R293 to R295: where no command waits for the tile, TLD and TST with a descriptor that fits the tile, whose runs all translate, put their command under way; the bytes move later. -/
def Obligations.TileTransfersAreLaunched : Prop :=
  ∀ (f : Form64) (s u v z : State) (x : Iss) (load : Bool) (d : Nat) (map : Option Nat) (sps : List Span) (runs : List TileRun),
    let i : Instr := if load then .tld f else .tst f
    let n := commandState x s; let w := warpOf x n; let m := x.part (warpOf x s); let l := x.warpLane m; let t := x.tile n x.f.rd.toNat
    let org := firstN (tRank d) (fun k => (w.get (x.r2.plus k) l).toNat)
    Executes i s x → closedLanes x s → commandFree x s →
    (if load then (n.groupOf x.core x.slot).names .issued x.f.rd.toNat = false else (n.groupOf x.core x.slot).loads x.f.rd.toNat = 0) →
    (n.groupOf x.core x.slot).tileFirst x.f.rd.toNat = none →
    t ≠ 0 → tileVirt t = false → x.tensor n l (x.a64 w l) = (.ok d map, u) →
    runAllotted (n.groupOf x.core x.slot).allot x.r2 (tRank d) = true → w.emptyLanes x.r2 (1#32 <<< l) (tRank d) = 0#32 → tileMismatch d t org = false →
    ((tileFmt t = 8 ∨ tileFmt t = 9) → map = none → (field d 0 64 + field d 408 40) % 4 = 0) →
    (∀ b, x.tileMods.1 = some b → b + 16 ≤ (n.groupOf x.core x.slot).allot.sbytes) → (map ≠ none → outside d org = false) →
    let acc : Acc := if load then .tileRead else .tileWrite
    u.tileSpans (n.groupOf x.core x.slot).ctx d t acc.code map org (tileShape t).1 0 = (.ok sps, v) →
    v.placeSpans x.core (n.groupOf x.core x.slot).ctx w.privileged acc
      (if load then sps else sps.filter (fun sp => sp.at_.isSome)) = (.ok runs, z) →
    ∃ o, x.launchTile z m load t runs = .done o ∧ exec i s = .next (after x { o with go := sortGo o.go })

/-- R293, R296: where no command waits for the tile, TWR of one that nothing loads or reads writes each participating lane's word at its offset, and under .fill every data byte; TRD puts
the words at the lanes' offsets under way, read at once where no load is still landing. No byte of memory and no accumulator changes. -/
def Obligations.TileWordsAreWrittenAndRead : Prop :=
  ∀ (f : Form64) (s : State) (x : Iss),
    let n := x.note s; let w := warpOf x s; let m := x.part w
    (Executes (.twr f) s x →
      let t := x.tile n x.f.rd.toNat
      (n.groupOf x.core x.slot).loads x.f.rd.toNat = 0 → (n.groupOf x.core x.slot).names .issued x.f.rd.toNat = false →
      (n.groupOf x.core x.slot).tileFirst x.f.rd.toNat = none → t ≠ 0 → tileVirt t = false →
      (x.f.c3 ≠ 1#3 → x.badOffs w t m = 0#32 →
        exec (.twr f) s = .next (after x { s := (x.withGroup n (fun g =>
          { g with opbuf := (lanes m).foldl (fun b l => bufWrite b (tileBase t + x.tileOff w l + 4 * l) 4 (x.a w l)) g.opbuf })) })) ∧
      (x.f.c3 = 1#3 → fmtBits (tileFmt t) ≠ 64 →
        exec (.twr f) s = .next (after x { s := x.withGroup n (fun g => { g with opbuf := fillTile g.opbuf t (x.a w (x.warpLane m)) }) })) ∧
      (x.f.c3 = 1#3 → fmtBits (tileFmt t) = 64 → x.f.rs1.toNat % 2 = 0 → runAllotted (n.groupOf x.core x.slot).allot x.r1 2 = true →
        w.emptyLanes x.r1 m 2 = 0#32 →
        exec (.twr f) s = .next (after x { s := x.withGroup n (fun g => { g with opbuf := fillTile g.opbuf t (x.a64 w (x.warpLane m)) }) }))) ∧
    (Executes (.trd f) s x →
      let t := x.tile n x.f.rs1.toNat; let ahead := (n.groupOf x.core x.slot).loads x.f.rs1.toNat
      let at_ := fun l => tileBase t + x.tileOff w l + 4 * l
      (n.groupOf x.core x.slot).tileFirst x.f.rs1.toNat = none → t ≠ 0 → tileVirt t = false → x.badOffs w t m = 0#32 → m ≠ 0#32 →
      ∃ u, exec (.trd f) s = .next (after x { s := n.setWarp x.core x.slot u }) ∧ u.frontier = (warpOf x n).frontier ∧ u.v = w.v ∧ u.s = w.s ∧ u.p = w.p ∧
        ∃ r ∈ u.inflight, r.pc = x.pc ∧ r.pend = m ∧ r.dreg = x.f.rd.toNat ∧ r.ahead = ahead ∧
          (ahead = 0 → r.val = (lanes m).map (fun l => (l, bufRead (n.groupOf x.core x.slot).opbuf (at_ l) 4))))

/-- R297 to R299: MAGREE opens an idle agreement register for the warps of its mask, with their live lanes as participants; the matrix instructions
propose into an open one, and confirm a proposal that agrees; MSIGN signs for its lanes, and goes on unless its signature is the last one wanted. -/
def Obligations.AgreementsOpenProposeAndSign : Prop :=
  ∀ (f : Form64) (s : State) (x : Iss),
    let n := x.note s; let w := warpOf x s; let m := x.part w
    (Executes (.magree f) s x →
      let c := x.f.rd.toNat; let a := x.agr n c; let mask := (if x.imm = .reg then x.a w (x.warpLane m) else imm16 x.f) % 65536
      let parts := ((n.groupWarps x.core w.group).filter (fun y => bit mask y.2.windex)).foldl (fun p y => SMap.set 0#32 p y.2.windex y.2.live) []
      mask ≠ 0 → mask / 2 ^ (n.groupOf x.core x.slot).slots.length = 0 →
      (a.state = .idle → exec (.magree f) s = .next (after x
        { s := x.putAgr n c { state := .opened, warps := BitVec.ofNat 16 mask, lanes := parts } })) ∧
      (a.state ≠ .idle → a.state ≠ .issued → a.warps.toNat = mask → exec (.magree f) s = .next (after x { s := n }))) ∧
    (∀ i ∈ [Instr.mma f, .mmaq f, .mmas f, .dmma f], Executes i s x →
      let a := x.agr n x.f.rs3.toNat
      tilesFit i x.f.ty.toNat (x.tile n x.f.rs1.toNat) (x.tile n x.f.rs2.toNat) = true →
      (a.state = .opened → a.proposal = none →
        exec i s = .next (after x { s := x.putAgr n x.f.rs3.toNat { a with state := .proposed, proposal := some x.insn, proposer := some (w.windex, x.pc, m) } })) ∧
      (a.state = .proposed → ∀ p, a.proposal = some p → proposalKey p = proposalKey x.insn → exec i s = .next (after x { s := n }))) ∧
    (Executes (.msign f) s x →
      let c := x.f.rs1.toNat; let a := x.agr n c
      let b := { a with signed := SMap.set 0#32 a.signed w.windex (SMap.get 0#32 a.signed w.windex ||| m) }
      m ≠ 0#32 → (a.state = .opened ∨ a.state = .proposed) → m &&& ~~~(SMap.get 0#32 a.lanes w.windex) = 0#32 → (b.complete = false ∨ a.complete = true) →
      exec (.msign f) s = .next (after x { s := x.putAgr n c b }))

/-- R301: a write of an accumulator whose turn has come takes effect: ACCZ clears it, ACCWR writes the lanes' cells, ACCSCL multiplies the lanes' rows;
ACCRD and ACCRMAX take their place in the accumulator's order with their destinations empty. -/
def Obligations.AccumulatorAccesses : Prop :=
  ∀ (f : Form64) (s : State) (x : Iss),
    let n := x.note s; let w := warpOf x s; let m := x.part w; let g := n.groupOf x.core x.slot; let a := x.f.rd.toNat
    let mine := fun (o : AccOp) => o.acc == a && o.agr.isNone && o.warp == w.windex && o.pc == x.pc && o.dreg.isNone && o.lanes &&& m != 0#32
    let placed := if g.accOrder.any mine then n else x.withGroup n (fun g =>
      { g with accOrder := g.accOrder ++ [{ acc := a, warp := w.windex, pc := x.pc, lanes := m }] })
    let order := (placed.groupOf x.core x.slot).accOrder
    let write := fun (i : Instr) (acc : SMap Word) => Executes i s x → m ≠ 0#32 →
      (∃ o, (placed.groupOf x.core x.slot).accFirst a = some o ∧ mine o = true) →
      exec i s = .next (after x { s := ((x.withGroup placed (fun g => { g with acc := acc, accOrder := g.accOrder.filter (fun o => !mine o) })).pumpAcc x.core w.group a
        (order.length + 1)) })
    write (.accz f) (g.acc.filter (fun y => y.1 / 12288 != a)) ∧
    write (.accwr f) ((lanes m).foldl (fun acc l => SMap.set 0#32 acc (accKey a (x.accRow w l) (32 * x.accBlock + l)) (BitVec.ofNat 32 (x.a w l))) g.acc) ∧
    write (.accscl f) ((lanes m).foldl (fun acc l => (List.range 96).foldl (fun acc j =>
      SMap.set 0#32 acc (accKey a (32 * x.accBlock + l) j) (BitVec.ofNat 32 ((fmtOf 0).mul ((fmtOf 0).decode (SMap.get 0#32 acc (accKey a (32 * x.accBlock + l) j)).toNat)
        ((fmtOf 0).decode (x.a w l)) 0))) acc) g.acc) ∧
    (∀ i ∈ [Instr.accrd f, .accrmax f], Executes i s x → m ≠ 0#32 → ∃ o, exec i s = .next (after x o) ∧ o.go = [] ∧ o.park = 0#32 ∧ o.exits = 0#32 ∧
      o.s = (let cell := if i = .accrd f then (fun l => x.accRow w l * 96 + 32 * x.accBlock + l) else (fun l => if x.imm = .reg then x.accRow w l else (imm16 x.f + l) % 128)
             let r : InFlight := { x.record 4 false 0 0 with pend := m, unperformed := m, addr := (lanes m).map (fun l => (l, cell l)) }
             let v := n.setWarp x.core x.slot { (warpOf x n).markEmptyRun r.dst m r.regs with inflight := (warpOf x n).inflight ++ [r] }
             let v := x.withGroup v (fun g => { g with accOrder := g.accOrder ++
               [{ acc := x.f.rs1.toNat, warp := w.windex, pc := x.pc, lanes := m, dreg := some x.f.rd.toNat }] })
             v.pumpAcc x.core w.group x.f.rs1.toNat ((v.groupOf x.core x.slot).accOrder.length + 1)))

/-- R302, R304, R305, R307, R310: SCBSET sets the named scoreboard bits with the core's signature, SCBCLR clears those that no producer sets in this cycle, and
COPY with a legal record hands its command to the region's engine. TXFER does so with its group, members and sequence number, and TRIG arms its command in the
lowest free slot. -/
def Obligations.EngineCommandsAndScoreboard : Prop :=
  (∀ (f : Form64) (s u : State) (x : Iss) (rec : Nat),
      let n := x.note s; let w := warpOf x s; let m := x.part w; let v := x.a64 w (x.warpLane m)
      (Executes (.scbset f) s x → m ≠ 0#32 → n.releaseReady x.core x.slot 3 = true →
        let r := n.releaseSteps x.core x.slot 3
        exec (.scbset f) s = .next (after x { s := r.setTscb x.core w.group (BitVec.ofNat 64 v) ((r.core x.core).sigOf 3) })) ∧
      (Executes (.scbclr f) s x → m ≠ 0#32 →
        exec (.scbclr f) s = .next (after x { s := (x.withGroup n (fun g =>
          { g with tscb := g.tscb &&& ~~~(BitVec.ofNat 64 v &&& ~~~g.tscbNow),
                   tscbSig := g.tscbSig.filter (fun y => !(BitVec.ofNat 64 v &&& ~~~g.tscbNow).getLsbD y.1) })) })) ∧
      (let c := commandState x s; let v := x.a64 (warpOf x c) (x.warpLane m)
       Executes (.copy f) s x → closedLanes x s → commandFree x s → v % 64 = 0 →
        c.readRecord x.core x.slot (x.warpLane m) x.pc 8 v = (.val rec, u) → recordCheck 0 rec (u.groupOf x.core x.slot).allot.sbytes = none →
        exec (.copy f) s = .next (after x { s := u.acceptCmd (coreRegion x.core) (x.engineCmd u m false rec v) }))) ∧
  (∀ (f : Form64) (s u : State) (x : Iss) (rec : Nat),
      let n := commandState x s; let w := warpOf x n; let m := x.part (warpOf x s); let v := x.a64 w (x.warpLane m); let l := x.warpLane m
      let record := fun (kind : Nat) => n.readRecord x.core x.slot l x.pc 8 v = (.val rec, u) ∧ v % 64 = 0 ∧
        recordCheck kind rec (u.groupOf x.core x.slot).allot.sbytes = none
      let fits := fun (grp : Nat) (k : EngineCmd) (z : State) => grp % 16 = 0 ∧ ∃ u1 u2 src dst gm, x.tensor u l (field rec 0 64) = (.ok src none, u1) ∧
        x.tensor u1 l (field rec 64 64) = (.ok dst none, u2) ∧ collMismatch src dst (coreModule x.core) = false ∧ (scalesBad src).or (scalesBad dst) = none ∧ tRepl dst ≠ 0 ∧
        u2.readRecord x.core x.slot l x.pc 2 grp = (.val gm, z) ∧ bit (field gm 96 32) (coreModule x.core) = true ∧ field gm 96 32 &&& tRepl dst = tRepl dst ∧
        k = { x.engineCmd z m true rec v with src := src, dst := dst, gid := field gm 64 32, members := field gm 96 32 }
      closedLanes x s → commandFree x s →
      (∀ k z q z', Executes (.txfer f) s x → record 1 → field rec 192 64 = 0 → fits (x.b64 w l) k z → z.takeSeq k (x.b64 w l) = (.ok q, z') →
        exec (.txfer f) s = .next (after x { s := z'.acceptCmd (coreRegion x.core) { k with seq := q } })) ∧
      (∀ i, Executes (.trig f) s x → (n.groupOf x.core x.slot).freeTrig = some i →
        (record 0 → field rec 424 4 = 0 → exec (.trig f) s = .next (after x { s := (x.withGroup u (fun g =>
          { g with trig := SMap.set none g.trig i (some { vm := BitVec.ofNat 64 (x.b64 w l), cmd := x.engineCmd u m false rec v }) })) })) ∧
        (∀ k z, record 1 → field rec 424 4 = 1 → field rec 192 64 ≠ 0 → fits (field rec 192 64) k z →
          exec (.trig f) s = .next (after x { s := x.withGroup z (fun g => { g with trig := SMap.set none g.trig i (some { vm := BitVec.ofNat 64 (x.b64 w l), cmd := k }) }) }))))

/-! ### Floods, clauses and roles (R30, R40 to R86, R313 to R322) -/

/-- R42 to R45, R57, R59, R63, R64, R313 to R315, R319, R320: once the release at .rg that each of them makes is ready, a FLOOD of which every lane passes its checks emits in every participating lane, ascending: the
lane's destination holds its handle. An ECHO that passes its checks in every participating lane contributes each lane's value at its clause number, and
marks the lane as having echoed. A CLAUSE that passes its checks, and for which the clause ring has room, writes a clause for each of them whose cairn is
not cancelled. -/
def Obligations.FloodsEchoesAndClauses : Prop :=
  ∀ (f : Form64) (s u : State) (x : Iss),
    let ls := lanes (x.part (warpOf x s)); let rel := (x.note s).releaseSteps x.core x.slot 3
    closedLanes x s → x.part (warpOf x s) ≠ 0#32 → (x.note s).releaseReady x.core x.slot 3 = true →
    (Executes (.flood f) s x → let r := x.emitEach { s := rel } ls
      r.traps = [] → r.parks = [] → r.again = [] → exec (.flood f) s = .next (after x { s := r.s.clearFence x.core x.slot false true })) ∧
    (Executes (.echo f) s x → (∀ l, (x.part (warpOf x s)).getLsbD l = true → x.echoCheck (x.note s) (warpOf x (x.note s)) l = none) →
      exec (.echo f) s = .next (after x { s := x.echoEach rel ls })) ∧
    (Executes (.clause f) s x → (∀ l, (x.part (warpOf x s)).getLsbD l = true → x.clauseCheck (warpOf x s) l = none) → x.clauseEach rel ls = ([], u) →
      exec (.clause f) s = .next (after x { s := u }))

/-- R73, R316 to R318: each reads the FCBs that its handles name. With valid handles WAITF of floods that have all completed goes on, TESTF and FINFO put
what they read under way, and CANCELF sends one cancel for each distinct handle, changing nothing else; FINFO of the lane's own clause writes its clause
number, whether it has echoed, and the ordering scope of its flood. -/
def Obligations.FloodQueries : Prop :=
  ∀ (f : Form64) (s : State) (x : Iss),
    let m := x.part (warpOf x s); let ls := lanes m; let n := x.touchHandles (x.note s) m; let w := warpOf x n
    (Executes (.waitf f) s x → closedLanes x s → m ≠ 0#32 → x.badHandles n m = 0#32 →
      let u := ls.foldl (fun s l => x.waitfLane s l) n
      let ys := (warpOf x u).waits.filter (fun y => m.getLsbD y.lane)
      (∀ y ∈ ys, y.done = true) → ys.length = ls.length →
      exec (.waitf f) s = .next (after x { s := u.setWarp x.core x.slot { warpOf x u with waits := (warpOf x u).waits.filter (fun y => !m.getLsbD y.lane) } })) ∧
    (Executes (.testf f) s x → x.badHandles n m = 0#32 →
      ∃ o, x.launchRead (x.testfEach n (x.record 12 false 0 0) ls).1 (x.testfEach n (x.record 12 false 0 0) ls).2 = .done o ∧
        exec (.testf f) s = .next (after x o)) ∧
    (Executes (.cancelf f) s x → closedLanes x s → m ≠ 0#32 → x.badHandles n m = 0#32 →
      exec (.cancelf f) s = .next (after x { s := ({ n with net := n.net ++ (distinct (ls.map (fun l => (x.handle w l).toNat))).map (fun h =>
        NetMsg.cancel (originUnit (handleRegion (BitVec.ofNat 32 h))) (BitVec.ofNat 32 h) (handleSlot (BitVec.ofNat 32 h) / 32) (coreRegion x.core) 0 0) }) })) ∧
    (Executes (.finfo f) s x → x.f.rs3.toNat ≤ 3 → m ≠ 0#32 → x.badHandles n m = 0#32 →
      ∃ u, exec (.finfo f) s = .next (after x { s := n.setWarp x.core x.slot u }) ∧ u.v = w.v ∧ u.s = w.s ∧ u.p = w.p ∧
        ∃ r ∈ u.inflight, r.pend = m ∧ r.dreg = x.f.rd.toNat ∧
          ∀ l ∈ ls, SMap.get 0 r.val l = n.finfoRead (n.ctxOf x.core x.slot) (w.get x.r1 l) x.f.rs3.toNat) ∧
    (Executes (.finfo f) s x → 3 < x.f.rs3.toNat → (∀ l ∈ ls, ((warpOf x s).laneIdent l).cairn.isNone = false) →
      ∃ u, exec (.finfo f) s = .next (s.setWarp x.core x.slot u) ∧ sameButRegs (warpOf x s) u ∧ advanced x (s.setWarp x.core x.slot u) ∧
        ∀ l ∈ ls, let i := (warpOf x s).laneIdent l
          (x.f.rs3.toNat = 8 → u.get x.rd l = BitVec.ofNat 32 i.clause) ∧ (x.f.rs3.toNat = 9 → u.get x.rd l = BitVec.ofNat 32 i.echoed.toNat) ∧
          (x.f.rs3.toNat = 10 → u.get x.rd l = BitVec.ofNat 32 (s.identScope i)))

/-- R30, R322: ROLE in an entry that holds every live lane of its warp reads its descriptor and waits for its group; nothing else of the warp changes. -/
def Obligations.RoleReadsItsDescriptorAndWaits : Prop :=
  ∀ (f : Form64) (s u : State) (x : Iss) (i : Nat) (e : Entry) (d : Nat),
    let n := x.waitAt (x.note s) .agreement true; let ready : Entry := { e with state := .ready, cause := none }
    let y : Iss := { x with idx := i, e := ready }; let v := n.setWarp x.core x.slot ((warpOf x n).replaceEntry i [ready])
    let va := y.a64 (warpOf x v) (y.warpLane (y.part (warpOf x v)))
    Executes (.role f) s x → closedLanes x s → (warpOf x n).entryOf x.e.mask = some (i, e) → e.mask = (warpOf x n).live → va % 32 = 0 →
    v.readRecord x.core x.slot (y.warpLane (y.part (warpOf x v))) y.pc 20 va = (.val d, u) →
    ∃ w, exec (.role f) s = .next (u.setWarp x.core x.slot w) ∧ w = { warpOf x u with waits := w.waits, frontier := w.frontier } ∧
      (∃ z ∈ w.waits, z.kind = .role d) ∧ w.roleDesc ≠ none

/-! ### Transactions (R151 to R170, R323 to R325) -/

/-- R152, R155, R158, R162, R164, R323 to R325: TXB opens every participating idle lane that has aborted fewer than three times, with empty logs and its TXE
recorded; TXE, once the warp's stores are performed and no engine owns a logged line, commits each open lane or aborts it, sends one that aborts to its
recorded TXE where that is another instruction, and tells which in its predicate, false in an idle lane; TXA aborts the open participating lanes with
EXPLICIT and its code, and sends them to their TXE. An abort leaves its lane idle with empty logs, keeps its TXE and ESC, records the cause and the code, FCAUSE being that of the last FAULT abort, and
counts: 1 is added to ABORTS up to 15, but an overflow or an access out of the module clears it; every other lane's transaction is unchanged. -/
def Obligations.TransactionsOpenCommitAndAbort : Prop :=
  (∀ (f : Form64) (s : State) (x : Iss),
      let n := x.note s; let w := warpOf x s; let m := x.part w
      (Executes (.txb f) s x → closedLanes x s → (∀ l, m.getLsbD l = true → (w.laneTx l).state = .idle ∧ (w.laneTx l).aborts.toNat < 3) →
        ∃ u, exec (.txb f) s = .next (s.setWarp x.core x.slot u) ∧ sameButIssue w u ∧ advanced x (s.setWarp x.core x.slot u) ∧
          ∀ l, m.getLsbD l = true → (u.laneTx l).state = .opened ∧ (u.laneTx l).reads = [] ∧ (u.laneTx l).writes = [] ∧ (u.laneTx l).txe = x.target ∧
            (u.laneTx l).aborts = (w.laneTx l).aborts) ∧
      (Executes (.txe f) s x →
        let opened := x.openPart w; let u := if opened = 0#32 then n else n.drain x.core x.slot
        (opened = 0#32 ∨ (warpOf x u).storeq = [] ∧ x.logHeld u opened = false) →
        let r := u.commitEach x.core x.slot (lanes m); let z := (warpOf x r.2).putPred x.f.rd.toNat m r.1
        exec (.txe f) s = .next (after x { s := r.2.setWarp x.core x.slot z, go := x.txeMoves z (lanes (opened &&& ~~~r.1)) })) ∧
      (Executes (.txe f) s x → closedLanes x s →
        ∃ u, exec (.txe f) s = .next (s.setWarp x.core x.slot u) ∧ sameButPreds w u ∧ advanced x (s.setWarp x.core x.slot u) ∧
          (x.f.rd.toNat ≠ 15 → ¬ (x.f.rd.toNat = 14 ∧ w.deferred = true) → ∀ l, m.getLsbD l = true → u.pred x.f.rd.toNat l = false)) ∧
      (Executes (.txa f) s x →
        exec (.txa f) s = .next (after x { s := n.abortLanes x.core x.slot 7 0 (imm16 x.f) (lanes (x.openPart (warpOf x n))),
                                           go := ((warpOf x n).txeMoves (lanes (x.openPart (warpOf x n)))).map (fun y => (y.1, some y.2)) }))) ∧
  (∀ (s : State) (c slot lane cause fcause ucode : Nat),
      let t := (s.warp c slot).laneTx lane; let u := (s.abortLane c slot lane cause fcause ucode).warp c slot
      u.laneTx lane = { txe := t.txe, cause := BitVec.ofNat 4 cause, esc := t.esc,
                        fcause := if cause = 9 then BitVec.ofNat 8 fcause else t.fcause, ucode := BitVec.ofNat 8 ucode,
                        aborts := (if 2 ≤ cause ∧ cause ≤ 5 then 0#4 else if t.aborts = 15#4 then 15#4 else t.aborts + 1#4) } ∧
      u.isOpen lane = false ∧ ∀ k, k ≠ lane → u.laneTx k = (s.warp c slot).laneTx k)

/-! ### Traps and system instructions (R197, R327 to R331) -/

/-- R197, R199, R327, R330: SYSCALL, TRAP and BPT in lanes of no transaction take their trap, with causes 0x70, 0x7F and 0x71, for the participating lanes; an
unassigned opcode traps ILLEGAL_OPCODE with no effect in any lane of an entry without open lanes. -/
def Obligations.TrapInstructionsAndUnassignedOpcodes : Prop :=
  ∀ (f : Form64) (s : State) (x : Iss) (len : Nat) (word : DWord) (c slot idx : Nat) (e : Entry),
    (closedLanes x s → x.part (warpOf x s) ≠ 0#32 →
      (Executes (.syscall f) s x → exec (.syscall f) s = .next ((x.note s).takeTrap x.core x.slot x.idx (x.trapReq 0x70 (x.part (warpOf x s))))) ∧
      (Executes (.trap f) s x → exec (.trap f) s = .next ((x.note s).takeTrap x.core x.slot x.idx (x.trapReq 0x7F (x.part (warpOf x s))))) ∧
      (Executes (.bpt f) s x → exec (.bpt f) s = .next ((x.note s).takeTrap x.core x.slot x.idx (x.trapReq 0x71 (x.part (warpOf x s)))))) ∧
    (s.cur = .warp c slot idx → (s.warp c slot).entry idx = some e → filterMask (e.mask &&& e.mask) (s.warp c slot).isOpen = 0#32 →
      exec (.illegalOpcode len word) s = .next (s.takeTrap c slot idx
        { cause := 0x01, lanes := e.mask, pc := e.pc.toNat, insn := word.toNat, len := len, info := { cause := 0x01, pc := e.pc.toNat, lanes := e.mask } }))

/-- R327, R358: taking a trap in unprivileged mode, once the warp's stores and the entry's accesses are performed, with an aligned frame that can be written
and an even TVEC below 2^57: ECAUSE holds the cause, EPC the address of the instruction, or of the one after it for SYSCALL and TRAP, PRIVST becomes 1, and
the whole entry stands at TVEC. That the accesses complete rather than are dropped (log 98), and what an odd TVEC comes to
(log 82), are the model's choices. -/
def Obligations.TakingATrapEntersTheHandler : Prop :=
  ∀ (s u : State) (c slot idx : Nat) (t : TrapReq) (e : Entry),
    let d := s.completeLanes c slot e.mask; let w := (d.warp c slot).leaveWaits e.mask
    let v := (d.setWarp c slot w).setGroup c w.group ((d.group c w.group).leaveOrders w.windex e.mask); let g := v.groupOf c slot
    let info := { t.info with cause := t.cause, pc := t.pc }
    (s.warp c slot).entry idx = some e → (s.warp c slot).privileged = false → w.storeq = [] → w.unperformed e.mask = false →
    w.eframe.toNat % 64 = 0 → w.tvec.getLsbD 0 = false → w.tvec.toNat < 2 ^ 57 → t.epc = none →
    v.ctxWrite g.ctx w.eframe.toNat 256 (frameBits (recordBits info g.fcb (w.laneIdent ((lowestLane t.lanes).getD 0)).handle c slot) t e w.fstat) = (none, u) →
    idx < (u.warp c slot).frontier.length →
    let z := (s.takeTrap c slot idx t).warp c slot
    z.ecause = BitVec.ofNat 32 t.cause ∧ z.epc = BitVec.ofNat 64 (if t.cause = 0x70 ∨ t.cause = 0x7F then t.pc + t.len else t.pc) ∧ z.privst = 1#32 ∧
      z.tvec = (u.warp c slot).tvec ∧ z.v = (u.warp c slot).v ∧ z.s = (u.warp c slot).s ∧ z.p = (u.warp c slot).p ∧
      ∃ e', z.entry idx = some e' ∧ e'.mask = e.mask ∧ e'.pc = z.tvec.setWidth 57 ∧ e'.state = .ready ∧ e'.age = 0

/-- R197: the checks of an issuing entry, in their order, each with no effect but its trap for every lane of the entry: a field that breaks its form's rules
traps ILLEGAL_FIELD, a privileged form in unprivileged mode PRIV, and a register beyond the allotment REG_BOUND. -/
def Obligations.IssueChecksTrap : Prop :=
  ∀ (i : Instr) (eff : Iss → State → Res) (s : State) (x : Iss), issOf i s = some x →
    (filterMask x.e.mask (warpOf x (x.note s)).isOpen = 0#32) →
    (i.wf = false → runCore i eff s = .next ((x.note s).takeTrap x.core x.slot x.idx (x.trapReq 0x02 x.e.mask))) ∧
    (i.wf = true → x.g.priv = true → (warpOf x s).privileged = false →
      runCore i eff s = .next ((x.note s).takeTrap x.core x.slot x.idx (x.trapReq 0x05 x.e.mask))) ∧
    (i.wf = true → (x.g.priv = true → (warpOf x s).privileged = true) → x.allotted (s.groupOf x.core x.slot).allot = false →
      runCore i eff s = .next ((x.note s).takeTrap x.core x.slot x.idx (x.trapReq 0x03 x.e.mask)))

/-- R329, R332: ERET, once the warp's stores are performed and its lanes' accesses complete (log 98), in an entry that holds every live lane of the trapping
entry, with an even EPC below 2^57, resumes at EPC in the mode that PREVPRIV names, clears PREVPRIV and lets every other entry go on with age 0. -/
def Obligations.ReturnFromTrapRestores : Prop :=
  ∀ (f : Form64) (s : State) (x : Iss) (i : Nat) (e : Entry),
    let d := (x.note s).completeLanes x.core x.slot x.e.mask; let u := x.waitAt d .agreement true; let w := warpOf x u
    Executes (.eret f) s x → (warpOf x d).storeq = [] → w.entryOf x.e.mask = some (i, e) → (∀ t, w.trapping = some t → t.lanes &&& ~~~e.mask = 0#32) →
    w.epc.getLsbD 0 = false → w.epc.toNat < 2 ^ 57 →
    ∃ z, exec (.eret f) s = .next (u.setWarp x.core x.slot z) ∧ z.privst = (if w.privst.getLsbD 1 then 1#32 else 0#32) ∧ z.trapping = none ∧
      z = { w with frontier := z.frontier, privst := z.privst, trapping := none } ∧
      (∃ e', z.entry i = some e' ∧ e'.mask = e.mask ∧ e'.pc = w.epc.setWidth 57 ∧ e'.state = .ready ∧ e'.age = 0) ∧ ∀ y ∈ z.frontier, y.age = 0

/-- R108, R331, R332: TLBI with legal operands, once its release is ready, drops the translations and map entries that it names in every core of its scope;
with none of their accesses under way it completes at once. An empty range drops nothing. -/
def Obligations.InvalidationDropsCopies : Prop :=
  ∀ (f : Form64) (s : State) (x : Iss) (k : TlbiKind), Executes (.tlbi f) s x → closedLanes x s →
    x.tlbiKind (x.note s) (x.part (warpOf x s)) = .ok k →
    let n := x.note s; let scope := x.f.c3.toNat; let a := x.a64 (warpOf x s) (x.warpLane (x.part (warpOf x s)))
    (k = .va (s.ctxOf x.core x.slot % 32) a 0 → exec (.tlbi f) s = .next (after x { s := n })) ∧
    (k ≠ .va (s.ctxOf x.core x.slot % 32) a 0 →
      n.releaseReady x.core x.slot scope = true →
      let u := ((n.releaseSteps x.core x.slot scope).tlbi x.core scope k).drainIn x.core scope
      let v := u.setWarp x.core x.slot { warpOf x u with waits := (warpOf x u).waits.filter (fun y => !(x.part (warpOf x s)).getLsbD y.lane) }
      v.tlbiPending x.core scope = false → exec (.tlbi f) s = .next (after x { s := v }))

/-! ### Steps of the other agents -/

/-- R19, R20, R23, R157, R166, R169, R232, R327: the steps of a warp's own that come between its issues. A ready entry of age 4,096 that holds nothing back
is promoted; the lowest RECONV set becomes one ready entry of age 0 after the instruction, with the priority of its block; a held split is made once slots
are free; the oldest pending trap is taken once the warp's stores and the entry's accesses are performed; a warp without lanes, stores, late faults or
unperformed atomics retires; an open lane that has issued 16,384 instructions validates its reads, or aborts with CONFLICT to its TXE; the free token goes
to the head of its queue, which enters open with ESC; a holder of 2^20 local cycles aborts with INTERRUPT. -/
def Obligations.WarpStepsBetweenIssues : Prop :=
  ∀ (s u : State) (w : Warp) (e : Entry),
    let a := s.args; let here := (s.core a.core).warp a.slot = some w
    (here → w.entry a.entry = some e → e.state = .ready → 4096 ≤ e.age → e.held = [] → (s.groupOf a.core a.slot).promise = true →
      exec .agePromotion s = .next (s.setWarp a.core a.slot (w.replaceEntry a.entry [{ e with state := .promoted }]))) ∧
    (here → w.trapping = none → (∀ y ∈ w.frontier, y.holdsSplit = false → y.state = .waiting ∧ y.cause = some .reconv) → e ∈ w.frontier →
      e.holdsSplit = false → lowestReconv w.frontier none = some e →
      exec .reconvRelease s = .next (s.setWarp a.core a.slot { w with frontier := w.frontier.map (fun y => if y = e then
        { pc := BitVec.ofNat 57 ((e.pc.toNat + 8) % 2 ^ 57), mask := e.mask,
          prio := (match s.blockOf (s.ctxOf a.core a.slot) ((e.pc.toNat + 8) % 2 ^ 57) with | some (_, p) => BitVec.ofNat 8 p | none => e.prio) } else y) })) ∧
    (here → w.entry a.entry = some e → e.held ≠ [] → e.replay = 0#32 → e.state ≠ .parked → w.frontier.length + e.held.length ≤ 9 →
      exec .heldSplit s = .next (s.setWarp a.core a.slot (w.replaceEntry a.entry (e.held.map (fun p => p.entryOf e))))) ∧
    (∀ p rest i, here → w.pending = p :: rest → w.trapping = none → w.entryOf p.lanes = some (i, e) → e.holdsSplit = false → e.state ≠ .parked →
      w.unperformed e.mask = false → ((s.drain a.core a.slot).warp a.core a.slot).storeq = [] →
      exec .trapEntry s = .next ((s.setWarp a.core a.slot { w with pending := rest }).takeTrap a.core a.slot i
        { cause := p.cause, lanes := p.lanes, pc := p.pc, insn := p.insn, len := p.len, info := p.info, epc := p.epc, extra := p.extra })) ∧
    (here → w.frontier = [] → w.storeq = [] → w.targetFaults = [] → (∀ r ∈ w.inflight, r.unperformed = 0#32) →
      exec .warpRetire s = .next (s.retireWarp a.core a.slot)) ∧
    (let t := (s.warp a.core a.slot).laneTx a.lane
     t.state = .opened → 16384 ≤ t.issued →
      (s.readsHold a.core t.reads = (true, u) →
        exec .txValidateCheck s = .next (u.setWarp a.core a.slot ((u.warp a.core a.slot).setTx a.lane { (u.warp a.core a.slot).laneTx a.lane with issued := 0 }))) ∧
      (s.readsHold a.core t.reads = (false, u) →
        exec .txValidateCheck s = .next ((u.abortLane a.core a.slot a.lane 1 0 0).moveLane a.core a.slot a.lane t.txe))) ∧
    (∀ c k l rest, (s.module a.module).holder = none → (s.module a.module).tokenQueue = (c, k, l) :: rest →
      exec .tokenGrant s = .next
        (let t := s.setModule a.module { s.module a.module with holder := some (c, k, l), tokenQueue := rest, pins := [], tenure := s.moduleClock a.module }
         let v := (t.warp c k).setTx l (((t.warp c k).laneTx l).enter ((t.warp c k).laneTx l).txe true)
         t.setWarp c k { v with frontier := v.frontier.map (fun y =>
           if y.mask.getLsbD l && y.state == .waiting && y.cause == some .token then { y with state := .ready, cause := none, age := 0 } else y) })) ∧
    (∀ c k l, (s.module a.module).holder = some (c, k, l) → (s.module a.module).tenure + 2 ^ 20 ≤ s.moduleClock a.module →
      exec .tokenTimeout s = .next ((s.abortLane c k l 8 0 0).moveLane c k l ((s.warp c k).laneTx l).txe))

/-- R28, R34, R92, R95, R99, R100, R121, R122, R132, R168, R268, R420: what comes back to a core and what leaves it. Arrived lanes of a load are delivered to
their registers, which become full; a packet of requests is served at the module that it reaches, its lanes ascending; a forwarding pointer is followed; a
fault decided at an access's target parks the lanes that it names; the oldest queued store is performed and leaves the queue, handing on the lanes that its
target has refused, and with the last store of a halted group its save completes; a dirty sector's bytes are written back but for pinned ones. -/
def Obligations.ReturnsAndWriteBacks : Prop :=
  ∀ (s u : State) (r : InFlight),
    let a := s.args; let w := s.warp a.core a.slot
    let m := a.lanes &&& r.pend &&& ~~~r.remote
    (w.record a.record = some r → m ≠ 0#32 → m &&& r.unperformed = 0#32 →
      exec .valueArrival s = .next (s.setWarp a.core a.slot ((w.deliver r (lanes m)).putRecord a.record { r with pend := r.pend &&& ~~~m }))) ∧
    (w.record a.record = some r → a.lanes &&& r.remote ≠ 0#32 → let q := r.packet (a.lanes &&& r.remote) r.remote
      s.packetPinned a.core a.slot r q = false → exec .remoteRequest s = .next (s.requestEach a.core a.slot a.record q (lanes q))) ∧
    (w.record a.record = some r → filterMask a.lanes (fun l => (SMap.get none r.pointer l).isSome) ≠ 0#32 →
      exec .forwardResponse s = .next (s.forwardEach a.core a.slot a.record (lanes (filterMask a.lanes (fun l => (SMap.get none r.pointer l).isSome))))) ∧
    (∀ i e, w.targetFaults[a.record]? = some r → r.pend &&& w.live ≠ 0#32 →
      findIdx (fun y => y.mask &&& (r.pend &&& w.live) != 0#32 && y.state != .parked && y.replay == 0#32) w.frontier 0 = some (i, e) →
      let rest := r.pend &&& w.live &&& ~~~(e.standing ((lowestLane (r.pend &&& w.live &&& e.mask)).getD 0)).mask
      let left := if rest = 0#32 then dropAt w.targetFaults a.record else setAt w.targetFaults a.record { r with pend := rest }
      exec .targetFaultPark s = .next ((s.setWarp a.core a.slot { w with targetFaults := left }).parkTarget a.core a.slot
        { r with pend := r.pend &&& w.live } i e)) ∧
    (∀ o t n va, w.storeq = o :: t → s.storeStep a.core a.slot o t = (u, none, n, va) →
      exec .storeAcknowledgement s = .next ((u.setWarp a.core a.slot { u.warp a.core a.slot with storeq :=
        match t with | [] => [] | y :: z => y.takeRefused n va :: z }).finishSave a.core w.group)) ∧
    (a.flag = true → ((s.core a.core).sector a.pa).dirty ≠ 0#256 → s.sectorPinned a.core a.pa = false →
      exec .dirtyWriteBack s = .next (s.writeBackSector a.core a.pa)) ∧
    (∀ y, a.flag = false → (s.group a.core a.group).maps[a.index]? = some y → (SMap.get ({} : MapSector) y.sectors a.offset).dirty ≠ 0#256 →
      s.mapPinned a.core a.group a.index a.offset = false →
      exec .dirtyWriteBack s = .next (s.flushMapped a.core a.group a.index a.offset).2)

/-- R120, R280 to R282, R388, R389: waits and parked faults. A woken lane reads and compares again, and so does one whose timer has run out; a wait that is
done ends; a wait for a tile, agreement or trigger slot issues its instruction again; a monitor that something has hit fires; LMWAIT ends after 65,536
local cycles; FDRESOLVE acts on its record; a freed record goes to an entry that parked without one; the oldest held fault entry is written. -/
def Obligations.WaitsAndParkedFaults : Prop :=
  ∀ (s : State) (y : Wait) (e : Entry),
    let a := s.args; let w := s.warp a.core a.slot; let now := (s.core a.core).clock.toNat
    (w.waitOf a.lane = some y → y.woken = true → y.done = false → y.perLane = true → exec .waitWake s = .next (s.recheck a.core a.slot y)) ∧
    (w.waitOf a.lane = some y → y.done = true → e ∈ w.frontier → e.mask.getLsbD y.lane = true → w.allDone e = true →
      exec .waitWake s = .next (s.endWaits a.core a.slot)) ∧
    (w.waitOf a.lane = some y → y.done = false → y.woken = false → s.engineReady a.core a.slot y = true →
      exec .waitWake s = .next (s.setWarp a.core a.slot { w with waits := w.waits.filter (fun z => z != y), frontier := w.frontier.map (fun e =>
        if e.mask.getLsbD y.lane then { e with state := .ready, cause := none, age := 0 } else e) })) ∧
    (∀ n, w.waitOf a.lane = some y → y.done = false → y.period = some n → y.since + n ≤ now → exec .waitRecheck s = .next (s.recheck a.core a.slot y)) ∧
    (∀ z, w.monitor = some z → z.fired = false → z.hit = some a.cause → (∀ v ∈ w.waits, v.kind ≠ .monitor) →
      exec .monitorFire s = .next (s.setWarp a.core a.slot { w with monitor := some { z with fired := true } })) ∧
    (∀ z, w.monitor = some z → z.fired = false → z.hit = some a.cause → y ∈ w.waits → y.kind = .monitor →
      exec .monitorFire s = .next ((s.setWarp a.core a.slot { w with monitor := none }).endMonitor a.core a.slot)) ∧
    (y ∈ w.waits → y.kind = .monitor → y.done = false → y.since + 65536 ≤ now →
      exec .lmwaitTimeout s = .next ((s.setWarp a.core a.slot (w.mapWaits (fun z => z.lmDue now) (fun z => { z with done := true }))).endWaits a.core a.slot)) ∧
    exec .fdresolve s = .next (s.resolveFault a.ctx a.value.toNat) ∧
    (∀ i, w.entry a.entry = some e → e.state = .parked → e.frec = 0xFFFF#16 → e.fault = some i → i.lanes ≠ 0#32 →
      (s.ctx (s.groupOf a.core a.slot).ctx).records.length < 0xFFFF →
      exec .faultRecordFree s = .next
        (let g := s.groupOf a.core a.slot
         let (u, n) := s.recordFault g.ctx g.fcb (w.laneIdent ((lowestLane i.lanes).getD 0)).handle a.core a.slot i
         u.setWarp a.core a.slot ((u.warp a.core a.slot).replaceEntry a.entry [{ e with frec := n }]))) ∧
    (∀ entry t d, SMap.get [] (s.ctx a.ctx).heldFaults a.domain = entry :: t → s.domainEntry a.ctx a.domain = some d → field d 232 8 ≠ 0 →
      s.domainRoom a.ctx a.domain d = true →
      exec .faultEntryWrite s = .next ((s.setCtx a.ctx { s.ctx a.ctx with heldFaults := SMap.set [] (s.ctx a.ctx).heldFaults a.domain t }).writeFaultEntry
        a.ctx a.domain d entry))

/-- R30, R32 to R38, R77, R320, R322, R356, R357: groups. Closed warps of one key form a group that is placed on the core chosen, or refused with cause 0x11
for an entry that is not declared and 0x31 for one beyond its budget; a pre-emption and the end of a slice save the groups of a core and of a domain, and
the next contender's slice starts; a swap-out saves its group; a saved group comes back where its core has room, a pre-empted one by itself and a
swapped-out one with its wake; the value of a late atomic of a saved warp enters its record and its save area; the group of a ROLE switches to its
descriptor or is refused. The fields of the record of a group that is refused (log 94) and a slice that ends with its last group (log 99) are the model's
choices. -/
def Obligations.GroupsArePlacedSavedAndRestored : Prop :=
  ∀ (s : State),
    let a := s.args; let r := s.region a.region; let first := a.region / 32 * 512 + a.region % 32 * 16
    (∀ w c ws, r.closed[a.index]? = some w → w.clauses.head? = some c →
      let u := ((s.touchEntries c.ctx).touchBlocks c.ctx).touchFcb c.ctx c.fcb; let taken := u.setRegion a.region (r.takeClosed ws)
      (u.entryRecord c.ctx c.entry = none → r.formed a.index ({} : Allot).warps = some ws →
        exec .groupPlace s = .next (taken.refuseGroup first (ws.map Prod.snd) 0x11)) ∧
      (∀ e, u.entryRecord c.ctx c.entry = some e → r.formed a.index (allotOf e).warps = some ws →
        ((u.fcbField c.ctx c.fcb 96 32 < (allotOf e).sbytes ∨ u.fcbField c.ctx c.fcb 128 32 < (allotOf e).tbytes) →
          exec .groupPlace s = .next (taken.refuseGroup first (ws.map Prod.snd) 0x31)) ∧
        (∀ core, (allotOf e).sbytes ≤ u.fcbField c.ctx c.fcb 96 32 → (allotOf e).tbytes ≤ u.fcbField c.ctx c.fcb 128 32 →
          u.chooseCore a.region ws.length (allotOf e) (u.sliceDomain c.ctx c.fcb) = some core →
          exec .groupPlace s = .next (taken.placeGroup core (allotOf e) (u.sliceDomain c.ctx c.fcb) (ws.map Prod.snd))))) ∧
    (s.toPreempt a.core a.flag ≠ [] → exec .preemptRequest s = .next (s.saveGroups a.core 0 (s.toPreempt a.core a.flag))) ∧
    (∀ d, (s.core a.core).domain = some d → (s.core a.core).sliceLeft = 0 → (∀ y ∈ (s.core a.core).warps, ∀ w, y.2 = some w → w.over = false) →
      (s.sliceGroups a.core d ≠ [] ∨ ∃ n, nextContender (s.contenders a.core) d = some n ∧ n ≠ d) →
      let t := s.saveGroups a.core 0 (s.sliceGroups a.core d)
      exec .sliceExpire s = .next (t.startSlice a.core ((nextContender (t.contenders a.core) d).getD d))) ∧
    (∀ g, (s.core a.core).group a.group = some g → s.swappable a.core a.group = true → exec .swapOut s = .next (s.saveGroup a.core a.group 1)) ∧
    (∀ v, (s.core a.core).savedAt a.group = some v → s.returns a.core v = true →
      (v.state = 0 → exec .groupResume s = .next (s.bringBack a.core v)) ∧ (v.state = 2 → exec .wakeMessage s = .next (s.bringBack a.core v))) ∧
    (∀ v w q x t, (s.core a.core).savedAt a.group = some v → v.warps.find? (fun w => w.windex == a.warp) = some w → w.inflight[a.record]? = some q →
      q.late = true → (q.pend &&& q.unperformed).getLsbD a.lane = true → s.lateLane a.core v.group.ctx q a.lane = (.val x, t) →
      let y := w.lateSettle a.record a.lane q (.val x); let ws := v.warps.map (fun u => if u.windex = w.windex then y else u)
      let at_ := v.group.areaWarps + w.windex * warpPart v.group.allot + 4736 + 320 * a.record
      exec .lateReturn s = .next ((t.setCore a.core ((t.core a.core).putSaved { v with warps := ws, latepend := latePending ws })).writePieces v.group.ctx v.base
        ((34, 2, latePending ws) :: ((y.inflight[a.record]?).map (fun r => r.pieces at_)).getD []))) ∧
    (∀ d, s.roleDue a.core a.group = true → s.roleOutcome a.core a.group = some (some d) → exec .roleSwitch s = .next (s.switchRole a.core a.group d)) ∧
    (s.roleDue a.core a.group = true → s.roleOutcome a.core a.group = some none → exec .roleSwitch s = .next (s.refuseRole a.core a.group))

/-- R188, R293, R295, R299 to R301, R304 to R310: tiles, the matrix unit and the engines. Bytes of a tile load land and bytes of a tile store are
acknowledged; a proposed operation that all have signed issues, and takes its place in the order of its accumulator; the unit makes the next step of the
operation that issued first, and ends it with the last; a command does its work and completes, or fails; a report reaches its home agent; a trigger whose
mask the scoreboard covers fires. -/
def Obligations.TilesMatrixAndEnginesStep : Prop :=
  ∀ (s : State),
    let a := s.args; let g := s.group a.core a.group; let r := (s.region a.region).copyq
    (∀ h l, s.groupAt a.core a.group = some h → h.landable a.index a.bytes = some l →
      (l.load = true ∨ ∀ y ∈ (if a.bytes = l.left then l.runs else (takeBits (8 * a.bytes) l.runs).1), ∀ p, y.place = some p →
        s.pinned (s.runPlace h.ctx y.va p) (ceilDiv (y.nib + y.bits) 8) = false) →
      exec .tileLanding s = .next (s.land a.core a.group a.index a.bytes h l)) ∧
    (∀ i f, g.issues a.agreement = some (i, f) → (tileSparse (g.opTiles f).2 = false ∨ sparseOk g.opbuf (g.opTiles f).2 = true) →
      exec .matrixIssue s = .next
        (let t := s.setGroup a.core a.group { g with
           agr := SMap.set {} g.agr a.agreement { SMap.get ({} : Agr) g.agr a.agreement with state := .issued, steps := 0 },
           accOrder := g.accOrder ++ [{ acc := f.rd.toNat, agr := some a.agreement }] }
         (t.setCore a.core { t.core a.core with matq := (t.core a.core).matq ++ [{ group := a.group, agr := a.agreement }] }).endSigned a.core a.group a.agreement false)) ∧
    (∀ q rest i f o, (s.core a.core).matq = q :: rest →
      let h := s.group a.core q.group; let b := SMap.get ({} : Agr) h.agr q.agr
      b.op = some (i, f) → h.accFirst f.rd.toNat = some o → o.agr = some q.agr →
      let t := s.matStep a.core q.group i f.rd.toNat (h.opTiles f).1 (h.opTiles f).2 b.steps; let k := t.group a.core q.group
      (b.steps + 1 < stepCount i (tileFmt (h.opTiles f).1) (tileCols (h.opTiles f).1) →
        exec .matrixStep s = .next (t.setGroup a.core q.group { k with agr := SMap.set {} k.agr q.agr { b with steps := b.steps + 1 } })) ∧
      (stepCount i (tileFmt (h.opTiles f).1) (tileCols (h.opTiles f).1) ≤ b.steps + 1 →
        exec .matrixStep s = .next
          (let u := t.setGroup a.core q.group { k with agr := SMap.set {} k.agr q.agr {}, accOrder := k.accOrder.filter (fun y => y.agr != some q.agr) }
           (u.setCore a.core { u.core a.core with matq := rest }).pumpAcc a.core q.group f.rd.toNat (k.accOrder.length + 1)))) ∧
    (∀ k, r[a.index]? = some k → k.state = .mismatch → exec .engineComplete s = .next (s.endCmd a.region a.index k (some { cause := 0x40 }) 0#512)) ∧
    (∀ k sig t, r[a.index]? = some k → k.state = .written ∨ (k.state = .proceeds ∧ (k.txfer = false ∨ tRedop k.dst = 0)) → s.workOf k = .done sig t →
      exec .engineComplete s = .next (t.endCmd a.region a.index k none sig)) ∧
    (∀ k f sig t, r[a.index]? = some k → k.state = .written ∨ (k.state = .proceeds ∧ (k.txfer = false ∨ tRedop k.dst = 0)) → s.workOf k = .fail f sig t →
      exec .engineComplete s = .next (t.endCmd a.region a.index k (some f) sig)) ∧
    (∀ k u k' sig t, r[a.index]? = some k → k.state = .proceeds → k.txfer = true → tRedop k.dst ≠ 0 →
      s.writeFolds ((s.collective k).filter (fun y => y.2.2.state == .proceeds)) = some u → (u.region a.region).copyq[a.index]? = some k' →
      u.workOf k' = .done sig t → exec .engineComplete s = .next (t.endCmd a.region a.index k' none sig)) ∧
    (∀ k u, r[a.index]? = some k → k.state = .reporting →
      (let t := s.putCmd a.region a.index { k with state := .reported }
       t.decide k.members ((t.collective { k with state := .reported }).filter (fun y => y.2.2.state == .reported)) = some u) →
      exec .collectiveReport s = .next u) ∧
    (∀ h t, s.groupAt a.core a.group = some h → SMap.get none h.trig a.index = some t → h.tscb &&& t.vm = t.vm →
      exec .trigFire s = .next
        (let u := s.putGroupAt a.core a.group { h with trig := SMap.set none h.trig a.index none } [(3072 + 64 + 64 * a.index, 64, 0)]
         (h.tscbSig.foldl (fun u y => if t.vm.getLsbD y.1 then u.applySig a.core y.2 else u) u).fire a.core t.cmd))

/-- R51, R52, R56, R57, R60, R67, R70, R71, R79, R81, R83, R116: the flood network. A message joins its wait list behind those that came before it, and the
65th spills; its head opens a free cairn; a cairn whose map must be read again reads it; the cursor hands one clause to the gatherer; an open warp closes
2,048 local cycles after its oldest clause; a spilled clause is read from the ring and joins an open warp; an echo answers the belay that awaits it, or is
late; a drained cairn echoes, or completes its flood at the origin, and is free after its echo; an unanswered child is silent after its time; a cancel
answers a waiting message of its flood, or acts on the cairn, or does nothing. Priority 128 for an entry that no block of the table holds (log 8), what a spilled
message or value writes to the ring (log 51), owner records read at each step of the cursor (log 89) and ties by the sender's unit (log 90) are the model's
choices. -/
def Obligations.FloodNetworkSteps : Prop :=
  ∀ (s : State),
    let a := s.args; let r := s.region a.region; let k := s.cairn a.unit a.slot; let d := s.takeNet a.index
    (∀ dest pu ps ch m, s.net[a.index]? = some (.flood dest pu ps ch m) → s.inOrder a.index = true → let l := d.waitList dest m.depth
      (l.length < 64 → exec .floodMessageArrive s = .next (d.setWaitList dest m.depth (joinWait (d.unitClock dest) (.flood dest pu ps ch m) l))) ∧
      (64 ≤ l.length → exec .floodMessageArrive s =
        .next (let u := d.spillFree dest; u.setWaitList dest m.depth (joinWait (u.unitClock dest) (.flood dest pu ps ch m) l)))) ∧
    (∀ n dest pu ps ch m t slot, s.waitList a.unit a.cls = (n, .flood dest pu ps ch m) :: t → s.freeCairn a.unit a.cls = some slot →
      exec .cairnOpen s = .next (((s.setWaitList a.unit a.cls t).setCairn a.unit slot
        { state := .opened, msg := some m, parentUnit := pu, parentSlot := ps, childNo := ch }).openCairn a.unit slot m)) ∧
    (∀ u slot m, a.reader = some (.cairn u slot) → (s.cairn u slot).state = .opened → (s.cairn u slot).msg = some m →
      exec .mapReread s = .next (s.openCairn u slot m)) ∧
    (∀ f p, let q := s.cairn a.region a.slot
      let c := pieceClause f a.region q.map p (match s.blockOf (f.ctxAt a.region) f.entry with | some (_, b) => b | none => 128)
      q.state = .dispatch → q.msg = some f → s.piece a.region a.slot = some p → r.room c = true → q.warps < f.maxwarps →
      exec .clauseDispatch s = .next
        (let y := (s.touchBlocks (f.ctxAt a.region)).accept (a.region * 256 + a.slot) c
         (y.2.setCairn a.region a.slot { y.2.cairn a.region a.slot with shard := p.shard, offset := if f.mapv then p.offset + p.count else 1,
                                                                        state := if p.last then .drain else .dispatch }).gather a.region y.1)) ∧
    (∀ w, r.opened[a.index]? = some w → w.since + 2048 ≤ s.regionClock a.region → exec .gatherTimeoutClose s = .next (s.closeWarp a.region w true)) ∧
    (∀ i c, r.drainable = some (i, c) → exec .spillClauseDrain s = .next
      (let y := s.homeRead none (s.ringPlace a.region c.ring) 64
       (y.2.setRegion a.region { r with spill := dropAt r.spill i }).gather a.region (c.ofRecord y.1))) ∧
    (∀ u slot ch h x sc e, s.net[a.index]? = some (.echo u slot ch h x sc e) → let q := d.cairn u slot
      (q.live = true → q.handle = some h → SMap.get none q.answered ch = none → q.silent.contains ch = false → q.silentDue ch (d.unitClock u) = false →
        exec .echoArrive s = .next ((d.setCairn u slot { q with answered := SMap.set none q.answered ch (some e) }).spillBelay u)) ∧
      ((q.live = false ∨ q.handle ≠ some h ∨ SMap.get none q.answered ch ≠ none ∨ q.silent.contains ch = true) →
        exec .echoArrive s = .next (d.lateEcho u slot ch h e (unitModule u * 32 + x % 32) sc))) ∧
    (∀ f, k.drained = true → k.msg = some f →
      ((1024 ≤ a.unit ∧ a.unit < 2048) → exec .cairnEcho s = .next (s.complete a.unit a.slot f)) ∧
      ((a.unit < 1024 ∨ 2048 ≤ a.unit) → exec .cairnEcho s = .next
        (({ s with net := s.net ++ [NetMsg.echo k.parentUnit k.parentSlot k.childNo f.handle f.ctx f.scope k.echo] } : State).setCairn a.unit a.slot
          { k with state := .echo }))) ∧
    (k.state = .echo → exec .cairnFree s = .next (s.setCairn a.unit a.slot {})) ∧
    (k.silentDue a.child (s.unitClock a.unit) = true → exec .silenceExpire s = .next (s.markSilent a.unit a.slot a.child)) ∧
    (∀ f c, k.msg = some f → k.children[a.child]? = some c → s.markSilent a.unit a.slot a.child =
      ((let t := s.fcbWrite (f.ctxAt a.unit) f.fcb (128 + 8 * c.2.1) 8 (s.fcbField (f.ctxAt a.unit) f.fcb (1024 + 64 * c.2.1) 64 ||| 2 ^ c.2.2.1)
        ({ t with late := t.late ++ [{ unit := a.unit, slot := a.slot, handle := f.handle, no := a.child, child := c, at_ := (k.expires a.child).getD 0 }] } : State)).setCairn
        a.unit a.slot { k with silent := k.silent ++ [a.child], silentCount := k.silentCount + 1, partly := true })) ∧
    (∀ dest h cls x y z, s.net[a.index]? = some (.cancel dest h cls x y z) → s.inOrder a.index = true →
      let mine := fun (m : Nat × NetMsg) => (match m.2 with | .flood t _ _ _ f => t == dest && f.handle == h | _ => false : Bool)
      (∀ n t pu ps ch f, (d.waitList dest cls).find? mine = some (n, .flood t pu ps ch f) → exec .cancelArrive s = .next
        (let u := d.setWaitList dest cls ((d.waitList dest cls).filter (fun m => !mine m))
         { u with net := u.net ++ [NetMsg.echo pu ps ch h f.ctx f.scope { ({ msg := some f } : Cairn).identity with cancelled := true }] })) ∧
      ((d.waitList dest cls).find? mine = none →
        (∀ slot f, d.cairnFor dest h = some slot → (d.cairn dest slot).msg = some f → exec .cancelArrive s = .next (d.cancelCairn dest slot f)) ∧
        (d.cairnFor dest h = none → exec .cancelArrive s = .next d)))

/-- R101, R124, R137, R141, R149, R150, R375, R376, R414: the memory system's own steps. A signature of 256 bits rolls over in the cores of its instance and
in what else the instance holds. Every bucket is set to its rate, and what was left goes to the port's pool. A page that no pin or tile store holds moves to
its new frame: copies are flushed, its bytes and sidebands move, its entry changes, a forwarding record stands, its waits wake, its translations go, and then
queued stores leave. A write from outside enters the foreign signature before memory; the host writes or adds to a word of its own memory. The host reads and
writes through BAR2, which counts an address that does not translate, and through CXL. A port that goes down is lost. A peer that has not acknowledged for
the hub timeout is lost. Bit errors strike words, and the scrubber reads and corrects a word. Which update of host memory is lost is the turn's (log 87). -/
def Obligations.MemorySystemSteps : Prop :=
  ∀ (s : State),
    let a := s.args; let m := s.module a.module
    ((3 ≤ a.scope ∧ a.scope ≤ 7) → 256 ≤ sigCount ((s.core a.core).sigOf a.scope) → s.rolloverPinned a.scope a.core = false →
      exec .signatureRollover s = .next
        ((((SMap.keys s.cores).filter (fun d => inScope a.scope a.core d)).foldl (fun s d => s.rolloverCore a.scope d) s).rolloverRest a.scope a.core)) ∧
    (∃ b, exec .bucketWindow s = .next (s.setPort a.port { bucket := b, pool := (s.port a.port).pool + (s.port a.port).bucket.foldl (fun n y => n + y.2.tokens) 0 }) ∧
      ∀ f, f < 32 → (SMap.get {} b (32 * portModule a.port + f)).tokens = s.rateAt (32 * portModule a.port + f) a.port) ∧
    (∀ u e l, let home := a.ctx / 32; let size := 2 ^ l.bits
      walkPage a.ctx 3 s a.va = (u, .ok (e, l)) → bit l.e 54 = false → a.pa % size = 0 → badPa a.pa = false → a.pa < 2 ^ 52 → a.pa ≠ ptePpn l.e →
      u.pageHeld (ptePpn l.e) size = false →
      exec .pageMigrate s = .next
        (let src := placeOf home (ptePpn l.e); let dest := placeOf home a.pa
         let t := match src with | .dom pa => (u.flushPage pa size).recallRange none src size | _ => u
         let t := match dest with | .dom b => t.flushPage b size | _ => t
         let t : State := { t with mem := movePage t.mem (memKey src) (memKey dest) size }
         let t := (match src with | .dom pa => t.moveSidebands pa size dest | _ => t).writePpn home l a.pa
         let t := match src with | .dom pa => (t.leaveForward a.ctx pa size dest).wakePage pa size | _ => t
         (t.tlbi (home * 512) 6 (.va (a.ctx % 32) (a.va - a.va % size) size)).drainIn (home * 512) 6)) ∧
    (a.data ≠ [] →
      (badPa a.pa = false → a.pa < 2 ^ 51 → s.pinned (.dom a.pa) a.data.length = false → exec .foreignWrite s =
        .next ((s.noteForeign a.module a.pa a.data.length).homeWrite none (.dom a.pa) a.data.length (fullMask a.data.length) (ofLe a.data))) ∧
      (2 ^ 51 ≤ a.pa → a.pa < 2 ^ 51 + 2 ^ 50 → let key := memKey (.port a.module a.pa); let n := a.data.length
        let t := s.setModule a.module { m with hostRmw := none }
        (a.flag = false → exec .foreignWrite s = .next { t with mem := writeBytes t.mem key n (ofLe a.data) }) ∧
        (a.flag = true → a.index = 0 → (n = 4 ∨ n = 8) → a.pa % n = 0 →
          exec .foreignWrite s = .next { t with mem := writeBytes t.mem key n ((readBytes s.mem key n + ofLe a.data) % 2 ^ (8 * n)) }) ∧
        (∀ u, s.hostUpdate a.module a.pa a.data a.flag a.index = some u → exec .foreignWrite s = .next u))) ∧
    (a.offset < 2 ^ 36 → (s.module (a.ctx / 32)).safe = false → let va := (s.ctxReg a.ctx 0x058 + a.offset) % 2 ^ 64
      (a.flag = false → 0 < a.size → a.offset % 4096 + a.size ≤ 4096 →
        (∀ b u, s.bar2 a.ctx va none a.size = some (b, u) → exec .bar2Access s = .next { u with log := u.log ++ [.data (a.ctx / 32) b] }) ∧
        (s.bar2 a.ctx va none a.size = none → exec .bar2Access s = .next (let u := s.count (a.ctx / 32) (0x200 + 8 * (a.ctx % 32)) 1
          { u with log := u.log ++ [.data (a.ctx / 32) (List.replicate a.size 255#8)] }))) ∧
      (a.flag = true → 0 < a.data.length → a.offset % 4096 + a.data.length ≤ 4096 →
        (∀ b u, s.bar2 a.ctx va (some a.data) a.data.length = some (b, u) → exec .bar2Access s = .next u) ∧
        (s.bar2 a.ctx va (some a.data) a.data.length = none → exec .bar2Access s = .next (s.count (a.ctx / 32) (0x200 + 8 * (a.ctx % 32)) 1)))) ∧
    (m.hostPort = .cxl → badPa a.pa = false → a.pa < 2 ^ 51 → paModule a.pa = a.module →
      (a.flag = true → 0 < a.data.length → s.pinned (.dom a.pa) a.data.length = false → exec .cxlMemRequest s = .next (s.foreignWrite a.module a.pa a.data)) ∧
      (a.flag = false → 0 < a.size → exec .cxlMemRequest s = .next (let y := s.homeRead none (.dom a.pa) a.size
        { y.2 with log := y.2.log ++ [.data a.module (leBytes a.size y.1)] }))) ∧
    (let lost := fun (p : Nat) => if a.mode = .down then p :: m.lost.filter (· != p) else m.lost.filter (· != p);
      (a.flag = false → exec .pcieCxlLinkTraining s = .next (s.setModule a.module { m with hostPort := a.mode, lost := lost 32 })) ∧
      (a.flag = true → a.mode ≠ .pcie → exec .pcieCxlLinkTraining s =
        .next (s.setModule a.module { m with poolPort := a.mode, poolBytes := if a.mode = .cxl then a.value else 0#64, lost := lost 33 }))) ∧
    (∀ c k, let timeout := 2 ^ m.hubTmo; a.peer ≠ a.module → a.peer ≤ 33 → a.peer ∉ m.lost → timeout ≤ s.moduleClock a.module →
      (c, k) ∈ s.warpsIn (a.module * 512) 5 → (s.warp c k).awaitsPeer a.peer (s.moduleClock a.module - timeout) = true →
      exec .hubTimeout s = .next (s.losePeer a.module a.peer)) ∧
    (a.index = 8 → badPa a.pa = false → a.pa < 2 ^ 51 → exec .eccError s = .next (s.hitWord (a.pa / 8) a.flag)) ∧
    (a.index = 0 → exec .eccError s = .next (s.hitWord (regWord a.core a.slot (.v a.record) a.lane) a.flag)) ∧
    (badPa (a.pa / 8 * 8) = false → a.pa < 2 ^ 51 →
      exec .scrubStep s = .next (s.eccRead (paModule (a.pa / 8 * 8)) 0xFFFFFFFF 4 (.dom (a.pa / 8 * 8)) 8).2)

/-- R6, R378, R382, R383, R385 to R387, R391: queues and registers. TAIL rises; QCTL enables, stops and clears; ACK.PAUSED is set; a register write takes
effect. A packet of each type that has been read, whose fields are legal and that waits for nothing does its work and ends; a type that does not exist stops
its queue with QERR 1 and cause 2. -/
def Obligations.QueueStepsAndRegisterWrites : Prop :=
  ∀ (s u : State) (p : Packet),
    let a := s.args; let q := a.queue; let z := s.queue q; let x := s.queueCtx q; let b := p.bytes
    let taken := s.headPacket q = .packet p u
    let starts := fun (type : Nat) (v : State) => taken ∧ u.publish q p = some v ∧ field b 0 8 = type ∧ (bit b 8 = false ∨ v.earlierDone q = true) ∧
      field b 9 23 = 0 ∧ v.queueCtx q = x
    exec .tailDoorbell s = .next (s.ringTail q a.value) ∧ exec .qctlEnable s = .next (s.enableQueue q) ∧ exec .qctlStop s = .next (s.haltQueue q) ∧
    exec .qctlClear s = .next (s.clearQueue q) ∧ exec .ackPaused s = .next (s.setCtx a.ctx { s.ctx a.ctx with acked := true }) ∧
    (z.tail.toNat < a.value.toNat → (s.module (q / 32)).safe = false → ((s.ringTail q a.value).queue q).tail = a.value) ∧
    (a.size ∈ [1, 2, 4, 8] →
      (∀ m o, a.target = some (.pf m o) → o % a.size = 0 → exec .registerWrite s = .next (s.writePf m o a.size a.value)) ∧
      (∀ m f o, a.target = some (.vf m f o) → o % a.size = 0 → 0 < f → f < 32 → exec .registerWrite s = .next (s.writeVf m f o a.size a.value)) ∧
      (∀ m o, a.target = some (.control m o) → o % a.size = 0 → exec .registerWrite s = .next (s.writeControl m o a.size a.value))) ∧
    (∀ v t, starts 1 v → v.seedCheck x b = (none, t) → exec .seedPacket s = .next ((t.seedThread q x p.index b).packetDone q)) ∧
    (∀ v t at_ rec, starts 2 v → field b 128 8 ≤ 31 → field b 136 376 = 0 → field b 64 64 % 64 = 0 → v.queueRead q x (field b 64 64) 64 = (.ok (at_, rec), t) →
      field rec 424 4 = 0 → field rec 416 2 = 0 → recordCheck 0 rec 0 = none →
      exec .copyPacket s = .next ((t.issueCmd q (field b 128 5) p.index (t.queueCmd q x p.index false (field b 64 64) rec)).packetDone q)) ∧
    (∀ v t at_ y, starts 3 v → field b 192 8 ≤ 3 → field b 200 312 = 0 → field b 64 64 % 8 = 0 → v.queueRead q x (field b 64 64) 8 = (.ok (at_, y), t) →
      qwaitHolds (field b 192 8) y (field b 128 64) = true → exec .waitPacket s = .next ((t.queueAcquire q at_).packetDone q)) ∧
    (∀ v t, starts 4 v → field b 192 8 ≤ 1 → field b 200 312 = 0 → field b 64 64 % 8 = 0 →
      v.queueRelease q x (field b 64 64) 8 (field b 128 64) (field b 192 8 == 1) = .ok t → exec .signalPacket s = .next (t.packetDone q)) ∧
    (∀ v, z.fenceDone = false → starts 5 v → (3 ≤ field b 64 8 ∧ field b 64 8 ≤ 7) → field b 72 440 = 0 →
      exec .fencePacket s = .next ((v.setQueue q { v.queue q with fences := (v.queue q).fences ++ [p.index] }).packetDone q)) ∧
    (z.fenceDone = true → exec .fencePacket s = .next (s.setQueue q { z with fences := z.fences.drop 1 })) ∧
    (∀ v, let h : Word := BitVec.ofNat 32 (field b 64 32)
      starts 6 v → field b 96 416 = 0 → bit (v.cdom x) (handleMod h) = true → v.handleValid x h = true →
      exec .cancelPacket s = .next (({ v with net := v.net ++ [NetMsg.cancel (originUnit (handleRegion h)) h (handleSlot h / 32) (q / 32 * 32) 0 0] } : State).packetDone q)) ∧
    (∀ v, taken → (field b 0 8 = 0 ∨ 6 < field b 0 8) → u.publish q p = some v → exec .invalidPacketType s = .next (v.stopQueue q p 1 0x02))

/-- R380, R381, R387: the vendor instructions of the thread of queue `q`. QWAIT whose comparison holds puts the value read in rd, and else waits; QSEED whose
packet passes its checks seeds its thread and puts 0 in rd once that is placed; QENG issues a COPY whose record passes its checks and puts 0 in rd; QFENCE
ends, telling of lost stores in QFSTAT; each moves past itself. An illegal vendor encoding raises mcause 2 with its word and address. -/
def Obligations.QueueThreadInstructions : Prop :=
  ∀ (f : FormR) (word : Word) (s t : State) (q : Nat), s.cur = .queue q →
    let z := s.queue q; let x := s.threadCtx q; let va := (z.reg f.rs1).toNat
    let done := fun (u : State) (v : Nat) => Host.Outcome.next (φ := Fault) (ρ := Refusal) { u.queueNext q f.rd v with cur := .idle }
    (∀ at_ v, f.funct3.toNat ≤ 3 → va % 8 = 0 → s.queueRead q x va 8 = (.ok (at_, v), t) →
      (qwaitHolds f.funct3.toNat v ((t.queue q).reg f.rs2).toNat = true → exec (.qwait f) s = done (t.queueAcquire q at_) v) ∧
      (qwaitHolds f.funct3.toNat v ((t.queue q).reg f.rs2).toNat = false → exec (.qwait f) s = .next { t.queueStall q with cur := .idle })) ∧
    (∀ at_ b u, f.funct3 = 0#3 → va % 64 = 0 → (z.waiting && z.seeding) = false → s.queueRead q x va 64 = (.ok (at_, b), t) → field b 0 8 = 1 →
      field b 9 23 = 0 → t.seedCheck x b = (none, u) →
      exec (.qseed f) s = .next (let v := u.seedThread q x (u.queue q).ridx.toNat b
        { v.setQueue q { v.queue q with waiting := true, seeding := true } with cur := .idle })) ∧
    (f.funct3 = 0#3 → va % 64 = 0 → z.waiting = true → z.seeding = true → s.unplaced q = false → exec (.qseed f) s = done s 0) ∧
    (∀ at_ rec, f.funct3 = 0#3 → va % 64 = 0 → s.queueRead q x va 64 = (.ok (at_, rec), t) → field rec 424 4 = 0 → recordCheck 0 rec 0 = none →
      exec (.qeng f) s = done (t.issueCmd q ((z.reg f.rs2).toNat % 32) (t.queue q).ridx.toNat (t.queueCmd q x (t.queue q).ridx.toNat false va rec)) 0) ∧
    (3 ≤ f.funct3.toNat → f.rd = 0#5 → f.rs1 = 0#5 → f.rs2 = 0#5 → exec (.qfence f) s =
      .next { s.setQueue q { z with lost := false, qfstat := if z.lost then z.qfstat ||| 1#64 else z.qfstat, pc := z.pc + 4#64, waiting := false,
                                    seeding := false } with cur := .idle }) ∧
    exec (.illegalInstructionException word) s =
      .next { s.setQueue q { z with mepc := z.pc, mcause := 2#64, mtval := BitVec.ofNat 64 word.toNat, mstatus := trapStatus z.mstatus,
                                    pc := BitVec.ofNat 64 (z.mtvec.toNat / 4 * 4), waiting := false, seeding := false } with cur := .idle }

/-- R395, R397, R402 to R404, R409, R417: the mailbox. A command completes with BUSY clear, its result and its response. STAGE writes image bytes into the
inactive bank; VERIFY sets UPDOK where every image is accepted; RAISESVN raises the lowest version; ENROL fills an empty slot, KEYDIS disables one and
VENDOROFF the vendor key; EXTEND extends slots 6 to 15; SETPLIM and SETPOINT take effect in range; LINKTRAIN restarts a port; RESYNC writes the record;
a code that does not exist answers BADCMD. -/
def Obligations.MailboxCommands : Prop :=
  ∀ (s : State),
    let m := s.args.module; let z := s.module m; let q := z.request; let n := ofLe (q.take 1)
    let ready := fun (code : Nat) => z.mbBusy = true ∧ z.mbCode = code ∧ (z.lifecycle = .none ∨ z.mbHeld = false) ∧ z.mbLen ≤ 3840 ∧ z.safe = false
    let ends := fun (z' : Module) => Host.Outcome.next (φ := Fault) (ρ := Refusal) ((s.setModule m z').reply m 0 [])
    (∀ u r bs, let y := (State.reply u m r bs).module m
      y.mbBusy = false ∧ y.mbResult = r ∧ y.mbRlen = bs.length ∧ (State.reply u m r bs).log = u.log ++ [.vector (32 * m) 0]) ∧
    (ready 0x10 → 4 ≤ q.length → ofLe (q.take 4) + (q.drop 4).length ≤ 2 ^ 25 →
      let k := 1 - z.activeBank; let b := SMap.get ({} : Bank) z.banks k
      exec .stage s = ends { z with updok := false, banks := (SMap.set {} z.banks k
        { b with bytes := (q.drop 4).zipIdx.foldl (fun (d : SMap Byte) y => SMap.set 0#8 d (ofLe (q.take 4) + y.2) y.1) b.bytes,
                 len := max b.len (ofLe (q.take 4) + (q.drop 4).length) }) }) ∧
    (ready 0x11 → let is := (SMap.get ({} : Bank) z.banks (1 - z.activeBank)).images 8 0
      is ≠ [] → (∀ i ∈ is, z.accepts i = true) → exec .verify s = ends { z with updok := true }) ∧
    (ready 0x13 → q ≠ [] → n ≤ 2 → exec .raisesvn s = ends { z with minSvn := SMap.set 0 z.minSvn n (max (SMap.get 0 z.minSvn n) (z.runningSvn n)) }) ∧
    (ready 0x20 → 97 ≤ q.length → n ≤ 3 → z.keyen = true → SMap.get none z.keys n = none →
      exec .enrol s = ends { z with keys := SMap.set none z.keys n (some (BitVec.ofNat 768 (ofBe ((q.drop 1).take 96)))) }) ∧
    (ready 0x21 → q ≠ [] → n ≤ 3 → z.keyen = true → z.enrolled n = true → exec .keydis s = ends { z with keyOff := n :: z.keyOff }) ∧
    (∀ k, ready 0x22 → z.keyen = true → k < 4 → z.enrolled k = true → exec .vendoroff s = ends { z with vendorOff := true }) ∧
    (ready 0x28 → 49 ≤ q.length → 6 ≤ n → n ≤ 15 → exec .extend s = ends (z.extend n ((q.drop 1).take 48))) ∧
    (ready 0x40 → 4 ≤ q.length → 500 ≤ ofLe (q.take 4) → ofLe (q.take 4) ≤ 3200 → exec .setplim s = ends { z with plimNext := some (ofLe (q.take 4)) }) ∧
    (ready 0x41 → 2 ≤ q.length → n ≤ 3 → ofLe ((q.drop 1).take 1) ≤ 3 → let c := ofLe ((q.drop 1).take 1)
      exec .setpoint s = ends (z.setDie n { z.die n with cap := c, target := max c (z.die n).target })) ∧
    (ready 0x70 → 2 ≤ q.length → n ≤ 3 → ofLe ((q.drop 1).take 1) ≤ 15 → let p := 16 * n + ofLe ((q.drop 1).take 1)
      exec .linktrain s = .next (((s.linkOff m p).linkOn m p).reply m 0 [])) ∧
    (ready 0x60 → 12 ≤ q.length → ofLe (q.take 8) % 64 = 0 → 64 ≤ ofLe ((q.drop 8).take 4) →
      let body := (packSections (ofLe ((q.drop 8).take 4)) (s.sections m) 64).1
      let need := (s.sections m).foldl (fun n y => n + 8 + 8 * y.2.length) 64
      ∃ v, exec .resync s = .next ((s.homeWrite none (.port m (2 ^ 51 + ofLe (q.take 8) % 2 ^ 50)) (64 + body.length) (fullMask (64 + body.length)) v).reply m 0
        (leBytes 4 (64 + body.length) ++ leBytes 4 need))) ∧
    (z.mbBusy = true → z.mbCode ∉ mailboxCodes → exec .badcmd s = .next (s.reply m 1 []))

/-- R6, R391 to R396, R398 to R401: the life of a module. Rails come up step by step, fail or are lost; the ROM starts, boots the active bank's housekeeping
image, the other's, or enters the safe state; the self-test runs its stages; operating points and the power window act; ACTIVATE pauses every function and
ends once all have acknowledged and every group is saved, or is abandoned where one finds no area; a function moves out so too, and in; resets and loss of
power discard what they must. -/
def Obligations.LifeOfAModule : Prop :=
  ∀ (s t : State),
    let a := s.args; let m := a.module; let z := s.module m; let q := z.request; let f := ofLe (q.take 1)
    let ready := fun (code : Nat) => z.mbBusy = true ∧ z.mbCode = code ∧ (z.lifecycle = .none ∨ z.mbHeld = false) ∧ z.mbLen ≤ 3840 ∧ z.safe = false
    (z.railsUp < 5 → z.railFault = none → (z.railsUp < 2 ∨ z.romStarted = true) → exec .railStep s =
      .next (s.setModule m { z with railsUp := z.railsUp + 1, railsGood := z.railsGood ||| railMask (stepRails (z.railsUp + 1)) })) ∧
    (z.railsUp < 5 → z.railFault = none → (z.railsUp < 2 ∨ z.romStarted = true) → a.rail ≠ 0 → a.rail ∈ stepRails (z.railsUp + 1) →
      let y := { z with railFault := some a.rail, firstbad := if z.firstbad = 15 then a.rail else z.firstbad }
      (a.rail = 1 → exec .railWindowMiss s = .next (s.setModule m y)) ∧
      (a.rail ≠ 1 → ∃ e : ReportEntry, exec .railWindowMiss s = .next (s.setModule m { y with report := z.report ++ [e], safe := true, stage := 15 }) ∧
        e.cls = 5#8 ∧ e.inst = BitVec.ofNat 16 a.rail)) ∧
    (a.rail ≠ 0 → a.rail ≤ 7 → z.railsGood.getLsbD a.rail = true → exec .railLoss s = .next (s.setModule m
      { z with railsGood := z.railsGood &&& ~~~(1#32 <<< a.rail), firstbad := if z.firstbad = 15 then a.rail else z.firstbad })) ∧
    (z.railsGood.getLsbD 0 = true → exec .inputLoss s = .next (((s.dropUnits m).dropMemory m).setModule m { z.fused with firstbad := if z.firstbad = 15 then 0 else z.firstbad })) ∧
    (z.railsUp ≠ 0 → exec .powerDown s = .next (((s.dropUnits m).dropMemory m).setModule m
      { z.fused with railsUp := z.railsUp - 1, railsGood := z.railsGood &&& ~~~(railMask (stepRails z.railsUp)), firstbad := z.firstbad })) ∧
    (z.booted = false → z.safe = false → z.stage = 0 →
      (z.romStarted = false → 2 ≤ z.railsUp →
        exec .romBoot s = .next (s.setModule m { z.extend 0 (digestBytes Config.romDigest) with romStarted := true })) ∧
      (∀ i, z.romStarted = true → 5 ≤ z.railsUp → z.goodImage (SMap.get {} z.banks z.activeBank) 0 = some i → ∃ y, exec .romBoot s = .next (s.setModule m y) ∧
        y.booted = true ∧ y.stage = 1 ∧ y.fallback = false ∧ y.hksvn = i.svn) ∧
      (z.romStarted = true → 5 ≤ z.railsUp → z.goodImage (SMap.get {} z.banks z.activeBank) 0 = none →
        z.goodImage (SMap.get {} z.banks (1 - z.activeBank)) 0 = none → exec .romBoot s = .next (s.setModule m { z with safe := true, stage := 15 }))) ∧
    (z.stage = 1 → exec .selfTest s = .next (s.setModule m { z with stage := 2 })) ∧
    (∀ i, let y := { z with report := z.report ++ a.report.filter (fun (e : ReportEntry) => e.cls == 1#8 || e.cls == 2#8) }
      z.stage = 2 → (∀ e ∈ a.report, (e.cls = 1#8 ∨ e.cls = 2#8) → e.result ≠ 2#8) → y.goodImage y.bootBank 2 = some i →
      exec .selfTest s = .next (s.setModule m { (y.extend 5 i.digest).startAll with stage := 3, ttsvn := i.svn })) ∧
    ((z.die a.die).point ≠ (z.die a.die).target →
      exec .dvfsChange s = .next (s.setModule m (z.setDie a.die { z.die a.die with point := (z.die a.die).target }))) ∧
    (z.powerCount < 100 → 8 * a.watts ≤ 9 * z.plim →
      exec .powerSample s = .next (s.setModule m { z with powerSum := z.powerSum + a.watts, powerCount := z.powerCount + 1 })) ∧
    (z.powerCount = 100 → ∃ y, exec .powerWindow s = .next (s.setModule m y) ∧ y.pavg = z.powerSum / 100 ∧ y.powerCount = 0 ∧ y.powerSum = 0 ∧
      y.plim = z.plimNext.getD z.plim ∧ (100 * z.plim < z.powerSum → (y.die (a.hottest % 4)).target = min 3 ((z.die (a.hottest % 4)).target + 1))) ∧
    (ready 0x12 → z.lifecycle = .none → z.updok = true → exec .activate s = .next
      ((s.enabled m).foldl (fun s f => s.pauseFunction (32 * m + f)) (s.setModule m { z with lifecycle := .activating (s.enabled m), mbHeld := true }))) ∧
    (∀ fs, z.lifecycle = .activating fs → (∀ f ∈ fs, (s.ctx (32 * m + f)).acked = true) →
      (s.freeze m (fun _ => true) = (t, true) → t.frozen m (fun _ => true) = true →
        exec .activationQuiesce s = .next ((t.startImages m).endActivation m 0 fs)) ∧
      (s.freeze m (fun _ => true) = (t, true) → t.frozen m (fun _ => true) = false → exec .activationQuiesce s = .next t) ∧
      (s.freeze m (fun _ => true) = (t, false) → exec .activationQuiesce s = .next (t.endActivation m 4 fs))) ∧
    (ready 0x50 → q ≠ [] → f ≤ 31 → s.captureWaits m q = false →
      (s.freeze m (fun y => y == 32 * m + f) = (t, true) → t.frozen m (fun y => y == 32 * m + f) = true →
        exec .migrateOut s = .next ((t.setCtx (32 * m + f) { t.ctx (32 * m + f) with migrated := true, paused := true }).reply m 0 [])) ∧
      (s.freeze m (fun y => y == 32 * m + f) = (t, true) → t.frozen m (fun y => y == 32 * m + f) = false → exec .migrateOut s = .next t) ∧
      (s.freeze m (fun y => y == 32 * m + f) = (t, false) →
        exec .migrateOut s = .next (((t.thaw m (fun y => y == 32 * m + f)).resumeFunction (32 * m + f)).reply m 4 []))) ∧
    (ready 0x51 → q ≠ [] → f ≤ 31 → a.peer ≠ m → (s.ctx (32 * a.peer + f)).migrated = true → bit (s.domMask m) a.peer = true →
      (s.queuesOf a.peer (fun k => k == 32 * a.peer + f)).length ≤ (s.queuesOf m (fun k => k == 32 * m + f)).length →
      exec .migrateIn s = .next ((s.migrate a.peer m f).reply m 0 [])) ∧
    (∃ u, exec .functionReset s = .next u ∧ (u.ctx a.ctx).acked = true ∧ (u.ctx a.ctx).migrated = false ∧ (u.ctx a.ctx).records = [] ∧ (u.ctx a.ctx).areas = []) ∧
    exec .moduleReset s = .next ((s.dropUnits m).setModule m z.fused)

/-- R406 to R409: training. START checks FIRST and LAST and runs from FIRST; a step that passes goes on, ends the run at LAST, or stops it with 0xE under
ABORT; one that fails or takes too long stops it with its number. A port starts from states 0, 7 and 8, goes down, advances by what it has seen, fails or
finds no partner at its limit, and retrains once when it loses its lanes. -/
def Obligations.TrainingOfChannelsAndLinks : Prop :=
  ∀ (s : State),
    let a := s.args; let m := a.module; let z := s.module m; let p := z.phyOf a.channel; let l := z.fabricOf a.port
    let fresh := { p with done := false, fail := false, failstep := 0, aborting := false }
    ((z.stage = 2 ∨ z.stage = 3) → p.running = false →
      ((1 ≤ p.first ∧ p.first ≤ p.last ∧ p.last ≤ 7) → exec .trainingStart s = .next (s.setPhy m a.channel { fresh with running := true, step := p.first })) ∧
      ((p.first = 0 ∨ 7 < p.last ∨ p.last < p.first) → exec .trainingStart s = .next (s.setPhy m a.channel
        { fresh with running := false, done := true, step := 0, fail := true, failstep := 0xF }))) ∧
    (p.running = true → exec .trainingAbort s = .next (s.setPhy m a.channel { p with aborting := true })) ∧
    (∀ r, a.train = some r → p.running = true → (p.step = 1 ∨ p.step = 3 ∨ p.step = 4) → let y := p.result r
      (y.2 = false → exec .trainingStep s = .next (s.setPhy m a.channel (y.1.stop (some p.step)))) ∧
      (y.2 = true → p.aborting = true → exec .trainingStep s = .next (s.setPhy m a.channel (y.1.stop (some 0xE)))) ∧
      (y.2 = true → p.aborting = false → p.step = p.last → exec .trainingStep s = .next (s.setPhy m a.channel (y.1.stop none))) ∧
      (y.2 = true → p.aborting = false → p.step ≠ p.last → exec .trainingStep s = .next (s.setPhy m a.channel { y.1 with step := p.step + 1 }))) ∧
    (p.running = true → exec .trainingStepTimeout s = .next (s.setPhy m a.channel (p.stop (some p.step)))) ∧
    ((l.state = 0 ∨ l.state = 7 ∨ l.state = 8) →
      exec .linkStart s = .next (s.setFabric m a.port { l with state := 1, laneok := 0#8, pvalid := false, retrain := false })) ∧
    (l.state ≠ 6 → exec .linkDown s = .next (s.setFabric m a.port { l with state := 0, laneok := 0#8, pvalid := false, retrain := false })) ∧
    (∀ k, a.link = some k →
      (l.state = 1 → k.lanesOk = 255#8 → exec .linkStateAdvance s = .next (s.setFabric m a.port { l with state := 2 })) ∧
      (l.state = 4 → 8 ≤ k.codewords → exec .linkStateAdvance s = .next (s.setFabric m a.port { l with state := 5 })) ∧
      (l.state = 5 → k.skew ≤ 64 → ∃ u, exec .linkStateAdvance s = .next u ∧ ((u.module m).fabricOf a.port).state = 6 ∧
        ((u.module m).fabricOf a.port).pmod = k.partnerModule.toNat ∧ k.partnerModule.toNat ∉ (u.module m).lost) ∧
      (l.state = 1 → k.lanesOk = 0#8 → l.retrain = false → exec .linkStateTimeout s = .next (s.setFabric m a.port { l with state := 8, reached := 1, retrain := false })) ∧
      (l.state = 1 → k.lanesOk ≠ 255#8 → (k.lanesOk ≠ 0#8 ∨ l.retrain = true) → exec .linkStateTimeout s =
        .next (s.setFabric m a.port { l with state := 7, reached := 1, retrain := false })) ∧
      (l.state = 4 → exec .linkStateTimeout s = .next (s.setFabric m a.port { l with state := 7, reached := 4, retrain := false }))) ∧
    (l.state = 6 → ∃ u, exec .linkLoss s = .next u ∧ ((u.module m).fabricOf a.port).state = 1 ∧ ((u.module m).fabricOf a.port).retrain = true ∧
      ((u.module m).fabricOf a.port).retries = min 255 (l.retries + 1))

/-- R405, with the message layouts of log 28: the responder. A request of version 1.3 in its turn is answered: GET_VERSION at any time, GET_CAPABILITIES
after it, NEGOTIATE_ALGORITHMS after that, and the others once the algorithms are agreed; SET_CERTIFICATE writes slot 1 while KEYEN is high; a request out
of turn is answered with an error, and so is one that does not exist. -/
def Obligations.AttestationResponder : Prop :=
  ∀ (s : State) (msg : List Byte),
    let a := s.args; let z := s.module a.module; let k : Spdm := SMap.get {} z.spdm (if a.doe then 1 else 0); let c := z.certificate
    let asks := fun (code version : Nat) => s.spdmPending = some msg ∧ 4 ≤ msg.length ∧ spdmField msg 1 1 = code ∧ spdmField msg 0 1 = version
    let answers := fun (k' : Spdm) (r : List Byte) => Host.Outcome.next (φ := Fault) (ρ := Refusal) (s.spdmAnswer { conn := k', certificate := c, message := r })
    (asks 0x84 0x10 → ∃ r, exec .getVersion s = answers { version := true, opening := msg ++ r } r) ∧
    (asks 0xE1 0x13 → k.version = true → ∃ r, exec .getCapabilities s = answers { k with capabilities := true, opening := k.opening ++ msg ++ r } r) ∧
    (asks 0xE3 0x13 → k.capabilities = true → bit (spdmField msg 8 4) 7 = true → bit (spdmField msg 12 4) 1 = true →
      ∃ r, exec .negotiateAlgorithms s = answers { k with algorithms := true, opening := k.opening ++ msg ++ r } r) ∧
    (k.algorithms = true →
      (asks 0x81 0x13 → ∃ r, exec .getDigests s = answers { k with certs := k.certs ++ msg ++ r } r) ∧
      (∀ b, asks 0x82 0x13 → spdmChain a.module c (spdmField msg 2 1 % 16) = some b → spdmField msg 4 2 < b.length →
        ∃ r, exec .getCertificate s = answers { k with certs := k.certs ++ msg ++ r } r ∧
          (spdmField msg 6 2 ≤ 3832 → r.drop 8 = (b.drop (spdmField msg 4 2)).take (spdmField msg 6 2))) ∧
      (∀ b, asks 0x83 0x13 → spdmChain a.module c (spdmField msg 2 1 % 16) = some b → 44 ≤ msg.length →
        ∃ r, exec .challenge s = answers { k with certs := [] } r) ∧
      (asks 0xE0 0x13 → spdmField msg 2 1 % 2 = 0 → 12 ≤ msg.length → (spdmField msg 3 1 ≤ 16 ∨ spdmField msg 3 1 = 0xFF) →
        ∃ r, exec .getMeasurements s = answers { k with measured := k.measured ++ msg ++ r } r) ∧
      (asks 0xEE 0x13 → spdmField msg 2 1 % 16 = 1 → z.keyen = true →
        ∃ r, exec .setCertificate s = .next (s.spdmAnswer { conn := k, certificate := msg.drop 4, message := r }))) ∧
    (asks 0xE1 0x13 → k.version = false → exec .getCapabilities s = answers k (spdmError 0x04 0)) ∧
    (asks 0x81 0x13 → k.algorithms = false → exec .getDigests s = answers k (spdmError 0x04 0)) ∧
    (s.spdmPending = some msg → 4 ≤ msg.length → spdmField msg 1 1 ∉ spdmRequests →
      exec .unsupportedSpdmRequest s = answers k (spdmError 0x07 (spdmField msg 1 1)))

/-! ### Encoding, memory, reset and the step -/

/-- R195 to R202, R211, R381: decoding undoes encoding. Every well-formed instruction that has an encoding is what the decoder reads from its bytes, whatever
follows them, with every operand at every value; and what the decoder reads from bytes is encoded by those bytes, so that no bit of a word is dropped. -/
def Obligations.DecodingUndoesEncoding : Prop :=
  (∀ (i : Instr) (len w : Nat) (rest : List Byte), i.wf = true → encodeWord i = some (len, w) →
    ((formOf i).isSome = true → w < 2 ^ (8 * len) ∧ decode (leBytes len w ++ rest) = .ok (i, len)) ∧
    (∀ f, i ∈ [Instr.qwait f, .qseed f, .qeng f, .qfence f] → len = 4 ∧ w < 2 ^ 32 ∧ decodeVendor w = .ok i)) ∧
  (∀ (bytes : List Byte) (i : Instr) (len : Nat), decode bytes = .ok (i, len) → encodeWord i = some (len, ofLe (bytes.take len)) ∧ len ≤ bytes.length)

/-- Words that the spec writes out decode to the instructions that they stand for. -/
def Obligations.SpecWordsDecode : Prop :=
  decodeTableWord 64 0x0000000002442003 = some (.bra { rd := 0, rs1 := 0, rs2 := 0, rs3 := 9, guard := 1, negate := false, te := 0, iv := 2, uf := false, c3 := 0, rm := 0, ty := 0 }) ∧
  (∃ f, decodeTableWord 64 0xC000000004BC1003 = some (.syscall f) ∧ imm16 f = 0x12) ∧
  (∃ f, decodeTableWord 32 0x0600700B = some (.qfence f) ∧ f.funct3 = 7#3 ∧ f.rd = 0#5 ∧ f.rs1 = 0#5 ∧ f.rs2 = 0#5) ∧
  (∃ f, decodeTableWord 16 0xB246 = some (.fadd16 f) ∧ f.rd = 9#6 ∧ f.rs = 3#5) ∧
  (∃ f, decodeTableWord 64 0xC1003200003C0683 = some (.tlbi f) ∧ f.rs1 = 200#8 ∧ f.c3 = 6#3)

/-- Every step keeps the memory in its canonical form, which is the model's own (log 3). -/
def Obligations.EveryStepKeepsMemoryCanonical : Prop :=
  ∀ s t : State, memoryCanonical s → step s = .next t → memoryCanonical t

/-- After reset (R6, R46, R395, R403, R408, R413): memory lists nothing and is canonical; nothing is resident, saved, in flight or open; every cairn is free;
the measurement slots are zero, PLIM is 3,200 W and the hub timeout 20; STAGE is 0; AUTOEQ is 1 and LEQ 0. -/
def Obligations.ResetState : Prop :=
  let s := State.reset
  memoryCanonical s ∧ s.mem = [] ∧ s.ecc = [] ∧ s.net = [] ∧ (∀ c, (s.core c).warps = [] ∧ (s.core c).groups = [] ∧ (s.core c).saved = [] ∧ (s.core c).l1 = []) ∧
  (∀ u i, (s.cairn u i).state = .free) ∧ (∀ r, (s.region r).useCount = []) ∧
  (∀ m, (∀ n, SMap.get 0#384 (s.module m).slots n = 0#384) ∧ (s.module m).plim = 3200 ∧ (s.module m).hubTmo = 20 ∧ (s.module m).stage = 0 ∧
    (s.module m).safe = false ∧ ∀ n, ((s.module m).fabricOf n).autoeq = true ∧ ((s.module m).fabricOf n).leq = 0#32) ∧
  (∀ q, (s.queue q).state = .disabled ∧ (s.queue q).tail = 0#64 ∧ (s.queue q).ridx = 0#64)

/-- R26, R195, R196, R380: a step runs the instruction that its agent fetches. On a core whose turn it is, outside the safe state and with no step of its own
due, the entry that is picked issues what its bytes decode to; a queue thread runs the vendor instruction at its pc; and an event at the head of the agenda
is the step of its agent (log 1). -/
def Obligations.StepRunsTheDecodedInstruction : Prop :=
  ∀ (s t : State) (i : Instr),
    (∀ c rest slot idx e len w, s.agenda = .issue c :: rest → let u : State := { s with agenda := rest }
      (u.module (coreModule c)).safe = false → u.firstEvent c = none → u.pick c = some (slot, idx) → (u.warp c slot).entry idx = some e →
      u.fetch c (u.ctxOf c slot) e.pc.toNat (u.warp c slot).privileged = (.word len w, t) → decode (leBytes len w) = .ok (i, len) →
      step s = exec i { t with cur := .warp c slot idx }) ∧
    (∀ c slot idx e len w, s.agenda = [] → s.turnCore = some c → s.coreIdle c = false →
      (s.module (coreModule c)).safe = false → s.firstEvent c = none → s.pick c = some (slot, idx) → (s.warp c slot).entry idx = some e →
      s.fetch c (s.ctxOf c slot) e.pc.toNat (s.warp c slot).privileged = (.word len w, t) → decode (leBytes len w) = .ok (i, len) →
      step s = exec i { t with cur := .warp c slot idx }) ∧
    (∀ q rest, s.agenda = .queue q :: rest → i.wf = true →
      decodeVendor (readBytes (s.module (q / 32)).firmware (s.queue q).pc.toNat 4) = .ok i → step s = exec i { s with agenda := rest, cur := .queue q }) ∧
    (∀ a rest, s.agenda = .event i a :: rest → step s = exec i { s with agenda := rest, cur := .idle, args := a })
end
end

