-- ==== Sys2Proof/Laws/Lanes.lean ====
section
/-! SUPPORT. The laws of lane masks: the lanes of a mask, the mask of listed lanes, and the lowest lane. -/

namespace Sys2Proof.Machine

theorem mem_lanesFrom (m : LaneMask) (n k l : Nat) : l ∈ lanesFrom m n k ↔ k ≤ l ∧ l < k + n ∧ m.getLsbD l = true := by
  induction n generalizing k with
  | zero => simp only [lanesFrom, List.not_mem_nil, false_iff]; omega
  | succ n ih =>
    simp only [lanesFrom]
    split
    · rw [List.mem_cons, ih]
      constructor
      · rintro (rfl | h)
        · exact ⟨Nat.le_refl _, by omega, ‹_›⟩
        · exact ⟨by omega, by omega, h.2.2⟩
      · rintro ⟨h1, h2, h3⟩
        rcases Nat.eq_or_lt_of_le h1 with h | h
        · exact .inl h.symm
        · exact .inr ⟨by omega, by omega, h3⟩
    · rw [ih]
      constructor
      · rintro ⟨h1, h2, h3⟩; exact ⟨by omega, by omega, h3⟩
      · rintro ⟨h1, h2, h3⟩
        refine ⟨?_, by omega, h3⟩
        rcases Nat.eq_or_lt_of_le h1 with h | h
        · subst h; simp_all
        · omega

/-- A lane is listed exactly when the mask holds it. -/
@[simp] theorem mem_lanes (m : LaneMask) (l : Nat) : l ∈ lanes m ↔ m.getLsbD l = true := by
  rw [lanes, mem_lanesFrom]
  constructor
  · exact fun h => h.2.2
  · intro h
    refine ⟨Nat.zero_le _, ?_, h⟩
    by_contra hl
    rw [BitVec.getLsbD_of_ge _ _ (by omega)] at h
    exact Bool.noConfusion h

theorem lt_of_mem_lanes {m : LaneMask} {l : Nat} (h : l ∈ lanes m) : l < 32 := by
  by_contra hl
  rw [mem_lanes, BitVec.getLsbD_of_ge _ _ (by omega)] at h
  exact Bool.noConfusion h

theorem lanesFrom_sorted (m : LaneMask) (n k : Nat) : (lanesFrom m n k).Pairwise (· < ·) := by
  induction n generalizing k with
  | zero => exact .nil
  | succ n ih =>
    simp only [lanesFrom]
    split
    · refine .cons (fun l hl => ?_) (ih _)
      have := ((mem_lanesFrom m n (k + 1) l).mp hl).1
      omega
    · exact ih _

/-- The lanes of a mask are listed in ascending order. -/
theorem lanes_sorted (m : LaneMask) : (lanes m).Pairwise (· < ·) := lanesFrom_sorted m 32 0

theorem lanes_nodup (m : LaneMask) : (lanes m).Nodup := (lanes_sorted m).imp (fun h => Nat.ne_of_lt h)

/-- The mask of listed lanes holds a lane exactly when it is listed. -/
theorem getLsbD_maskOf (ls : List Nat) (l : Nat) (hl : l < 32) : (maskOf ls).getLsbD l = decide (l ∈ ls) := by
  induction ls with
  | nil => simp [maskOf]
  | cons a t ih =>
    simp only [maskOf, BitVec.getLsbD_or, ih, BitVec.getLsbD_shiftLeft, List.mem_cons]
    by_cases h : l = a
    · subst h; simp [hl]
    · have : (1#32).getLsbD (l - a) = true → l < a := by
        intro h1
        by_contra h2
        have : l - a = 0 := by
          by_contra h3
          rw [BitVec.getLsbD_one] at h1
          simp only [Bool.and_eq_true, decide_eq_true_eq] at h1
          omega
        omega
      simp only [h, false_or]
      by_cases h2 : l < a
      · simp [h2]
      · have : (1#32).getLsbD (l - a) = false := by
          cases hb : (1#32).getLsbD (l - a) with
          | false => rfl
          | true => exact absurd (this hb) h2
        simp [this]

theorem maskOf_lanes (m : LaneMask) : maskOf (lanes m) = m := by
  apply BitVec.eq_of_getLsbD_eq
  intro l hl
  rw [getLsbD_maskOf _ _ hl]
  cases h : m.getLsbD l <;> simp [h]

/-- A filtered mask holds the lanes of the mask in which the test holds. -/
theorem getLsbD_filterMask (m : LaneMask) (f : Nat → Bool) (l : Nat) (hl : l < 32) : (filterMask m f).getLsbD l = (m.getLsbD l && f l) := by
  rw [filterMask, getLsbD_maskOf _ _ hl]
  simp only [List.mem_filter, mem_lanes]
  cases m.getLsbD l <;> cases f l <;> rfl

@[simp] theorem lanes_zero : lanes 0#32 = [] := rfl

theorem lanes_eq_nil (m : LaneMask) : lanes m = [] ↔ m = 0#32 := by
  constructor
  · intro h
    rw [← maskOf_lanes m, h]
    rfl
  · rintro rfl; rfl

/-- The lowest lane of a mask is one of its lanes, and no lane of the mask lies below it. -/
theorem lowestLane_spec {m : LaneMask} {l : Nat} (h : lowestLane m = some l) :
    m.getLsbD l = true ∧ ∀ k, m.getLsbD k = true → l ≤ k := by
  have hl := lanes_sorted m
  unfold lowestLane at h
  cases hm : lanes m with
  | nil => rw [hm] at h; simp at h
  | cons a t =>
    rw [hm] at h hl
    have ha : a = l := Option.some.inj h
    subst ha
    refine ⟨(mem_lanes m a).mp (hm ▸ List.mem_cons_self), fun k hk => ?_⟩
    have hk' : k ∈ lanes m := (mem_lanes m k).mpr hk
    rw [hm, List.mem_cons] at hk'
    rcases hk' with rfl | h2
    · exact Nat.le_refl _
    · exact Nat.le_of_lt ((List.pairwise_cons.mp hl).1 k h2)

theorem lowestLane_isSome {m : LaneMask} (h : m ≠ 0#32) : (lowestLane m).isSome = true := by
  unfold lowestLane
  cases hm : lanes m with
  | nil => exact absurd ((lanes_eq_nil m).mp hm) h
  | cons a t => rfl

end Sys2Proof.Machine
end

