-- ==== Sys2Proof/Laws/SMap.lean ====
section
/-! SUPPORT. The laws of sparse maps: what a read gives after a write, for any list, and that writes keep the canonical form. -/

namespace Sys2Proof.Machine

variable {α : Type}

theorem SMap.get_dropLe (d : α) (m : SMap α) {k k' : Nat} (h : k < k') : SMap.get d (SMap.dropLe k m) k' = SMap.get d m k' := by
  induction m with
  | nil => rfl
  | cons x t ih =>
    obtain ⟨a, v⟩ := x
    simp only [SMap.dropLe, SMap.get]
    split
    · rw [ih, if_neg (by omega), if_neg (by omega)]
    · rfl

theorem SMap.get_dropLe_le (d : α) (m : SMap α) {k k' : Nat} (h : k' ≤ k) : SMap.get d (SMap.dropLe k m) k' = d := by
  induction m with
  | nil => rfl
  | cons x t ih =>
    obtain ⟨a, v⟩ := x
    simp only [SMap.dropLe]
    split
    · exact ih
    · simp only [SMap.get]
      rw [if_pos (by omega)]

variable [DecidableEq α]

/-- A read after a write: the written value at its key, the old value elsewhere. It holds of any list, canonical or not. -/
theorem SMap.get_set (d : α) (m : SMap α) (k : Nat) (v : α) (k' : Nat) :
    SMap.get d (SMap.set d m k v) k' = if k' = k then v else SMap.get d m k' := by
  induction m with
  | nil =>
    simp only [SMap.set, SMap.entry]
    split
    · subst_vars; simp [SMap.get]
    · simp only [SMap.get]; split <;> split <;> first | rfl | omega
  | cons x t ih =>
    obtain ⟨a, u⟩ := x
    simp only [SMap.set]
    split
    · simp only [SMap.entry]
      split
      · subst_vars
        by_cases h : k' = k
        · subst h; rw [if_pos rfl]; simp only [SMap.get]; rw [if_pos ‹_›]
        · rw [if_neg h]
      · simp only [SMap.get]
        by_cases h : k' = k
        · subst h; simp
        · simp only [if_neg h]
          by_cases h2 : k' < k
          · rw [if_pos h2, if_pos (by omega)]
          · rw [if_neg h2]
    · split
      · subst_vars
        have low : k' < a → SMap.get d (SMap.dropLe a t) k' = d := fun h => SMap.get_dropLe_le d t (by omega)
        have at_ : SMap.get d (SMap.dropLe a t) a = d := SMap.get_dropLe_le d t (by omega)
        have high : a < k' → SMap.get d (SMap.dropLe a t) k' = SMap.get d t k' := fun h => SMap.get_dropLe d t h
        simp only [SMap.entry]
        split
        · rcases Nat.lt_trichotomy k' a with h | h | h
          · rw [low h, if_neg (by omega)]; simp [SMap.get, h]
          · subst h; rw [if_pos rfl, at_]; simp_all
          · rw [high h, if_neg (by omega)]; simp only [SMap.get]; rw [if_neg (by omega), if_neg (by omega)]
        · rcases Nat.lt_trichotomy k' a with h | h | h
          · simp only [SMap.get]; rw [if_pos h, if_neg (by omega), if_pos h]
          · subst h; simp [SMap.get]
          · simp only [SMap.get]; rw [if_neg (by omega), if_neg (by omega), high h, if_neg (by omega), if_neg (by omega), if_neg (by omega)]
      · simp only [SMap.get, ih]
        by_cases h : k' = k
        · subst h; rw [if_pos rfl, if_neg (by omega), if_neg (by omega)]
          simp
        · rw [if_neg h, if_neg h]

@[simp] theorem SMap.get_set_self (d : α) (m : SMap α) (k : Nat) (v : α) : SMap.get d (SMap.set d m k v) k = v := by
  rw [SMap.get_set, if_pos rfl]

theorem SMap.get_set_ne (d : α) (m : SMap α) {k k' : Nat} (v : α) (h : k' ≠ k) : SMap.get d (SMap.set d m k v) k' = SMap.get d m k' := by
  rw [SMap.get_set, if_neg h]

theorem SMap.dropLe_dropLe (k : Nat) {α : Type} (m : SMap α) : SMap.dropLe k (SMap.dropLe k m) = SMap.dropLe k m := by
  induction m with
  | nil => rfl
  | cons x t ih =>
    obtain ⟨a, u⟩ := x
    simp only [SMap.dropLe]
    split
    · exact ih
    · simp only [SMap.dropLe]; rw [if_neg ‹_›]

theorem SMap.set_entry_dropLe (d : α) (k : Nat) (v v' : α) (m : SMap α) (h : SMap.dropLe k m = m) :
    SMap.set d (SMap.entry d k v m) k v' = SMap.entry d k v' m := by
  unfold SMap.entry
  split
  · cases m with
    | nil => simp [SMap.set, SMap.entry]
    | cons x t =>
      obtain ⟨a, u⟩ := x
      have ha : k < a := by
        refine Decidable.byContradiction fun hc => ?_
        rw [SMap.dropLe, if_pos (by omega)] at h
        have hl : ∀ (m : SMap α), (SMap.dropLe k m).length ≤ m.length := by
          intro m
          induction m with
          | nil => simp [SMap.dropLe]
          | cons y s ih => simp only [SMap.dropLe]; split <;> simp only [List.length_cons] <;> omega
        have := hl t
        rw [h] at this
        simp only [List.length_cons] at this
        omega
      simp only [SMap.set, if_pos ha, SMap.entry]
  · simp only [SMap.set, Nat.lt_irrefl, if_false, if_true, SMap.entry, h]

/-- The second of two writes at one key is the one that counts. -/
theorem SMap.set_set (d : α) (m : SMap α) (k : Nat) (v v' : α) : SMap.set d (SMap.set d m k v) k v' = SMap.set d m k v' := by
  induction m with
  | nil => simpa [SMap.set] using SMap.set_entry_dropLe d k v v' [] rfl
  | cons x t ih =>
    obtain ⟨a, u⟩ := x
    simp only [SMap.set]
    split
    · refine SMap.set_entry_dropLe d k v v' _ ?_
      simp only [SMap.dropLe]; rw [if_neg (by omega)]
    · split
      · exact SMap.set_entry_dropLe d k v v' _ (SMap.dropLe_dropLe k t)
      · simp only [SMap.set, if_neg ‹¬k < a›, if_neg ‹¬k = a›, ih]

/-! ### The canonical form -/

theorem SMap.wfAbove_mono (d : α) {lo lo' : Nat} (h : lo' ≤ lo) : (m : SMap α) → SMap.wfAbove d lo m = true → SMap.wfAbove d lo' m = true
  | [], _ => rfl
  | (k, v) :: t, hw => by
    simp only [SMap.wfAbove, Bool.and_eq_true, decide_eq_true_eq] at hw ⊢
    exact ⟨⟨by omega, hw.1.2⟩, hw.2⟩

theorem SMap.wf_of_wfAbove (d : α) (lo : Nat) : (m : SMap α) → SMap.wfAbove d lo m = true → SMap.wf d m = true
  | [], _ => rfl
  | (k, v) :: t, hw => by
    simp only [SMap.wfAbove, SMap.wf, Bool.and_eq_true, decide_eq_true_eq] at hw ⊢
    exact ⟨hw.1.2, hw.2⟩

theorem SMap.wfAbove_dropLe (d : α) (k : Nat) : (m : SMap α) → (lo : Nat) → SMap.wfAbove d lo m = true → SMap.wfAbove d k (SMap.dropLe k m) = true
  | [], _, _ => rfl
  | (a, v) :: t, lo, hw => by
    simp only [SMap.wfAbove, Bool.and_eq_true, decide_eq_true_eq] at hw
    simp only [SMap.dropLe]
    split
    · exact SMap.wfAbove_dropLe d k t a hw.2
    · simp only [SMap.wfAbove, Bool.and_eq_true, decide_eq_true_eq]
      exact ⟨⟨by omega, hw.1.2⟩, hw.2⟩

theorem SMap.wfAbove_entry (d : α) {lo k : Nat} (v : α) (t : SMap α) (hk : lo < k) (ht : SMap.wfAbove d k t = true) :
    SMap.wfAbove d lo (SMap.entry d k v t) = true := by
  simp only [SMap.entry]
  split
  · exact SMap.wfAbove_mono d (by omega) t ht
  · simp only [SMap.wfAbove, Bool.and_eq_true, decide_eq_true_eq]
    exact ⟨⟨hk, ‹_›⟩, ht⟩

theorem SMap.wfAbove_set (d : α) (k : Nat) (v : α) : (m : SMap α) → (lo : Nat) → lo < k → SMap.wfAbove d lo m = true →
    SMap.wfAbove d lo (SMap.set d m k v) = true
  | [], lo, hk, _ => SMap.wfAbove_entry d v [] hk rfl
  | (a, u) :: t, lo, hk, hw => by
    have h := hw
    simp only [SMap.wfAbove, Bool.and_eq_true, decide_eq_true_eq] at h
    simp only [SMap.set]
    split
    · refine SMap.wfAbove_entry d v _ hk ?_
      simp only [SMap.wfAbove, Bool.and_eq_true, decide_eq_true_eq]
      exact ⟨⟨‹_›, h.1.2⟩, h.2⟩
    · split
      · exact SMap.wfAbove_entry d v _ hk (SMap.wfAbove_dropLe d k t a h.2)
      · simp only [SMap.wfAbove, Bool.and_eq_true, decide_eq_true_eq]
        exact ⟨⟨h.1.1, h.1.2⟩, SMap.wfAbove_set d k v t a (by omega) h.2⟩

/-- A write keeps the canonical form. -/
theorem SMap.wf_set (d : α) (m : SMap α) (k : Nat) (v : α) (hw : SMap.wf d m = true) : SMap.wf d (SMap.set d m k v) = true := by
  cases m with
  | nil => simp only [SMap.set, SMap.entry]; split <;> simp_all [SMap.wf, SMap.wfAbove]
  | cons x t =>
    obtain ⟨a, u⟩ := x
    simp only [SMap.wf, Bool.and_eq_true, decide_eq_true_eq] at hw
    simp only [SMap.set]
    split
    · simp only [SMap.entry]
      split <;> simp_all [SMap.wf, SMap.wfAbove]
    · split
      · simp only [SMap.entry]
        have h := SMap.wfAbove_dropLe d k t a hw.2
        split
        · exact SMap.wf_of_wfAbove d k _ h
        · simp_all [SMap.wf]
      · simp only [SMap.wf, Bool.and_eq_true, decide_eq_true_eq]
        exact ⟨hw.1, SMap.wfAbove_set d k v t a (by omega) hw.2⟩

/-- Dropping entries keeps the canonical form. -/
theorem SMap.wfAbove_filter (d : α) (p : Nat × α → Bool) : (m : SMap α) → (lo : Nat) → SMap.wfAbove d lo m = true →
    SMap.wfAbove d lo (m.filter p) = true
  | [], _, _ => rfl
  | (k, v) :: t, lo, hw => by
    simp only [SMap.wfAbove, Bool.and_eq_true, decide_eq_true_eq] at hw
    have ih := SMap.wfAbove_filter d p t k hw.2
    rw [List.filter_cons]
    split
    · simp only [SMap.wfAbove, Bool.and_eq_true, decide_eq_true_eq]
      exact ⟨hw.1, ih⟩
    · exact SMap.wfAbove_mono d (by omega) _ ih

theorem SMap.wf_filter (d : α) (p : Nat × α → Bool) (m : SMap α) (hw : SMap.wf d m = true) : SMap.wf d (m.filter p) = true := by
  cases m with
  | nil => rfl
  | cons x t =>
    obtain ⟨a, u⟩ := x
    simp only [SMap.wf, Bool.and_eq_true, decide_eq_true_eq] at hw
    have ih := SMap.wfAbove_filter d p t a hw.2
    rw [List.filter_cons]
    split
    · simp only [SMap.wf, Bool.and_eq_true, decide_eq_true_eq]
      exact ⟨hw.1, ih⟩
    · exact SMap.wf_of_wfAbove d a _ ih

/-- A key at or below the bound of a canonical tail reads the default. -/
theorem SMap.get_of_le (d : α) (m : SMap α) {lo k : Nat} (h : k ≤ lo) (hw : SMap.wfAbove d lo m = true) : SMap.get d m k = d := by
  cases m with
  | nil => rfl
  | cons x t =>
    obtain ⟨a, u⟩ := x
    simp only [SMap.wfAbove, Bool.and_eq_true, decide_eq_true_eq] at hw
    simp only [SMap.get]
    rw [if_pos (by omega)]

end Sys2Proof.Machine
end

