-- ==== Sys2Proof/Laws/Registers.lean ====
section
/-! SUPPORT. The laws of a warp's registers: what each register reads after a write of one register, of a run, and of a run in listed lanes, and that such a write changes nothing but registers. -/

namespace Sys2Proof.Machine

/-- A register write changes the two register files only. -/
theorem Warp.put_eq (w : Warp) (r : RegRef) (l : Nat) (x : Word) : w.put r l x = { w with v := (w.put r l x).v, s := (w.put r l x).s } := by
  cases r <;> rfl

theorem Warp.putRun_eq (w : Warp) (r : RegRef) (l n x : Nat) : w.putRun r l n x = { w with v := (w.putRun r l n x).v, s := (w.putRun r l n x).s } := by
  induction n generalizing w r x with
  | zero => rfl
  | succ n ih => simp only [Warp.putRun]; rw [ih, Warp.put_eq w]

/-- A write of listed lanes changes the two register files only. -/
theorem Warp.writeLanes_eq (w : Warp) (r : RegRef) (n : Nat) (val : Nat → Nat) (ls : List Nat) :
    w.writeLanes r n val ls = { w with v := (w.writeLanes r n val ls).v, s := (w.writeLanes r n val ls).s } := by
  induction ls generalizing w with
  | nil => rfl
  | cons l t ih => simp only [Warp.writeLanes]; rw [ih, Warp.putRun_eq w]

/-! ### Vector registers -/

theorem Warp.get_put_v (w : Warp) (k j l l' : Nat) (x : Word) (hl : l < 32) (hl' : l' < 32) :
    (w.put (.v k) l x).get (.v j) l' = if j = k ∧ l' = l then x else w.get (.v j) l' := by
  simp only [Warp.put, Warp.get, SMap.get_set]
  by_cases h : j = k ∧ l' = l
  · rw [if_pos h, if_pos (by omega)]
  · rw [if_neg h, if_neg (by omega)]

@[simp] theorem Warp.get_put_v_s (w : Warp) (k j l l' : Nat) (x : Word) : (w.put (.v k) l x).get (.s j) l' = w.get (.s j) l' := rfl
@[simp] theorem Warp.get_put_s_v (w : Warp) (k j l l' : Nat) (x : Word) : (w.put (.s k) l x).get (.v j) l' = w.get (.v j) l' := rfl
theorem Warp.get_put_s (w : Warp) (k j l l' : Nat) (x : Word) :
    (w.put (.s k) l x).get (.s j) l' = if j = k then x else w.get (.s j) l' := by
  simp only [Warp.put, Warp.get, SMap.get_set]

/-- Register `j` in a lane after a run of `n` vector registers from `k` is written in lane `l`. -/
theorem Warp.get_putRun_v (w : Warp) (k j l l' n x : Nat) (hl : l < 32) (hl' : l' < 32) :
    (w.putRun (.v k) l n x).get (.v j) l' =
      if k ≤ j ∧ j < k + n ∧ l' = l then BitVec.ofNat 32 (x / 2 ^ (32 * (j - k))) else w.get (.v j) l' := by
  induction n generalizing w k x with
  | zero => simp only [Warp.putRun]; rw [if_neg (by omega)]
  | succ n ih =>
    simp only [Warp.putRun, RegRef.plus]
    rw [ih, Warp.get_put_v w k j l l' _ hl hl']
    by_cases h1 : k + 1 ≤ j ∧ j < k + 1 + n ∧ l' = l
    · rw [if_pos h1, if_pos (by omega), Nat.div_div_eq_div_mul, ← pow_add, show 32 + 32 * (j - (k + 1)) = 32 * (j - k) by omega]
    · rw [if_neg h1]
      by_cases h2 : j = k ∧ l' = l
      · rw [if_pos h2, if_pos (by omega), h2.1]; simp
      · rw [if_neg h2, if_neg (by omega)]

theorem Warp.get_putRun_v_s (w : Warp) (k j l l' n x : Nat) : (w.putRun (.v k) l n x).get (.s j) l' = w.get (.s j) l' := by
  induction n generalizing w k x with
  | zero => rfl
  | succ n ih => simp only [Warp.putRun, RegRef.plus]; rw [ih]; rfl

theorem Warp.get_putRun_s_v (w : Warp) (k j l l' n x : Nat) : (w.putRun (.s k) l n x).get (.v j) l' = w.get (.v j) l' := by
  induction n generalizing w k x with
  | zero => rfl
  | succ n ih => simp only [Warp.putRun, RegRef.plus]; rw [ih]; rfl

theorem Warp.get_putRun_s (w : Warp) (k j l l' n x : Nat) :
    (w.putRun (.s k) l n x).get (.s j) l' =
      if k ≤ j ∧ j < k + n then BitVec.ofNat 32 (x / 2 ^ (32 * (j - k))) else w.get (.s j) l' := by
  induction n generalizing w k x with
  | zero => simp only [Warp.putRun]; rw [if_neg (by omega)]
  | succ n ih =>
    simp only [Warp.putRun, RegRef.plus]
    rw [ih, Warp.get_put_s]
    by_cases h1 : k + 1 ≤ j ∧ j < k + 1 + n
    · rw [if_pos h1, if_pos (by omega), Nat.div_div_eq_div_mul, ← pow_add, show 32 + 32 * (j - (k + 1)) = 32 * (j - k) by omega]
    · rw [if_neg h1]
      by_cases h2 : j = k
      · rw [if_pos h2, if_pos (by omega), h2]; simp
      · rw [if_neg h2, if_neg (by omega)]

/-- Register `j` in a lane after a run of `n` vector registers from `k` is written in listed lanes. -/
theorem Warp.get_writeLanes_v (w : Warp) (k j n l' : Nat) (val : Nat → Nat) (ls : List Nat) (hd : ls.Nodup) (hls : ∀ l ∈ ls, l < 32) (hl' : l' < 32) :
    (w.writeLanes (.v k) n val ls).get (.v j) l' =
      if k ≤ j ∧ j < k + n ∧ l' ∈ ls then BitVec.ofNat 32 (val l' / 2 ^ (32 * (j - k))) else w.get (.v j) l' := by
  induction ls generalizing w with
  | nil => simp [Warp.writeLanes]
  | cons a t ih =>
    simp only [Warp.writeLanes]
    rw [ih _ (List.nodup_cons.mp hd).2 (fun l h => hls l (List.mem_cons_of_mem _ h)),
      Warp.get_putRun_v _ _ _ _ _ _ _ (hls a List.mem_cons_self) hl']
    by_cases h1 : k ≤ j ∧ j < k + n ∧ l' ∈ t
    · rw [if_pos h1, if_pos ⟨h1.1, h1.2.1, List.mem_cons_of_mem _ h1.2.2⟩]
    · rw [if_neg h1]
      by_cases h2 : k ≤ j ∧ j < k + n ∧ l' = a
      · rw [if_pos h2, if_pos ⟨h2.1, h2.2.1, by rw [h2.2.2]; exact List.mem_cons_self⟩, h2.2.2]
      · rw [if_neg h2, if_neg]
        rintro ⟨h3, h4, h5⟩
        rcases List.mem_cons.mp h5 with h6 | h6
        · exact h2 ⟨h3, h4, h6⟩
        · exact h1 ⟨h3, h4, h6⟩

theorem Warp.get_writeLanes_v_s (w : Warp) (k j n l' : Nat) (val : Nat → Nat) (ls : List Nat) :
    (w.writeLanes (.v k) n val ls).get (.s j) l' = w.get (.s j) l' := by
  induction ls generalizing w with
  | nil => rfl
  | cons a t ih => simp only [Warp.writeLanes]; rw [ih, Warp.get_putRun_v_s]

theorem Warp.get_writeLanes_s_v (w : Warp) (k j n l' : Nat) (val : Nat → Nat) (ls : List Nat) :
    (w.writeLanes (.s k) n val ls).get (.v j) l' = w.get (.v j) l' := by
  induction ls generalizing w with
  | nil => rfl
  | cons a t ih => simp only [Warp.writeLanes]; rw [ih, Warp.get_putRun_s_v]

/-- A predicate after a write of one predicate. -/
theorem Warp.pred_putPred (w : Warp) (p q l : Nat) (m val : LaneMask) :
    (w.putPred p m val).pred q l =
      if q = p ∧ p ≠ 15 ∧ ¬(p = 14 ∧ w.deferred = true) ∧ m.getLsbD l = true then val.getLsbD l else w.pred q l := by
  unfold Warp.putPred
  by_cases h : p = 15 ∨ (p = 14 ∧ w.deferred = true)
  · rw [if_pos h, if_neg (by tauto)]
  · rw [if_neg h]
    unfold Warp.pred
    simp only [SMap.get_set]
    by_cases hq : q = 15
    · rw [if_pos hq, if_neg (by rintro ⟨rfl, h2, -⟩; exact h2 hq), if_pos hq]
    · rw [if_neg hq]
      by_cases hp : q = p
      · subst hp
        simp only [if_true, BitVec.getLsbD_or, BitVec.getLsbD_and, BitVec.getLsbD_not]
        by_cases hm : m.getLsbD l = true
        · have hl : l < 32 := by
            by_contra hl
            rw [BitVec.getLsbD_of_ge _ _ (by omega)] at hm
            exact Bool.noConfusion hm
          rw [if_pos ⟨trivial, hq, by tauto, hm⟩, hm]
          simp
        · rw [if_neg (by tauto)]
          simp only [Bool.not_eq_true] at hm
          rw [hm, if_neg hq]
          cases hb : (SMap.get 0#32 w.p q).getLsbD l with
          | false => simp
          | true =>
            have hl : l < 32 := by
              by_contra hl
              rw [BitVec.getLsbD_of_ge _ _ (by omega)] at hb
              exact Bool.noConfusion hb
            simp [hl]
      · rw [if_neg hp, if_neg (by tauto), if_neg hq]

theorem Warp.putPred_eq (w : Warp) (p : Nat) (m val : LaneMask) : w.putPred p m val = { w with p := (w.putPred p m val).p } := by
  unfold Warp.putPred; split <;> rfl

end Sys2Proof.Machine
end

