-- ==== Sys2Proof/Laws/State.lean ====
section
/-! SUPPORT. The laws of the state's updates: one lemma per field per update, and what each accessor reads after each update. -/

namespace Sys2Proof.Machine

/-! ### setCore -/

@[simp] theorem State.setCore_mem (s : State) (c : Nat) (k : Core) : (s.setCore c k).mem = s.mem := rfl
@[simp] theorem State.setCore_ecc (s : State) (c : Nat) (k : Core) : (s.setCore c k).ecc = s.ecc := rfl
@[simp] theorem State.setCore_regions (s : State) (c : Nat) (k : Core) : (s.setCore c k).regions = s.regions := rfl
@[simp] theorem State.setCore_cairns (s : State) (c : Nat) (k : Core) : (s.setCore c k).cairns = s.cairns := rfl
@[simp] theorem State.setCore_hubs (s : State) (c : Nat) (k : Core) : (s.setCore c k).hubs = s.hubs := rfl
@[simp] theorem State.setCore_slices (s : State) (c : Nat) (k : Core) : (s.setCore c k).slices = s.slices := rfl
@[simp] theorem State.setCore_ports (s : State) (c : Nat) (k : Core) : (s.setCore c k).ports = s.ports := rfl
@[simp] theorem State.setCore_contexts (s : State) (c : Nat) (k : Core) : (s.setCore c k).contexts = s.contexts := rfl
@[simp] theorem State.setCore_queues (s : State) (c : Nat) (k : Core) : (s.setCore c k).queues = s.queues := rfl
@[simp] theorem State.setCore_modules (s : State) (c : Nat) (k : Core) : (s.setCore c k).modules = s.modules := rfl
@[simp] theorem State.setCore_net (s : State) (c : Nat) (k : Core) : (s.setCore c k).net = s.net := rfl
@[simp] theorem State.setCore_agenda (s : State) (c : Nat) (k : Core) : (s.setCore c k).agenda = s.agenda := rfl
@[simp] theorem State.setCore_cur (s : State) (c : Nat) (k : Core) : (s.setCore c k).cur = s.cur := rfl
@[simp] theorem State.setCore_args (s : State) (c : Nat) (k : Core) : (s.setCore c k).args = s.args := rfl
@[simp] theorem State.setCore_free (s : State) (c : Nat) (k : Core) : (s.setCore c k).free = s.free := rfl
@[simp] theorem State.setCore_log (s : State) (c : Nat) (k : Core) : (s.setCore c k).log = s.log := rfl
@[simp] theorem State.setCore_region (s : State) (c : Nat) (k : Core) (i : Nat) : (s.setCore c k).region i = s.region i := rfl
@[simp] theorem State.setCore_hub (s : State) (c : Nat) (k : Core) (i : Nat) : (s.setCore c k).hub i = s.hub i := rfl
@[simp] theorem State.setCore_slice (s : State) (c : Nat) (k : Core) (i : Nat) : (s.setCore c k).slice i = s.slice i := rfl
@[simp] theorem State.setCore_ctx (s : State) (c : Nat) (k : Core) (i : Nat) : (s.setCore c k).ctx i = s.ctx i := rfl
@[simp] theorem State.setCore_queue (s : State) (c : Nat) (k : Core) (i : Nat) : (s.setCore c k).queue i = s.queue i := rfl
@[simp] theorem State.setCore_module (s : State) (c : Nat) (k : Core) (i : Nat) : (s.setCore c k).module i = s.module i := rfl
@[simp] theorem State.setCore_port (s : State) (c : Nat) (k : Core) (i : Nat) : (s.setCore c k).port i = s.port i := rfl
@[simp] theorem State.setCore_cairn (s : State) (c : Nat) (k : Core) (i j : Nat) : (s.setCore c k).cairn i j = s.cairn i j := rfl

theorem State.setCore_core (s : State) (c : Nat) (k : Core) (i : Nat) : (s.setCore c k).core i = if i = c then k else s.core i := SMap.get_set _ _ _ _ _
@[simp] theorem State.setCore_core_self (s : State) (c : Nat) (k : Core) : (s.setCore c k).core c = k := SMap.get_set_self _ _ _ _

/-! ### setRegion -/

@[simp] theorem State.setRegion_mem (s : State) (r : Nat) (k : Region) : (s.setRegion r k).mem = s.mem := rfl
@[simp] theorem State.setRegion_ecc (s : State) (r : Nat) (k : Region) : (s.setRegion r k).ecc = s.ecc := rfl
@[simp] theorem State.setRegion_cores (s : State) (r : Nat) (k : Region) : (s.setRegion r k).cores = s.cores := rfl
@[simp] theorem State.setRegion_cairns (s : State) (r : Nat) (k : Region) : (s.setRegion r k).cairns = s.cairns := rfl
@[simp] theorem State.setRegion_hubs (s : State) (r : Nat) (k : Region) : (s.setRegion r k).hubs = s.hubs := rfl
@[simp] theorem State.setRegion_slices (s : State) (r : Nat) (k : Region) : (s.setRegion r k).slices = s.slices := rfl
@[simp] theorem State.setRegion_ports (s : State) (r : Nat) (k : Region) : (s.setRegion r k).ports = s.ports := rfl
@[simp] theorem State.setRegion_contexts (s : State) (r : Nat) (k : Region) : (s.setRegion r k).contexts = s.contexts := rfl
@[simp] theorem State.setRegion_queues (s : State) (r : Nat) (k : Region) : (s.setRegion r k).queues = s.queues := rfl
@[simp] theorem State.setRegion_modules (s : State) (r : Nat) (k : Region) : (s.setRegion r k).modules = s.modules := rfl
@[simp] theorem State.setRegion_net (s : State) (r : Nat) (k : Region) : (s.setRegion r k).net = s.net := rfl
@[simp] theorem State.setRegion_agenda (s : State) (r : Nat) (k : Region) : (s.setRegion r k).agenda = s.agenda := rfl
@[simp] theorem State.setRegion_cur (s : State) (r : Nat) (k : Region) : (s.setRegion r k).cur = s.cur := rfl
@[simp] theorem State.setRegion_args (s : State) (r : Nat) (k : Region) : (s.setRegion r k).args = s.args := rfl
@[simp] theorem State.setRegion_free (s : State) (r : Nat) (k : Region) : (s.setRegion r k).free = s.free := rfl
@[simp] theorem State.setRegion_log (s : State) (r : Nat) (k : Region) : (s.setRegion r k).log = s.log := rfl
@[simp] theorem State.setRegion_core (s : State) (r : Nat) (k : Region) (i : Nat) : (s.setRegion r k).core i = s.core i := rfl
@[simp] theorem State.setRegion_hub (s : State) (r : Nat) (k : Region) (i : Nat) : (s.setRegion r k).hub i = s.hub i := rfl
@[simp] theorem State.setRegion_slice (s : State) (r : Nat) (k : Region) (i : Nat) : (s.setRegion r k).slice i = s.slice i := rfl
@[simp] theorem State.setRegion_ctx (s : State) (r : Nat) (k : Region) (i : Nat) : (s.setRegion r k).ctx i = s.ctx i := rfl
@[simp] theorem State.setRegion_queue (s : State) (r : Nat) (k : Region) (i : Nat) : (s.setRegion r k).queue i = s.queue i := rfl
@[simp] theorem State.setRegion_module (s : State) (r : Nat) (k : Region) (i : Nat) : (s.setRegion r k).module i = s.module i := rfl
@[simp] theorem State.setRegion_port (s : State) (r : Nat) (k : Region) (i : Nat) : (s.setRegion r k).port i = s.port i := rfl
@[simp] theorem State.setRegion_cairn (s : State) (r : Nat) (k : Region) (i j : Nat) : (s.setRegion r k).cairn i j = s.cairn i j := rfl
@[simp] theorem State.setRegion_warp (s : State) (r : Nat) (k : Region) (i j : Nat) : (s.setRegion r k).warp i j = s.warp i j := rfl
@[simp] theorem State.setRegion_group (s : State) (r : Nat) (k : Region) (i j : Nat) : (s.setRegion r k).group i j = s.group i j := rfl

theorem State.setRegion_region (s : State) (r : Nat) (k : Region) (i : Nat) : (s.setRegion r k).region i = if i = r then k else s.region i := SMap.get_set _ _ _ _ _
@[simp] theorem State.setRegion_region_self (s : State) (r : Nat) (k : Region) : (s.setRegion r k).region r = k := SMap.get_set_self _ _ _ _

/-! ### setHub -/

@[simp] theorem State.setHub_mem (s : State) (h : Nat) (k : Hub) : (s.setHub h k).mem = s.mem := rfl
@[simp] theorem State.setHub_ecc (s : State) (h : Nat) (k : Hub) : (s.setHub h k).ecc = s.ecc := rfl
@[simp] theorem State.setHub_cores (s : State) (h : Nat) (k : Hub) : (s.setHub h k).cores = s.cores := rfl
@[simp] theorem State.setHub_regions (s : State) (h : Nat) (k : Hub) : (s.setHub h k).regions = s.regions := rfl
@[simp] theorem State.setHub_cairns (s : State) (h : Nat) (k : Hub) : (s.setHub h k).cairns = s.cairns := rfl
@[simp] theorem State.setHub_slices (s : State) (h : Nat) (k : Hub) : (s.setHub h k).slices = s.slices := rfl
@[simp] theorem State.setHub_ports (s : State) (h : Nat) (k : Hub) : (s.setHub h k).ports = s.ports := rfl
@[simp] theorem State.setHub_contexts (s : State) (h : Nat) (k : Hub) : (s.setHub h k).contexts = s.contexts := rfl
@[simp] theorem State.setHub_queues (s : State) (h : Nat) (k : Hub) : (s.setHub h k).queues = s.queues := rfl
@[simp] theorem State.setHub_modules (s : State) (h : Nat) (k : Hub) : (s.setHub h k).modules = s.modules := rfl
@[simp] theorem State.setHub_net (s : State) (h : Nat) (k : Hub) : (s.setHub h k).net = s.net := rfl
@[simp] theorem State.setHub_agenda (s : State) (h : Nat) (k : Hub) : (s.setHub h k).agenda = s.agenda := rfl
@[simp] theorem State.setHub_cur (s : State) (h : Nat) (k : Hub) : (s.setHub h k).cur = s.cur := rfl
@[simp] theorem State.setHub_args (s : State) (h : Nat) (k : Hub) : (s.setHub h k).args = s.args := rfl
@[simp] theorem State.setHub_free (s : State) (h : Nat) (k : Hub) : (s.setHub h k).free = s.free := rfl
@[simp] theorem State.setHub_log (s : State) (h : Nat) (k : Hub) : (s.setHub h k).log = s.log := rfl
@[simp] theorem State.setHub_core (s : State) (h : Nat) (k : Hub) (i : Nat) : (s.setHub h k).core i = s.core i := rfl
@[simp] theorem State.setHub_region (s : State) (h : Nat) (k : Hub) (i : Nat) : (s.setHub h k).region i = s.region i := rfl
@[simp] theorem State.setHub_slice (s : State) (h : Nat) (k : Hub) (i : Nat) : (s.setHub h k).slice i = s.slice i := rfl
@[simp] theorem State.setHub_ctx (s : State) (h : Nat) (k : Hub) (i : Nat) : (s.setHub h k).ctx i = s.ctx i := rfl
@[simp] theorem State.setHub_queue (s : State) (h : Nat) (k : Hub) (i : Nat) : (s.setHub h k).queue i = s.queue i := rfl
@[simp] theorem State.setHub_module (s : State) (h : Nat) (k : Hub) (i : Nat) : (s.setHub h k).module i = s.module i := rfl
@[simp] theorem State.setHub_port (s : State) (h : Nat) (k : Hub) (i : Nat) : (s.setHub h k).port i = s.port i := rfl
@[simp] theorem State.setHub_cairn (s : State) (h : Nat) (k : Hub) (i j : Nat) : (s.setHub h k).cairn i j = s.cairn i j := rfl
@[simp] theorem State.setHub_warp (s : State) (h : Nat) (k : Hub) (i j : Nat) : (s.setHub h k).warp i j = s.warp i j := rfl
@[simp] theorem State.setHub_group (s : State) (h : Nat) (k : Hub) (i j : Nat) : (s.setHub h k).group i j = s.group i j := rfl

theorem State.setHub_hub (s : State) (h : Nat) (k : Hub) (i : Nat) : (s.setHub h k).hub i = if i = h then k else s.hub i := SMap.get_set _ _ _ _ _
@[simp] theorem State.setHub_hub_self (s : State) (h : Nat) (k : Hub) : (s.setHub h k).hub h = k := SMap.get_set_self _ _ _ _

/-! ### setSlice -/

@[simp] theorem State.setSlice_mem (s : State) (n : Nat) (k : Slice) : (s.setSlice n k).mem = s.mem := rfl
@[simp] theorem State.setSlice_ecc (s : State) (n : Nat) (k : Slice) : (s.setSlice n k).ecc = s.ecc := rfl
@[simp] theorem State.setSlice_cores (s : State) (n : Nat) (k : Slice) : (s.setSlice n k).cores = s.cores := rfl
@[simp] theorem State.setSlice_regions (s : State) (n : Nat) (k : Slice) : (s.setSlice n k).regions = s.regions := rfl
@[simp] theorem State.setSlice_cairns (s : State) (n : Nat) (k : Slice) : (s.setSlice n k).cairns = s.cairns := rfl
@[simp] theorem State.setSlice_hubs (s : State) (n : Nat) (k : Slice) : (s.setSlice n k).hubs = s.hubs := rfl
@[simp] theorem State.setSlice_ports (s : State) (n : Nat) (k : Slice) : (s.setSlice n k).ports = s.ports := rfl
@[simp] theorem State.setSlice_contexts (s : State) (n : Nat) (k : Slice) : (s.setSlice n k).contexts = s.contexts := rfl
@[simp] theorem State.setSlice_queues (s : State) (n : Nat) (k : Slice) : (s.setSlice n k).queues = s.queues := rfl
@[simp] theorem State.setSlice_modules (s : State) (n : Nat) (k : Slice) : (s.setSlice n k).modules = s.modules := rfl
@[simp] theorem State.setSlice_net (s : State) (n : Nat) (k : Slice) : (s.setSlice n k).net = s.net := rfl
@[simp] theorem State.setSlice_agenda (s : State) (n : Nat) (k : Slice) : (s.setSlice n k).agenda = s.agenda := rfl
@[simp] theorem State.setSlice_cur (s : State) (n : Nat) (k : Slice) : (s.setSlice n k).cur = s.cur := rfl
@[simp] theorem State.setSlice_args (s : State) (n : Nat) (k : Slice) : (s.setSlice n k).args = s.args := rfl
@[simp] theorem State.setSlice_free (s : State) (n : Nat) (k : Slice) : (s.setSlice n k).free = s.free := rfl
@[simp] theorem State.setSlice_log (s : State) (n : Nat) (k : Slice) : (s.setSlice n k).log = s.log := rfl
@[simp] theorem State.setSlice_core (s : State) (n : Nat) (k : Slice) (i : Nat) : (s.setSlice n k).core i = s.core i := rfl
@[simp] theorem State.setSlice_region (s : State) (n : Nat) (k : Slice) (i : Nat) : (s.setSlice n k).region i = s.region i := rfl
@[simp] theorem State.setSlice_hub (s : State) (n : Nat) (k : Slice) (i : Nat) : (s.setSlice n k).hub i = s.hub i := rfl
@[simp] theorem State.setSlice_ctx (s : State) (n : Nat) (k : Slice) (i : Nat) : (s.setSlice n k).ctx i = s.ctx i := rfl
@[simp] theorem State.setSlice_queue (s : State) (n : Nat) (k : Slice) (i : Nat) : (s.setSlice n k).queue i = s.queue i := rfl
@[simp] theorem State.setSlice_module (s : State) (n : Nat) (k : Slice) (i : Nat) : (s.setSlice n k).module i = s.module i := rfl
@[simp] theorem State.setSlice_port (s : State) (n : Nat) (k : Slice) (i : Nat) : (s.setSlice n k).port i = s.port i := rfl
@[simp] theorem State.setSlice_cairn (s : State) (n : Nat) (k : Slice) (i j : Nat) : (s.setSlice n k).cairn i j = s.cairn i j := rfl
@[simp] theorem State.setSlice_warp (s : State) (n : Nat) (k : Slice) (i j : Nat) : (s.setSlice n k).warp i j = s.warp i j := rfl
@[simp] theorem State.setSlice_group (s : State) (n : Nat) (k : Slice) (i j : Nat) : (s.setSlice n k).group i j = s.group i j := rfl

theorem State.setSlice_slice (s : State) (n : Nat) (k : Slice) (i : Nat) : (s.setSlice n k).slice i = if i = n then k else s.slice i := SMap.get_set _ _ _ _ _
@[simp] theorem State.setSlice_slice_self (s : State) (n : Nat) (k : Slice) : (s.setSlice n k).slice n = k := SMap.get_set_self _ _ _ _

/-! ### setCtx -/

@[simp] theorem State.setCtx_mem (s : State) (x : Nat) (k : Ctx) : (s.setCtx x k).mem = s.mem := rfl
@[simp] theorem State.setCtx_ecc (s : State) (x : Nat) (k : Ctx) : (s.setCtx x k).ecc = s.ecc := rfl
@[simp] theorem State.setCtx_cores (s : State) (x : Nat) (k : Ctx) : (s.setCtx x k).cores = s.cores := rfl
@[simp] theorem State.setCtx_regions (s : State) (x : Nat) (k : Ctx) : (s.setCtx x k).regions = s.regions := rfl
@[simp] theorem State.setCtx_cairns (s : State) (x : Nat) (k : Ctx) : (s.setCtx x k).cairns = s.cairns := rfl
@[simp] theorem State.setCtx_hubs (s : State) (x : Nat) (k : Ctx) : (s.setCtx x k).hubs = s.hubs := rfl
@[simp] theorem State.setCtx_slices (s : State) (x : Nat) (k : Ctx) : (s.setCtx x k).slices = s.slices := rfl
@[simp] theorem State.setCtx_ports (s : State) (x : Nat) (k : Ctx) : (s.setCtx x k).ports = s.ports := rfl
@[simp] theorem State.setCtx_queues (s : State) (x : Nat) (k : Ctx) : (s.setCtx x k).queues = s.queues := rfl
@[simp] theorem State.setCtx_modules (s : State) (x : Nat) (k : Ctx) : (s.setCtx x k).modules = s.modules := rfl
@[simp] theorem State.setCtx_net (s : State) (x : Nat) (k : Ctx) : (s.setCtx x k).net = s.net := rfl
@[simp] theorem State.setCtx_agenda (s : State) (x : Nat) (k : Ctx) : (s.setCtx x k).agenda = s.agenda := rfl
@[simp] theorem State.setCtx_cur (s : State) (x : Nat) (k : Ctx) : (s.setCtx x k).cur = s.cur := rfl
@[simp] theorem State.setCtx_args (s : State) (x : Nat) (k : Ctx) : (s.setCtx x k).args = s.args := rfl
@[simp] theorem State.setCtx_free (s : State) (x : Nat) (k : Ctx) : (s.setCtx x k).free = s.free := rfl
@[simp] theorem State.setCtx_log (s : State) (x : Nat) (k : Ctx) : (s.setCtx x k).log = s.log := rfl
@[simp] theorem State.setCtx_core (s : State) (x : Nat) (k : Ctx) (i : Nat) : (s.setCtx x k).core i = s.core i := rfl
@[simp] theorem State.setCtx_region (s : State) (x : Nat) (k : Ctx) (i : Nat) : (s.setCtx x k).region i = s.region i := rfl
@[simp] theorem State.setCtx_hub (s : State) (x : Nat) (k : Ctx) (i : Nat) : (s.setCtx x k).hub i = s.hub i := rfl
@[simp] theorem State.setCtx_slice (s : State) (x : Nat) (k : Ctx) (i : Nat) : (s.setCtx x k).slice i = s.slice i := rfl
@[simp] theorem State.setCtx_queue (s : State) (x : Nat) (k : Ctx) (i : Nat) : (s.setCtx x k).queue i = s.queue i := rfl
@[simp] theorem State.setCtx_module (s : State) (x : Nat) (k : Ctx) (i : Nat) : (s.setCtx x k).module i = s.module i := rfl
@[simp] theorem State.setCtx_port (s : State) (x : Nat) (k : Ctx) (i : Nat) : (s.setCtx x k).port i = s.port i := rfl
@[simp] theorem State.setCtx_cairn (s : State) (x : Nat) (k : Ctx) (i j : Nat) : (s.setCtx x k).cairn i j = s.cairn i j := rfl
@[simp] theorem State.setCtx_warp (s : State) (x : Nat) (k : Ctx) (i j : Nat) : (s.setCtx x k).warp i j = s.warp i j := rfl
@[simp] theorem State.setCtx_group (s : State) (x : Nat) (k : Ctx) (i j : Nat) : (s.setCtx x k).group i j = s.group i j := rfl

theorem State.setCtx_ctx (s : State) (x : Nat) (k : Ctx) (i : Nat) : (s.setCtx x k).ctx i = if i = x then k else s.ctx i := SMap.get_set _ _ _ _ _
@[simp] theorem State.setCtx_ctx_self (s : State) (x : Nat) (k : Ctx) : (s.setCtx x k).ctx x = k := SMap.get_set_self _ _ _ _

/-! ### setQueue -/

@[simp] theorem State.setQueue_mem (s : State) (q : Nat) (k : Queue) : (s.setQueue q k).mem = s.mem := rfl
@[simp] theorem State.setQueue_ecc (s : State) (q : Nat) (k : Queue) : (s.setQueue q k).ecc = s.ecc := rfl
@[simp] theorem State.setQueue_cores (s : State) (q : Nat) (k : Queue) : (s.setQueue q k).cores = s.cores := rfl
@[simp] theorem State.setQueue_regions (s : State) (q : Nat) (k : Queue) : (s.setQueue q k).regions = s.regions := rfl
@[simp] theorem State.setQueue_cairns (s : State) (q : Nat) (k : Queue) : (s.setQueue q k).cairns = s.cairns := rfl
@[simp] theorem State.setQueue_hubs (s : State) (q : Nat) (k : Queue) : (s.setQueue q k).hubs = s.hubs := rfl
@[simp] theorem State.setQueue_slices (s : State) (q : Nat) (k : Queue) : (s.setQueue q k).slices = s.slices := rfl
@[simp] theorem State.setQueue_ports (s : State) (q : Nat) (k : Queue) : (s.setQueue q k).ports = s.ports := rfl
@[simp] theorem State.setQueue_contexts (s : State) (q : Nat) (k : Queue) : (s.setQueue q k).contexts = s.contexts := rfl
@[simp] theorem State.setQueue_modules (s : State) (q : Nat) (k : Queue) : (s.setQueue q k).modules = s.modules := rfl
@[simp] theorem State.setQueue_net (s : State) (q : Nat) (k : Queue) : (s.setQueue q k).net = s.net := rfl
@[simp] theorem State.setQueue_agenda (s : State) (q : Nat) (k : Queue) : (s.setQueue q k).agenda = s.agenda := rfl
@[simp] theorem State.setQueue_cur (s : State) (q : Nat) (k : Queue) : (s.setQueue q k).cur = s.cur := rfl
@[simp] theorem State.setQueue_args (s : State) (q : Nat) (k : Queue) : (s.setQueue q k).args = s.args := rfl
@[simp] theorem State.setQueue_free (s : State) (q : Nat) (k : Queue) : (s.setQueue q k).free = s.free := rfl
@[simp] theorem State.setQueue_log (s : State) (q : Nat) (k : Queue) : (s.setQueue q k).log = s.log := rfl
@[simp] theorem State.setQueue_core (s : State) (q : Nat) (k : Queue) (i : Nat) : (s.setQueue q k).core i = s.core i := rfl
@[simp] theorem State.setQueue_region (s : State) (q : Nat) (k : Queue) (i : Nat) : (s.setQueue q k).region i = s.region i := rfl
@[simp] theorem State.setQueue_hub (s : State) (q : Nat) (k : Queue) (i : Nat) : (s.setQueue q k).hub i = s.hub i := rfl
@[simp] theorem State.setQueue_slice (s : State) (q : Nat) (k : Queue) (i : Nat) : (s.setQueue q k).slice i = s.slice i := rfl
@[simp] theorem State.setQueue_ctx (s : State) (q : Nat) (k : Queue) (i : Nat) : (s.setQueue q k).ctx i = s.ctx i := rfl
@[simp] theorem State.setQueue_module (s : State) (q : Nat) (k : Queue) (i : Nat) : (s.setQueue q k).module i = s.module i := rfl
@[simp] theorem State.setQueue_port (s : State) (q : Nat) (k : Queue) (i : Nat) : (s.setQueue q k).port i = s.port i := rfl
@[simp] theorem State.setQueue_cairn (s : State) (q : Nat) (k : Queue) (i j : Nat) : (s.setQueue q k).cairn i j = s.cairn i j := rfl
@[simp] theorem State.setQueue_warp (s : State) (q : Nat) (k : Queue) (i j : Nat) : (s.setQueue q k).warp i j = s.warp i j := rfl
@[simp] theorem State.setQueue_group (s : State) (q : Nat) (k : Queue) (i j : Nat) : (s.setQueue q k).group i j = s.group i j := rfl

theorem State.setQueue_queue (s : State) (q : Nat) (k : Queue) (i : Nat) : (s.setQueue q k).queue i = if i = q then k else s.queue i := SMap.get_set _ _ _ _ _
@[simp] theorem State.setQueue_queue_self (s : State) (q : Nat) (k : Queue) : (s.setQueue q k).queue q = k := SMap.get_set_self _ _ _ _

/-! ### setModule -/

@[simp] theorem State.setModule_mem (s : State) (m : Nat) (k : Module) : (s.setModule m k).mem = s.mem := rfl
@[simp] theorem State.setModule_ecc (s : State) (m : Nat) (k : Module) : (s.setModule m k).ecc = s.ecc := rfl
@[simp] theorem State.setModule_cores (s : State) (m : Nat) (k : Module) : (s.setModule m k).cores = s.cores := rfl
@[simp] theorem State.setModule_regions (s : State) (m : Nat) (k : Module) : (s.setModule m k).regions = s.regions := rfl
@[simp] theorem State.setModule_cairns (s : State) (m : Nat) (k : Module) : (s.setModule m k).cairns = s.cairns := rfl
@[simp] theorem State.setModule_hubs (s : State) (m : Nat) (k : Module) : (s.setModule m k).hubs = s.hubs := rfl
@[simp] theorem State.setModule_slices (s : State) (m : Nat) (k : Module) : (s.setModule m k).slices = s.slices := rfl
@[simp] theorem State.setModule_ports (s : State) (m : Nat) (k : Module) : (s.setModule m k).ports = s.ports := rfl
@[simp] theorem State.setModule_contexts (s : State) (m : Nat) (k : Module) : (s.setModule m k).contexts = s.contexts := rfl
@[simp] theorem State.setModule_queues (s : State) (m : Nat) (k : Module) : (s.setModule m k).queues = s.queues := rfl
@[simp] theorem State.setModule_net (s : State) (m : Nat) (k : Module) : (s.setModule m k).net = s.net := rfl
@[simp] theorem State.setModule_agenda (s : State) (m : Nat) (k : Module) : (s.setModule m k).agenda = s.agenda := rfl
@[simp] theorem State.setModule_cur (s : State) (m : Nat) (k : Module) : (s.setModule m k).cur = s.cur := rfl
@[simp] theorem State.setModule_args (s : State) (m : Nat) (k : Module) : (s.setModule m k).args = s.args := rfl
@[simp] theorem State.setModule_free (s : State) (m : Nat) (k : Module) : (s.setModule m k).free = s.free := rfl
@[simp] theorem State.setModule_log (s : State) (m : Nat) (k : Module) : (s.setModule m k).log = s.log := rfl
@[simp] theorem State.setModule_core (s : State) (m : Nat) (k : Module) (i : Nat) : (s.setModule m k).core i = s.core i := rfl
@[simp] theorem State.setModule_region (s : State) (m : Nat) (k : Module) (i : Nat) : (s.setModule m k).region i = s.region i := rfl
@[simp] theorem State.setModule_hub (s : State) (m : Nat) (k : Module) (i : Nat) : (s.setModule m k).hub i = s.hub i := rfl
@[simp] theorem State.setModule_slice (s : State) (m : Nat) (k : Module) (i : Nat) : (s.setModule m k).slice i = s.slice i := rfl
@[simp] theorem State.setModule_ctx (s : State) (m : Nat) (k : Module) (i : Nat) : (s.setModule m k).ctx i = s.ctx i := rfl
@[simp] theorem State.setModule_queue (s : State) (m : Nat) (k : Module) (i : Nat) : (s.setModule m k).queue i = s.queue i := rfl
@[simp] theorem State.setModule_port (s : State) (m : Nat) (k : Module) (i : Nat) : (s.setModule m k).port i = s.port i := rfl
@[simp] theorem State.setModule_cairn (s : State) (m : Nat) (k : Module) (i j : Nat) : (s.setModule m k).cairn i j = s.cairn i j := rfl
@[simp] theorem State.setModule_warp (s : State) (m : Nat) (k : Module) (i j : Nat) : (s.setModule m k).warp i j = s.warp i j := rfl
@[simp] theorem State.setModule_group (s : State) (m : Nat) (k : Module) (i j : Nat) : (s.setModule m k).group i j = s.group i j := rfl

theorem State.setModule_module (s : State) (m : Nat) (k : Module) (i : Nat) : (s.setModule m k).module i = if i = m then k else s.module i := SMap.get_set _ _ _ _ _
@[simp] theorem State.setModule_module_self (s : State) (m : Nat) (k : Module) : (s.setModule m k).module m = k := SMap.get_set_self _ _ _ _

/-! ### setPort -/

@[simp] theorem State.setPort_mem (s : State) (p : Nat) (k : Port) : (s.setPort p k).mem = s.mem := rfl
@[simp] theorem State.setPort_ecc (s : State) (p : Nat) (k : Port) : (s.setPort p k).ecc = s.ecc := rfl
@[simp] theorem State.setPort_cores (s : State) (p : Nat) (k : Port) : (s.setPort p k).cores = s.cores := rfl
@[simp] theorem State.setPort_regions (s : State) (p : Nat) (k : Port) : (s.setPort p k).regions = s.regions := rfl
@[simp] theorem State.setPort_cairns (s : State) (p : Nat) (k : Port) : (s.setPort p k).cairns = s.cairns := rfl
@[simp] theorem State.setPort_hubs (s : State) (p : Nat) (k : Port) : (s.setPort p k).hubs = s.hubs := rfl
@[simp] theorem State.setPort_slices (s : State) (p : Nat) (k : Port) : (s.setPort p k).slices = s.slices := rfl
@[simp] theorem State.setPort_contexts (s : State) (p : Nat) (k : Port) : (s.setPort p k).contexts = s.contexts := rfl
@[simp] theorem State.setPort_queues (s : State) (p : Nat) (k : Port) : (s.setPort p k).queues = s.queues := rfl
@[simp] theorem State.setPort_modules (s : State) (p : Nat) (k : Port) : (s.setPort p k).modules = s.modules := rfl
@[simp] theorem State.setPort_net (s : State) (p : Nat) (k : Port) : (s.setPort p k).net = s.net := rfl
@[simp] theorem State.setPort_agenda (s : State) (p : Nat) (k : Port) : (s.setPort p k).agenda = s.agenda := rfl
@[simp] theorem State.setPort_cur (s : State) (p : Nat) (k : Port) : (s.setPort p k).cur = s.cur := rfl
@[simp] theorem State.setPort_args (s : State) (p : Nat) (k : Port) : (s.setPort p k).args = s.args := rfl
@[simp] theorem State.setPort_free (s : State) (p : Nat) (k : Port) : (s.setPort p k).free = s.free := rfl
@[simp] theorem State.setPort_log (s : State) (p : Nat) (k : Port) : (s.setPort p k).log = s.log := rfl
@[simp] theorem State.setPort_core (s : State) (p : Nat) (k : Port) (i : Nat) : (s.setPort p k).core i = s.core i := rfl
@[simp] theorem State.setPort_region (s : State) (p : Nat) (k : Port) (i : Nat) : (s.setPort p k).region i = s.region i := rfl
@[simp] theorem State.setPort_hub (s : State) (p : Nat) (k : Port) (i : Nat) : (s.setPort p k).hub i = s.hub i := rfl
@[simp] theorem State.setPort_slice (s : State) (p : Nat) (k : Port) (i : Nat) : (s.setPort p k).slice i = s.slice i := rfl
@[simp] theorem State.setPort_ctx (s : State) (p : Nat) (k : Port) (i : Nat) : (s.setPort p k).ctx i = s.ctx i := rfl
@[simp] theorem State.setPort_queue (s : State) (p : Nat) (k : Port) (i : Nat) : (s.setPort p k).queue i = s.queue i := rfl
@[simp] theorem State.setPort_module (s : State) (p : Nat) (k : Port) (i : Nat) : (s.setPort p k).module i = s.module i := rfl
@[simp] theorem State.setPort_cairn (s : State) (p : Nat) (k : Port) (i j : Nat) : (s.setPort p k).cairn i j = s.cairn i j := rfl
@[simp] theorem State.setPort_warp (s : State) (p : Nat) (k : Port) (i j : Nat) : (s.setPort p k).warp i j = s.warp i j := rfl
@[simp] theorem State.setPort_group (s : State) (p : Nat) (k : Port) (i j : Nat) : (s.setPort p k).group i j = s.group i j := rfl

theorem State.setPort_port (s : State) (p : Nat) (k : Port) (i : Nat) : (s.setPort p k).port i = if i = p then k else s.port i := SMap.get_set _ _ _ _ _
@[simp] theorem State.setPort_port_self (s : State) (p : Nat) (k : Port) : (s.setPort p k).port p = k := SMap.get_set_self _ _ _ _

/-! ### setCairn -/

@[simp] theorem State.setCairn_mem (s : State) (u slot : Nat) (k : Cairn) : (s.setCairn u slot k).mem = s.mem := rfl
@[simp] theorem State.setCairn_ecc (s : State) (u slot : Nat) (k : Cairn) : (s.setCairn u slot k).ecc = s.ecc := rfl
@[simp] theorem State.setCairn_cores (s : State) (u slot : Nat) (k : Cairn) : (s.setCairn u slot k).cores = s.cores := rfl
@[simp] theorem State.setCairn_regions (s : State) (u slot : Nat) (k : Cairn) : (s.setCairn u slot k).regions = s.regions := rfl
@[simp] theorem State.setCairn_hubs (s : State) (u slot : Nat) (k : Cairn) : (s.setCairn u slot k).hubs = s.hubs := rfl
@[simp] theorem State.setCairn_slices (s : State) (u slot : Nat) (k : Cairn) : (s.setCairn u slot k).slices = s.slices := rfl
@[simp] theorem State.setCairn_ports (s : State) (u slot : Nat) (k : Cairn) : (s.setCairn u slot k).ports = s.ports := rfl
@[simp] theorem State.setCairn_contexts (s : State) (u slot : Nat) (k : Cairn) : (s.setCairn u slot k).contexts = s.contexts := rfl
@[simp] theorem State.setCairn_queues (s : State) (u slot : Nat) (k : Cairn) : (s.setCairn u slot k).queues = s.queues := rfl
@[simp] theorem State.setCairn_modules (s : State) (u slot : Nat) (k : Cairn) : (s.setCairn u slot k).modules = s.modules := rfl
@[simp] theorem State.setCairn_net (s : State) (u slot : Nat) (k : Cairn) : (s.setCairn u slot k).net = s.net := rfl
@[simp] theorem State.setCairn_agenda (s : State) (u slot : Nat) (k : Cairn) : (s.setCairn u slot k).agenda = s.agenda := rfl
@[simp] theorem State.setCairn_cur (s : State) (u slot : Nat) (k : Cairn) : (s.setCairn u slot k).cur = s.cur := rfl
@[simp] theorem State.setCairn_args (s : State) (u slot : Nat) (k : Cairn) : (s.setCairn u slot k).args = s.args := rfl
@[simp] theorem State.setCairn_free (s : State) (u slot : Nat) (k : Cairn) : (s.setCairn u slot k).free = s.free := rfl
@[simp] theorem State.setCairn_log (s : State) (u slot : Nat) (k : Cairn) : (s.setCairn u slot k).log = s.log := rfl
@[simp] theorem State.setCairn_core (s : State) (u slot : Nat) (k : Cairn) (i : Nat) : (s.setCairn u slot k).core i = s.core i := rfl
@[simp] theorem State.setCairn_region (s : State) (u slot : Nat) (k : Cairn) (i : Nat) : (s.setCairn u slot k).region i = s.region i := rfl
@[simp] theorem State.setCairn_hub (s : State) (u slot : Nat) (k : Cairn) (i : Nat) : (s.setCairn u slot k).hub i = s.hub i := rfl
@[simp] theorem State.setCairn_slice (s : State) (u slot : Nat) (k : Cairn) (i : Nat) : (s.setCairn u slot k).slice i = s.slice i := rfl
@[simp] theorem State.setCairn_ctx (s : State) (u slot : Nat) (k : Cairn) (i : Nat) : (s.setCairn u slot k).ctx i = s.ctx i := rfl
@[simp] theorem State.setCairn_queue (s : State) (u slot : Nat) (k : Cairn) (i : Nat) : (s.setCairn u slot k).queue i = s.queue i := rfl
@[simp] theorem State.setCairn_module (s : State) (u slot : Nat) (k : Cairn) (i : Nat) : (s.setCairn u slot k).module i = s.module i := rfl
@[simp] theorem State.setCairn_port (s : State) (u slot : Nat) (k : Cairn) (i : Nat) : (s.setCairn u slot k).port i = s.port i := rfl
@[simp] theorem State.setCairn_warp (s : State) (u slot : Nat) (k : Cairn) (i j : Nat) : (s.setCairn u slot k).warp i j = s.warp i j := rfl
@[simp] theorem State.setCairn_group (s : State) (u slot : Nat) (k : Cairn) (i j : Nat) : (s.setCairn u slot k).group i j = s.group i j := rfl

/-! ### setWarp -/

@[simp] theorem State.setWarp_mem (s : State) (c slot : Nat) (w : Warp) : (s.setWarp c slot w).mem = s.mem := rfl
@[simp] theorem State.setWarp_ecc (s : State) (c slot : Nat) (w : Warp) : (s.setWarp c slot w).ecc = s.ecc := rfl
@[simp] theorem State.setWarp_regions (s : State) (c slot : Nat) (w : Warp) : (s.setWarp c slot w).regions = s.regions := rfl
@[simp] theorem State.setWarp_cairns (s : State) (c slot : Nat) (w : Warp) : (s.setWarp c slot w).cairns = s.cairns := rfl
@[simp] theorem State.setWarp_hubs (s : State) (c slot : Nat) (w : Warp) : (s.setWarp c slot w).hubs = s.hubs := rfl
@[simp] theorem State.setWarp_slices (s : State) (c slot : Nat) (w : Warp) : (s.setWarp c slot w).slices = s.slices := rfl
@[simp] theorem State.setWarp_ports (s : State) (c slot : Nat) (w : Warp) : (s.setWarp c slot w).ports = s.ports := rfl
@[simp] theorem State.setWarp_contexts (s : State) (c slot : Nat) (w : Warp) : (s.setWarp c slot w).contexts = s.contexts := rfl
@[simp] theorem State.setWarp_queues (s : State) (c slot : Nat) (w : Warp) : (s.setWarp c slot w).queues = s.queues := rfl
@[simp] theorem State.setWarp_modules (s : State) (c slot : Nat) (w : Warp) : (s.setWarp c slot w).modules = s.modules := rfl
@[simp] theorem State.setWarp_net (s : State) (c slot : Nat) (w : Warp) : (s.setWarp c slot w).net = s.net := rfl
@[simp] theorem State.setWarp_agenda (s : State) (c slot : Nat) (w : Warp) : (s.setWarp c slot w).agenda = s.agenda := rfl
@[simp] theorem State.setWarp_cur (s : State) (c slot : Nat) (w : Warp) : (s.setWarp c slot w).cur = s.cur := rfl
@[simp] theorem State.setWarp_args (s : State) (c slot : Nat) (w : Warp) : (s.setWarp c slot w).args = s.args := rfl
@[simp] theorem State.setWarp_free (s : State) (c slot : Nat) (w : Warp) : (s.setWarp c slot w).free = s.free := rfl
@[simp] theorem State.setWarp_log (s : State) (c slot : Nat) (w : Warp) : (s.setWarp c slot w).log = s.log := rfl
@[simp] theorem State.setWarp_region (s : State) (c slot : Nat) (w : Warp) (i : Nat) : (s.setWarp c slot w).region i = s.region i := rfl
@[simp] theorem State.setWarp_hub (s : State) (c slot : Nat) (w : Warp) (i : Nat) : (s.setWarp c slot w).hub i = s.hub i := rfl
@[simp] theorem State.setWarp_slice (s : State) (c slot : Nat) (w : Warp) (i : Nat) : (s.setWarp c slot w).slice i = s.slice i := rfl
@[simp] theorem State.setWarp_ctx (s : State) (c slot : Nat) (w : Warp) (i : Nat) : (s.setWarp c slot w).ctx i = s.ctx i := rfl
@[simp] theorem State.setWarp_queue (s : State) (c slot : Nat) (w : Warp) (i : Nat) : (s.setWarp c slot w).queue i = s.queue i := rfl
@[simp] theorem State.setWarp_module (s : State) (c slot : Nat) (w : Warp) (i : Nat) : (s.setWarp c slot w).module i = s.module i := rfl
@[simp] theorem State.setWarp_port (s : State) (c slot : Nat) (w : Warp) (i : Nat) : (s.setWarp c slot w).port i = s.port i := rfl
@[simp] theorem State.setWarp_cairn (s : State) (c slot : Nat) (w : Warp) (i j : Nat) : (s.setWarp c slot w).cairn i j = s.cairn i j := rfl

/-! ### setGroup -/

@[simp] theorem State.setGroup_mem (s : State) (c g : Nat) (x : Group) : (s.setGroup c g x).mem = s.mem := rfl
@[simp] theorem State.setGroup_ecc (s : State) (c g : Nat) (x : Group) : (s.setGroup c g x).ecc = s.ecc := rfl
@[simp] theorem State.setGroup_regions (s : State) (c g : Nat) (x : Group) : (s.setGroup c g x).regions = s.regions := rfl
@[simp] theorem State.setGroup_cairns (s : State) (c g : Nat) (x : Group) : (s.setGroup c g x).cairns = s.cairns := rfl
@[simp] theorem State.setGroup_hubs (s : State) (c g : Nat) (x : Group) : (s.setGroup c g x).hubs = s.hubs := rfl
@[simp] theorem State.setGroup_slices (s : State) (c g : Nat) (x : Group) : (s.setGroup c g x).slices = s.slices := rfl
@[simp] theorem State.setGroup_ports (s : State) (c g : Nat) (x : Group) : (s.setGroup c g x).ports = s.ports := rfl
@[simp] theorem State.setGroup_contexts (s : State) (c g : Nat) (x : Group) : (s.setGroup c g x).contexts = s.contexts := rfl
@[simp] theorem State.setGroup_queues (s : State) (c g : Nat) (x : Group) : (s.setGroup c g x).queues = s.queues := rfl
@[simp] theorem State.setGroup_modules (s : State) (c g : Nat) (x : Group) : (s.setGroup c g x).modules = s.modules := rfl
@[simp] theorem State.setGroup_net (s : State) (c g : Nat) (x : Group) : (s.setGroup c g x).net = s.net := rfl
@[simp] theorem State.setGroup_agenda (s : State) (c g : Nat) (x : Group) : (s.setGroup c g x).agenda = s.agenda := rfl
@[simp] theorem State.setGroup_cur (s : State) (c g : Nat) (x : Group) : (s.setGroup c g x).cur = s.cur := rfl
@[simp] theorem State.setGroup_args (s : State) (c g : Nat) (x : Group) : (s.setGroup c g x).args = s.args := rfl
@[simp] theorem State.setGroup_free (s : State) (c g : Nat) (x : Group) : (s.setGroup c g x).free = s.free := rfl
@[simp] theorem State.setGroup_log (s : State) (c g : Nat) (x : Group) : (s.setGroup c g x).log = s.log := rfl
@[simp] theorem State.setGroup_region (s : State) (c g : Nat) (x : Group) (i : Nat) : (s.setGroup c g x).region i = s.region i := rfl
@[simp] theorem State.setGroup_hub (s : State) (c g : Nat) (x : Group) (i : Nat) : (s.setGroup c g x).hub i = s.hub i := rfl
@[simp] theorem State.setGroup_slice (s : State) (c g : Nat) (x : Group) (i : Nat) : (s.setGroup c g x).slice i = s.slice i := rfl
@[simp] theorem State.setGroup_ctx (s : State) (c g : Nat) (x : Group) (i : Nat) : (s.setGroup c g x).ctx i = s.ctx i := rfl
@[simp] theorem State.setGroup_queue (s : State) (c g : Nat) (x : Group) (i : Nat) : (s.setGroup c g x).queue i = s.queue i := rfl
@[simp] theorem State.setGroup_module (s : State) (c g : Nat) (x : Group) (i : Nat) : (s.setGroup c g x).module i = s.module i := rfl
@[simp] theorem State.setGroup_port (s : State) (c g : Nat) (x : Group) (i : Nat) : (s.setGroup c g x).port i = s.port i := rfl
@[simp] theorem State.setGroup_cairn (s : State) (c g : Nat) (x : Group) (i j : Nat) : (s.setGroup c g x).cairn i j = s.cairn i j := rfl

/-! ### Warps and groups of a core -/

theorem Core.setWarp_warp (k : Core) (slot : Nat) (w : Option Warp) (j : Nat) : (k.setWarp slot w).warp j = if j = slot then w else k.warp j :=
  SMap.get_set _ _ _ _ _
@[simp] theorem Core.setWarp_warp_self (k : Core) (slot : Nat) (w : Option Warp) : (k.setWarp slot w).warp slot = w := SMap.get_set_self _ _ _ _
@[simp] theorem Core.setWarp_group (k : Core) (slot : Nat) (w : Option Warp) (j : Nat) : (k.setWarp slot w).group j = k.group j := rfl
@[simp] theorem Core.setWarp_clock (k : Core) (slot : Nat) (w : Option Warp) : (k.setWarp slot w).clock = k.clock := rfl
theorem Core.setGroup_group (k : Core) (g : Nat) (x : Option Group) (j : Nat) : (k.setGroup g x).group j = if j = g then x else k.group j :=
  SMap.get_set _ _ _ _ _
@[simp] theorem Core.setGroup_group_self (k : Core) (g : Nat) (x : Option Group) : (k.setGroup g x).group g = x := SMap.get_set_self _ _ _ _
@[simp] theorem Core.setGroup_warp (k : Core) (g : Nat) (x : Option Group) (j : Nat) : (k.setGroup g x).warp j = k.warp j := rfl

/-- A write of one warp changes no other warp of the domain. -/
theorem State.setWarp_warp (s : State) (c slot : Nat) (w : Warp) (i j : Nat) :
    (s.setWarp c slot w).warp i j = if i = c ∧ j = slot then w else s.warp i j := by
  simp only [State.setWarp, State.warp, State.setCore_core]
  by_cases h : i = c
  · subst h
    simp only [if_true, Core.setWarp_warp, true_and]
    by_cases h2 : j = slot <;> simp [h2]
  · simp [h]

@[simp] theorem State.setWarp_warp_self (s : State) (c slot : Nat) (w : Warp) : (s.setWarp c slot w).warp c slot = w := by
  rw [State.setWarp_warp, if_pos ⟨rfl, rfl⟩]

/-- The second of two writes of one warp is the one that counts. -/
@[simp] theorem State.setWarp_setWarp (s : State) (c slot : Nat) (w w' : Warp) : (s.setWarp c slot w).setWarp c slot w' = s.setWarp c slot w' := by
  simp only [State.setWarp, State.setCore, State.core, SMap.get_set_self, Core.setWarp, SMap.set_set]

/-- A write of one warp keeps every group. -/
@[simp] theorem State.setWarp_group (s : State) (c slot : Nat) (w : Warp) (i j : Nat) : (s.setWarp c slot w).group i j = s.group i j := by
  simp only [State.setWarp, State.group, State.setCore_core]
  by_cases h : i = c
  · subst h; simp
  · simp [h]

/-- The group of a warp slot is its warp's. -/
theorem State.groupOf_eq (s : State) (c slot : Nat) : s.groupOf c slot = s.group c (s.warp c slot).group := rfl

/-- A warp that stays in its group keeps its group. -/
theorem State.setWarp_groupOf (s : State) (c slot : Nat) (w : Warp) (h : w.group = (s.warp c slot).group) :
    (s.setWarp c slot w).groupOf c slot = s.groupOf c slot := by
  rw [State.groupOf_eq, State.groupOf_eq, State.setWarp_group, State.setWarp_warp_self, h]

/-- A write of one group changes no warp. -/
@[simp] theorem State.setGroup_warp (s : State) (c g : Nat) (x : Group) (i j : Nat) : (s.setGroup c g x).warp i j = s.warp i j := by
  simp only [State.setGroup, State.warp, State.setCore_core]
  by_cases h : i = c
  · subst h; simp
  · simp [h]

theorem State.setGroup_group (s : State) (c g : Nat) (x : Group) (i j : Nat) :
    (s.setGroup c g x).group i j = if i = c ∧ j = g then x else s.group i j := by
  simp only [State.setGroup, State.group, State.setCore_core]
  by_cases h : i = c
  · subst h
    simp only [if_true, Core.setGroup_group, true_and]
    by_cases h2 : j = g <;> simp [h2]
  · simp [h]

theorem State.setCairn_cairn (s : State) (u slot : Nat) (k : Cairn) (i j : Nat) :
    (s.setCairn u slot k).cairn i j = if i * 256 + j = u * 256 + slot then k else s.cairn i j := SMap.get_set _ _ _ _ _

@[simp] theorem State.setCairn_cairn_self (s : State) (u slot : Nat) (k : Cairn) : (s.setCairn u slot k).cairn u slot = k := SMap.get_set_self _ _ _ _

end Sys2Proof.Machine
end

