-- ==== Sys2Proof/Laws/Issue.lean ====
section
/-! SUPPORT. The laws of issue: what an instruction that executes answers, what its issue changes, and how its entry moves on. -/

namespace Sys2Proof.Machine

open Safety

/-! ### Entries -/

theorem Warp.entry_replaceEntry_one (w : Warp) (i : Nat) (e : Entry) (h : i < w.frontier.length) : (w.replaceEntry i [e]).entry i = some e := by
  unfold Warp.entry Warp.replaceEntry
  simp only
  rw [List.getElem?_append_left (by simp; omega), List.getElem?_append_right (by simp)]
  simp [Nat.min_eq_left (Nat.le_of_lt h)]

theorem Warp.replaceEntry_eq (w : Warp) (i : Nat) (es : List Entry) : w.replaceEntry i es = { w with frontier := (w.replaceEntry i es).frontier } := rfl

theorem Warp.length_replaceEntry_one (w : Warp) (i : Nat) (e : Entry) (h : i < w.frontier.length) :
    (w.replaceEntry i [e]).frontier.length = w.frontier.length := by
  simp [Warp.replaceEntry]; omega

theorem Warp.lt_of_entry {w : Warp} {i : Nat} {e : Entry} (h : w.entry i = some e) : i < w.frontier.length := by
  unfold Warp.entry at h
  exact (List.getElem?_eq_some_iff.mp h).1

/-! ### The issue itself -/

theorem Warp.countIssue_eq (w : Warp) (ls : List Nat) : w.countIssue ls = { w with tx := (w.countIssue ls).tx } := by
  induction ls generalizing w with
  | nil => rfl
  | cons l t ih =>
    simp only [Warp.countIssue]
    rw [ih]
    split <;> rfl

/-- Counting an issue opens and closes no transaction. -/
theorem Warp.countIssue_isOpen (w : Warp) (ls : List Nat) (l : Nat) : (w.countIssue ls).isOpen l = w.isOpen l := by
  induction ls generalizing w with
  | nil => rfl
  | cons a t ih =>
    simp only [Warp.countIssue]
    rw [ih]
    split
    · unfold Warp.isOpen Warp.laneTx Warp.setTx
      simp only [SMap.get_set]
      by_cases h : l = a
      · subst h; simp [Warp.laneTx] at *
      · rw [if_neg h]
    · rfl

/-- An issue changes the frontier, the last issue, the issue slot and the instruction counts of open transactions only. -/
theorem Warp.noteIssue_same (w : Warp) (i : Nat) (e : Entry) (clock cycles : Nat) : sameButIssue w (w.noteIssue i e clock cycles) := by
  unfold sameButIssue Warp.noteIssue
  rw [Warp.countIssue_eq]
  rfl

theorem Warp.noteIssue_entry (w : Warp) (i : Nat) (e : Entry) (clock cycles : Nat) (h : i < w.frontier.length) :
    (w.noteIssue i e clock cycles).entry i = some { e with age := 0, state := .ready, cause := none, fresh := true } := by
  unfold Warp.noteIssue
  rw [Warp.countIssue_eq]
  exact Warp.entry_replaceEntry_one _ _ _ (by simpa using h)

theorem Warp.noteIssue_isOpen (w : Warp) (i : Nat) (e : Entry) (clock cycles l : Nat) :
    (w.noteIssue i e clock cycles).isOpen l = w.isOpen l := by
  unfold Warp.noteIssue
  rw [Warp.countIssue_isOpen]
  rfl

/-- The other entries of the frontier keep their place; only their YIELD ends. -/
theorem Warp.noteIssue_length (w : Warp) (i : Nat) (e : Entry) (clock cycles : Nat) (h : i < w.frontier.length) :
    (w.noteIssue i e clock cycles).frontier.length = w.frontier.length := by
  unfold Warp.noteIssue
  rw [Warp.countIssue_eq]
  simp only
  rw [Warp.length_replaceEntry_one _ _ _ (by simpa using h)]
  simp

theorem issOf_eq {i : Instr} {s : State} {x : Iss} (h : issOf i s = some x) :
    x.i = i ∧ s.cur = .warp x.core x.slot x.idx ∧ formOf i = some x.f ∧ sigOf i = some x.g ∧ encodeWord i = some (x.len, x.insn) ∧
      (s.warp x.core x.slot).entry x.idx = some x.e := by
  unfold issOf at h
  split at h
  · split at h
    · injection h with h; subst h
      exact ⟨rfl, ‹_›, ‹_›, ‹_›, ‹_›, ‹_›⟩
    · cases h
  · cases h

/-- The state that an instruction's effect starts from. -/
theorem Iss.note_warp (x : Iss) (s : State) :
    warpOf x (x.note s) = (s.warp x.core x.slot).noteIssue x.idx x.e (s.core x.core).clock.toNat (issueCycles x.i) := by
  unfold warpOf Iss.note
  rw [State.setWarp_warp_self]

@[simp] theorem Iss.heal_clean (x : Iss) (s : State) (h : s.ecc = []) : x.heal s = s := by
  simp [Iss.heal, h]

/-- Without bit errors a read of a group's words meets none. -/
@[simp] theorem State.meetErrors_clean (s : State) (c gi ctx : Nat) (reads : Nat → Bool) (h : s.ecc = []) : s.meetErrors c gi ctx reads = ([], s) := by
  simp [State.meetErrors, h]

/-- Without bit errors a write of a group's words ends none. -/
@[simp] theorem State.healWords_clean (s : State) (c gi : Nat) (writes : Nat → Bool) (h : s.ecc = []) : s.healWords c gi writes = s := by
  simp [State.healWords, h]

/-- Noting an issue leaves the bit errors. -/
theorem Iss.note_ecc (x : Iss) (s : State) : (x.note s).ecc = s.ecc := by unfold Iss.note; simp

/-- A change of the issuing group leaves the bit errors. -/
theorem Iss.withGroup_ecc (x : Iss) (s : State) (f : Group → Group) : (x.withGroup s f).ecc = s.ecc := rfl

/-- What an instruction that executes answers: its effect on the state after the issue, with the moves of the frontier. -/
theorem runCore_executes {i : Instr} {s : State} {x : Iss} (h : Executes i s x) (eff : Iss → State → Res) :
    runCore i eff s = .next (match eff x (x.note s) with
      | .done o => (Res.done { o with s := x.heal o.s }).finish x (warpOf x s)
      | r => r.finish x (warpOf x s)) := by
  have hi := (issOf_eq h.holds).1
  unfold runCore
  rw [h.holds]
  simp only
  congr 1
  unfold Iss.run
  simp only
  have hf : x.i.wf = true := by rw [hi]; exact h.fields
  rw [hf]
  have hm : (x.g.priv && !(s.warp x.core x.slot).privileged) = false := by
    cases hp : x.g.priv with
    | false => rfl
    | true => simp [h.mode hp]
  rw [hm]
  have hn : (x.note s).ecc = [] := by unfold Iss.note; simpa using h.clean
  simp only [h.allotted, h.issuable, Bool.not_true, Bool.false_eq_true, if_false, h.full, h.foreign]
  simp [Iss.badReads, hn]
  cases eff x (x.note s) <;> rfl

/-! ### The plain advance -/

theorem partsOf_const (a : Nat) (ls : List Nat) (p : SplitPart) (hp : p.pc = a) :
    partsOf (fun _ => a) ls [p] = [{ p with mask := ls.foldl (fun m l => m ||| (1#32 <<< l)) p.mask }] := by
  induction ls generalizing p with
  | nil => rfl
  | cons l t ih =>
    simp only [partsOf, addPart, hp, if_true]
    exact ih _ rfl

theorem foldl_or_maskOf (ls : List Nat) (m : LaneMask) : ls.foldl (fun m l => m ||| (1#32 <<< l)) m = m ||| maskOf ls := by
  induction ls generalizing m with
  | nil => simp [maskOf]
  | cons l t ih => simp only [List.foldl_cons, ih, maskOf, BitVec.or_assoc]

/-- Lanes that all go to one address form one part. -/
theorem partsOf_one (a : Nat) (f : Nat → Nat) (m : LaneMask) (hm : m ≠ 0#32) (hf : ∀ l ∈ lanes m, f l = a) :
    partsOf f (lanes m) [] = [{ pc := a, prio := 0, mask := m }] := by
  have key : ∀ (ls : List Nat) (ps : List SplitPart), (∀ l ∈ ls, f l = a) → partsOf f ls ps = partsOf (fun _ => a) ls ps := by
    intro ls
    induction ls with
    | nil => intros; rfl
    | cons l t ih =>
      intro ps h
      simp only [partsOf, h l List.mem_cons_self]
      exact ih _ (fun k hk => h k (List.mem_cons_of_mem _ hk))
  rw [key _ _ hf]
  cases hl : lanes m with
  | nil => exact absurd ((lanes_eq_nil m).mp hl) hm
  | cons l t =>
    simp only [partsOf, addPart]
    rw [partsOf_const a t _ rfl, foldl_or_maskOf]
    have := maskOf_lanes m
    rw [hl] at this
    simp only [maskOf] at this
    rw [this]

/-- An effect that parks no lane moves its entry on. -/
theorem Out.finish_stays (o : Out) (c slot idx len : Nat) (e : Entry) (hw : (o.s.warp c slot).entry idx = some e) (hpark : o.park = 0#32) :
    o.finish c slot idx len = o.advance c slot idx e (o.parts (o.s.groupOf c slot).ctx e len) := by
  unfold Out.finish
  rw [hw]
  exact if_pos hpark

/-- An effect that sends no lane elsewhere moves the entry past the instruction. -/
theorem Out.finish_advance (o : Out) (c slot idx len : Nat) (e : Entry) (hw : (o.s.warp c slot).entry idx = some e)
    (hgo : o.go = []) (hpark : o.park = 0#32) (hex : o.exits = 0#32) (hr : e.replay = 0#32) (hm : e.mask ≠ 0#32) :
    o.finish c slot idx len = o.s.setWarp c slot ((o.s.warp c slot).replaceEntry idx
      [{ pc := BitVec.ofNat 57 (e.pc.toNat + len),
         prio := BitVec.ofNat 8 (o.s.prioAt (o.s.groupOf c slot).ctx e.pc.toNat (e.pc.toNat + len) e.prio).toNat,
         mask := e.mask, fresh := true, yielded := e.yielded }]) := by
  rw [Out.finish_stays o c slot idx len e hw hpark]
  have hp : o.parts (o.s.groupOf c slot).ctx e len =
      [{ pc := e.pc.toNat + len, prio := (o.s.prioAt (o.s.groupOf c slot).ctx e.pc.toNat (e.pc.toNat + len) e.prio).toNat, mask := e.mask }] := by
    unfold Out.parts
    simp only [hex, hpark]
    have : (e.mask &&& ~~~0#32 &&& ~~~0#32) = e.mask := by
      rw [show (~~~0#32) = BitVec.allOnes 32 from rfl, BitVec.and_allOnes, BitVec.and_allOnes]
    rw [this, partsOf_one (e.pc.toNat + len) _ e.mask hm]
    · rfl
    · intro l _
      simp [hgo, SMap.get, hr]
  rw [hp]
  rfl

/-! ### Splits (R18) -/

/-- The parts of a split hold every lane at the address that it goes to. -/
theorem partsOf_covers (f : Nat → Nat) (ls : List Nat) (hls : ∀ l ∈ ls, l < 32) (ps : List SplitPart) :
    (∀ l ∈ ls, ∃ p ∈ partsOf f ls ps, p.pc = f l ∧ p.mask.getLsbD l = true) ∧
      (∀ q ∈ ps, ∃ p ∈ partsOf f ls ps, p.pc = q.pc ∧ ∀ k, q.mask.getLsbD k = true → p.mask.getLsbD k = true) := by
  induction ls generalizing ps with
  | nil => exact ⟨fun l h => absurd h (by simp), fun q hq => ⟨q, hq, rfl, fun _ h => h⟩⟩
  | cons a t ih =>
    have ha : a < 32 := hls a List.mem_cons_self
    have add : ∀ (ps : List SplitPart), (∃ p ∈ addPart (f a) a ps, p.pc = f a ∧ p.mask.getLsbD a = true) ∧
        (∀ q ∈ ps, ∃ p ∈ addPart (f a) a ps, p.pc = q.pc ∧ ∀ k, q.mask.getLsbD k = true → p.mask.getLsbD k = true) := by
      intro ps
      induction ps with
      | nil => exact ⟨⟨_, List.mem_singleton.mpr rfl, rfl, by simp [ha]⟩, fun q hq => absurd hq (by simp)⟩
      | cons p ps ihp =>
        simp only [addPart]
        split
        · refine ⟨⟨_, List.mem_cons_self, ‹_›, by simp [ha]⟩, fun q hq => ?_⟩
          rcases List.mem_cons.mp hq with rfl | hq
          · exact ⟨_, List.mem_cons_self, rfl, fun k hk => by simp [hk]⟩
          · exact ⟨q, List.mem_cons_of_mem _ hq, rfl, fun _ h => h⟩
        · refine ⟨?_, fun q hq => ?_⟩
          · obtain ⟨p', h1, h2⟩ := ihp.1
            exact ⟨p', List.mem_cons_of_mem _ h1, h2⟩
          · rcases List.mem_cons.mp hq with rfl | hq
            · exact ⟨_, List.mem_cons_self, rfl, fun _ h => h⟩
            · obtain ⟨p', h1, h2⟩ := ihp.2 q hq
              exact ⟨p', List.mem_cons_of_mem _ h1, h2⟩
    obtain ⟨h1, h2⟩ := ih (fun l h => hls l (List.mem_cons_of_mem _ h)) (addPart (f a) a ps)
    obtain ⟨a1, a2⟩ := add ps
    refine ⟨fun l hl => ?_, fun q hq => ?_⟩
    · rcases List.mem_cons.mp hl with rfl | hl
      · obtain ⟨p, hp, hpc, hm⟩ := a1
        obtain ⟨r, hr, hrc, hrm⟩ := h2 p hp
        exact ⟨r, hr, by rw [hrc, hpc], hrm _ hm⟩
      · exact h1 l hl
    · obtain ⟨p, hp, hpc, hm⟩ := a2 q hq
      obtain ⟨r, hr, hrc, hrm⟩ := h2 p hp
      exact ⟨r, hr, by rw [hrc, hpc], fun k hk => hrm k (hm k hk)⟩

/-- A split has at most as many parts as its lanes have addresses. -/
theorem partsOf_length (f : Nat → Nat) (ls : List Nat) (ts : List Nat) (ps : List SplitPart) (hts : ∀ l ∈ ls, f l ∈ ts)
    (hps : ∀ p ∈ ps, p.pc ∈ ts) (hd : (ps.map (fun p => p.pc)).Nodup) : (partsOf f ls ps).length ≤ ts.length := by
  have bound : ∀ (ps : List SplitPart), (∀ p ∈ ps, p.pc ∈ ts) → (ps.map (fun p => p.pc)).Nodup → ps.length ≤ ts.length := by
    intro ps h1 h2
    have := (List.subperm_of_subset h2 (fun y hy => by
      obtain ⟨p, hp, rfl⟩ := List.mem_map.mp hy; exact h1 p hp)).length_le
    simpa using this
  have keep : ∀ (a l : Nat) (ps : List SplitPart), (addPart a l ps).map (fun p => p.pc) =
      if a ∈ ps.map (fun p => p.pc) then ps.map (fun p => p.pc) else ps.map (fun p => p.pc) ++ [a] := by
    intro a l ps
    induction ps with
    | nil => simp [addPart]
    | cons p ps ih =>
      simp only [addPart]
      split
      · simp_all
      · rename_i h
        simp only [List.map_cons, ih, List.mem_cons, Ne.symm h, false_or]
        split <;> rfl
  induction ls generalizing ps with
  | nil => exact bound ps hps hd
  | cons a t ih =>
    simp only [partsOf]
    refine ih (addPart (f a) a ps) (fun l h => hts l (List.mem_cons_of_mem _ h)) (fun p hp => ?_) ?_
    · have : p.pc ∈ (addPart (f a) a ps).map (fun p => p.pc) := List.mem_map_of_mem hp
      rw [keep] at this
      split at this
      · obtain ⟨q, hq, hqe⟩ := List.mem_map.mp this; rw [← hqe]; exact hps q hq
      · rcases List.mem_append.mp this with h | h
        · obtain ⟨q, hq, hqe⟩ := List.mem_map.mp h; rw [← hqe]; exact hps q hq
        · rw [List.mem_singleton.mp h]; exact hts a List.mem_cons_self
    · rw [keep]
      split
      · exact hd
      · exact List.nodup_append.mpr ⟨hd, by simp, fun y hy z hz => by
          rw [List.mem_singleton.mp hz]; rintro rfl; exact ‹¬_› hy⟩

/-- Where a lane stands after an effect: at the address that the effect gives it, or past the instruction. -/
def Out.goal (o : Out) (e : Entry) (len l : Nat) : Nat :=
  match SMap.get none o.go l with
  | some pc => pc
  | none => e.pc.toNat + len

/-- An effect that parks no lane changes the issuing warp's frontier only. -/
theorem Out.finish_frontier (o : Out) (c slot idx len : Nat) (e : Entry) (hw : (o.s.warp c slot).entry idx = some e) (hpark : o.park = 0#32) :
    ∃ fr, o.finish c slot idx len = o.s.setWarp c slot { o.s.warp c slot with frontier := fr } := by
  rw [Out.finish_stays o c slot idx len e hw hpark]
  unfold Out.advance
  split
  · exact ⟨_, rfl⟩
  · exact ⟨_, rfl⟩
  · dsimp only
    split
    · exact ⟨_, rfl⟩
    · exact ⟨_, rfl⟩

/-- With slots for every part, each lane that stays stands in a ready entry at its own address (R18). -/
theorem Out.finish_lanes (o : Out) (c slot idx len : Nat) (e : Entry) (hw : (o.s.warp c slot).entry idx = some e) (hpark : o.park = 0#32)
    (hr : e.replay = 0#32) (ts : List Nat) (hts : ∀ l, e.mask.getLsbD l = true → o.exits.getLsbD l = false → o.goal e len l ∈ ts)
    (hroom : (o.s.warp c slot).frontier.length + ts.length ≤ 9) (l : Nat) (hl : e.mask.getLsbD l = true) (hx : o.exits.getLsbD l = false) :
    laneAt ((o.finish c slot idx len).warp c slot) l (o.goal e len l) := by
  have hlt : l < 32 := lt_of_mem_lanes ((mem_lanes _ _).mpr hl)
  have hidx := Warp.lt_of_entry hw
  have hrest : ∀ k, k ∈ lanes (e.mask &&& ~~~o.exits &&& ~~~o.park) ↔ (e.mask.getLsbD k = true ∧ o.exits.getLsbD k = false) := by
    intro k
    rw [mem_lanes, hpark]
    by_cases hk : k < 32
    · simp only [BitVec.getLsbD_and, BitVec.getLsbD_not, hk, decide_true, BitVec.getLsbD_zero, Bool.not_false, Bool.and_true, Bool.true_and,
        Bool.and_eq_true, Bool.not_eq_true']
    · rw [BitVec.getLsbD_of_ge _ _ (by omega), BitVec.getLsbD_of_ge e.mask _ (by omega)]; simp
  have hparts : ∃ g : SplitPart → SplitPart, (∀ p, (g p).pc = p.pc ∧ (g p).mask = p.mask) ∧
      o.parts (o.s.groupOf c slot).ctx e len = (partsOf (o.goal e len) (lanes (e.mask &&& ~~~o.exits &&& ~~~o.park)) []).map g :=
    ⟨fun p => { p with prio := (o.s.prioAt (o.s.groupOf c slot).ctx e.pc.toNat p.pc e.prio).toNat }, fun p => ⟨rfl, rfl⟩, by
      unfold Out.parts
      simp only
      congr 2
      funext k
      unfold Out.goal
      cases SMap.get none o.go k <;> simp [hr]⟩
  obtain ⟨g, hg, hparts⟩ := hparts
  have hcov := (partsOf_covers (o.goal e len) (lanes (e.mask &&& ~~~o.exits &&& ~~~o.park)) (fun k hk => lt_of_mem_lanes hk) []).1 l
    ((hrest l).mpr ⟨hl, hx⟩)
  have hlen := partsOf_length (o.goal e len) (lanes (e.mask &&& ~~~o.exits &&& ~~~o.park)) ts []
    (fun k hk => hts k ((hrest k).mp hk).1 ((hrest k).mp hk).2) (by simp) (by simp)
  obtain ⟨p, hp, hpc, hpm⟩ := hcov
  have hp' : g p ∈ o.parts (o.s.groupOf c slot).ctx e len := by rw [hparts]; exact List.mem_map_of_mem hp
  have hlen' : (o.parts (o.s.groupOf c slot).ctx e len).length ≤ ts.length := by rw [hparts, List.length_map]; exact hlen
  have mem_new : ∀ (w : Warp) (es : List Entry) (y : Entry), y ∈ es → y ∈ (w.replaceEntry idx es).frontier := by
    intro w es y hy
    simp only [Warp.replaceEntry, List.mem_append]
    exact .inl (.inr hy)
  rw [Out.finish_stays o c slot idx len e hw hpark]
  unfold Out.advance
  generalize o.parts (o.s.groupOf c slot).ctx e len = ps at hp' hlen'
  match ps, hp', hlen' with
  | [], hp', _ => exact absurd hp' (by simp)
  | [q], hp', _ =>
    rw [List.mem_singleton] at hp'
    subst hp'
    simp only [State.setWarp_warp_self]
    refine ⟨(g p).entryOf e, mem_new _ _ _ (List.mem_singleton.mpr rfl), ?_, ?_, rfl⟩
    · simpa [SplitPart.entryOf, SplitPart.toEntry, (hg p).2] using hpm
    · simp [SplitPart.entryOf, SplitPart.toEntry, (hg p).1, hpc]
  | q :: r :: ps, hp', hlen' =>
    have : (o.s.warp c slot).frontier.length - 1 + (q :: r :: ps).length ≤ 8 := by omega
    simp only [if_pos this, State.setWarp_warp_self]
    refine ⟨(g p).entryOf e, mem_new _ _ _ (List.mem_map_of_mem (f := fun q => q.entryOf e) hp'), ?_, ?_, rfl⟩
    · simpa [SplitPart.entryOf, SplitPart.toEntry, (hg p).2] using hpm
    · simp [SplitPart.entryOf, SplitPart.toEntry, (hg p).1, hpc]

/-- A finished plain effect on the warp, from an issued instruction: the state differs from the one before in the issuing warp only. -/
theorem finish_plain {i : Instr} {s : State} {x : Iss} (h : Executes i s x) (w' : Warp)
    (hf : w'.frontier = (warpOf x (x.note s)).frontier) (w0 : Warp) :
    ∃ w2, (Res.done { s := x.heal (x.withWarp (x.note s) w') }).finish x w0 = s.setWarp x.core x.slot w2 ∧
      w2 = { w' with frontier := w2.frontier } ∧ advanced x (s.setWarp x.core x.slot w2) := by
  obtain ⟨hi, _, _, _, _, he⟩ := issOf_eq h.holds
  have hlt := Warp.lt_of_entry he
  have hecc : (x.withWarp (x.note s) w').ecc = [] := by
    unfold Iss.withWarp Iss.note; simpa using h.clean
  rw [Iss.heal_clean x _ hecc]
  have hs : x.withWarp (x.note s) w' = s.setWarp x.core x.slot w' := by
    unfold Iss.withWarp Iss.note; rw [State.setWarp_setWarp]
  rw [hs]
  have hen : w'.entry x.idx = some { x.e with age := 0, state := .ready, cause := none, fresh := true } := by
    have h2 := Warp.noteIssue_entry (s.warp x.core x.slot) x.idx x.e (s.core x.core).clock.toNat (issueCycles x.i) hlt
    unfold Warp.entry at h2 ⊢
    rw [hf, Iss.note_warp]
    exact h2
  have hfin := Out.finish_advance { s := s.setWarp x.core x.slot w' } x.core x.slot x.idx x.len
    { x.e with age := 0, state := .ready, cause := none, fresh := true }
    (by simp only [State.setWarp_warp_self]; exact hen) rfl rfl rfl h.plain h.lanes
  simp only [Res.finish]
  rw [hfin]
  simp only [State.setWarp_setWarp, State.setWarp_warp_self]
  refine ⟨_, rfl, Warp.replaceEntry_eq _ _ _, ?_⟩
  unfold advanced entryAt warpOf
  rw [State.setWarp_warp_self]
  refine ⟨_, Warp.entry_replaceEntry_one _ _ _ (Warp.lt_of_entry hen), rfl, rfl, rfl, rfl, rfl⟩

/-! ### Register-only instructions -/

/-- The participating lanes are the same before and after the issue. -/
theorem Iss.part_note (x : Iss) (s : State) : x.part (warpOf x (x.note s)) = x.part (s.warp x.core x.slot) := by
  have h := Warp.noteIssue_same (s.warp x.core x.slot) x.idx x.e (s.core x.core).clock.toNat (issueCycles x.i)
  rw [Iss.note_warp]
  unfold sameButIssue at h
  rw [h]
  rfl

theorem Iss.get_note (x : Iss) (s : State) (r : RegRef) (l : Nat) : (warpOf x (x.note s)).get r l = (s.warp x.core x.slot).get r l := by
  have h := Warp.noteIssue_same (s.warp x.core x.slot) x.idx x.e (s.core x.core).clock.toNat (issueCycles x.i)
  rw [Iss.note_warp]
  unfold sameButIssue at h
  rw [h]
  cases r <;> rfl

/-- A register-only instruction that executes: the state changes in the issuing warp alone, and there in its registers as `writeLanes` says. -/
theorem runCore_laneOp {i : Instr} {s : State} {x : Iss} (h : Executes i s x) (n : Nat) (val : Iss → Warp → Nat → Nat) :
    ∃ w2, runCore i (laneOp n val) s = .next (s.setWarp x.core x.slot w2) ∧ sameButRegs (s.warp x.core x.slot) w2 ∧
      advanced x (s.setWarp x.core x.slot w2) ∧
      ∀ r l, w2.get r l = ((warpOf x (x.note s)).writeLanes x.rd n (val x (warpOf x (x.note s))) (x.exec (warpOf x (x.note s)))).get r l := by
  rw [runCore_executes h]
  simp only [laneOp]
  change ∃ w2, Host.Outcome.next ((Res.done { s := x.heal (x.withWarp (x.note s)
    ((warpOf x (x.note s)).writeLanes x.rd n (val x (warpOf x (x.note s))) (x.exec (warpOf x (x.note s))))) }).finish x (warpOf x s)) = _ ∧ _
  obtain ⟨w2, h1, h2, h3⟩ := finish_plain h ((warpOf x (x.note s)).writeLanes x.rd n (val x (warpOf x (x.note s))) (x.exec (warpOf x (x.note s))))
    (by rw [Warp.writeLanes_eq]) (warpOf x s)
  refine ⟨w2, by rw [h1], ?_, h3, fun r l => ?_⟩
  · have hs := Warp.noteIssue_same (s.warp x.core x.slot) x.idx x.e (s.core x.core).clock.toNat (issueCycles x.i)
    unfold sameButIssue at hs
    unfold sameButRegs
    rw [h2, Warp.writeLanes_eq, Iss.note_warp, hs]
  · rw [h2]; cases r <;> rfl

/-- An instruction that writes a predicate and executes. -/
theorem runCore_predOp {i : Instr} {s : State} {x : Iss} (h : Executes i s x) (val : Iss → Warp → Nat → Bool) :
    ∃ w2, runCore i (predOp val) s = .next (s.setWarp x.core x.slot w2) ∧ sameButPreds (s.warp x.core x.slot) w2 ∧
      advanced x (s.setWarp x.core x.slot w2) ∧
      ∀ q l, w2.pred q l = ((warpOf x (x.note s)).putPred x.f.rd.toNat (x.part (warpOf x (x.note s)))
        (filterMask (x.part (warpOf x (x.note s))) (val x (warpOf x (x.note s))))).pred q l := by
  rw [runCore_executes h]
  simp only [predOp]
  change ∃ w2, Host.Outcome.next ((Res.done { s := x.heal (x.withWarp (x.note s) ((warpOf x (x.note s)).putPred x.f.rd.toNat (x.part (warpOf x (x.note s)))
    (filterMask (x.part (warpOf x (x.note s))) (val x (warpOf x (x.note s)))))) }).finish x (warpOf x s)) = _ ∧ _
  obtain ⟨w2, h1, h2, h3⟩ := finish_plain h ((warpOf x (x.note s)).putPred x.f.rd.toNat (x.part (warpOf x (x.note s)))
    (filterMask (x.part (warpOf x (x.note s))) (val x (warpOf x (x.note s))))) (by rw [Warp.putPred_eq]) (warpOf x s)
  refine ⟨w2, by rw [h1], ?_, h3, fun q l => by rw [h2]; rfl⟩
  have hs := Warp.noteIssue_same (s.warp x.core x.slot) x.idx x.e (s.core x.core).clock.toNat (issueCycles x.i)
  unfold sameButIssue at hs
  unfold sameButPreds
  rw [h2, Warp.putPred_eq, Iss.note_warp, hs]

/-! ### Effects that complete -/

/-- An effect that is done: the state after it. -/
theorem runCore_done {i : Instr} {s : State} {x : Iss} (h : Executes i s x) (eff : Iss → State → Res) (o : Out) (he : eff x (x.note s) = .done o) :
    runCore i eff s = .next (after x o) := by
  rw [runCore_executes h, he]
  rfl

/-- An effect that leaves the entry as it made it. -/
theorem runCore_stall {i : Instr} {s : State} {x : Iss} (h : Executes i s x) (eff : Iss → State → Res) (t : State) (he : eff x (x.note s) = .stall t) :
    runCore i eff s = .next (x.retry (warpOf x s) t) := by
  rw [runCore_executes h, he]
  rfl

/-- An effect that traps with nothing done before. -/
theorem runCore_trap {i : Instr} {s : State} {x : Iss} (h : Executes i s x) (eff : Iss → State → Res) (cause : Nat) (m : LaneMask) (info : FaultInfo)
    (mem : Bool) (he : eff x (x.note s) = x.trap (x.note s) cause m info mem) :
    runCore i eff s = .next ((x.note s).raise x.core x.slot x.idx (x.trapReq cause m info) mem) := by
  rw [runCore_executes h, he]
  rfl

theorem Iss.openPart_note (x : Iss) (s : State) : x.openPart (warpOf x (x.note s)) = x.openPart (warpOf x s) := by
  unfold Iss.openPart
  rw [Iss.part_note]
  congr 1
  funext l
  rw [Iss.note_warp, Warp.noteIssue_isOpen]
  rfl

/-- The frame of R154 in lanes of no transaction, with a participating lane. -/
theorem Iss.closed_eq (x : Iss) (s : State) (eff : LaneMask → State → Res) (hc : closedLanes x s) (hp : x.part (warpOf x s) ≠ 0#32) :
    x.closed (x.note s) eff = (eff (x.part (warpOf x s)) (x.note s)).join x [] := by
  have ho : x.openPart ((x.note s).warp x.core x.slot) = 0#32 := by
    have := Iss.openPart_note x s; unfold closedLanes at hc; rw [hc] at this; exact this
  have hpn : x.part ((x.note s).warp x.core x.slot) = x.part (warpOf x s) := Iss.part_note x s
  unfold Iss.closed
  simp only [ho, hpn, Iss.abortOpen, if_true]
  rw [show x.part (warpOf x s) &&& ~~~0#32 = x.part (warpOf x s) by
    rw [show (~~~0#32) = BitVec.allOnes 32 from rfl, BitVec.and_allOnes], if_neg hp]

/-- The same without a participating lane. -/
theorem Iss.closed_none (x : Iss) (s : State) (eff : LaneMask → State → Res) (hp : x.part (warpOf x s) = 0#32) :
    x.closed (x.note s) eff = .done { s := x.note s } := by
  have hpn : x.part ((x.note s).warp x.core x.slot) = 0#32 := by rw [← hp]; exact Iss.part_note x s
  have ho : x.openPart ((x.note s).warp x.core x.slot) = 0#32 := by
    unfold Iss.openPart filterMask; rw [hpn]; rfl
  unfold Iss.closed
  simp only [ho, hpn, Iss.abortOpen, if_true]
  rfl

/-- A done effect in that frame. -/
theorem Iss.closed_done (x : Iss) (s u : State) (eff : LaneMask → State → Res) (hc : closedLanes x s) (hp : x.part (warpOf x s) ≠ 0#32)
    (he : eff (x.part (warpOf x s)) (x.note s) = .done { s := u }) : x.closed (x.note s) eff = .done { s := u } := by
  rw [Iss.closed_eq x s eff hc hp, he]; rfl

/-- A whole-warp instruction's entry holds a participating lane. -/
theorem executes_part_ne {i : Instr} {s : State} {x : Iss} (h : Executes i s x) (hg : x.f.guard = 15#4) (hn : x.f.negate = false) :
    x.part (warpOf x s) = x.e.mask ∧ x.part (warpOf x s) ≠ 0#32 := by
  have : x.part (warpOf x s) = x.e.mask := by
    unfold Iss.part Iss.act Iss.guard Warp.predMask
    rw [if_pos h.plain, hg, hn]
    simp
    exact BitVec.and_allOnes
  exact ⟨this, by rw [this]; exact h.lanes⟩

/-- The frame of per-lane addresses in lanes of no transaction whose accesses pass every check. -/
theorem Iss.memory_eq (x : Iss) (s t : State) (un : Bool) (check : Warp → State → Nat → Reach × State) (oks : List LaneAt) (eff : List LaneAt → State → Res)
    (hc : closedLanes x s) (hr : reaches x s check oks t) :
    x.memory (x.note s) un check eff = (match eff oks t with
      | .done o => .done { o with go := sortGo o.go, park := 0#32 ||| o.park, info := o.info }
      | .trap o tr mem => .trap { o with go := sortGo o.go, park := 0#32 ||| o.park, info := o.info } tr mem
      | .wait o cause => .wait { o with go := sortGo o.go, park := 0#32 ||| o.park, info := o.info } cause
      | .stall u => .stall u
      | .placed u => .placed u) := by
  obtain ⟨rs, h1, h2, h3, h4⟩ := hr
  have ho : x.openPart ((x.note s).warp x.core x.slot) = 0#32 := by
    have := Iss.openPart_note x s; unfold closedLanes at hc; rw [hc] at this; exact this
  have hz : ∀ m : LaneMask, m &&& ~~~0#32 = m := fun m => by rw [show (~~~0#32) = BitVec.allOnes 32 from rfl, BitVec.and_allOnes]
  have hin : ∀ (ls : List Nat) (u : State), ∀ r ∈ (u.reachLanes (check (warpOf x (x.note s))) ls).1, r.1 ∈ ls := by
    intro ls
    induction ls with
    | nil => intro u r hr; simp [State.reachLanes] at hr
    | cons a b ih =>
      intro u r hr
      simp only [State.reachLanes] at hr
      rcases List.mem_cons.mp hr with rfl | hr
      · exact List.mem_cons_self
      · exact List.mem_cons_of_mem _ (ih _ r hr)
  have hclosed : ∀ a ∈ oks, (warpOf x (x.note s)).isOpen a.lane = false := by
    intro a ha
    rw [← h4] at ha
    obtain ⟨r, hr, hra⟩ := List.mem_filterMap.mp ha
    have hrl := hin (lanes (x.part (warpOf x (x.note s)))) (x.note s) r (by rw [h1]; exact hr)
    have hal : a.lane = r.1 := by
      split at hra
      · injection hra with hra; rw [← hra]
      · cases hra
    have hb : (x.openPart (warpOf x (x.note s))).getLsbD r.1 = false := by
      have : x.openPart (warpOf x (x.note s)) = 0#32 := ho
      rw [this]; simp
    unfold Iss.openPart at hb
    rw [getLsbD_filterMask _ _ _ (lt_of_mem_lanes hrl)] at hb
    rw [hal]
    have hm := (mem_lanes _ _).mp hrl
    rw [hm] at hb
    simpa using hb
  have ht : ∀ k, targetAborts x.core (warpOf x (x.note s)) oks k = [] := by
    intro k
    unfold targetAborts
    rw [List.map_eq_nil_iff, List.filter_eq_nil_iff]
    intro a ha
    rw [hclosed a ha]; simp
  unfold Iss.memory
  have hbad : (if un = true then x.openPart ((x.note s).warp x.core x.slot) else 0#32) = 0#32 := by
    split
    · exact ho
    · rfl
  simp only [hbad, Iss.abortOpen, if_true, hz]
  have h1' : (x.note s).reachLanes (check ((x.note s).warp x.core x.slot)) (lanes (x.part ((x.note s).warp x.core x.slot))) = (rs, t) := h1
  have ht' : ∀ k, targetAborts x.core ((x.note s).warp x.core x.slot) oks k = [] := ht
  simp only [h1', h2, h3, h4, ht', List.map_nil, maskOf, if_true, List.append_nil]
  have hf : oks.filter (fun a => !(([] : List Nat).contains a.lane) && !(([] : List Nat).contains a.lane)) = oks := by
    rw [List.filter_eq_self]; intro a _; rfl
  rw [hf]
  have hone : ∀ m : LaneMask, m &&& 4294967295#32 = m := fun m => BitVec.and_allOnes
  cases eff oks t <;> simp [hone]

/-! ### What an issue leaves as it was -/

theorem Warp.getRun_congr (w w' : Warp) (h : ∀ r l, w'.get r l = w.get r l) (r : RegRef) (l n : Nat) : w'.getRun r l n = w.getRun r l n := by
  induction n generalizing r with
  | zero => rfl
  | succ n ih => simp only [Warp.getRun, h, ih]

theorem Warp.emptyLanes_congr (w w' : Warp) (h1 : w'.vEmpty = w.vEmpty) (h2 : w'.sEmpty = w.sEmpty) (r : RegRef) (m : LaneMask) (n : Nat) :
    w'.emptyLanes r m n = w.emptyLanes r m n := by
  induction n generalizing r with
  | zero => rfl
  | succ n ih => simp only [Warp.emptyLanes, h1, h2, ih]

/-- The warp after its issue. -/
theorem Iss.note_eq (x : Iss) (s : State) : warpOf x (x.note s) = { warpOf x s with
    frontier := (warpOf x (x.note s)).frontier, lastIssue := (warpOf x (x.note s)).lastIssue, busy := (warpOf x (x.note s)).busy,
    tx := (warpOf x (x.note s)).tx } := by
  have h := Warp.noteIssue_same (s.warp x.core x.slot) x.idx x.e (s.core x.core).clock.toNat (issueCycles x.i)
  rw [Iss.note_warp]
  exact h

theorem Iss.getRun_note (x : Iss) (s : State) (r : RegRef) (l n : Nat) : (warpOf x (x.note s)).getRun r l n = (warpOf x s).getRun r l n :=
  Warp.getRun_congr _ _ (Iss.get_note x s) r l n

theorem Iss.pair_note (x : Iss) (s : State) (r : RegRef) (l : Nat) : (warpOf x (x.note s)).pair r l = (warpOf x s).pair r l := Iss.getRun_note x s r l 2

theorem Iss.a_note (x : Iss) (s : State) (l : Nat) : x.a (warpOf x (x.note s)) l = x.a (warpOf x s) l := by
  unfold Iss.a; rw [Iss.get_note]; rfl

theorem Iss.b_note (x : Iss) (s : State) (l : Nat) : x.b (warpOf x (x.note s)) l = x.b (warpOf x s) l := by
  unfold Iss.b; rw [Iss.get_note]; rfl

theorem Iss.c_note (x : Iss) (s : State) (l : Nat) : x.c (warpOf x (x.note s)) l = x.c (warpOf x s) l := by
  unfold Iss.c; rw [Iss.get_note]; rfl

theorem Iss.a64_note (x : Iss) (s : State) (l : Nat) : x.a64 (warpOf x (x.note s)) l = x.a64 (warpOf x s) l := Iss.pair_note x s _ l
theorem Iss.b64_note (x : Iss) (s : State) (l : Nat) : x.b64 (warpOf x (x.note s)) l = x.b64 (warpOf x s) l := Iss.pair_note x s _ l
theorem Iss.c64_note (x : Iss) (s : State) (l : Nat) : x.c64 (warpOf x (x.note s)) l = x.c64 (warpOf x s) l := Iss.pair_note x s _ l

theorem Iss.emptyLanes_note (x : Iss) (s : State) (r : RegRef) (m : LaneMask) (n : Nat) :
    (warpOf x (x.note s)).emptyLanes r m n = (warpOf x s).emptyLanes r m n := by
  have h := Iss.note_eq x s
  exact Warp.emptyLanes_congr _ _ (by rw [h]) (by rw [h]) r m n

theorem Iss.pred_note (x : Iss) (s : State) (p l : Nat) : (warpOf x (x.note s)).pred p l = (warpOf x s).pred p l := by rw [Iss.note_eq]; rfl
theorem Iss.group_note (x : Iss) (s : State) : (warpOf x (x.note s)).group = (warpOf x s).group := by rw [Iss.note_eq]
theorem Iss.windex_note (x : Iss) (s : State) : (warpOf x (x.note s)).windex = (warpOf x s).windex := by rw [Iss.note_eq]
theorem Iss.ident_note (x : Iss) (s : State) (l : Nat) : (warpOf x (x.note s)).laneIdent l = (warpOf x s).laneIdent l := by rw [Iss.note_eq]; rfl
theorem Iss.privileged_note (x : Iss) (s : State) : (warpOf x (x.note s)).privileged = (warpOf x s).privileged := by rw [Iss.note_eq]; rfl

theorem Iss.groupOf_note (x : Iss) (s : State) : (x.note s).groupOf x.core x.slot = s.groupOf x.core x.slot := by
  have h := Iss.group_note x s
  rw [Iss.note_warp] at h
  unfold Iss.note
  exact State.setWarp_groupOf _ _ _ _ h

theorem Iss.ctxOf_note (x : Iss) (s : State) : (x.note s).ctxOf x.core x.slot = s.ctxOf x.core x.slot := by
  unfold State.ctxOf; rw [Iss.groupOf_note]

/-- The noted state differs from the one before in the issuing warp alone. -/
theorem Iss.note_setWarp (x : Iss) (s : State) (w : Warp) : (x.note s).setWarp x.core x.slot w = s.setWarp x.core x.slot w := by
  unfold Iss.note; rw [State.setWarp_setWarp]

theorem Iss.entry_note {i : Instr} {s : State} {x : Iss} (h : Executes i s x) :
    (warpOf x (x.note s)).entry x.idx = some { x.e with age := 0, state := .ready, cause := none, fresh := true } := by
  rw [Iss.note_warp]
  exact Warp.noteIssue_entry _ _ _ _ _ (Warp.lt_of_entry (issOf_eq h.holds).2.2.2.2.2)

theorem Iss.length_note {i : Instr} {s : State} {x : Iss} (h : Executes i s x) :
    (warpOf x (x.note s)).frontier.length = (warpOf x s).frontier.length := by
  rw [Iss.note_warp]
  exact Warp.noteIssue_length _ _ _ _ _ (Warp.lt_of_entry (issOf_eq h.holds).2.2.2.2.2)

theorem Iss.isOpen_note (x : Iss) (s : State) (l : Nat) : (warpOf x (x.note s)).isOpen l = (warpOf x s).isOpen l := by
  rw [Iss.note_warp, Warp.noteIssue_isOpen]; rfl

/-- A done effect that changes the issuing warp alone and moves listed lanes, with slots for every part. -/
theorem after_moves {i : Instr} {s : State} {x : Iss} (h : Executes i s x) (w' : Warp) (go : SMap (Option Nat)) (ts : List Nat)
    (hf : w'.frontier = (warpOf x (x.note s)).frontier)
    (hts : ∀ l, x.e.mask.getLsbD l = true → (SMap.get none go l).getD (x.pc + x.len) ∈ ts)
    (hroom : (warpOf x s).frontier.length + ts.length ≤ 9) :
    ∃ w, after x { s := x.withWarp (x.note s) w', go := go } = s.setWarp x.core x.slot w ∧ w = { w' with frontier := w.frontier } ∧
      ∀ l, x.e.mask.getLsbD l = true → laneAt w l ((SMap.get none go l).getD (x.pc + x.len)) := by
  have hecc : (x.withWarp (x.note s) w').ecc = [] := by
    unfold Iss.withWarp Iss.note; simpa using h.clean
  have hs : x.withWarp (x.note s) w' = s.setWarp x.core x.slot w' := Iss.note_setWarp x s w'
  have hen : w'.entry x.idx = some { x.e with age := 0, state := .ready, cause := none, fresh := true } := by
    have := Iss.entry_note h; unfold Warp.entry at this ⊢; rw [hf]; exact this
  unfold after
  simp only [Res.finish]
  rw [Iss.heal_clean x _ hecc, hs]
  have hw : (({ s := s.setWarp x.core x.slot w', go := go } : Out).s.warp x.core x.slot).entry x.idx =
      some { x.e with age := 0, state := .ready, cause := none, fresh := true } := by
    simp only [State.setWarp_warp_self]; exact hen
  have hg : ∀ l, ({ s := s.setWarp x.core x.slot w', go := go } : Out).goal { x.e with age := 0, state := .ready, cause := none, fresh := true } x.len l =
      (SMap.get none go l).getD (x.pc + x.len) := by
    intro l; unfold Out.goal; simp only; cases SMap.get none go l <;> rfl
  obtain ⟨fr, hfr⟩ := Out.finish_frontier { s := s.setWarp x.core x.slot w', go := go } x.core x.slot x.idx x.len _ hw rfl
  have hl := Out.finish_lanes { s := s.setWarp x.core x.slot w', go := go } x.core x.slot x.idx x.len _ hw rfl h.plain ts
    (fun l hl _ => by rw [hg]; exact hts l hl) (by simp only [State.setWarp_warp_self]; rw [hf, Iss.length_note h]; exact hroom)
  refine ⟨{ w' with frontier := fr }, ?_, rfl, fun l hm => ?_⟩
  · rw [hfr]; simp
  · have := hl l hm (by simp)
    rw [hfr, hg] at this
    simpa using this

/-- A done effect that changes the issuing warp alone and moves no lane. -/
theorem after_plain {i : Instr} {s : State} {x : Iss} (h : Executes i s x) (w' : Warp) (hf : w'.frontier = (warpOf x (x.note s)).frontier) :
    ∃ w, after x { s := x.withWarp (x.note s) w' } = s.setWarp x.core x.slot w ∧ w = { w' with frontier := w.frontier } ∧
      advanced x (s.setWarp x.core x.slot w) := finish_plain h w' hf {}

/-- The address to which a transfer sends a lane. -/
theorem get_goEach (f : Nat → Nat) (ls : List Nat) (hs : ls.Pairwise (· < ·)) (l : Nat) :
    SMap.get none (ls.map (fun l => (l, some (f l)))) l = if l ∈ ls then some (f l) else none := by
  induction ls with
  | nil => rfl
  | cons a t ih =>
    obtain ⟨h1, h2⟩ := List.pairwise_cons.mp hs
    simp only [List.map_cons, SMap.get]
    by_cases ha : l < a
    · rw [if_pos ha, if_neg]
      intro hm
      rcases List.mem_cons.mp hm with h | h
      · omega
      · have := h1 l h; omega
    · rw [if_neg ha]
      by_cases hb : l = a
      · rw [if_pos hb, hb, if_pos List.mem_cons_self]
      · rw [if_neg hb, ih h2]
        simp [hb]

/-- A participating lane belongs to the entry. -/
theorem Iss.part_mask (x : Iss) (w : Warp) (hr : x.e.replay = 0#32) (l : Nat) (h : (x.part w).getLsbD l = true) : x.e.mask.getLsbD l = true := by
  unfold Iss.part Iss.act at h
  rw [if_pos hr] at h
  simp at h; exact h.1

/-- Putting the issued warp back changes nothing. -/
theorem Iss.withWarp_self (x : Iss) (s : State) : x.withWarp (x.note s) (warpOf x (x.note s)) = x.note s := by
  unfold Iss.withWarp
  rw [Iss.note_setWarp, Iss.note_warp]; rfl

/-- A warp that is like the issued one but for its frontier is like the one before the issue but for what every issue touches. -/
theorem Iss.same_note (x : Iss) (s : State) (w : Warp) (h : w = { warpOf x (x.note s) with frontier := w.frontier }) : sameButIssue (warpOf x s) w := by
  have hn := Iss.note_eq x s
  unfold sameButIssue
  rw [hn] at h
  rw [h]

/-- The field rules hold of what executes (R203 to R210). -/
theorem executes_fieldsOk {i : Instr} {s : State} {x : Iss} (h : Executes i s x) : fieldsOk x.g x.f = true := by
  obtain ⟨_, _, h1, h2, _, _⟩ := issOf_eq h.holds
  have hw := h.fields
  unfold Instr.wf fieldsLegal at hw
  rw [h1, h2] at hw
  simp only [Bool.and_eq_true] at hw
  exact hw.1

/-- Only the instructions that have a uniform form execute in it (R210). -/
theorem executes_uniform {i : Instr} {s : State} {x : Iss} (h : Executes i s x) (hu : x.g.u = false) : x.f.uf = false := by
  have hf := executes_fieldsOk h
  unfold Machine.fieldsOk at hf
  split at hf
  · cases hf
  · simp only [hu, Bool.or_false, Bool.and_eq_true] at hf
    have := hf.1.1.1.1.1.1.1.1.2
    simpa using this

/-- A warp-level instruction executes unguarded, in every lane of its entry (R203). -/
theorem executes_whole {i : Instr} {s : State} {x : Iss} (h : Executes i s x) (hw : x.g.w = true) :
    x.part (warpOf x s) = x.e.mask ∧ x.part (warpOf x s) ≠ 0#32 := by
  have hf := executes_fieldsOk h
  unfold Machine.fieldsOk at hf
  split at hf
  · cases hf
  · simp only [hw, Bool.not_true, Bool.false_or, Bool.and_eq_true, beq_iff_eq, Bool.not_eq_true'] at hf
    exact executes_part_ne h hf.1.1.1.1.1.1.1.2.1 hf.1.1.1.1.1.1.1.2.2

end Sys2Proof.Machine
end

