-- ==== Sys2Proof/Laws/Effects.lean ====
section
/-! SUPPORT. The laws of shared effects: transfers of control, stores that only queue their bytes, releases that are ready and turns that have come. -/

namespace Sys2Proof.Machine

open Safety

/-! ### Transfers of control (R18, R228) -/

theorem getD_ite (c : Prop) [Decidable c] (a d : Nat) : (if c then some a else none).getD d = if c then a else d := by split <;> rfl

theorem mem_part_note (x : Iss) (s : State) (l : Nat) : l ∈ lanes (x.part (warpOf x (x.note s))) ↔ (x.part (warpOf x s)).getLsbD l = true := by
  rw [mem_lanes, Iss.part_note]; rfl

/-- An effect that sends its participating lanes to their goals changes the frontier of the issuing warp alone, and every lane stands where it
goes. -/
theorem transfer_moves {i : Instr} {s x} (h : Executes i s x) (eff : Iss → State → Res) (goal : Nat → Nat) (ts : List Nat)
    (he : eff x (x.note s) = .done { s := x.note s, go := goEach goal (lanes (x.part (warpOf x (x.note s)))) })
    (hts : ∀ l, x.e.mask.getLsbD l = true → (if (x.part (warpOf x s)).getLsbD l then goal l else x.pc + x.len) ∈ ts)
    (hroom : (warpOf x s).frontier.length + ts.length ≤ 9) :
    ∃ w, runCore i eff s = .next (s.setWarp x.core x.slot w) ∧ sameButIssue (warpOf x s) w ∧
      ∀ l, x.e.mask.getLsbD l = true → laneAt w l (if (x.part (warpOf x s)).getLsbD l then goal l else x.pc + x.len) := by
  have hsort := lanes_sorted (x.part (warpOf x (x.note s)))
  have hgo : ∀ l, (SMap.get none (goEach goal (lanes (x.part (warpOf x (x.note s))))) l).getD (x.pc + x.len) =
    if (x.part (warpOf x s)).getLsbD l then goal l else x.pc + x.len := by
    intro l; unfold goEach; rw [get_goEach _ _ hsort, getD_ite]; simp only [mem_part_note]
  obtain ⟨w, h1, h2, h3⟩ := after_moves h (warpOf x (x.note s)) (goEach goal (lanes (x.part (warpOf x (x.note s))))) ts rfl
    (fun l hl => by rw [hgo]; exact hts l hl) hroom
  rw [Iss.withWarp_self] at h1
  exact ⟨w, by rw [← h1]; exact runCore_done h _ _ he, Iss.same_note x s w h2, fun l hl => by have := h3 l hl; rw [hgo] at this; exact this⟩

/-! ### Stores that release nothing (R134) -/

/-- The data of the lanes is the same before and after the issue. -/
theorem getRun_mod_note (x : Iss) (s : State) (r : RegRef) (g : Nat → Nat) (k : Nat → Nat) :
  (fun l => ((x.note s).warp x.core x.slot).getRun r l (g l) % 2 ^ (8 * k l)) = (fun l => (warpOf x s).getRun r l (g l) % 2 ^ (8 * k l)) := by
  funext l; rw [← Iss.getRun_note]; rfl

/-- A store that releases nothing, as it is queued at a time. -/
def queuedOp (x : Iss) (clock rel n : Nat) (data : Nat → Nat) (a : LaneAt) : StoreOp :=
  { storeOp x.core a.lane a.place a.wti n (data a.lane) a.va x.insn x.len x.pc with issued := clock, rel := rel }

/-- Stores of lanes in no transaction enter the queue of their warp, ascending. -/
theorem storeEach_queue (x : Iss) (rel : Nat) (n : Nat) (data : Nat → Nat) (hrel : rel < 3) (oks : List LaneAt) (t : State)
    (hc : ∀ a ∈ oks, (warpOf x t).isOpen a.lane = false) (ab) :
    t.storeEach x.core x.slot rel x.insn x.len x.pc n data oks ab = (if oks = [] then t else t.setWarp x.core x.slot
      { warpOf x t with storeq := (warpOf x t).storeq ++ oks.map (queuedOp x (t.core x.core).clock.toNat rel n data) }, ab) := by
  induction oks generalizing t with
  | nil => rfl
  | cons a l ih =>
    simp only [State.storeEach]
    have h1 : (t.warp x.core x.slot).isOpen a.lane = false := hc a List.mem_cons_self
    have h3 : ∀ o : StoreOp, ({ o with issued := (t.core x.core).clock.toNat, rel := rel, uncached := o.uncached || decide (3 ≤ rel) } : StoreOp) =
        { o with issued := (t.core x.core).clock.toNat, rel := rel } := by
      intro o; rw [decide_eq_false (by omega), Bool.or_false]
    have hk : ∀ o, ((t.enqueue x.core x.slot o).core x.core).clock = (t.core x.core).clock := by
      intro o; unfold State.enqueue State.setWarp; simp
    simp only [h1, Bool.false_eq_true, if_false]
    rw [ih]
    · rw [h3, hk]
      simp only [State.enqueue]
      by_cases hl : l = []
      · subst hl; simp [warpOf, queuedOp]
      · simp [hl, warpOf, queuedOp, State.setWarp_setWarp]
    · intro b hb
      simp only [State.enqueue, warpOf, State.setWarp_warp_self]
      exact hc b (List.mem_cons_of_mem _ hb)

/-- The same for stores whose sizes differ by lane. -/
theorem foldl_storeEach_queue (x : Iss) (rel : Nat) (size : Nat → Nat) (data : Nat → Nat) (hrel : rel < 3) (oks : List LaneAt) (t : State)
    (hc : ∀ a ∈ oks, (warpOf x t).isOpen a.lane = false) (ab) :
    oks.foldl (fun (r : State × List (Nat × Nat × Nat)) a => r.1.storeEach x.core x.slot rel x.insn x.len x.pc (size a.lane) data [a] r.2) (t, ab) =
      (if oks = [] then t else t.setWarp x.core x.slot { warpOf x t with
        storeq := (warpOf x t).storeq ++ oks.map (fun a => queuedOp x (t.core x.core).clock.toNat rel (size a.lane) data a) }, ab) := by
  induction oks generalizing t with
  | nil => rfl
  | cons a l ih =>
    simp only [List.foldl_cons]
    rw [storeEach_queue x _ _ _ hrel _ _ (by simpa using hc a List.mem_cons_self)]
    simp only [List.cons_ne_nil, if_false]
    rw [ih]
    · have hk : ∀ w, ((t.setWarp x.core x.slot w).core x.core).clock = (t.core x.core).clock := by intro w; unfold State.setWarp; simp
      by_cases hl : l = []
      · subst hl; simp [warpOf]
      · simp [hl, hk, warpOf, State.setWarp_setWarp]
    · intro b hb
      simp only [warpOf, State.setWarp_warp_self]
      exact hc b (List.mem_cons_of_mem _ hb)

/-- An access through a shard map whose run-time operands are full goes on. -/
theorem Iss.mapped_eq (x : Iss) (s : State) (eff : Res) (h1 : x.mapWaits s = false) (h2 : x.mapEmpty s = (0#32, 0#32)) : x.mapped s eff = eff := by
  unfold Iss.mapped; simp [h1, h2]

/-! ### Releases and turns that need not wait (R134, R168, R293) -/

/-- A release that is ready runs the rest of its instruction after its steps. -/
theorem Iss.release_ready (x : Iss) (s : State) (sc : Nat) (m : LaneMask) (k : State → Res) (h : s.releaseReady x.core x.slot sc = true) :
    x.release s sc m k = k (s.releaseSteps x.core x.slot sc) := by
  unfold State.releaseReady at h
  unfold Iss.release
  simp only [Bool.and_eq_true, Bool.not_eq_true', beq_iff_eq] at h
  rw [if_neg (by rw [h.1]; simp), h.2]

/-- A releasing access that may be made now runs its rest, below .rg at once and else after the steps of its release. -/
theorem Iss.releaseAt_ready (x : Iss) (s : State) (rel n : Nat) (oks : List LaneAt) (k : State → Res) (h : mayRelease x s rel n oks) :
    x.releaseAt s rel n oks k = k (if 3 ≤ rel then s.releaseSteps x.core x.slot rel else s) := by
  unfold Iss.releaseAt
  by_cases h3 : 3 ≤ rel
  · rw [if_neg (by rw [(h h3).2]; simp), if_pos h3, if_pos h3, Iss.release_ready x s rel _ k (h h3).1]
  · rw [if_neg (by unfold Iss.relPinned; simp [h3]), if_neg h3, if_neg h3]

/-- A tile command of a tile that no command waits for runs at once where the tile is free for it. -/
theorem Iss.tileTurn_free (x : Iss) (s : State) (m : LaneMask) (t : Nat) (y : EngineWait) (free : Bool) (eff : State → Res)
    (h : (s.groupOf x.core x.slot).tileFirst t = none) (hf : free = true) : x.tileTurn s m t y free eff = eff s := by
  have hnone : (s.group x.core (s.warp x.core x.slot).group).tileFirst t = none := h
  have hany : (s.group x.core (s.warp x.core x.slot).group).tileOrder.any (x.ownTileOp (s.warp x.core x.slot) m t) = false := by
    unfold Group.tileFirst at hnone
    rw [List.find?_eq_none] at hnone
    rw [List.any_eq_false]
    intro o ho hm
    have := hnone o ho
    simp only [Iss.ownTileOp, Bool.and_eq_true] at hm
    exact this hm.1.1.1
  unfold Iss.tileTurn
  simp only [hf, hnone, Option.all_none, Bool.and_self, if_true, hany, Bool.false_eq_true, if_false]

/-- An engine command whose pending release, if any, is ready runs from the state after it. -/
theorem Iss.command_free (x : Iss) (s : State) (eff : LaneMask → State → Res) (hc : closedLanes x s) (hp : x.part (warpOf x s) ≠ 0#32)
    (hf : commandFree x s) : x.command (x.note s) eff = (eff (x.part (warpOf x s)) (commandState x s)).join x [] := by
  unfold Iss.command
  rw [Iss.closed_eq x s _ hc hp]
  unfold commandFree at hf
  unfold commandState
  change Res.join (match (warpOf x (x.note s)).rel with | none => _ | some sc => _) x [] = _
  cases hr : (warpOf x (x.note s)).rel with
  | none => rfl
  | some sc => simp only; rw [Iss.release_ready x _ sc _ _ (hf sc hr)]

end Sys2Proof.Machine
end

