-- ==== Sys2Proof/Laws/Memory.lean ====
section
/-! SUPPORT. The laws of memory: what a read gives after a write, and that every operation that writes memory keeps its canonical form. -/

namespace Sys2Proof.Machine

open Safety

/-! ### Bytes -/

/-- A read of one byte after a write of one byte. -/
theorem readByte_writeByte (m : List Host.Cell) (k : Nat) (b : Byte) (j : Nat) :
    readByte (writeByte m k b) j = if j = k then b else readByte m j := SMap.get_set unlisted m k b j

theorem writeByte_wf {m : List Host.Cell} (h : Memory.wf m) (k : Nat) (b : Byte) : Memory.wf (writeByte m k b) := SMap.wf_set unlisted m k b h

/-- A write of `n` bytes: each written byte holds its part of the value, every other byte is as before. -/
theorem readByte_writeBytes (m : List Host.Cell) (k n x j : Nat) :
    readByte (writeBytes m k n x) j = if k ≤ j ∧ j < k + n then BitVec.ofNat 8 (x / 256 ^ (j - k)) else readByte m j := by
  induction n generalizing m k x with
  | zero => rw [if_neg (by omega)]; rfl
  | succ n ih =>
    simp only [writeBytes, ih, readByte_writeByte]
    by_cases h1 : k + 1 ≤ j ∧ j < k + 1 + n
    · rw [if_pos h1, if_pos (by omega), Nat.div_div_eq_div_mul]
      have : j - k = j - (k + 1) + 1 := by omega
      rw [this, Nat.pow_succ, Nat.mul_comm]
    · rw [if_neg h1]
      by_cases h2 : j = k
      · subst h2; rw [if_pos rfl, if_pos (by omega)]; simp
      · rw [if_neg h2, if_neg (by omega)]

theorem writeBytes_wf {m : List Host.Cell} (h : Memory.wf m) (k n x : Nat) : Memory.wf (writeBytes m k n x) := by
  induction n generalizing m k x with
  | zero => exact h
  | succ n ih => exact ih (writeByte_wf h _ _) _ _

theorem writeMasked_wf {m : List Host.Cell} (h : Memory.wf m) (k n mask x : Nat) : Memory.wf (writeMasked m k n mask x) := by
  induction n generalizing m k mask x with
  | zero => exact h
  | succ n ih =>
    refine ih ?_ _ _ _
    split
    · exact writeByte_wf h _ _
    · exact h

/-- A byte outside the written range is as before, whatever the mask. -/
theorem readByte_writeMasked_outside (m : List Host.Cell) (k n mask x j : Nat) (h : j < k ∨ k + n ≤ j) :
    readByte (writeMasked m k n mask x) j = readByte m j := by
  induction n generalizing m k mask x with
  | zero => rfl
  | succ n ih =>
    simp only [writeMasked]
    rw [ih _ _ _ _ (by omega)]
    split
    · rw [readByte_writeByte, if_neg (by omega)]
    · rfl

/-! ### Lists of writes -/

/-- A fold of writes keeps the form, if each of them does. -/
theorem foldl_keeps {α β : Type} (P : α → Prop) (f : α → β → α) (hf : ∀ a b, P a → P (f a b)) (a : α) (bs : List β) (h : P a) : P (bs.foldl f a) := by
  induction bs generalizing a with
  | nil => exact h
  | cons b t ih => exact ih _ (hf _ _ h)

theorem movePage_wf {m : List Host.Cell} (h : Memory.wf m) (i j n : Nat) : Memory.wf (movePage m i j n) :=
  foldl_keeps Memory.wf _ (fun _ _ hm => writeByte_wf hm _ _) _ _ (SMap.wf_filter unlisted _ m h)

theorem mergePartial_wf {m : List Host.Cell} (h : Memory.wf m) (p : Nat × Nat × Nat × Nat × Nat) : Memory.wf (mergePartial m p) :=
  writeBytes_wf h _ _ _

theorem mergeSector_wf {m : List Host.Cell} (h : Memory.wf m) (base : Nat) (x : Sector) : Memory.wf (mergeSector m base x) := by
  unfold mergeSector
  split
  · exact h
  · exact writeMasked_wf h _ _ _ _

theorem writeBackLine_wf {m : List Host.Cell} (h : Memory.wf m) (pins : Nat → BitVec 256) (l : Line) (n : Nat) : Memory.wf (writeBackLine pins m l n).1 := by
  induction n generalizing m l with
  | zero => exact h
  | succ n ih =>
    simp only [writeBackLine]
    split
    · exact ih h _
    · exact ih (mergeSector_wf h _ _) _

theorem writeBackLines_wf {m : List Host.Cell} (h : Memory.wf m) (pins : Nat → BitVec 256) (ls : List Line) : Memory.wf (writeBackLines pins m ls).1 := by
  induction ls generalizing m with
  | nil => exact h
  | cons l t ih => exact ih (m := (writeBackLine pins m l 4).1) (writeBackLine_wf h pins l 4)

theorem orEntries_wf {m : List Host.Cell} (h : Memory.wf m) (i ea bits n : Nat) : Memory.wf (orEntries m i ea bits n) := by
  induction n generalizing m with
  | zero => exact h
  | succ n ih => exact ih (writeBytes_wf h _ _ _)

/-! ### The operations on the state that write memory -/

/-- A state with the same memory keeps the form. -/
theorem canonical_of_mem {s t : State} (h : memoryCanonical s) (hm : t.mem = s.mem) : memoryCanonical t := by
  unfold memoryCanonical; rw [hm]; exact h

theorem reset_canonical : memoryCanonical State.reset := by
  unfold memoryCanonical; rfl

theorem mergeWhere_canonical {s : State} (h : memoryCanonical s) (n : Nat) (pick : Nat × Nat × Nat × Nat × Nat → Bool) :
    memoryCanonical (s.mergeWhere n pick) := by
  unfold State.mergeWhere
  simp only
  split
  · exact h
  · exact foldl_keeps Memory.wf _ (fun _ p hm => mergePartial_wf hm p) _ _ h

theorem recall_canonical {s : State} (h : memoryCanonical s) (r : Option Nat) (p : Place) : memoryCanonical (s.recall r p) := by
  unfold State.recall
  split
  · rename_i pa
    have hm := mergeWhere_canonical h (sliceOf pa) (fun p => p.2.1 / 1024 == pa / 1024)
    simp only
    split
    · split
      · exact hm
      · split
        · exact writeBackLine_wf hm _ _ 4
        · exact hm
    · exact hm
  · exact h

theorem recallRange_canonical {s : State} (h : memoryCanonical s) (r : Option Nat) (p : Place) (n : Nat) : memoryCanonical (s.recallRange r p n) :=
  foldl_keeps memoryCanonical _ (fun _ _ hs => recall_canonical hs _ _) _ _ h

theorem recallLines_canonical {s : State} (h : memoryCanonical s) (c : Nat) (ls : List Line) : memoryCanonical (s.recallLines c ls) := by
  induction ls generalizing s with
  | nil => exact h
  | cons l t ih =>
    refine ih ?_
    split
    · exact recall_canonical h _ _
    · exact h

theorem homeRead_canonical {s : State} (h : memoryCanonical s) (r : Option Nat) (p : Place) (n : Nat) : memoryCanonical (s.homeRead r p n).2 :=
  recallRange_canonical h r p n

theorem setSavedState_canonical {s : State} (h : memoryCanonical s) (c n st : Nat) : memoryCanonical (s.setSavedState c n st) := by
  unfold State.setSavedState
  simp only
  split
  · exact h
  · split
    · exact writeByte_wf h _ _
    · exact h

theorem notify_canonical {s : State} (h : memoryCanonical s) (w : Option (Nat × Nat)) (p : Place) (n : Nat) : memoryCanonical (s.notify w p n) := by
  have hw : memoryCanonical (if s.cores.any (fun k => !k.2.saved.isEmpty) then s.wakeSaved (Warp.satisfied s p n) else s) := by
    split
    · exact foldl_keeps memoryCanonical _ (fun _ _ hs => setSavedState_canonical hs _ _ _) _ _ h
    · exact h
  unfold State.notify
  simp only
  generalize (if s.cores.any (fun k => !k.2.saved.isEmpty) then s.wakeSaved (Warp.satisfied s p n) else s) = u at hw ⊢
  split
  · exact hw
  · exact hw

theorem eccWrite_mem (s : State) (k n mask : Nat) : (s.eccWrite k n mask).mem = s.mem := by
  unfold State.eccWrite
  split <;> rfl

theorem homeWrite_canonical {s : State} (h : memoryCanonical s) (w : Option (Nat × Nat)) (p : Place) (n mask x : Nat) :
    memoryCanonical (s.homeWrite w p n mask x) := by
  unfold State.homeWrite
  split
  · exact notify_canonical (canonical_of_mem h (by rw [eccWrite_mem]; rfl)) _ _ _
  · refine notify_canonical (s := State.eccWrite _ _ _ _) ?_ _ _ _
    unfold memoryCanonical
    rw [eccWrite_mem]
    exact writeMasked_wf (recallRange_canonical h _ _ _) _ _ _ _

theorem writeBackSector_canonical {s : State} (h : memoryCanonical s) (c pa : Nat) : memoryCanonical (s.writeBackSector c pa) := by
  unfold State.writeBackSector
  simp only
  split
  · exact h
  · refine notify_canonical ?_ _ _ _
    exact mergeSector_wf (recall_canonical h (some c) (.dom pa)) _ _

theorem makeRoom_canonical {s t : State} (h : memoryCanonical s) (c line : Nat) (ht : s.makeRoom c line = some t) : memoryCanonical t := by
  unfold State.makeRoom at ht
  simp only at ht
  split at ht
  · injection ht with ht; exact ht ▸ h
  · split at ht
    · injection ht with ht; exact ht ▸ h
    · split at ht
      · cases ht
      · rename_i l _
        injection ht with ht
        have hb := writeBackLine_wf (recallLines_canonical h c [l]) (s.recallLines c [l]).pinMask l 4
        subst ht
        split
        · refine notify_canonical ?_ _ _ _
          exact hb
        · exact hb

theorem l1Store_canonical {s : State} (h : memoryCanonical s) (c slot pa n v : Nat) : memoryCanonical (s.l1Store c slot pa n v) := by
  unfold State.l1Store
  split
  · exact homeWrite_canonical h _ _ _ _ _
  · have hr := makeRoom_canonical h c (pa / 1024) ‹_›
    exact hr

theorem syncLine_canonical {s : State} (h : memoryCanonical s) (c : Nat) (p : Place) : memoryCanonical (s.syncLine c p) := by
  unfold State.syncLine
  split
  · split
    · split
      · rename_i l _ _
        refine notify_canonical ?_ _ _ _
        exact writeBackLine_wf (recallLines_canonical h c [l]) _ l 4
      · exact h
    · exact h
  · exact h

theorem homeStore_canonical {s : State} (h : memoryCanonical s) (c slot : Nat) (p : Place) (n v : Nat) :
    memoryCanonical (s.homeStore c slot p n v) := by
  have hw := homeWrite_canonical (syncLine_canonical h c p) (some (c, slot)) p n (fullMask n) v
  unfold State.homeStore
  simp only
  split
  · exact hw
  · exact hw

/-- The write of one word of a core's own dirty bytes to its home. -/
theorem writeBackWord_canonical {s : State} (h : memoryCanonical s) (c wa : Nat) : memoryCanonical (s.writeBackWord c wa) := by
  unfold State.writeBackWord
  simp only
  split
  · exact h
  · exact homeWrite_canonical h _ _ _ _ _

/-- The fill of a mapped sector reads memory and writes the stash. -/
theorem takeSector_canonical {s : State} (h : memoryCanonical s) (c gi i j : Nat) (p : Place) (d : BitVec 256) :
    memoryCanonical (s.takeSector c gi i j p d) := by
  unfold State.takeSector
  simp only
  split
  · exact h
  · exact homeRead_canonical h (some c) p 256

/-- An entry of a spill ring is written as any other bytes of memory are. -/
theorem ringWrite_canonical {s : State} (h : memoryCanonical s) (r bits : Nat) : memoryCanonical (s.ringWrite r bits).2 := by
  unfold State.ringWrite
  simp only
  split
  · exact h
  · exact homeWrite_canonical (s := s.setRegion r _) h _ _ _ _ _

theorem freeWords_mem (s : State) (n : Nat) : (s.freeWords n).2.mem = s.mem := by
  induction n generalizing s with
  | zero => rfl
  | succ n ih => exact (ih _).trans rfl

/-- A spilled message or belay value. -/
theorem spillFree_canonical {s : State} (h : memoryCanonical s) (u : Nat) : memoryCanonical (s.spillFree u) :=
  ringWrite_canonical (canonical_of_mem h (freeWords_mem s 8)) _ _

/-- A write that enters a module. -/
theorem foreignWrite_canonical {s : State} (h : memoryCanonical s) (m pa : Nat) (data : List Byte) : memoryCanonical (s.foreignWrite m pa data) :=
  homeWrite_canonical (s := s.noteForeign m pa data.length) h _ _ _ _ _

theorem flushPage_canonical {s : State} (h : memoryCanonical s) (pa size : Nat) : memoryCanonical (s.flushPage pa size) := by
  unfold State.flushPage
  refine foldl_keeps memoryCanonical _ (fun a c hs => ?_) _ _ h
  exact writeBackLines_wf (recallLines_canonical hs c _) _ _

theorem setUsed_canonical {s : State} (h : memoryCanonical s) (m : Nat) (l : Leaf) (store : Bool) : memoryCanonical (setUsed s m l store) := by
  unfold setUsed
  generalize (if store = true then 0x60 else 0x20) = want
  simp only
  split
  · exact h
  · exact orEntries_wf h _ _ _ _

theorem dropMemory_canonical {s : State} (h : memoryCanonical s) (m : Nat) : memoryCanonical (s.dropMemory m) := SMap.wf_filter unlisted _ _ h

theorem destroyChannel_canonical {s : State} (h : memoryCanonical s) (m n : Nat) : memoryCanonical (s.destroyChannel m n) := by
  unfold State.destroyChannel
  refine foldl_keeps memoryCanonical _ (fun a b hs => ?_) _ _ h
  split
  · exact writeByte_wf hs _ _
  · exact hs

theorem withFetchWord_canonical {s : State} (h : memoryCanonical s) (n w : Nat) : memoryCanonical (s.withFetchWord n w) := by
  unfold State.withFetchWord
  split
  · exact h
  · exact writeBytes_wf h _ _ _

end Sys2Proof.Machine
end

