-- ==== Sys2Proof/Laws/PerInstr.lean ====
section
/-! SUPPORT. The laws that hold of every instruction as syntax, one lemma for each constructor. -/

namespace Sys2Proof.Laws

open Sys2Proof Sys2Proof.Machine

/-! ### The length of an encoding (R195) -/

/-- A 16-bit word is even. -/
theorem lengthOf_word16 (op : Nat) (f : Form16) : lengthOf (word16 op f) = 2 := by
  unfold lengthOf word16; rw [if_pos (by omega)]

/-- A 32-bit word ends in 01. -/
theorem lengthOf_word32 (op : Nat) (f : Form32) : lengthOf (word32 op f) = 4 := by
  unfold lengthOf word32; rw [if_neg (by omega), if_pos (by omega)]

/-- A 64-bit word ends in 11. -/
theorem lengthOf_word64 (op : Nat) (f : Form64) : lengthOf (word64 op f) = 8 := by
  unfold lengthOf word64 modWord; rw [if_neg (by omega), if_neg (by omega)]

/-- R195: the low bits of the word of a core instruction tell its length. -/
def EncodingLength.Statement (i : Instr) : Prop :=
  (formOf i).isSome = true → ∀ len w, encodeWord i = some (len, w) → lengthOf w = len

theorem EncodingLength.mov16 (f : Form16) : EncodingLength.Statement (.mov16 f) := fun _ _ _ h => by injection h with h; injection h with h1 h2; rw [← h1, ← h2]; exact lengthOf_word16 _ f
theorem EncodingLength.movi16 (f : Form16) : EncodingLength.Statement (.movi16 f) := fun _ _ _ h => by injection h with h; injection h with h1 h2; rw [← h1, ← h2]; exact lengthOf_word16 _ f
theorem EncodingLength.iadd16 (f : Form16) : EncodingLength.Statement (.iadd16 f) := fun _ _ _ h => by injection h with h; injection h with h1 h2; rw [← h1, ← h2]; exact lengthOf_word16 _ f
theorem EncodingLength.isub16 (f : Form16) : EncodingLength.Statement (.isub16 f) := fun _ _ _ h => by injection h with h; injection h with h1 h2; rw [← h1, ← h2]; exact lengthOf_word16 _ f
theorem EncodingLength.imul16 (f : Form16) : EncodingLength.Statement (.imul16 f) := fun _ _ _ h => by injection h with h; injection h with h1 h2; rw [← h1, ← h2]; exact lengthOf_word16 _ f
theorem EncodingLength.and16 (f : Form16) : EncodingLength.Statement (.and16 f) := fun _ _ _ h => by injection h with h; injection h with h1 h2; rw [← h1, ← h2]; exact lengthOf_word16 _ f
theorem EncodingLength.or16 (f : Form16) : EncodingLength.Statement (.or16 f) := fun _ _ _ h => by injection h with h; injection h with h1 h2; rw [← h1, ← h2]; exact lengthOf_word16 _ f
theorem EncodingLength.xor16 (f : Form16) : EncodingLength.Statement (.xor16 f) := fun _ _ _ h => by injection h with h; injection h with h1 h2; rw [← h1, ← h2]; exact lengthOf_word16 _ f
theorem EncodingLength.shl16 (f : Form16) : EncodingLength.Statement (.shl16 f) := fun _ _ _ h => by injection h with h; injection h with h1 h2; rw [← h1, ← h2]; exact lengthOf_word16 _ f
theorem EncodingLength.shr16 (f : Form16) : EncodingLength.Statement (.shr16 f) := fun _ _ _ h => by injection h with h; injection h with h1 h2; rw [← h1, ← h2]; exact lengthOf_word16 _ f
theorem EncodingLength.sar16 (f : Form16) : EncodingLength.Statement (.sar16 f) := fun _ _ _ h => by injection h with h; injection h with h1 h2; rw [← h1, ← h2]; exact lengthOf_word16 _ f
theorem EncodingLength.fadd16 (f : Form16) : EncodingLength.Statement (.fadd16 f) := fun _ _ _ h => by injection h with h; injection h with h1 h2; rw [← h1, ← h2]; exact lengthOf_word16 _ f
theorem EncodingLength.fsub16 (f : Form16) : EncodingLength.Statement (.fsub16 f) := fun _ _ _ h => by injection h with h; injection h with h1 h2; rw [← h1, ← h2]; exact lengthOf_word16 _ f
theorem EncodingLength.fmul16 (f : Form16) : EncodingLength.Statement (.fmul16 f) := fun _ _ _ h => by injection h with h; injection h with h1 h2; rw [← h1, ← h2]; exact lengthOf_word16 _ f
theorem EncodingLength.fmin16 (f : Form16) : EncodingLength.Statement (.fmin16 f) := fun _ _ _ h => by injection h with h; injection h with h1 h2; rw [← h1, ← h2]; exact lengthOf_word16 _ f
theorem EncodingLength.fmax16 (f : Form16) : EncodingLength.Statement (.fmax16 f) := fun _ _ _ h => by injection h with h; injection h with h1 h2; rw [← h1, ← h2]; exact lengthOf_word16 _ f
theorem EncodingLength.iadd32 (f : Form32) : EncodingLength.Statement (.iadd32 f) := fun _ _ _ h => by injection h with h; injection h with h1 h2; rw [← h1, ← h2]; exact lengthOf_word32 _ f
theorem EncodingLength.isub32 (f : Form32) : EncodingLength.Statement (.isub32 f) := fun _ _ _ h => by injection h with h; injection h with h1 h2; rw [← h1, ← h2]; exact lengthOf_word32 _ f
theorem EncodingLength.imul32 (f : Form32) : EncodingLength.Statement (.imul32 f) := fun _ _ _ h => by injection h with h; injection h with h1 h2; rw [← h1, ← h2]; exact lengthOf_word32 _ f
theorem EncodingLength.imulhi32 (f : Form32) : EncodingLength.Statement (.imulhi32 f) := fun _ _ _ h => by injection h with h; injection h with h1 h2; rw [← h1, ← h2]; exact lengthOf_word32 _ f
theorem EncodingLength.imulhn32 (f : Form32) : EncodingLength.Statement (.imulhn32 f) := fun _ _ _ h => by injection h with h; injection h with h1 h2; rw [← h1, ← h2]; exact lengthOf_word32 _ f
theorem EncodingLength.imini32 (f : Form32) : EncodingLength.Statement (.imini32 f) := fun _ _ _ h => by injection h with h; injection h with h1 h2; rw [← h1, ← h2]; exact lengthOf_word32 _ f
theorem EncodingLength.imaxi32 (f : Form32) : EncodingLength.Statement (.imaxi32 f) := fun _ _ _ h => by injection h with h; injection h with h1 h2; rw [← h1, ← h2]; exact lengthOf_word32 _ f
theorem EncodingLength.iminn32 (f : Form32) : EncodingLength.Statement (.iminn32 f) := fun _ _ _ h => by injection h with h; injection h with h1 h2; rw [← h1, ← h2]; exact lengthOf_word32 _ f
theorem EncodingLength.imaxn32 (f : Form32) : EncodingLength.Statement (.imaxn32 f) := fun _ _ _ h => by injection h with h; injection h with h1 h2; rw [← h1, ← h2]; exact lengthOf_word32 _ f
theorem EncodingLength.and32 (f : Form32) : EncodingLength.Statement (.and32 f) := fun _ _ _ h => by injection h with h; injection h with h1 h2; rw [← h1, ← h2]; exact lengthOf_word32 _ f
theorem EncodingLength.or32 (f : Form32) : EncodingLength.Statement (.or32 f) := fun _ _ _ h => by injection h with h; injection h with h1 h2; rw [← h1, ← h2]; exact lengthOf_word32 _ f
theorem EncodingLength.xor32 (f : Form32) : EncodingLength.Statement (.xor32 f) := fun _ _ _ h => by injection h with h; injection h with h1 h2; rw [← h1, ← h2]; exact lengthOf_word32 _ f
theorem EncodingLength.shl32 (f : Form32) : EncodingLength.Statement (.shl32 f) := fun _ _ _ h => by injection h with h; injection h with h1 h2; rw [← h1, ← h2]; exact lengthOf_word32 _ f
theorem EncodingLength.shr32 (f : Form32) : EncodingLength.Statement (.shr32 f) := fun _ _ _ h => by injection h with h; injection h with h1 h2; rw [← h1, ← h2]; exact lengthOf_word32 _ f
theorem EncodingLength.sar32 (f : Form32) : EncodingLength.Statement (.sar32 f) := fun _ _ _ h => by injection h with h; injection h with h1 h2; rw [← h1, ← h2]; exact lengthOf_word32 _ f
theorem EncodingLength.rot32 (f : Form32) : EncodingLength.Statement (.rot32 f) := fun _ _ _ h => by injection h with h; injection h with h1 h2; rw [← h1, ← h2]; exact lengthOf_word32 _ f
theorem EncodingLength.fadd32 (f : Form32) : EncodingLength.Statement (.fadd32 f) := fun _ _ _ h => by injection h with h; injection h with h1 h2; rw [← h1, ← h2]; exact lengthOf_word32 _ f
theorem EncodingLength.fsub32 (f : Form32) : EncodingLength.Statement (.fsub32 f) := fun _ _ _ h => by injection h with h; injection h with h1 h2; rw [← h1, ← h2]; exact lengthOf_word32 _ f
theorem EncodingLength.fmul32 (f : Form32) : EncodingLength.Statement (.fmul32 f) := fun _ _ _ h => by injection h with h; injection h with h1 h2; rw [← h1, ← h2]; exact lengthOf_word32 _ f
theorem EncodingLength.fmin32 (f : Form32) : EncodingLength.Statement (.fmin32 f) := fun _ _ _ h => by injection h with h; injection h with h1 h2; rw [← h1, ← h2]; exact lengthOf_word32 _ f
theorem EncodingLength.fmax32 (f : Form32) : EncodingLength.Statement (.fmax32 f) := fun _ _ _ h => by injection h with h; injection h with h1 h2; rw [← h1, ← h2]; exact lengthOf_word32 _ f
theorem EncodingLength.pfadd32 (f : Form32) : EncodingLength.Statement (.pfadd32 f) := fun _ _ _ h => by injection h with h; injection h with h1 h2; rw [← h1, ← h2]; exact lengthOf_word32 _ f
theorem EncodingLength.pfmul32 (f : Form32) : EncodingLength.Statement (.pfmul32 f) := fun _ _ _ h => by injection h with h; injection h with h1 h2; rw [← h1, ← h2]; exact lengthOf_word32 _ f
theorem EncodingLength.pfmin32 (f : Form32) : EncodingLength.Statement (.pfmin32 f) := fun _ _ _ h => by injection h with h; injection h with h1 h2; rw [← h1, ← h2]; exact lengthOf_word32 _ f
theorem EncodingLength.pfmax32 (f : Form32) : EncodingLength.Statement (.pfmax32 f) := fun _ _ _ h => by injection h with h; injection h with h1 h2; rw [← h1, ← h2]; exact lengthOf_word32 _ f
theorem EncodingLength.dadd32 (f : Form32) : EncodingLength.Statement (.dadd32 f) := fun _ _ _ h => by injection h with h; injection h with h1 h2; rw [← h1, ← h2]; exact lengthOf_word32 _ f
theorem EncodingLength.dmul32 (f : Form32) : EncodingLength.Statement (.dmul32 f) := fun _ _ _ h => by injection h with h; injection h with h1 h2; rw [← h1, ← h2]; exact lengthOf_word32 _ f
theorem EncodingLength.dmin32 (f : Form32) : EncodingLength.Statement (.dmin32 f) := fun _ _ _ h => by injection h with h; injection h with h1 h2; rw [← h1, ← h2]; exact lengthOf_word32 _ f
theorem EncodingLength.dmax32 (f : Form32) : EncodingLength.Statement (.dmax32 f) := fun _ _ _ h => by injection h with h; injection h with h1 h2; rw [← h1, ← h2]; exact lengthOf_word32 _ f
theorem EncodingLength.mov32 (f : Form32) : EncodingLength.Statement (.mov32 f) := fun _ _ _ h => by injection h with h; injection h with h1 h2; rw [← h1, ← h2]; exact lengthOf_word32 _ f
theorem EncodingLength.ineg32 (f : Form32) : EncodingLength.Statement (.ineg32 f) := fun _ _ _ h => by injection h with h; injection h with h1 h2; rw [← h1, ← h2]; exact lengthOf_word32 _ f
theorem EncodingLength.iabs32 (f : Form32) : EncodingLength.Statement (.iabs32 f) := fun _ _ _ h => by injection h with h; injection h with h1 h2; rw [← h1, ← h2]; exact lengthOf_word32 _ f
theorem EncodingLength.not32 (f : Form32) : EncodingLength.Statement (.not32 f) := fun _ _ _ h => by injection h with h; injection h with h1 h2; rw [← h1, ← h2]; exact lengthOf_word32 _ f
theorem EncodingLength.popc32 (f : Form32) : EncodingLength.Statement (.popc32 f) := fun _ _ _ h => by injection h with h; injection h with h1 h2; rw [← h1, ← h2]; exact lengthOf_word32 _ f
theorem EncodingLength.clz32 (f : Form32) : EncodingLength.Statement (.clz32 f) := fun _ _ _ h => by injection h with h; injection h with h1 h2; rw [← h1, ← h2]; exact lengthOf_word32 _ f
theorem EncodingLength.ctz32 (f : Form32) : EncodingLength.Statement (.ctz32 f) := fun _ _ _ h => by injection h with h; injection h with h1 h2; rw [← h1, ← h2]; exact lengthOf_word32 _ f
theorem EncodingLength.brev32 (f : Form32) : EncodingLength.Statement (.brev32 f) := fun _ _ _ h => by injection h with h; injection h with h1 h2; rw [← h1, ← h2]; exact lengthOf_word32 _ f
theorem EncodingLength.frcp32 (f : Form32) : EncodingLength.Statement (.frcp32 f) := fun _ _ _ h => by injection h with h; injection h with h1 h2; rw [← h1, ← h2]; exact lengthOf_word32 _ f
theorem EncodingLength.frsq32 (f : Form32) : EncodingLength.Statement (.frsq32 f) := fun _ _ _ h => by injection h with h; injection h with h1 h2; rw [← h1, ← h2]; exact lengthOf_word32 _ f
theorem EncodingLength.fsqrt32 (f : Form32) : EncodingLength.Statement (.fsqrt32 f) := fun _ _ _ h => by injection h with h; injection h with h1 h2; rw [← h1, ← h2]; exact lengthOf_word32 _ f
theorem EncodingLength.fexp232 (f : Form32) : EncodingLength.Statement (.fexp232 f) := fun _ _ _ h => by injection h with h; injection h with h1 h2; rw [← h1, ← h2]; exact lengthOf_word32 _ f
theorem EncodingLength.flog232 (f : Form32) : EncodingLength.Statement (.flog232 f) := fun _ _ _ h => by injection h with h; injection h with h1 h2; rw [← h1, ← h2]; exact lengthOf_word32 _ f
theorem EncodingLength.bra (f : Form64) : EncodingLength.Statement (.bra f) := fun _ _ _ h => by injection h with h; injection h with h1 h2; rw [← h1, ← h2]; exact lengthOf_word64 _ f
theorem EncodingLength.brx (f : Form64) : EncodingLength.Statement (.brx f) := fun _ _ _ h => by injection h with h; injection h with h1 h2; rw [← h1, ← h2]; exact lengthOf_word64 _ f
theorem EncodingLength.call (f : Form64) : EncodingLength.Statement (.call f) := fun _ _ _ h => by injection h with h; injection h with h1 h2; rw [← h1, ← h2]; exact lengthOf_word64 _ f
theorem EncodingLength.callx (f : Form64) : EncodingLength.Statement (.callx f) := fun _ _ _ h => by injection h with h; injection h with h1 h2; rw [← h1, ← h2]; exact lengthOf_word64 _ f
theorem EncodingLength.ret (f : Form64) : EncodingLength.Statement (.ret f) := fun _ _ _ h => by injection h with h; injection h with h1 h2; rw [← h1, ← h2]; exact lengthOf_word64 _ f
theorem EncodingLength.reconv (f : Form64) : EncodingLength.Statement (.reconv f) := fun _ _ _ h => by injection h with h; injection h with h1 h2; rw [← h1, ← h2]; exact lengthOf_word64 _ f
theorem EncodingLength.prio (f : Form64) : EncodingLength.Statement (.prio f) := fun _ _ _ h => by injection h with h; injection h with h1 h2; rw [← h1, ← h2]; exact lengthOf_word64 _ f
theorem EncodingLength.yield (f : Form64) : EncodingLength.Statement (.yield f) := fun _ _ _ h => by injection h with h; injection h with h1 h2; rw [← h1, ← h2]; exact lengthOf_word64 _ f
theorem EncodingLength.loop (f : Form64) : EncodingLength.Statement (.loop f) := fun _ _ _ h => by injection h with h; injection h with h1 h2; rw [← h1, ← h2]; exact lengthOf_word64 _ f
theorem EncodingLength.nop (f : Form64) : EncodingLength.Statement (.nop f) := fun _ _ _ h => by injection h with h; injection h with h1 h2; rw [← h1, ← h2]; exact lengthOf_word64 _ f
theorem EncodingLength.exit (f : Form64) : EncodingLength.Statement (.exit f) := fun _ _ _ h => by injection h with h; injection h with h1 h2; rw [← h1, ← h2]; exact lengthOf_word64 _ f
theorem EncodingLength.iadd64 (f : Form64) : EncodingLength.Statement (.iadd64 f) := fun _ _ _ h => by injection h with h; injection h with h1 h2; rw [← h1, ← h2]; exact lengthOf_word64 _ f
theorem EncodingLength.isum (f : Form64) : EncodingLength.Statement (.isum f) := fun _ _ _ h => by injection h with h; injection h with h1 h2; rw [← h1, ← h2]; exact lengthOf_word64 _ f
theorem EncodingLength.isub64 (f : Form64) : EncodingLength.Statement (.isub64 f) := fun _ _ _ h => by injection h with h; injection h with h1 h2; rw [← h1, ← h2]; exact lengthOf_word64 _ f
theorem EncodingLength.ineg64 (f : Form64) : EncodingLength.Statement (.ineg64 f) := fun _ _ _ h => by injection h with h; injection h with h1 h2; rw [← h1, ← h2]; exact lengthOf_word64 _ f
theorem EncodingLength.iabs64 (f : Form64) : EncodingLength.Statement (.iabs64 f) := fun _ _ _ h => by injection h with h; injection h with h1 h2; rw [← h1, ← h2]; exact lengthOf_word64 _ f
theorem EncodingLength.imul64 (f : Form64) : EncodingLength.Statement (.imul64 f) := fun _ _ _ h => by injection h with h; injection h with h1 h2; rw [← h1, ← h2]; exact lengthOf_word64 _ f
theorem EncodingLength.imulh64 (f : Form64) : EncodingLength.Statement (.imulh64 f) := fun _ _ _ h => by injection h with h; injection h with h1 h2; rw [← h1, ← h2]; exact lengthOf_word64 _ f
theorem EncodingLength.imad (f : Form64) : EncodingLength.Statement (.imad f) := fun _ _ _ h => by injection h with h; injection h with h1 h2; rw [← h1, ← h2]; exact lengthOf_word64 _ f
theorem EncodingLength.imadw (f : Form64) : EncodingLength.Statement (.imadw f) := fun _ _ _ h => by injection h with h; injection h with h1 h2; rw [← h1, ← h2]; exact lengthOf_word64 _ f
theorem EncodingLength.imin64 (f : Form64) : EncodingLength.Statement (.imin64 f) := fun _ _ _ h => by injection h with h; injection h with h1 h2; rw [← h1, ← h2]; exact lengthOf_word64 _ f
theorem EncodingLength.imax64 (f : Form64) : EncodingLength.Statement (.imax64 f) := fun _ _ _ h => by injection h with h; injection h with h1 h2; rw [← h1, ← h2]; exact lengthOf_word64 _ f
theorem EncodingLength.isad (f : Form64) : EncodingLength.Statement (.isad f) := fun _ _ _ h => by injection h with h; injection h with h1 h2; rw [← h1, ← h2]; exact lengthOf_word64 _ f
theorem EncodingLength.and64 (f : Form64) : EncodingLength.Statement (.and64 f) := fun _ _ _ h => by injection h with h; injection h with h1 h2; rw [← h1, ← h2]; exact lengthOf_word64 _ f
theorem EncodingLength.or64 (f : Form64) : EncodingLength.Statement (.or64 f) := fun _ _ _ h => by injection h with h; injection h with h1 h2; rw [← h1, ← h2]; exact lengthOf_word64 _ f
theorem EncodingLength.xor64 (f : Form64) : EncodingLength.Statement (.xor64 f) := fun _ _ _ h => by injection h with h; injection h with h1 h2; rw [← h1, ← h2]; exact lengthOf_word64 _ f
theorem EncodingLength.not64 (f : Form64) : EncodingLength.Statement (.not64 f) := fun _ _ _ h => by injection h with h; injection h with h1 h2; rw [← h1, ← h2]; exact lengthOf_word64 _ f
theorem EncodingLength.blut (f : Form64) : EncodingLength.Statement (.blut f) := fun _ _ _ h => by injection h with h; injection h with h1 h2; rw [← h1, ← h2]; exact lengthOf_word64 _ f
theorem EncodingLength.shl64 (f : Form64) : EncodingLength.Statement (.shl64 f) := fun _ _ _ h => by injection h with h; injection h with h1 h2; rw [← h1, ← h2]; exact lengthOf_word64 _ f
theorem EncodingLength.shr64 (f : Form64) : EncodingLength.Statement (.shr64 f) := fun _ _ _ h => by injection h with h; injection h with h1 h2; rw [← h1, ← h2]; exact lengthOf_word64 _ f
theorem EncodingLength.sar64 (f : Form64) : EncodingLength.Statement (.sar64 f) := fun _ _ _ h => by injection h with h; injection h with h1 h2; rw [← h1, ← h2]; exact lengthOf_word64 _ f
theorem EncodingLength.shf (f : Form64) : EncodingLength.Statement (.shf f) := fun _ _ _ h => by injection h with h; injection h with h1 h2; rw [← h1, ← h2]; exact lengthOf_word64 _ f
theorem EncodingLength.rot64 (f : Form64) : EncodingLength.Statement (.rot64 f) := fun _ _ _ h => by injection h with h; injection h with h1 h2; rw [← h1, ← h2]; exact lengthOf_word64 _ f
theorem EncodingLength.popc64 (f : Form64) : EncodingLength.Statement (.popc64 f) := fun _ _ _ h => by injection h with h; injection h with h1 h2; rw [← h1, ← h2]; exact lengthOf_word64 _ f
theorem EncodingLength.clz64 (f : Form64) : EncodingLength.Statement (.clz64 f) := fun _ _ _ h => by injection h with h; injection h with h1 h2; rw [← h1, ← h2]; exact lengthOf_word64 _ f
theorem EncodingLength.ctz64 (f : Form64) : EncodingLength.Statement (.ctz64 f) := fun _ _ _ h => by injection h with h; injection h with h1 h2; rw [← h1, ← h2]; exact lengthOf_word64 _ f
theorem EncodingLength.brev64 (f : Form64) : EncodingLength.Statement (.brev64 f) := fun _ _ _ h => by injection h with h; injection h with h1 h2; rw [← h1, ← h2]; exact lengthOf_word64 _ f
theorem EncodingLength.bxtr (f : Form64) : EncodingLength.Statement (.bxtr f) := fun _ _ _ h => by injection h with h; injection h with h1 h2; rw [← h1, ← h2]; exact lengthOf_word64 _ f
theorem EncodingLength.bins (f : Form64) : EncodingLength.Statement (.bins f) := fun _ _ _ h => by injection h with h; injection h with h1 h2; rw [← h1, ← h2]; exact lengthOf_word64 _ f
theorem EncodingLength.bsel (f : Form64) : EncodingLength.Statement (.bsel f) := fun _ _ _ h => by injection h with h; injection h with h1 h2; rw [← h1, ← h2]; exact lengthOf_word64 _ f
theorem EncodingLength.lea (f : Form64) : EncodingLength.Statement (.lea f) := fun _ _ _ h => by injection h with h; injection h with h1 h2; rw [← h1, ← h2]; exact lengthOf_word64 _ f
theorem EncodingLength.icmp (f : Form64) : EncodingLength.Statement (.icmp f) := fun _ _ _ h => by injection h with h; injection h with h1 h2; rw [← h1, ← h2]; exact lengthOf_word64 _ f
theorem EncodingLength.isel (f : Form64) : EncodingLength.Statement (.isel f) := fun _ _ _ h => by injection h with h; injection h with h1 h2; rw [← h1, ← h2]; exact lengthOf_word64 _ f
theorem EncodingLength.pset (f : Form64) : EncodingLength.Statement (.pset f) := fun _ _ _ h => by injection h with h; injection h with h1 h2; rw [← h1, ← h2]; exact lengthOf_word64 _ f
theorem EncodingLength.plut (f : Form64) : EncodingLength.Statement (.plut f) := fun _ _ _ h => by injection h with h; injection h with h1 h2; rw [← h1, ← h2]; exact lengthOf_word64 _ f
theorem EncodingLength.pmov (f : Form64) : EncodingLength.Statement (.pmov f) := fun _ _ _ h => by injection h with h; injection h with h1 h2; rw [← h1, ← h2]; exact lengthOf_word64 _ f
theorem EncodingLength.pgath (f : Form64) : EncodingLength.Statement (.pgath f) := fun _ _ _ h => by injection h with h; injection h with h1 h2; rw [← h1, ← h2]; exact lengthOf_word64 _ f
theorem EncodingLength.lpeer (f : Form64) : EncodingLength.Statement (.lpeer f) := fun _ _ _ h => by injection h with h; injection h with h1 h2; rw [← h1, ← h2]; exact lengthOf_word64 _ f
theorem EncodingLength.mov64 (f : Form64) : EncodingLength.Statement (.mov64 f) := fun _ _ _ h => by injection h with h; injection h with h1 h2; rw [← h1, ← h2]; exact lengthOf_word64 _ f
theorem EncodingLength.movi64 (f : Form64) : EncodingLength.Statement (.movi64 f) := fun _ _ _ h => by injection h with h; injection h with h1 h2; rw [← h1, ← h2]; exact lengthOf_word64 _ f
theorem EncodingLength.movw (f : Form64) : EncodingLength.Statement (.movw f) := fun _ _ _ h => by injection h with h; injection h with h1 h2; rw [← h1, ← h2]; exact lengthOf_word64 _ f
theorem EncodingLength.s2v (f : Form64) : EncodingLength.Statement (.s2v f) := fun _ _ _ h => by injection h with h; injection h with h1 h2; rw [← h1, ← h2]; exact lengthOf_word64 _ f
theorem EncodingLength.v2s (f : Form64) : EncodingLength.Statement (.v2s f) := fun _ _ _ h => by injection h with h; injection h with h1 h2; rw [← h1, ← h2]; exact lengthOf_word64 _ f
theorem EncodingLength.lxch (f : Form64) : EncodingLength.Statement (.lxch f) := fun _ _ _ h => by injection h with h; injection h with h1 h2; rw [← h1, ← h2]; exact lengthOf_word64 _ f
theorem EncodingLength.srr (f : Form64) : EncodingLength.Statement (.srr f) := fun _ _ _ h => by injection h with h; injection h with h1 h2; rw [← h1, ← h2]; exact lengthOf_word64 _ f
theorem EncodingLength.srw (f : Form64) : EncodingLength.Statement (.srw f) := fun _ _ _ h => by injection h with h; injection h with h1 h2; rw [← h1, ← h2]; exact lengthOf_word64 _ f
theorem EncodingLength.fadd64 (f : Form64) : EncodingLength.Statement (.fadd64 f) := fun _ _ _ h => by injection h with h; injection h with h1 h2; rw [← h1, ← h2]; exact lengthOf_word64 _ f
theorem EncodingLength.fsub64 (f : Form64) : EncodingLength.Statement (.fsub64 f) := fun _ _ _ h => by injection h with h; injection h with h1 h2; rw [← h1, ← h2]; exact lengthOf_word64 _ f
theorem EncodingLength.fmul64 (f : Form64) : EncodingLength.Statement (.fmul64 f) := fun _ _ _ h => by injection h with h; injection h with h1 h2; rw [← h1, ← h2]; exact lengthOf_word64 _ f
theorem EncodingLength.ffma (f : Form64) : EncodingLength.Statement (.ffma f) := fun _ _ _ h => by injection h with h; injection h with h1 h2; rw [← h1, ← h2]; exact lengthOf_word64 _ f
theorem EncodingLength.fmin64 (f : Form64) : EncodingLength.Statement (.fmin64 f) := fun _ _ _ h => by injection h with h; injection h with h1 h2; rw [← h1, ← h2]; exact lengthOf_word64 _ f
theorem EncodingLength.fmax64 (f : Form64) : EncodingLength.Statement (.fmax64 f) := fun _ _ _ h => by injection h with h; injection h with h1 h2; rw [← h1, ← h2]; exact lengthOf_word64 _ f
theorem EncodingLength.fcmp (f : Form64) : EncodingLength.Statement (.fcmp f) := fun _ _ _ h => by injection h with h; injection h with h1 h2; rw [← h1, ← h2]; exact lengthOf_word64 _ f
theorem EncodingLength.fsel (f : Form64) : EncodingLength.Statement (.fsel f) := fun _ _ _ h => by injection h with h; injection h with h1 h2; rw [← h1, ← h2]; exact lengthOf_word64 _ f
theorem EncodingLength.fclass (f : Form64) : EncodingLength.Statement (.fclass f) := fun _ _ _ h => by injection h with h; injection h with h1 h2; rw [← h1, ← h2]; exact lengthOf_word64 _ f
theorem EncodingLength.frnd (f : Form64) : EncodingLength.Statement (.frnd f) := fun _ _ _ h => by injection h with h; injection h with h1 h2; rw [← h1, ← h2]; exact lengthOf_word64 _ f
theorem EncodingLength.frcp64 (f : Form64) : EncodingLength.Statement (.frcp64 f) := fun _ _ _ h => by injection h with h; injection h with h1 h2; rw [← h1, ← h2]; exact lengthOf_word64 _ f
theorem EncodingLength.frsq64 (f : Form64) : EncodingLength.Statement (.frsq64 f) := fun _ _ _ h => by injection h with h; injection h with h1 h2; rw [← h1, ← h2]; exact lengthOf_word64 _ f
theorem EncodingLength.fsqrt64 (f : Form64) : EncodingLength.Statement (.fsqrt64 f) := fun _ _ _ h => by injection h with h; injection h with h1 h2; rw [← h1, ← h2]; exact lengthOf_word64 _ f
theorem EncodingLength.fexp264 (f : Form64) : EncodingLength.Statement (.fexp264 f) := fun _ _ _ h => by injection h with h; injection h with h1 h2; rw [← h1, ← h2]; exact lengthOf_word64 _ f
theorem EncodingLength.flog264 (f : Form64) : EncodingLength.Statement (.flog264 f) := fun _ _ _ h => by injection h with h; injection h with h1 h2; rw [← h1, ← h2]; exact lengthOf_word64 _ f
theorem EncodingLength.fsin (f : Form64) : EncodingLength.Statement (.fsin f) := fun _ _ _ h => by injection h with h; injection h with h1 h2; rw [← h1, ← h2]; exact lengthOf_word64 _ f
theorem EncodingLength.fcos (f : Form64) : EncodingLength.Statement (.fcos f) := fun _ _ _ h => by injection h with h; injection h with h1 h2; rw [← h1, ← h2]; exact lengthOf_word64 _ f
theorem EncodingLength.ftanh (f : Form64) : EncodingLength.Statement (.ftanh f) := fun _ _ _ h => by injection h with h; injection h with h1 h2; rw [← h1, ← h2]; exact lengthOf_word64 _ f
theorem EncodingLength.pfadd64 (f : Form64) : EncodingLength.Statement (.pfadd64 f) := fun _ _ _ h => by injection h with h; injection h with h1 h2; rw [← h1, ← h2]; exact lengthOf_word64 _ f
theorem EncodingLength.pfmul64 (f : Form64) : EncodingLength.Statement (.pfmul64 f) := fun _ _ _ h => by injection h with h; injection h with h1 h2; rw [← h1, ← h2]; exact lengthOf_word64 _ f
theorem EncodingLength.pffma (f : Form64) : EncodingLength.Statement (.pffma f) := fun _ _ _ h => by injection h with h; injection h with h1 h2; rw [← h1, ← h2]; exact lengthOf_word64 _ f
theorem EncodingLength.pfmin64 (f : Form64) : EncodingLength.Statement (.pfmin64 f) := fun _ _ _ h => by injection h with h; injection h with h1 h2; rw [← h1, ← h2]; exact lengthOf_word64 _ f
theorem EncodingLength.pfmax64 (f : Form64) : EncodingLength.Statement (.pfmax64 f) := fun _ _ _ h => by injection h with h; injection h with h1 h2; rw [← h1, ← h2]; exact lengthOf_word64 _ f
theorem EncodingLength.dadd64 (f : Form64) : EncodingLength.Statement (.dadd64 f) := fun _ _ _ h => by injection h with h; injection h with h1 h2; rw [← h1, ← h2]; exact lengthOf_word64 _ f
theorem EncodingLength.dmul64 (f : Form64) : EncodingLength.Statement (.dmul64 f) := fun _ _ _ h => by injection h with h; injection h with h1 h2; rw [← h1, ← h2]; exact lengthOf_word64 _ f
theorem EncodingLength.dfma (f : Form64) : EncodingLength.Statement (.dfma f) := fun _ _ _ h => by injection h with h; injection h with h1 h2; rw [← h1, ← h2]; exact lengthOf_word64 _ f
theorem EncodingLength.dmin64 (f : Form64) : EncodingLength.Statement (.dmin64 f) := fun _ _ _ h => by injection h with h; injection h with h1 h2; rw [← h1, ← h2]; exact lengthOf_word64 _ f
theorem EncodingLength.dmax64 (f : Form64) : EncodingLength.Statement (.dmax64 f) := fun _ _ _ h => by injection h with h; injection h with h1 h2; rw [← h1, ← h2]; exact lengthOf_word64 _ f
theorem EncodingLength.dcmp (f : Form64) : EncodingLength.Statement (.dcmp f) := fun _ _ _ h => by injection h with h; injection h with h1 h2; rw [← h1, ← h2]; exact lengthOf_word64 _ f
theorem EncodingLength.cvt (f : Form64) : EncodingLength.Statement (.cvt f) := fun _ _ _ h => by injection h with h; injection h with h1 h2; rw [← h1, ← h2]; exact lengthOf_word64 _ f
theorem EncodingLength.cvtq (f : Form64) : EncodingLength.Statement (.cvtq f) := fun _ _ _ h => by injection h with h; injection h with h1 h2; rw [← h1, ← h2]; exact lengthOf_word64 _ f
theorem EncodingLength.cvtd (f : Form64) : EncodingLength.Statement (.cvtd f) := fun _ _ _ h => by injection h with h; injection h with h1 h2; rw [← h1, ← h2]; exact lengthOf_word64 _ f
theorem EncodingLength.pack (f : Form64) : EncodingLength.Statement (.pack f) := fun _ _ _ h => by injection h with h; injection h with h1 h2; rw [← h1, ← h2]; exact lengthOf_word64 _ f
theorem EncodingLength.unpk (f : Form64) : EncodingLength.Statement (.unpk f) := fun _ _ _ h => by injection h with h; injection h with h1 h2; rw [← h1, ← h2]; exact lengthOf_word64 _ f
theorem EncodingLength.ld (f : Form64) : EncodingLength.Statement (.ld f) := fun _ _ _ h => by injection h with h; injection h with h1 h2; rw [← h1, ← h2]; exact lengthOf_word64 _ f
theorem EncodingLength.st (f : Form64) : EncodingLength.Statement (.st f) := fun _ _ _ h => by injection h with h; injection h with h1 h2; rw [← h1, ← h2]; exact lengthOf_word64 _ f
theorem EncodingLength.ldx (f : Form64) : EncodingLength.Statement (.ldx f) := fun _ _ _ h => by injection h with h; injection h with h1 h2; rw [← h1, ← h2]; exact lengthOf_word64 _ f
theorem EncodingLength.stx (f : Form64) : EncodingLength.Statement (.stx f) := fun _ _ _ h => by injection h with h; injection h with h1 h2; rw [← h1, ← h2]; exact lengthOf_word64 _ f
theorem EncodingLength.pref (f : Form64) : EncodingLength.Statement (.pref f) := fun _ _ _ h => by injection h with h; injection h with h1 h2; rw [← h1, ← h2]; exact lengthOf_word64 _ f
theorem EncodingLength.cctl (f : Form64) : EncodingLength.Statement (.cctl f) := fun _ _ _ h => by injection h with h; injection h with h1 h2; rw [← h1, ← h2]; exact lengthOf_word64 _ f
theorem EncodingLength.maps (f : Form64) : EncodingLength.Statement (.maps f) := fun _ _ _ h => by injection h with h; injection h with h1 h2; rw [← h1, ← h2]; exact lengthOf_word64 _ f
theorem EncodingLength.unmaps (f : Form64) : EncodingLength.Statement (.unmaps f) := fun _ _ _ h => by injection h with h; injection h with h1 h2; rw [← h1, ← h2]; exact lengthOf_word64 _ f
theorem EncodingLength.flushs (f : Form64) : EncodingLength.Statement (.flushs f) := fun _ _ _ h => by injection h with h; injection h with h1 h2; rw [← h1, ← h2]; exact lengthOf_word64 _ f
theorem EncodingLength.atom (f : Form64) : EncodingLength.Statement (.atom f) := fun _ _ _ h => by injection h with h; injection h with h1 h2; rw [← h1, ← h2]; exact lengthOf_word64 _ f
theorem EncodingLength.atomc (f : Form64) : EncodingLength.Statement (.atomc f) := fun _ _ _ h => by injection h with h; injection h with h1 h2; rw [← h1, ← h2]; exact lengthOf_word64 _ f
theorem EncodingLength.red (f : Form64) : EncodingLength.Statement (.red f) := fun _ _ _ h => by injection h with h; injection h with h1 h2; rw [← h1, ← h2]; exact lengthOf_word64 _ f
theorem EncodingLength.waitv (f : Form64) : EncodingLength.Statement (.waitv f) := fun _ _ _ h => by injection h with h; injection h with h1 h2; rw [← h1, ← h2]; exact lengthOf_word64 _ f
theorem EncodingLength.lmon (f : Form64) : EncodingLength.Statement (.lmon f) := fun _ _ _ h => by injection h with h; injection h with h1 h2; rw [← h1, ← h2]; exact lengthOf_word64 _ f
theorem EncodingLength.lmwait (f : Form64) : EncodingLength.Statement (.lmwait f) := fun _ _ _ h => by injection h with h; injection h with h1 h2; rw [← h1, ← h2]; exact lengthOf_word64 _ f
theorem EncodingLength.fence (f : Form64) : EncodingLength.Statement (.fence f) := fun _ _ _ h => by injection h with h; injection h with h1 h2; rw [← h1, ← h2]; exact lengthOf_word64 _ f
theorem EncodingLength.barInit (f : Form64) : EncodingLength.Statement (.barInit f) := fun _ _ _ h => by injection h with h; injection h with h1 h2; rw [← h1, ← h2]; exact lengthOf_word64 _ f
theorem EncodingLength.barExp (f : Form64) : EncodingLength.Statement (.barExp f) := fun _ _ _ h => by injection h with h; injection h with h1 h2; rw [← h1, ← h2]; exact lengthOf_word64 _ f
theorem EncodingLength.barArv (f : Form64) : EncodingLength.Statement (.barArv f) := fun _ _ _ h => by injection h with h; injection h with h1 h2; rw [← h1, ← h2]; exact lengthOf_word64 _ f
theorem EncodingLength.barWait (f : Form64) : EncodingLength.Statement (.barWait f) := fun _ _ _ h => by injection h with h; injection h with h1 h2; rw [← h1, ← h2]; exact lengthOf_word64 _ f
theorem EncodingLength.barTest (f : Form64) : EncodingLength.Statement (.barTest f) := fun _ _ _ h => by injection h with h; injection h with h1 h2; rw [← h1, ← h2]; exact lengthOf_word64 _ f
theorem EncodingLength.claim (f : Form64) : EncodingLength.Statement (.claim f) := fun _ _ _ h => by injection h with h; injection h with h1 h2; rw [← h1, ← h2]; exact lengthOf_word64 _ f
theorem EncodingLength.tres (f : Form64) : EncodingLength.Statement (.tres f) := fun _ _ _ h => by injection h with h; injection h with h1 h2; rw [← h1, ← h2]; exact lengthOf_word64 _ f
theorem EncodingLength.trel (f : Form64) : EncodingLength.Statement (.trel f) := fun _ _ _ h => by injection h with h; injection h with h1 h2; rw [← h1, ← h2]; exact lengthOf_word64 _ f
theorem EncodingLength.tld (f : Form64) : EncodingLength.Statement (.tld f) := fun _ _ _ h => by injection h with h; injection h with h1 h2; rw [← h1, ← h2]; exact lengthOf_word64 _ f
theorem EncodingLength.tst (f : Form64) : EncodingLength.Statement (.tst f) := fun _ _ _ h => by injection h with h; injection h with h1 h2; rw [← h1, ← h2]; exact lengthOf_word64 _ f
theorem EncodingLength.twr (f : Form64) : EncodingLength.Statement (.twr f) := fun _ _ _ h => by injection h with h; injection h with h1 h2; rw [← h1, ← h2]; exact lengthOf_word64 _ f
theorem EncodingLength.trd (f : Form64) : EncodingLength.Statement (.trd f) := fun _ _ _ h => by injection h with h; injection h with h1 h2; rw [← h1, ← h2]; exact lengthOf_word64 _ f
theorem EncodingLength.magree (f : Form64) : EncodingLength.Statement (.magree f) := fun _ _ _ h => by injection h with h; injection h with h1 h2; rw [← h1, ← h2]; exact lengthOf_word64 _ f
theorem EncodingLength.msign (f : Form64) : EncodingLength.Statement (.msign f) := fun _ _ _ h => by injection h with h; injection h with h1 h2; rw [← h1, ← h2]; exact lengthOf_word64 _ f
theorem EncodingLength.mma (f : Form64) : EncodingLength.Statement (.mma f) := fun _ _ _ h => by injection h with h; injection h with h1 h2; rw [← h1, ← h2]; exact lengthOf_word64 _ f
theorem EncodingLength.mmaq (f : Form64) : EncodingLength.Statement (.mmaq f) := fun _ _ _ h => by injection h with h; injection h with h1 h2; rw [← h1, ← h2]; exact lengthOf_word64 _ f
theorem EncodingLength.mmas (f : Form64) : EncodingLength.Statement (.mmas f) := fun _ _ _ h => by injection h with h; injection h with h1 h2; rw [← h1, ← h2]; exact lengthOf_word64 _ f
theorem EncodingLength.dmma (f : Form64) : EncodingLength.Statement (.dmma f) := fun _ _ _ h => by injection h with h; injection h with h1 h2; rw [← h1, ← h2]; exact lengthOf_word64 _ f
theorem EncodingLength.accz (f : Form64) : EncodingLength.Statement (.accz f) := fun _ _ _ h => by injection h with h; injection h with h1 h2; rw [← h1, ← h2]; exact lengthOf_word64 _ f
theorem EncodingLength.accrd (f : Form64) : EncodingLength.Statement (.accrd f) := fun _ _ _ h => by injection h with h; injection h with h1 h2; rw [← h1, ← h2]; exact lengthOf_word64 _ f
theorem EncodingLength.accwr (f : Form64) : EncodingLength.Statement (.accwr f) := fun _ _ _ h => by injection h with h; injection h with h1 h2; rw [← h1, ← h2]; exact lengthOf_word64 _ f
theorem EncodingLength.accrmax (f : Form64) : EncodingLength.Statement (.accrmax f) := fun _ _ _ h => by injection h with h; injection h with h1 h2; rw [← h1, ← h2]; exact lengthOf_word64 _ f
theorem EncodingLength.accscl (f : Form64) : EncodingLength.Statement (.accscl f) := fun _ _ _ h => by injection h with h; injection h with h1 h2; rw [← h1, ← h2]; exact lengthOf_word64 _ f
theorem EncodingLength.copy (f : Form64) : EncodingLength.Statement (.copy f) := fun _ _ _ h => by injection h with h; injection h with h1 h2; rw [← h1, ← h2]; exact lengthOf_word64 _ f
theorem EncodingLength.txfer (f : Form64) : EncodingLength.Statement (.txfer f) := fun _ _ _ h => by injection h with h; injection h with h1 h2; rw [← h1, ← h2]; exact lengthOf_word64 _ f
theorem EncodingLength.trig (f : Form64) : EncodingLength.Statement (.trig f) := fun _ _ _ h => by injection h with h; injection h with h1 h2; rw [← h1, ← h2]; exact lengthOf_word64 _ f
theorem EncodingLength.scbset (f : Form64) : EncodingLength.Statement (.scbset f) := fun _ _ _ h => by injection h with h; injection h with h1 h2; rw [← h1, ← h2]; exact lengthOf_word64 _ f
theorem EncodingLength.scbclr (f : Form64) : EncodingLength.Statement (.scbclr f) := fun _ _ _ h => by injection h with h; injection h with h1 h2; rw [← h1, ← h2]; exact lengthOf_word64 _ f
theorem EncodingLength.flood (f : Form64) : EncodingLength.Statement (.flood f) := fun _ _ _ h => by injection h with h; injection h with h1 h2; rw [← h1, ← h2]; exact lengthOf_word64 _ f
theorem EncodingLength.echo (f : Form64) : EncodingLength.Statement (.echo f) := fun _ _ _ h => by injection h with h; injection h with h1 h2; rw [← h1, ← h2]; exact lengthOf_word64 _ f
theorem EncodingLength.waitf (f : Form64) : EncodingLength.Statement (.waitf f) := fun _ _ _ h => by injection h with h; injection h with h1 h2; rw [← h1, ← h2]; exact lengthOf_word64 _ f
theorem EncodingLength.testf (f : Form64) : EncodingLength.Statement (.testf f) := fun _ _ _ h => by injection h with h; injection h with h1 h2; rw [← h1, ← h2]; exact lengthOf_word64 _ f
theorem EncodingLength.cancelf (f : Form64) : EncodingLength.Statement (.cancelf f) := fun _ _ _ h => by injection h with h; injection h with h1 h2; rw [← h1, ← h2]; exact lengthOf_word64 _ f
theorem EncodingLength.finfo (f : Form64) : EncodingLength.Statement (.finfo f) := fun _ _ _ h => by injection h with h; injection h with h1 h2; rw [← h1, ← h2]; exact lengthOf_word64 _ f
theorem EncodingLength.clause (f : Form64) : EncodingLength.Statement (.clause f) := fun _ _ _ h => by injection h with h; injection h with h1 h2; rw [← h1, ← h2]; exact lengthOf_word64 _ f
theorem EncodingLength.role (f : Form64) : EncodingLength.Statement (.role f) := fun _ _ _ h => by injection h with h; injection h with h1 h2; rw [← h1, ← h2]; exact lengthOf_word64 _ f
theorem EncodingLength.txb (f : Form64) : EncodingLength.Statement (.txb f) := fun _ _ _ h => by injection h with h; injection h with h1 h2; rw [← h1, ← h2]; exact lengthOf_word64 _ f
theorem EncodingLength.txe (f : Form64) : EncodingLength.Statement (.txe f) := fun _ _ _ h => by injection h with h; injection h with h1 h2; rw [← h1, ← h2]; exact lengthOf_word64 _ f
theorem EncodingLength.txa (f : Form64) : EncodingLength.Statement (.txa f) := fun _ _ _ h => by injection h with h; injection h with h1 h2; rw [← h1, ← h2]; exact lengthOf_word64 _ f
theorem EncodingLength.txst (f : Form64) : EncodingLength.Statement (.txst f) := fun _ _ _ h => by injection h with h; injection h with h1 h2; rw [← h1, ← h2]; exact lengthOf_word64 _ f
theorem EncodingLength.syscall (f : Form64) : EncodingLength.Statement (.syscall f) := fun _ _ _ h => by injection h with h; injection h with h1 h2; rw [← h1, ← h2]; exact lengthOf_word64 _ f
theorem EncodingLength.eret (f : Form64) : EncodingLength.Statement (.eret f) := fun _ _ _ h => by injection h with h; injection h with h1 h2; rw [← h1, ← h2]; exact lengthOf_word64 _ f
theorem EncodingLength.trap (f : Form64) : EncodingLength.Statement (.trap f) := fun _ _ _ h => by injection h with h; injection h with h1 h2; rw [← h1, ← h2]; exact lengthOf_word64 _ f
theorem EncodingLength.bpt (f : Form64) : EncodingLength.Statement (.bpt f) := fun _ _ _ h => by injection h with h; injection h with h1 h2; rw [← h1, ← h2]; exact lengthOf_word64 _ f
theorem EncodingLength.tlbi (f : Form64) : EncodingLength.Statement (.tlbi f) := fun _ _ _ h => by injection h with h; injection h with h1 h2; rw [← h1, ← h2]; exact lengthOf_word64 _ f
theorem EncodingLength.qwait (f : FormR) : EncodingLength.Statement (.qwait f) := fun h => by cases h
theorem EncodingLength.qseed (f : FormR) : EncodingLength.Statement (.qseed f) := fun h => by cases h
theorem EncodingLength.qeng (f : FormR) : EncodingLength.Statement (.qeng f) := fun h => by cases h
theorem EncodingLength.qfence (f : FormR) : EncodingLength.Statement (.qfence f) := fun h => by cases h
theorem EncodingLength.illegalOpcode (len : Nat) (word : DWord) : EncodingLength.Statement (.illegalOpcode len word) := fun h => by cases h
theorem EncodingLength.illegalInstructionException (word : Word) : EncodingLength.Statement (.illegalInstructionException word) := fun h => by cases h
theorem EncodingLength.agePromotion : EncodingLength.Statement .agePromotion := fun h => by cases h
theorem EncodingLength.reconvRelease : EncodingLength.Statement .reconvRelease := fun h => by cases h
theorem EncodingLength.heldSplit : EncodingLength.Statement .heldSplit := fun h => by cases h
theorem EncodingLength.valueArrival : EncodingLength.Statement .valueArrival := fun h => by cases h
theorem EncodingLength.targetFaultPark : EncodingLength.Statement .targetFaultPark := fun h => by cases h
theorem EncodingLength.warpRetire : EncodingLength.Statement .warpRetire := fun h => by cases h
theorem EncodingLength.groupPlace : EncodingLength.Statement .groupPlace := fun h => by cases h
theorem EncodingLength.preemptRequest : EncodingLength.Statement .preemptRequest := fun h => by cases h
theorem EncodingLength.groupResume : EncodingLength.Statement .groupResume := fun h => by cases h
theorem EncodingLength.lateReturn : EncodingLength.Statement .lateReturn := fun h => by cases h
theorem EncodingLength.sliceExpire : EncodingLength.Statement .sliceExpire := fun h => by cases h
theorem EncodingLength.swapOut : EncodingLength.Statement .swapOut := fun h => by cases h
theorem EncodingLength.wakeMessage : EncodingLength.Statement .wakeMessage := fun h => by cases h
theorem EncodingLength.roleSwitch : EncodingLength.Statement .roleSwitch := fun h => by cases h
theorem EncodingLength.matrixIssue : EncodingLength.Statement .matrixIssue := fun h => by cases h
theorem EncodingLength.matrixStep : EncodingLength.Statement .matrixStep := fun h => by cases h
theorem EncodingLength.floodMessageArrive : EncodingLength.Statement .floodMessageArrive := fun h => by cases h
theorem EncodingLength.cairnOpen : EncodingLength.Statement .cairnOpen := fun h => by cases h
theorem EncodingLength.clauseDispatch : EncodingLength.Statement .clauseDispatch := fun h => by cases h
theorem EncodingLength.gatherTimeoutClose : EncodingLength.Statement .gatherTimeoutClose := fun h => by cases h
theorem EncodingLength.spillClauseDrain : EncodingLength.Statement .spillClauseDrain := fun h => by cases h
theorem EncodingLength.cancelArrive : EncodingLength.Statement .cancelArrive := fun h => by cases h
theorem EncodingLength.echoArrive : EncodingLength.Statement .echoArrive := fun h => by cases h
theorem EncodingLength.cairnEcho : EncodingLength.Statement .cairnEcho := fun h => by cases h
theorem EncodingLength.cairnFree : EncodingLength.Statement .cairnFree := fun h => by cases h
theorem EncodingLength.silenceExpire : EncodingLength.Statement .silenceExpire := fun h => by cases h
theorem EncodingLength.mapReread : EncodingLength.Statement .mapReread := fun h => by cases h
theorem EncodingLength.signatureRollover : EncodingLength.Statement .signatureRollover := fun h => by cases h
theorem EncodingLength.waitWake : EncodingLength.Statement .waitWake := fun h => by cases h
theorem EncodingLength.waitRecheck : EncodingLength.Statement .waitRecheck := fun h => by cases h
theorem EncodingLength.monitorFire : EncodingLength.Statement .monitorFire := fun h => by cases h
theorem EncodingLength.lmwaitTimeout : EncodingLength.Statement .lmwaitTimeout := fun h => by cases h
theorem EncodingLength.bucketWindow : EncodingLength.Statement .bucketWindow := fun h => by cases h
theorem EncodingLength.remoteRequest : EncodingLength.Statement .remoteRequest := fun h => by cases h
theorem EncodingLength.forwardResponse : EncodingLength.Statement .forwardResponse := fun h => by cases h
theorem EncodingLength.pageMigrate : EncodingLength.Statement .pageMigrate := fun h => by cases h
theorem EncodingLength.foreignWrite : EncodingLength.Statement .foreignWrite := fun h => by cases h
theorem EncodingLength.bar2Access : EncodingLength.Statement .bar2Access := fun h => by cases h
theorem EncodingLength.hubTimeout : EncodingLength.Statement .hubTimeout := fun h => by cases h
theorem EncodingLength.txValidateCheck : EncodingLength.Statement .txValidateCheck := fun h => by cases h
theorem EncodingLength.tokenGrant : EncodingLength.Statement .tokenGrant := fun h => by cases h
theorem EncodingLength.tokenTimeout : EncodingLength.Statement .tokenTimeout := fun h => by cases h
theorem EncodingLength.tileLanding : EncodingLength.Statement .tileLanding := fun h => by cases h
theorem EncodingLength.engineComplete : EncodingLength.Statement .engineComplete := fun h => by cases h
theorem EncodingLength.collectiveReport : EncodingLength.Statement .collectiveReport := fun h => by cases h
theorem EncodingLength.trigFire : EncodingLength.Statement .trigFire := fun h => by cases h
theorem EncodingLength.trapEntry : EncodingLength.Statement .trapEntry := fun h => by cases h
theorem EncodingLength.faultRecordFree : EncodingLength.Statement .faultRecordFree := fun h => by cases h
theorem EncodingLength.faultEntryWrite : EncodingLength.Statement .faultEntryWrite := fun h => by cases h
theorem EncodingLength.scrubStep : EncodingLength.Statement .scrubStep := fun h => by cases h
theorem EncodingLength.tailDoorbell : EncodingLength.Statement .tailDoorbell := fun h => by cases h
theorem EncodingLength.qctlEnable : EncodingLength.Statement .qctlEnable := fun h => by cases h
theorem EncodingLength.qctlStop : EncodingLength.Statement .qctlStop := fun h => by cases h
theorem EncodingLength.qctlClear : EncodingLength.Statement .qctlClear := fun h => by cases h
theorem EncodingLength.fdresolve : EncodingLength.Statement .fdresolve := fun h => by cases h
theorem EncodingLength.ackPaused : EncodingLength.Statement .ackPaused := fun h => by cases h
theorem EncodingLength.registerWrite : EncodingLength.Statement .registerWrite := fun h => by cases h
theorem EncodingLength.seedPacket : EncodingLength.Statement .seedPacket := fun h => by cases h
theorem EncodingLength.copyPacket : EncodingLength.Statement .copyPacket := fun h => by cases h
theorem EncodingLength.waitPacket : EncodingLength.Statement .waitPacket := fun h => by cases h
theorem EncodingLength.signalPacket : EncodingLength.Statement .signalPacket := fun h => by cases h
theorem EncodingLength.fencePacket : EncodingLength.Statement .fencePacket := fun h => by cases h
theorem EncodingLength.cancelPacket : EncodingLength.Statement .cancelPacket := fun h => by cases h
theorem EncodingLength.stage : EncodingLength.Statement .stage := fun h => by cases h
theorem EncodingLength.verify : EncodingLength.Statement .verify := fun h => by cases h
theorem EncodingLength.activate : EncodingLength.Statement .activate := fun h => by cases h
theorem EncodingLength.activationQuiesce : EncodingLength.Statement .activationQuiesce := fun h => by cases h
theorem EncodingLength.raisesvn : EncodingLength.Statement .raisesvn := fun h => by cases h
theorem EncodingLength.enrol : EncodingLength.Statement .enrol := fun h => by cases h
theorem EncodingLength.keydis : EncodingLength.Statement .keydis := fun h => by cases h
theorem EncodingLength.vendoroff : EncodingLength.Statement .vendoroff := fun h => by cases h
theorem EncodingLength.extend : EncodingLength.Statement .extend := fun h => by cases h
theorem EncodingLength.setplim : EncodingLength.Statement .setplim := fun h => by cases h
theorem EncodingLength.setpoint : EncodingLength.Statement .setpoint := fun h => by cases h
theorem EncodingLength.migrateOut : EncodingLength.Statement .migrateOut := fun h => by cases h
theorem EncodingLength.migrateIn : EncodingLength.Statement .migrateIn := fun h => by cases h
theorem EncodingLength.resync : EncodingLength.Statement .resync := fun h => by cases h
theorem EncodingLength.linktrain : EncodingLength.Statement .linktrain := fun h => by cases h
theorem EncodingLength.getVersion : EncodingLength.Statement .getVersion := fun h => by cases h
theorem EncodingLength.getCapabilities : EncodingLength.Statement .getCapabilities := fun h => by cases h
theorem EncodingLength.negotiateAlgorithms : EncodingLength.Statement .negotiateAlgorithms := fun h => by cases h
theorem EncodingLength.getDigests : EncodingLength.Statement .getDigests := fun h => by cases h
theorem EncodingLength.getCertificate : EncodingLength.Statement .getCertificate := fun h => by cases h
theorem EncodingLength.challenge : EncodingLength.Statement .challenge := fun h => by cases h
theorem EncodingLength.getMeasurements : EncodingLength.Statement .getMeasurements := fun h => by cases h
theorem EncodingLength.setCertificate : EncodingLength.Statement .setCertificate := fun h => by cases h
theorem EncodingLength.railStep : EncodingLength.Statement .railStep := fun h => by cases h
theorem EncodingLength.railWindowMiss : EncodingLength.Statement .railWindowMiss := fun h => by cases h
theorem EncodingLength.inputLoss : EncodingLength.Statement .inputLoss := fun h => by cases h
theorem EncodingLength.romBoot : EncodingLength.Statement .romBoot := fun h => by cases h
theorem EncodingLength.selfTest : EncodingLength.Statement .selfTest := fun h => by cases h
theorem EncodingLength.powerSample : EncodingLength.Statement .powerSample := fun h => by cases h
theorem EncodingLength.powerWindow : EncodingLength.Statement .powerWindow := fun h => by cases h
theorem EncodingLength.dvfsChange : EncodingLength.Statement .dvfsChange := fun h => by cases h
theorem EncodingLength.trainingStart : EncodingLength.Statement .trainingStart := fun h => by cases h
theorem EncodingLength.trainingAbort : EncodingLength.Statement .trainingAbort := fun h => by cases h
theorem EncodingLength.trainingStep : EncodingLength.Statement .trainingStep := fun h => by cases h
theorem EncodingLength.trainingStepTimeout : EncodingLength.Statement .trainingStepTimeout := fun h => by cases h
theorem EncodingLength.linkStart : EncodingLength.Statement .linkStart := fun h => by cases h
theorem EncodingLength.linkDown : EncodingLength.Statement .linkDown := fun h => by cases h
theorem EncodingLength.linkStateAdvance : EncodingLength.Statement .linkStateAdvance := fun h => by cases h
theorem EncodingLength.linkStateTimeout : EncodingLength.Statement .linkStateTimeout := fun h => by cases h
theorem EncodingLength.linkLoss : EncodingLength.Statement .linkLoss := fun h => by cases h
theorem EncodingLength.functionReset : EncodingLength.Statement .functionReset := fun h => by cases h
theorem EncodingLength.moduleReset : EncodingLength.Statement .moduleReset := fun h => by cases h
theorem EncodingLength.storeAcknowledgement : EncodingLength.Statement .storeAcknowledgement := fun h => by cases h
theorem EncodingLength.dirtyWriteBack : EncodingLength.Statement .dirtyWriteBack := fun h => by cases h
theorem EncodingLength.eccError : EncodingLength.Statement .eccError := fun h => by cases h
theorem EncodingLength.powerDown : EncodingLength.Statement .powerDown := fun h => by cases h
theorem EncodingLength.railLoss : EncodingLength.Statement .railLoss := fun h => by cases h
theorem EncodingLength.pcieCxlLinkTraining : EncodingLength.Statement .pcieCxlLinkTraining := fun h => by cases h
theorem EncodingLength.cxlMemRequest : EncodingLength.Statement .cxlMemRequest := fun h => by cases h
theorem EncodingLength.invalidPacketType : EncodingLength.Statement .invalidPacketType := fun h => by cases h
theorem EncodingLength.badcmd : EncodingLength.Statement .badcmd := fun h => by cases h
theorem EncodingLength.unsupportedSpdmRequest : EncodingLength.Statement .unsupportedSpdmRequest := fun h => by cases h

end Sys2Proof.Laws
end

