-- ==== Sys2Proof/Machine/Readback.lean ====
section
/-! DEFINITION. What a read of a register returns: the BAR0 blocks of R376 to R378, R382, R396, R397, R400, R410 to R413 and R415, and the control space of R406 and R408. A read changes nothing. -/

namespace Sys2Proof.Machine

/-- A byte list read as the 64-bit word at an offset; beyond its end it reads zero. -/
def wordAt (bs : List Byte) (off : Nat) : Nat := ofLe ((bs.drop off).take 8)

/-! ### Status window and report (R396, R400) -/

/-- A report entry's 16 bytes. -/
def ReportEntry.bytes (e : ReportEntry) : List Byte :=
  leBytes 8 (e.cls.toNat + e.test.toNat * 2 ^ 8 + e.inst.toNat * 2 ^ 16 + e.result.toNat * 2 ^ 32 + e.spares.toNat * 2 ^ 48) ++ leBytes 8 e.detail.toNat

/-- Fabric ports of a module in a state. -/
def Module.portsIn (z : Module) (state : Nat) : Nat := ((List.range 64).filter (fun n => (z.fabricOf n).state == state)).length

/-- The self-test report: its header, and at most 239 entries (R400). -/
def Module.reportBytes (z : Module) : List Byte :=
  leBytes 2 z.report.length ++ [if z.report.any (fun e => e.result == 2#8) then 1#8 else 0#8, 0#8, BitVec.ofNat 8 (z.portsIn 6), BitVec.ofNat 8 (z.portsIn 8)] ++
    leBytes 10 0 ++ (z.report.take 239).flatMap ReportEntry.bytes

/-- A word of the status window (R396). -/
def Module.statusWord (z : Module) (off : Nat) : Nat :=
  if off < 0x038 then z.statusWords.getD (off / 8) 0 else if off < 0x100 then 0 else wordAt z.reportBytes (off - 0x100)

/-! ### Mailbox, queue pages and module block (R377, R382, R397, R413) -/

/-- A word of the mailbox block (R397): GO stays set while the command that it started runs (R6, log 88). -/
def Module.mailboxWord (z : Module) (off : Nat) : Nat :=
  if off = 0 then z.mbCode % 2 ^ 8 + z.mbLen % 2 ^ 16 * 2 ^ 16
  else if off = 8 then z.mbBusy.toNat
  else if off = 0x10 then z.mbBusy.toNat + z.mbResult % 2 ^ 8 * 2 ^ 8 + z.mbRlen % 2 ^ 16 * 2 ^ 16
  else if off < 0x100 then 0
  else wordAt ((List.range 8).map (fun i => SMap.get 0#8 z.mbData (off - 0x100 + i))) 0

/-- A word of a queue's page (R382): QCTL acts at once and reads zero (log 88). -/
def State.queueWord (s : State) (q off : Nat) : Nat :=
  let z := s.queue q
  match off with
  | 0x00 => z.qbase.toNat | 0x08 => z.qsize.toNat | 0x10 => z.ridxaddr.toNat
  | 0x20 => z.state.code | 0x28 => z.qerr.toNat | 0x30 => z.tail.toNat | 0x38 => z.ridx.toNat
  | _ => 0

/-- A word of the module block (R377, R413). -/
def State.moduleWord (s : State) (m off : Nat) : Nat :=
  let z := s.module m
  if off = 0x220 then z.hubTmo else if off = 0x228 then m % 32 else (SMap.get 0#64 z.pf off).toNat

/-- A word of a context block (R378, R379, R412): FDRESOLVE reads zero, and CDOM holds the module's own bit and lies within DOMMASK. -/
def State.ctxWord (s : State) (x off : Nat) : Nat :=
  if off = 0x080 then 0 else if off = 0x088 then (s.ctx x).acked.toNat else if off = 0x0B0 then s.cdom x else s.ctxReg x off

/-! ### The capability list (R410, R411) -/

/-- The entries that are listed, in order: id and body (R411). They are fixed from the end of the self-test on but for FABRIC and CXLPOOL (R410). -/
def State.capabilities (s : State) (m : Nat) : List (Nat × List Byte) :=
  let z := s.module m
  let up := (List.range 64).foldl (fun n p => if (z.fabricOf p).state = 6 then n + 2 ^ p else n) 0
  [(1, leBytes 4 Config.partRevision.toNat ++ leBytes 12 (m % 32 + z.vfs * 2 ^ 8)), (2, leBytes 8 up),
   (3, leBytes 8 (if z.poolPort = .cxl then z.poolBytes.toNat else 0)), (4, []), (5, leBytes 8 1), (6, leBytes 8 0x00202000), (7, leBytes 8 (4096 + 32 * 2 ^ 32))]

/-- The chain of entries from an offset on, each with its header (R410). -/
def capabilityChain : List (Nat × List Byte) → (off : Nat) → List Byte
  | [], _ => []
  | (id, body) :: t, off =>
    let len := 8 + body.length
    leBytes 8 (id + 2 ^ 16 + len * 2 ^ 32 + (if t.isEmpty then 0 else off + len) * 2 ^ 48) ++ body ++ capabilityChain t (off + len)

/-- The capability list of a module. -/
def State.capabilityBytes (s : State) (m : Nat) : List Byte := capabilityChain (s.capabilities m) 0

/-! ### The control space (R406, R408) -/

/-- A word of a PHY block (R406): START and ABORT stay set while what they started is under way (R6, log 88). -/
def Phy.word (p : Phy) (off : Nat) : Nat :=
  match off with
  | 0x00 => p.running.toNat + p.aborting.toNat * 2 + p.first % 16 * 2 ^ 8 + p.last % 16 * 2 ^ 12
  | 0x08 => p.done.toNat + p.fail.toNat * 2 + p.step % 16 * 2 ^ 4 + p.failstep % 16 * 2 ^ 8 + min p.errcnt 255 * 2 ^ 24
  | 0x10 => p.zqup % 64 + p.zqdn % 64 * 2 ^ 8
  | 0x18 => p.wl.toNat | 0x20 => p.rg.toNat | 0x28 => p.reye.toNat | 0x30 => p.weye.toNat | 0x38 => p.vref % 64
  | _ => 0

/-! ### Reads (R376) -/

/-- The aligned 64-bit word at an offset of the physical function's BAR0. -/
def State.pfWord (s : State) (m off : Nat) : Nat :=
  let z := s.module m
  if off < 0x1000 then z.statusWord off
  else if off < 0x2000 then z.mailboxWord (off - 0x1000)
  else if 0x100000 ≤ off ∧ off < 0x120000 then s.queueWord (32 * m + (off - 0x100000) / 4096) (off % 4096)
  else if 0x200000 ≤ off ∧ off < 0x201000 then s.moduleWord m (off - 0x200000)
  else if 0x201000 ≤ off ∧ off < 0x202000 then wordAt (s.capabilityBytes m) (off - 0x201000)
  else if 0x202000 ≤ off ∧ off < 0x203000 then z.counterWord (off - 0x202000)
  else if 0x300000 ≤ off ∧ off < 0x320000 then s.ctxWord (32 * m + (off - 0x300000) / 4096) (off % 4096)
  else 0

/-- The aligned 64-bit word at an offset of a virtual function's BAR0: its queues by rank, its doorbell page, which reads zero, and the view of its
context block. -/
def State.vfWord (s : State) (m f off : Nat) : Nat :=
  if off < 0x20000 then
    match (s.queuesOf m (fun x => x == 32 * m + f))[off / 4096]? with
    | some q => s.queueWord q (off % 4096)
    | none => 0
  else if 0x21000 ≤ off ∧ off < 0x22000 then s.ctxWord (32 * m + f) (off - 0x21000)
  else 0

/-- The aligned 64-bit word at an address of the housekeeping control space. -/
def Module.controlWord (z : Module) (a : Nat) : Nat :=
  if 0x21000000 ≤ a ∧ a < 0x21020000 then (z.phyOf ((a - 0x21000000) / 256)).word (a % 256)
  else if 0x22000000 ≤ a ∧ a < 0x22004000 then (z.fabricOf ((a - 0x22000000) / 256)).words.getD (a % 256 / 8) 0
  else 0

/-- The value that a naturally aligned read of 1, 2, 4 or 8 bytes of a register returns (R6). -/
def State.registerRead (s : State) (t : RegTarget) (size : Nat) : DWord :=
  let w : Nat := match t with
    | .pf m o => s.pfWord m (o / 8 * 8)
    | .vf m f o => s.vfWord m f (o / 8 * 8)
    | .control m a => (s.module m).controlWord (a / 8 * 8)
  BitVec.ofNat 64 (field w (8 * (regOffset t % 8)) (8 * size))

end Sys2Proof.Machine
end

