-- ==== Sys2Proof/Tests/Slice0.lean ====
section
/-! SUPPORT. The author's tests: instructions' words written out from the encoding tables decode to their instructions, ill-formed instructions are refused,
and for each obligation a concrete state and operands meet its hypotheses. -/

namespace Sys2Proof.Tests

set_option Elab.async false

open Machine Safety

/-! ### Decoding (R195 to R223, R381)

Every table below lists words computed from the encoding tables of spec/10_encoding_and_opcode_map.md and spec/opcode_table.json: the opcode in its place,
and one fixed pattern in the other fields. -/

/-- Fields d = 0b101011 and s = 0b10010 of a 16-bit word (R198). -/
def f16 : Form16 := { rd := 43#6, rs := 18#5 }

theorem test_decode_16 : [0x0AE4, 0x1AE4, 0x2AE4, 0x3AE4, 0x4AE4, 0x5AE4, 0x6AE4, 0x7AE4, 0x8AE4, 0x9AE4, 0xAAE4, 0xBAE4, 0xCAE4, 0xDAE4, 0xEAE4, 0xFAE4].map (decodeTableWord 16) =
  [.mov16 f16, .movi16 f16, .iadd16 f16, .isub16 f16, .imul16 f16, .and16 f16, .or16 f16, .xor16 f16, .shl16 f16, .shr16 f16, .sar16 f16,
    .fadd16 f16, .fsub16 f16, .fmul16 f16, .fmin16 f16, .fmax16 f16].map some := by decide +kernel

/-- Fields d = 85, a = 38, b = 89 and g = 5 of a 32-bit word (R200). -/
def f32 : Form32 := { rd := 85#7, rs1 := 38#7, rs2 := 89#7, guard := 5#3 }

/-- The same where the row fixes field b at 0. -/
def f32b : Form32 := { f32 with rs2 := 0#7 }

theorem test_decode_32_binary : [0x02AA6B35, 0x06AA6B35, 0x0AAA6B35, 0x0EAA6B35, 0x12AA6B35, 0x16AA6B35, 0x1AAA6B35, 0x1EAA6B35, 0x22AA6B35, 0x26AA6B35, 0x2AAA6B35, 0x2EAA6B35,
    0x32AA6B35, 0x36AA6B35, 0x3AAA6B35, 0x3EAA6B35, 0x42AA6B35, 0x46AA6B35, 0x4AAA6B35, 0x4EAA6B35, 0x52AA6B35, 0x56AA6B35, 0x5AAA6B35, 0x5EAA6B35,
    0x62AA6B35, 0x66AA6B35, 0x6AAA6B35, 0x6EAA6B35, 0x72AA6B35].map (decodeTableWord 32) =
  [.iadd32 f32, .isub32 f32, .imul32 f32, .imulhi32 f32, .imulhn32 f32, .imini32 f32, .imaxi32 f32, .iminn32 f32, .imaxn32 f32, .and32 f32,
    .or32 f32, .xor32 f32, .shl32 f32, .shr32 f32, .sar32 f32, .rot32 f32, .fadd32 f32, .fsub32 f32, .fmul32 f32, .fmin32 f32, .fmax32 f32,
    .pfadd32 f32, .pfmul32 f32, .pfmin32 f32, .pfmax32 f32, .dadd32 f32, .dmul32 f32, .dmin32 f32, .dmax32 f32].map some := by decide +kernel

theorem test_decode_32_unary : [0x76AA6015, 0x7AAA6015, 0x7EAA6015, 0x82AA6015, 0x86AA6015, 0x8AAA6015, 0x8EAA6015, 0x92AA6015, 0x96AA6015, 0x9AAA6015, 0x9EAA6015, 0xA2AA6015,
    0xA6AA6015].map (decodeTableWord 32) =
  [.mov32 f32b, .ineg32 f32b, .iabs32 f32b, .not32 f32b, .popc32 f32b, .clz32 f32b, .ctz32 f32b, .brev32 f32b, .frcp32 f32b, .frsq32 f32b,
    .fsqrt32 f32b, .fexp232 f32b, .flog232 f32b].map some := by decide +kernel

/-- The fields of a 64-bit word (R202, R205): rd 0xA5, rs1 0x5A, rs2 0xC3, rs3 0x96, guard 9, negated, TE 5, IV 1, UF 0, C3 6, RM 2, TY 13. -/
def f64 : Form64 :=
  { rd := 0xA5#8, rs1 := 0x5A#8, rs2 := 0xC3#8, rs3 := 0x96#8, guard := 9#4, negate := true, te := 5#3, iv := 1#2, uf := false, c3 := 6#3, rm := 2#2, ty := 13#4 }

/-- The word of an opcode (bits 63 to 54) with those fields. -/
def word64 (opcode : Nat) : Nat := opcode * 2 ^ 54 + 0x2956B0E5A756B7

theorem test_decode_control : (List.range 11).map (fun k => decodeTableWord 64 (word64 (0x000 + k))) =
  [.bra f64, .brx f64, .call f64, .callx f64, .ret f64, .reconv f64, .prio f64, .yield f64, .loop f64, .nop f64, .exit f64].map some := by decide +kernel

theorem test_decode_integer : (List.range 32).map (fun k => decodeTableWord 64 (word64 (0x040 + k))) =
  [.iadd64 f64, .isum f64, .isub64 f64, .ineg64 f64, .iabs64 f64, .imul64 f64, .imulh64 f64, .imad f64, .imadw f64, .imin64 f64, .imax64 f64,
    .isad f64, .and64 f64, .or64 f64, .xor64 f64, .not64 f64, .blut f64, .shl64 f64, .shr64 f64, .sar64 f64, .shf f64, .rot64 f64, .popc64 f64,
    .clz64 f64, .ctz64 f64, .brev64 f64, .bxtr f64, .bins f64, .bsel f64, .lea f64, .icmp f64, .isel f64].map some := by decide +kernel

theorem test_decode_predicates_and_moves : (List.range 13).map (fun k => decodeTableWord 64 (word64 (0x080 + k))) =
  [.pset f64, .plut f64, .pmov f64, .pgath f64, .lpeer f64, .mov64 f64, .movi64 f64, .movw f64, .s2v f64, .v2s f64, .lxch f64, .srr f64, .srw f64].map some := by decide +kernel

theorem test_decode_fp32 : (List.range 18).map (fun k => decodeTableWord 64 (word64 (0x0C0 + k))) =
  [.fadd64 f64, .fsub64 f64, .fmul64 f64, .ffma f64, .fmin64 f64, .fmax64 f64, .fcmp f64, .fsel f64, .fclass f64, .frnd f64, .frcp64 f64,
    .frsq64 f64, .fsqrt64 f64, .fexp264 f64, .flog264 f64, .fsin f64, .fcos f64, .ftanh f64].map some := by decide +kernel

theorem test_decode_packed_and_fp64 : (List.range 11).map (fun k => decodeTableWord 64 (word64 (0x100 + k))) =
  [.pfadd64 f64, .pfmul64 f64, .pffma f64, .pfmin64 f64, .pfmax64 f64, .dadd64 f64, .dmul64 f64, .dfma f64, .dmin64 f64, .dmax64 f64, .dcmp f64].map some := by decide +kernel

theorem test_decode_conversion : (List.range 5).map (fun k => decodeTableWord 64 (word64 (0x140 + k))) =
  [.cvt f64, .cvtq f64, .cvtd f64, .pack f64, .unpk f64].map some := by decide +kernel

theorem test_decode_memory : (List.range 9).map (fun k => decodeTableWord 64 (word64 (0x180 + k))) =
  [.ld f64, .st f64, .ldx f64, .stx f64, .pref f64, .cctl f64, .maps f64, .unmaps f64, .flushs f64].map some := by decide +kernel

theorem test_decode_atomics_and_barriers : (List.range 13).map (fun k => decodeTableWord 64 (word64 (0x1C0 + k))) =
  [.atom f64, .atomc f64, .red f64, .waitv f64, .lmon f64, .lmwait f64, .fence f64, .barInit f64, .barExp f64, .barArv f64, .barWait f64,
    .barTest f64, .claim f64].map some := by decide +kernel

theorem test_decode_tiles : (List.range 17).map (fun k => decodeTableWord 64 (word64 (0x200 + k))) =
  [.tres f64, .trel f64, .tld f64, .tst f64, .twr f64, .trd f64, .magree f64, .msign f64, .mma f64, .mmaq f64, .mmas f64, .dmma f64, .accz f64,
    .accrd f64, .accwr f64, .accrmax f64, .accscl f64].map some := by decide +kernel

theorem test_decode_engines : (List.range 5).map (fun k => decodeTableWord 64 (word64 (0x240 + k))) =
  [.copy f64, .txfer f64, .trig f64, .scbset f64, .scbclr f64].map some := by decide +kernel

theorem test_decode_floods : (List.range 8).map (fun k => decodeTableWord 64 (word64 (0x280 + k))) =
  [.flood f64, .echo f64, .waitf f64, .testf f64, .cancelf f64, .finfo f64, .clause f64, .role f64].map some := by decide +kernel

theorem test_decode_transactions : (List.range 4).map (fun k => decodeTableWord 64 (word64 (0x2C0 + k))) =
  [.txb f64, .txe f64, .txa f64, .txst f64].map some := by decide +kernel

theorem test_decode_system : (List.range 5).map (fun k => decodeTableWord 64 (word64 (0x300 + k))) =
  [.syscall f64, .eret f64, .trap f64, .bpt f64, .tlbi f64].map some := by decide +kernel

/-- R199, R211: the decoder refuses opcodes of no row, and what issues is the instruction that traps ILLEGAL_OPCODE. -/
theorem test_decode_unassigned : [0x00B, 0x060, 0x0D2, 0x189, 0x305, 0x340, 0x3FF].all
    (fun k => decide (decodeTableWord 64 (word64 k) = none ∧ instrOf 8 (word64 k) = .illegalOpcode 8 (BitVec.ofNat 64 (word64 k)))) = true := by decide +kernel

/-- The vendor instructions (R381): rs2 = 21, rs1 = 10, funct3 = 5 where the row leaves it free, rd = 18. -/
theorem test_decode_vendor :
    decodeTableWord 32 0x0155590B = some (.qwait { rs2 := 21#5, rs1 := 10#5, funct3 := 5#3, rd := 18#5 }) ∧
    decodeTableWord 32 0x0355090B = some (.qseed { rs2 := 21#5, rs1 := 10#5, funct3 := 0#3, rd := 18#5 }) ∧
    decodeTableWord 32 0x0555090B = some (.qeng { rs2 := 21#5, rs1 := 10#5, funct3 := 0#3, rd := 18#5 }) ∧
    decodeTableWord 32 0x0600500B = some (.qfence { rs2 := 0#5, rs1 := 0#5, funct3 := 5#3, rd := 0#5 }) := by decide +kernel

/-- The spec's own example words (the "Word" lines of its instruction sections): one per family, with the fields that its text gives. -/
def z64 : Form64 :=
  { rd := 0, rs1 := 0, rs2 := 0, rs3 := 0, guard := 15#4, negate := false, te := 0, iv := 0, uf := false, c3 := 0, rm := 0, ty := 0 }
theorem test_spec_words_control :
    decodeTableWord 64 0x0000000002442003 = some (.bra { z64 with rs3 := 9#8, guard := 1#4, iv := 2#2 }) ∧
    decodeTableWord 64 0x0201003FFEBC1003 = some (.loop { z64 with rd := 4#8, rs2 := 0xFF#8, rs3 := 0xFA#8, iv := 1#2 }) ∧
    decodeTableWord 64 0x02018000003C1003 = some (.loop { z64 with rd := 6#8, iv := 1#2 }) ∧
    decodeTableWord 64 0x01C00000003C0003 = some (.yield z64) ∧
    decodeTableWord 64 0x02800000003C0003 = some (.exit z64) := by decide +kernel

theorem test_spec_words_integer :
    decodeTableWord 64 0x17800000043C120B = some (.icmp { z64 with rs3 := 16#8, iv := 1#2, c3 := 2#3, ty := 2#4 }) ∧
    decodeTableWord 64 0x108080800402100B = some (.isub64 { z64 with rd := 2#8, rs1 := 2#8, rs3 := 16#8, guard := 0#4, negate := true, iv := 1#2, ty := 2#4 }) ∧
    decodeTableWord 64 0x1741B10000BC000B = some (.lea { z64 with rd := 6#8, rs1 := 196#8, rs3 := 2#8, ty := 2#4 }) := by decide +kernel

theorem test_spec_words_float :
    decodeTableWord 64 0x3081010FC03C1003 = some (.fmul64 { z64 with rd := 4#8, rs1 := 4#8, rs2 := 0x3F#8, iv := 1#2 }) ∧
    decodeTableWord 64 0x30C28080C13C0083 = some (.ffma { z64 with rd := 10#8, rs1 := 2#8, rs2 := 3#8, rs3 := 4#8, rm := 2#2 }) ∧
    decodeTableWord 64 0x50014200043C000F = some (.cvt { z64 with rd := 5#8, rs1 := 8#8, rs3 := 0x10#8, ty := 3#4 }) := by decide +kernel

theorem test_spec_words_memory :
    decodeTableWord 64 0x6002C280003C1003 = some (.ld { z64 with rd := 11#8, rs1 := 10#8, iv := 1#2 }) ∧
    decodeTableWord 64 0x6006C78001181003 = some (.ld { z64 with rd := 27#8, rs1 := 30#8, rs3 := 4#8, guard := 6#4, iv := 1#2 }) ∧
    decodeTableWord 64 0x6043023FFF3C1003 = some (.st { z64 with rd := 12#8, rs1 := 8#8, rs2 := 0xFF#8, rs3 := 0xFC#8, iv := 1#2 }) ∧
    decodeTableWord 64 0x608100C0003C1003 = some (.ldx { z64 with rd := 4#8, rs1 := 3#8, iv := 1#2 }) := by decide +kernel

theorem test_spec_words_atomics :
    decodeTableWord 64 0x70020080C03C000B = some (.atom { z64 with rd := 8#8, rs1 := 2#8, rs2 := 3#8, ty := 2#4 }) ∧
    decodeTableWord 64 0x70058506003C00CB = some (.atom { z64 with rd := 22#8, rs1 := 20#8, rs2 := 24#8, rm := 3#2, ty := 2#4 }) ∧
    decodeTableWord 64 0x70038083043C0007 = some (.atom { z64 with rd := 14#8, rs1 := 2#8, rs2 := 12#8, rs3 := 0x10#8, ty := 1#4 }) ∧
    decodeTableWord 64 0x71800000003C0687 = some (.fence { z64 with c3 := 6#3, rm := 2#2, ty := 1#4 }) := by decide +kernel

theorem test_spec_words_tiles :
    decodeTableWord 64 0x8000001020BC2003 = some (.tres { z64 with rs2 := 0x40#8, rs3 := 0x82#8, iv := 2#2 }) ∧
    decodeTableWord 64 0x81000080003C0103 = some (.twr { z64 with rs1 := 2#8, c3 := 1#3 }) ∧
    decodeTableWord 64 0x818030C0003C0003 = some (.magree { z64 with rs1 := 195#8 }) ∧
    decodeTableWord 64 0x82000000403C000B = some (.mma { z64 with rs2 := 1#8, ty := 2#4 }) ∧
    decodeTableWord 64 0x81C00000003C0003 = some (.msign z64) ∧
    decodeTableWord 64 0x83410000003C1003 = some (.accrd { z64 with rd := 4#8, iv := 1#2 }) ∧
    decodeTableWord 64 0x84004C40003C0103 = some (.accscl { z64 with rd := 1#8, rs1 := 49#8, c3 := 1#3 }) := by decide +kernel

theorem test_spec_words_floods :
    decodeTableWord 64 0xA0018100003C0003 = some (.flood { z64 with rd := 6#8, rs1 := 4#8 }) ∧
    decodeTableWord 64 0xA0820180003C0003 = some (.waitf { z64 with rd := 8#8, rs1 := 6#8 }) ∧
    decodeTableWord 64 0xA0400080003C0007 = some (.echo { z64 with rs1 := 2#8, ty := 1#4 }) ∧
    decodeTableWord 64 0xA0400100003C0007 = some (.echo { z64 with rs1 := 4#8, ty := 1#4 }) := by decide +kernel

theorem test_spec_words_transactions_and_system :
    decodeTableWord 64 0xB0000000043C1003 = some (.txb { z64 with rs3 := 16#8, iv := 1#2 }) ∧
    decodeTableWord 64 0xB0404000003C0003 = some (.txe { z64 with rd := 1#8 }) ∧
    decodeTableWord 64 0xB0C1400000060003 = some (.txst { z64 with rd := 5#8, guard := 1#4, negate := true }) ∧
    decodeTableWord 64 0xC000000004BC1003 = some (.syscall { z64 with rs3 := 0x12#8, iv := 1#2 }) ∧
    decodeTableWord 64 0xC0400000003C0003 = some (.eret z64) ∧
    decodeTableWord 64 0xC1003200003C0683 = some (.tlbi { z64 with rs1 := 200#8, c3 := 6#3, rm := 2#2 }) := by decide +kernel

theorem test_spec_words_short : decodeTableWord 16 0xB246 = some (.fadd16 { rd := 9#6, rs := 3#5 }) ∧
    decodeTableWord 32 0x00102001 = some (.iadd32 { rd := 2#7, rs1 := 2#7, rs2 := 0#7, guard := 0#3 }) ∧
    decodeTableWord 32 0x00C5850B = some (.qwait { rs2 := 12#5, rs1 := 11#5, funct3 := 0#3, rd := 10#5 }) := by decide +kernel

/-! ### Ill-formed instructions (R197 step 3, R203 to R210, R381): one per check. -/

/-- R206: IV 2 is no variant of IADD; a shift immediate above 63; a PRIO immediate above 255. -/
theorem test_wf_immediates : (Instr.iadd64 { z64 with iv := 2#2, ty := 2#4 }).wf = false ∧
    (Instr.shl64 { z64 with iv := 1#2, rs3 := 64#8 }).wf = false ∧ (Instr.prio { z64 with iv := 1#2, rs2 := 1#8 }).wf = false ∧
    (Instr.shl64 { z64 with iv := 1#2, rs3 := 63#8 }).wf = true := by decide +kernel

/-- R205, R210: TY 0 of IADD, a modifier that MOV does not have, UF where the map shows no U. -/
theorem test_wf_modifiers : (Instr.iadd64 z64).wf = false ∧ (Instr.mov64 { z64 with c3 := 1#3 }).wf = false ∧
    (Instr.ld { z64 with uf := true }).wf = false ∧ (Instr.iadd64 { z64 with uf := true, ty := 2#4 }).wf = true := by decide +kernel

/-- R203: a whole-warp instruction has guard 15 and no negation. -/
theorem test_wf_whole_warp : (Instr.reconv { z64 with guard := 1#4 }).wf = false ∧ (Instr.eret { z64 with negate := true }).wf = false := by decide +kernel

/-- R209: a pair starts at an even register, a uniform register is below 64, a predicate and a tile below 16, an accumulator below 4, an absent field 0. -/
theorem test_wf_registers : (Instr.dadd64 { z64 with rd := 1#8, ty := 10#4 }).wf = false ∧ (Instr.iadd64 { z64 with uf := true, rs1 := 64#8, ty := 2#4 }).wf = false ∧
    (Instr.icmp { z64 with rd := 16#8, ty := 2#4 }).wf = false ∧ (Instr.trel { z64 with rd := 16#8 }).wf = false ∧ (Instr.accz { z64 with rd := 4#8 }).wf = false ∧
    (Instr.nop { z64 with rs1 := 1#8 }).wf = false ∧ (Instr.dadd64 { z64 with rd := 2#8, ty := 10#4 }).wf = true := by decide +kernel

/-- R204: a trap-on-empty bit names a register source; LEA's rs3 is an x field. -/
theorem test_wf_trap_on_empty : (Instr.lea { z64 with te := 1#3, ty := 2#4 }).wf = false ∧ (Instr.lea { z64 with te := 4#3, ty := 2#4 }).wf = true := by
  decide +kernel

/-- R199, R381: the 16-bit parcel 0x0000, the comparison codes of QWAIT, the fixed fields of the other vendor instructions. -/
theorem test_wf_other_forms : (Instr.mov16 { rd := 0#6, rs := 0#5 }).wf = false ∧ (Instr.qwait { rs2 := 0#5, rs1 := 0#5, funct3 := 4#3, rd := 0#5 }).wf = false ∧
    (Instr.qseed { rs2 := 0#5, rs1 := 0#5, funct3 := 1#3, rd := 0#5 }).wf = false ∧ (Instr.qeng { rs2 := 0#5, rs1 := 0#5, funct3 := 1#3, rd := 0#5 }).wf = false ∧
    (Instr.qfence { rs2 := 0#5, rs1 := 0#5, funct3 := 2#3, rd := 0#5 }).wf = false ∧ (Instr.illegalOpcode 3 0#64).wf = false := by decide +kernel

/-! ### States in which an instruction executes

The witnesses below run on the machine after reset with one warp, placed on core 0, whose one entry holds lane 0 at address 0x10000. -/

/-- A state with that warp, privileged, the current agent, with its registers, predicates and group as given. -/
def small (w : Warp) (g : Group) : State :=
  let k := State.reset.core 0
  { State.reset.setCore 0 { ((k.setGroup 0 (some g)).setWarp 0 (some w)) with tlb := [fetchTlb] } with cur := .warp 0 0 0 }

/-- The privileged warp of one lane. -/
def warp1 : Warp := { fetchWarp with privst := 1#32 }

/-- The state in which an instruction issues from it. -/
def running : State := small warp1 fetchGroup

/-- Every condition of `Executes`, as a Boolean, with a further condition on the state and the entry. -/
def executesAnd (i : Instr) (s : State) (more : Iss → Bool) : Bool :=
  match issOf i s with
  | none => false
  | some x => i.wf && (!x.g.priv || (s.warp x.core x.slot).privileged) && x.allotted (s.groupOf x.core x.slot).allot && x.issuable s &&
      (x.emptyReads (s.warp x.core x.slot) == 0#32) && (x.foreignEmpty (s.warp x.core x.slot) == 0#32) && s.ecc.isEmpty && (x.e.replay == 0#32) &&
      (x.e.mask != 0#32) && more x

/-- What that Boolean says. -/
theorem executesAnd_spec {i : Instr} {s : State} {more : Iss → Bool} (h : executesAnd i s more = true) : ∃ x, Executes i s x ∧ more x = true := by
  unfold executesAnd at h
  split at h
  · cases h
  · next x hx =>
    simp only [Bool.and_eq_true, Bool.or_eq_true, Bool.not_eq_true', beq_iff_eq, bne_iff_ne, ne_eq, List.isEmpty_iff] at h
    obtain ⟨⟨⟨⟨⟨⟨⟨⟨⟨h1, h2⟩, h3⟩, h4⟩, h5⟩, h6⟩, h7⟩, h8⟩, h9⟩, h10⟩ := h
    exact ⟨x, ⟨hx, h1, fun hp => (h2.resolve_left (by simp [hp])), h3, h4, h5, h6, h7, h8, h9⟩, h10⟩

/-- A 16-bit and a 32-bit form with every field legal. -/
def g16 : Form16 := { rd := 2#6, rs := 4#5 }
def g32 : Form32 := { rd := 2#7, rs1 := 4#7, rs2 := 6#7, guard := 7#3 }

/-- The hypotheses of `Obligations.RegisterOnlyCompletes` hold of every instruction that it covers. -/
theorem witness_RegisterOnlyCompletes : ([.mov16 g16, .movi16 g16, .iadd16 g16, .isub16 g16, .imul16 g16, .and16 g16, .or16 g16, .xor16 g16, .shl16 g16, .shr16 g16, .sar16 g16, .fadd16 g16,
    .fsub16 g16, .fmul16 g16, .fmin16 g16, .fmax16 g16, .iadd32 g32, .isub32 g32, .imul32 g32, .imulhi32 g32, .imulhn32 g32, .imini32 g32,
    .imaxi32 g32, .iminn32 g32, .imaxn32 g32, .and32 g32, .or32 g32, .xor32 g32, .shl32 g32, .shr32 g32, .sar32 g32, .rot32 g32, .fadd32 g32,
    .fsub32 g32, .fmul32 g32, .fmin32 g32, .fmax32 g32, .pfadd32 g32, .pfmul32 g32, .pfmin32 g32, .pfmax32 g32, .dadd32 g32, .dmul32 g32,
    .dmin32 g32, .dmax32 g32, .mov32 { g32 with rs2 := 0#7 }, .ineg32 { g32 with rs2 := 0#7 }, .iabs32 { g32 with rs2 := 0#7 },
    .not32 { g32 with rs2 := 0#7 }, .popc32 { g32 with rs2 := 0#7 }, .clz32 { g32 with rs2 := 0#7 }, .ctz32 { g32 with rs2 := 0#7 },
    .brev32 { g32 with rs2 := 0#7 }, .frcp32 { g32 with rs2 := 0#7 }, .frsq32 { g32 with rs2 := 0#7 }, .fsqrt32 { g32 with rs2 := 0#7 },
    .fexp232 { g32 with rs2 := 0#7 }, .flog232 { g32 with rs2 := 0#7 }, .iadd64 { z64 with ty := 2#4 }, .isum { z64 with ty := 2#4 },
    .isub64 { z64 with ty := 2#4 }, .ineg64 { z64 with ty := 2#4 }, .iabs64 { z64 with ty := 2#4 }, .imul64 { z64 with ty := 2#4 },
    .imulh64 { z64 with ty := 2#4 }, .imad { z64 with ty := 2#4 }, .imadw { z64 with ty := 2#4 }, .imin64 { z64 with ty := 2#4 },
    .imax64 { z64 with ty := 2#4 }, .isad { z64 with ty := 2#4 }, .and64 z64, .or64 z64, .xor64 z64, .not64 z64, .blut z64, .shl64 z64, .shr64 z64,
    .sar64 z64, .shf z64, .rot64 z64, .popc64 z64, .clz64 z64, .ctz64 z64, .brev64 z64, .bxtr { z64 with ty := 2#4 }, .bins z64, .bsel z64,
    .lea { z64 with ty := 2#4 }, .isel z64, .pgath z64, .lpeer z64, .mov64 z64, .movi64 { z64 with iv := 2#2 }, .movw { z64 with iv := 1#2 },
    .s2v z64, .fadd64 z64, .fsub64 z64, .fmul64 z64, .ffma z64, .fmin64 z64, .fmax64 z64, .fsel z64, .fclass z64, .frnd z64, .frcp64 z64,
    .frsq64 z64, .fsqrt64 z64, .fexp264 z64, .flog264 z64, .fsin z64, .fcos z64, .ftanh z64, .pfadd64 { z64 with ty := 1#4 },
    .pfmul64 { z64 with ty := 1#4 }, .pffma { z64 with ty := 1#4 }, .pfmin64 { z64 with ty := 1#4 }, .pfmax64 { z64 with ty := 1#4 },
    .dadd64 { z64 with ty := 10#4 }, .dmul64 { z64 with ty := 10#4 }, .dfma { z64 with ty := 10#4 }, .dmin64 { z64 with ty := 10#4 },
    .dmax64 { z64 with ty := 10#4 }, .cvt z64, .cvtq { z64 with ty := 5#4 }, .cvtd { z64 with ty := 10#4 }, .pack { z64 with ty := 1#4 },
    .unpk { z64 with ty := 1#4 }, .txst z64] : List Instr).all
    (fun i => registerOnly i && executesAnd i running (fun _ => true)) = true := by decide +kernel

/-- Those of `Obligations.PredicateOnlyCompletes`. -/
theorem witness_PredicateOnlyCompletes : ([.icmp { z64 with ty := 2#4 }, .pset z64, .plut z64, .pmov z64, .fcmp z64, .dcmp { z64 with ty := 10#4 }] : List Instr).all
    (fun i => predicateOnly i && executesAnd i running (fun _ => true)) = true := by decide +kernel

/-- Every other instruction of a core executes in some state. -/
theorem witness_every_core_instruction_executes : ([.bra { z64 with iv := 2#2 }, .brx z64, .call { z64 with iv := 2#2 }, .callx z64, .ret z64, .reconv z64, .prio { z64 with iv := 1#2 }, .yield z64,
    .loop { z64 with iv := 1#2 }, .nop z64, .exit z64, .v2s z64, .lxch z64, .srr { z64 with iv := 1#2 }, .srw { z64 with rs3 := 0x14#8, iv := 1#2 },
    .ld z64, .st z64, .ldx z64, .stx z64, .pref z64, .cctl z64, .maps z64, .unmaps z64, .flushs z64, .atom z64, .atomc z64, .red z64, .waitv z64,
    .lmon z64, .lmwait z64, .fence z64, .barInit z64, .barExp z64, .barArv z64, .barWait z64, .barTest z64, .claim z64, .tres z64, .trel z64,
    .tld z64, .tst z64, .twr z64, .trd z64, .magree z64, .msign z64, .mma z64, .mmaq z64, .mmas z64, .dmma { z64 with ty := 10#4 }, .accz z64,
    .accrd z64, .accwr z64, .accrmax z64, .accscl z64, .copy z64, .txfer z64, .trig z64, .scbset z64, .scbclr z64, .flood z64, .echo z64, .waitf z64,
    .testf z64, .cancelf z64, .finfo z64, .clause z64, .role z64, .txb { z64 with rs3 := 1#8, iv := 1#2 }, .txe z64, .txa { z64 with iv := 1#2 },
    .syscall { z64 with iv := 1#2 }, .eret z64, .trap { z64 with iv := 1#2 }, .bpt z64, .tlbi { z64 with c3 := 2#3 }] : List Instr).all
    (fun i => executesAnd i running (fun _ => true)) = true := by decide +kernel

/-! ### Witnesses: instructions of a core -/

/-- Values of lane 0's vector registers. -/
def withRegs (w : Warp) (l : List (Nat × Nat)) : Warp := l.foldl (fun w y => w.put (.v y.1) 0 (BitVec.ofNat 32 y.2)) w

/-- The running state with those values. -/
def runningWith (l : List (Nat × Nat)) : State := small (withRegs warp1 l) fetchGroup

/-- Every lane of the entry passes the checks of an access. -/
def reached (x : Iss) (s : State) (check : Warp → State → Nat → Reach × State) (more : List LaneAt → State → Bool) : Bool :=
  let r := (x.note s).reachLanes (check (warpOf x (x.note s))) (lanes (x.part (warpOf x (x.note s))))
  (reachTraps r.1).isEmpty && (reachParks r.1).isEmpty && !(reachOks r.1).isEmpty && more (reachOks r.1) r.2

/-- What that Boolean says. -/
theorem reached_spec {x : Iss} {s : State} {check : Warp → State → Nat → Reach × State} {more : List LaneAt → State → Bool}
    (h : reached x s check more = true) : ∃ oks t, reaches x s check oks t ∧ oks ≠ [] ∧ more oks t = true := by
  simp only [reached, Bool.and_eq_true, Bool.not_eq_true', List.isEmpty_iff, List.isEmpty_eq_false_iff] at h
  exact ⟨_, _, ⟨_, rfl, h.1.1.1, h.1.1.2, rfl⟩, h.1.2, h.2⟩

/-- The condition `closedLanes`. -/
def closedB (x : Iss) (s : State) : Bool := x.openPart (warpOf x s) == 0#32

theorem witness_IntegerAndBitwiseResults : ([.iadd64 { z64 with ty := 2#4 }, .isub64 { z64 with ty := 2#4 }] : List Instr).all
    (fun i => executesAnd i running (fun x => x.f.rm == 0#2)) = true ∧
    ([.isum { z64 with ty := 2#4 }, .ineg64 { z64 with ty := 2#4 }, .iabs64 { z64 with ty := 2#4 }, .imul64 { z64 with ty := 2#4 }, .imad { z64 with ty := 2#4 },
      .shl64 z64, .shr64 z64, .sar64 z64, .rot64 z64, .and64 z64, .or64 z64, .xor64 z64, .not64 z64] : List Instr).all
    (fun i => executesAnd i running (fun _ => true)) = true := by decide +kernel

theorem witness_ExactProductsAndSaturation : executesAnd (.iadd64 { z64 with ty := 2#4, rm := 1#2 }) running (fun x => x.f.ty == 2#4 && x.f.rm == 1#2) = true ∧
    ([.imulh64 { z64 with ty := 2#4 }, .imadw { z64 with ty := 2#4 }] : List Instr).all (fun i => executesAnd i running (fun x => x.f.ty == 2#4)) = true ∧
    executesAnd (.lea { z64 with ty := 2#4 }) running (fun x => x.f.ty == 2#4 && decide (x.imm = .reg)) = true := by decide +kernel

theorem witness_ComparesSelectionsAndVotes :
    (List.range 6).all (fun c => executesAnd (.icmp { z64 with ty := 2#4, c3 := BitVec.ofNat 3 c }) running (fun x => x.f.ty == 2#4 && x.f.c3.toNat == c)) = true ∧
    executesAnd (.isel z64) running (fun x => decide (x.imm = .reg)) = true ∧ executesAnd (.pgath z64) running (fun x => x.f.c3 == 0#3) = true ∧
    executesAnd (.pmov { z64 with c3 := 1#3 }) running (fun x => x.f.c3 == 1#3) = true := by decide +kernel

theorem witness_MovesWriteTheirSource : ([.mov16 g16, .mov32 { g32 with rs2 := 0#7 }, .mov64 z64, .movi16 g16, .movi64 { z64 with iv := 2#2 }, .movw { z64 with iv := 1#2 },
      .movw { z64 with iv := 1#2, c3 := 1#3 }, .s2v z64] : List Instr).all (fun i => executesAnd i running (fun _ => true)) = true ∧
    (∃ x, issOf (.mov64 { z64 with c3 := 1#3 }) running = some x ∧ filterMask x.e.mask (warpOf x (x.note running)).isOpen = 0#32) ∧
    (∃ x, issOf (.movw { z64 with ty := 1#4 }) running = some x ∧ filterMask x.e.mask (warpOf x (x.note running)).isOpen = 0#32) := by
  refine ⟨by decide +kernel, ⟨_, rfl, by decide +kernel⟩, ⟨_, rfl, by decide +kernel⟩⟩

theorem witness_BranchesGoToTheirTargets : executesAnd (.bra { z64 with iv := 2#2, rs3 := 4#8 }) running (fun x => decide ((warpOf x running).frontier.length ≤ 7)) = true ∧
    executesAnd (.brx z64) running (fun x => x.a64 (warpOf x running) 0 % 2 == 0 && x.e.mask == 1#32 && decide ((warpOf x running).frontier.length + 1 ≤ 9)) = true := by
  decide +kernel

/-- Lane 0's target is odd, and then lies at 2^57. -/
theorem witness_RegisterTargetsAreChecked : ([.brx z64, .callx z64] : List Instr).all (fun i =>
      executesAnd i (runningWith [(0, 1)]) (fun x => closedB x (runningWith [(0, 1)]) && x.part (warpOf x (runningWith [(0, 1)])) == 1#32 &&
        x.a64 (warpOf x (runningWith [(0, 1)])) 0 % 2 == 1) &&
      executesAnd i (runningWith [(1, 0x2000000)]) (fun x => closedB x (runningWith [(1, 0x2000000)]) && x.a64 (warpOf x (runningWith [(1, 0x2000000)])) 0 == 2 ^ 57)) = true ∧
    ([.bra { z64 with iv := 2#2 }, .call { z64 with iv := 2#2 }] : List Instr).all (fun i => executesAnd i running (fun _ => true)) = true := by decide +kernel

/-- A lane that holds sixteen return addresses, whose spill area is mapped. -/
def deep : State :=
  small { warp1 with rstack := [(0, (List.range 16).map (fun k => 2 * k))], depth := [(0, 16)], spillb := 0x10000#64 } fetchGroup

theorem witness_CallPushesAndTransfers : ([.call { z64 with iv := 2#2 }, .callx z64] : List Instr).all (fun i =>
      executesAnd i running (fun x => (x.spillFaults (x.note running) .store spillIdx (lanes (x.part (warpOf x running)))).isEmpty &&
        x.a64 (warpOf x running) 0 % 2 == 0 && decide ((SMap.get [] (warpOf x running).rstack 0).length < 16)) &&
      executesAnd i deep (fun x => (x.spillFaults (x.note deep) .store spillIdx (lanes (x.part (warpOf x deep)))).isEmpty &&
        (SMap.get [] (warpOf x deep).rstack 0).length == 16)) = true := by decide +kernel

/-- A lane whose sixteen addresses all stand in its spill area. -/
def drained : State := small { warp1 with depth := [(0, 16)], spillb := 0x10000#64 } fetchGroup

theorem witness_ReturnPopsAndTransfers :
    [running, deep, drained].all (fun s => executesAnd (.ret z64) s (fun x =>
      (x.popEach (x.note s) (s.ctxOf x.core x.slot) (lanes (x.part (warpOf x s)))).1.all (fun p =>
        (popTrap p.2).isNone && (popPark p.2).isNone && !popHeld p.2))) = true ∧
    executesAnd (.ret z64) deep (fun x =>
      SMap.get 0 (warpOf x deep).depth 0 != 0 && !(SMap.get [] (warpOf x deep).rstack 0).isEmpty && x.part (warpOf x deep) == 1#32 && x.e.mask == 1#32 &&
      (SMap.get [] (warpOf x deep).rstack 0).headD 0 % 2 == 0 && decide ((SMap.get [] (warpOf x deep).rstack 0).headD 0 < 2 ^ 57) &&
      decide ((warpOf x deep).frontier.length + 1 ≤ 9)) = true := by decide +kernel

theorem witness_LoopCountsDown : executesAnd (.loop { z64 with iv := 1#2 }) running (fun x => decide ((warpOf x running).frontier.length ≤ 7)) = true ∧
    executesAnd (.loop { z64 with iv := 1#2 }) (runningWith [(0, 1)]) (fun x => (warpOf x (runningWith [(0, 1)])).get x.rd 0 == 1#32) = true := by decide +kernel

theorem witness_NopReconvYieldAndPrio : ([.nop z64, .reconv z64, .yield z64, .prio { z64 with iv := 1#2 }] : List Instr).all
    (fun i => executesAnd i running (fun x => decide ((warpOf x running).frontier.length ≤ 7))) = true := by decide +kernel

theorem witness_ExitEndsItsLanes : executesAnd (.exit z64) running (fun x => x.part (warpOf x running) != 0#32) = true := by decide +kernel

theorem witness_OneLaneIsCopied : executesAnd (.v2s z64) running (fun x => x.part (warpOf x running) != 0#32) = true ∧
    executesAnd (.v2s { z64 with guard := 0#4 }) running (fun x => x.part (warpOf x running) == 0#32) = true := by decide +kernel

theorem witness_LanesExchangeWithinSegments :
    (List.range 4).all (fun c => executesAnd (.lxch { z64 with c3 := BitVec.ofNat 3 c }) running (fun x => x.f.c3.toNat == c && x.part (warpOf x running) == 1#32)) = true ∧
    (∃ x, issOf (.lxch { z64 with c3 := 4#3 }) running = some x ∧ filterMask x.e.mask (warpOf x (x.note running)).isOpen = 0#32) := by
  refine ⟨by decide +kernel, ⟨_, rfl, by decide +kernel⟩⟩

theorem witness_SpecialRegistersReadAndWritten :
    [0x000, 0x013, 0x100, 0x101, 0x102, 0x103, 0x104].all (fun n => executesAnd (.srr { z64 with iv := 1#2, rs2 := BitVec.ofNat 8 (n / 256), rs3 := BitVec.ofNat 8 n }) running
      (fun x => imm16 x.f == n && !(x.exec (warpOf x running)).isEmpty)) = true ∧
    [0x014, 0x101, 0x102, 0x104].all (fun n => executesAnd (.srw { z64 with iv := 1#2, rs2 := BitVec.ofNat 8 (n / 256), rs3 := BitVec.ofNat 8 n }) running
      (fun x => imm16 x.f == n && lowestLane (x.part (warpOf x running)) == some 0)) = true ∧
    executesAnd (.srw { z64 with iv := 1#2, rs3 := 0x14#8, guard := 0#4 }) running (fun x => x.part (warpOf x running) == 0#32) = true := by decide +kernel

/-- Guard p0, which no lane holds. -/
def idle64 : Form64 := { z64 with guard := 0#4 }

theorem witness_NoParticipantNoEffect : ([.ld idle64, .st idle64, .atom idle64, .atomc idle64, .red idle64, .claim idle64, .waitv idle64, .lmon idle64, .lmwait idle64,
      .ldx idle64, .stx idle64, .trd idle64, .msign idle64, .cctl idle64, .pref idle64, .flood idle64, .echo idle64, .waitf idle64, .testf idle64, .cancelf idle64, .clause idle64,
      .syscall { idle64 with iv := 1#2 }, .trap { idle64 with iv := 1#2 }, .bpt idle64, .txa { idle64 with iv := 1#2 }, .accrd idle64, .accrmax idle64, .accwr idle64] : List Instr).all
    (fun i => executesAnd i running (fun x => x.part (warpOf x running) == 0#32)) = true := by decide +kernel

/-! ### Witnesses: memory -/

/-- A context 0 whose first GiB is mapped by one leaf, writable, executable and a shard page (R101 to R104): the root table at 0x100000, the next at 0x200000. -/
def paged (s : State) : State :=
  { s.setCtx 0 { s.ctx 0 with regs := SMap.set 0#64 (s.ctx 0).regs 0 0x100000#64 } with
    mem := writeBytes (writeBytes s.mem 0x100000 8 0x200001) 0x200000 8 (2 ^ 55 + 0x6F) }

/-- Cached translations: the page 0x10000, a page of the host window at 0x11000. -/
def tlbs : List TlbEntry := [fetchTlb, { fetchTlb with va := 0x11000, pa := 2 ^ 51 }]

/-- The running state with lane 0's pair v0:v1 at an address, and that page table. -/
def atAddr (a : Nat) (w : Warp := warp1) (g : Group := fetchGroup) : State :=
  let s := small (withRegs w [(0, a % 2 ^ 32), (1, a / 2 ^ 32)]) g
  paged (s.setCore 0 { s.core 0 with tlb := tlbs })

/-- The base of the stash window, and of the host window's page. -/
def stashVa : Nat := 2 ^ 56
def portVa : Nat := 0x11000

/-- Form with rd v4, address rs1 v0, and the immediate offset 0. -/
def mem64 : Form64 := { z64 with rd := 4#8, iv := 1#2 }
/-- Form with rd v4, address rs1 v0, operands rs2 v6 and rs3 v8. -/
def rmw64 : Form64 := { z64 with rd := 4#8, rs2 := 6#8, ty := 2#4 }

/-- `mayRelease` and `mayPerform`, as Booleans. -/
def mayReleaseB (x : Iss) (s : State) (rel n : Nat) (oks : List LaneAt) : Bool :=
  !decide (3 ≤ rel) || (s.releaseReady x.core x.slot rel && !x.relPinned s rel n oks)
def mayPerformB (x : Iss) (s : State) (rel n : Nat) (oks : List LaneAt) : Bool := mayReleaseB x s rel n oks && !x.rmwWaits s rel n oks

/-- What the second says. -/
theorem mayPerformB_spec {x : Iss} {s : State} {rel n : Nat} {oks : List LaneAt} (h : mayPerformB x s rel n oks = true) : mayPerform x s rel n oks := by
  simp only [mayPerformB, mayReleaseB, Bool.and_eq_true, Bool.or_eq_true, Bool.not_eq_true', decide_eq_false_iff_not] at h
  exact ⟨fun hr => h.1.resolve_left (fun hn => hn hr), h.2⟩

theorem witness_LoadsAndReleasingStoresComplete : [0x10000, portVa, stashVa].all (fun a => let s := atAddr a
    executesAnd (.ld mem64) s (fun x => closedB x s && reached x s (fun w => x.reachPlain w 4 4 .load) (fun oks t => oks.all (fun a => !(warpOf x t).isOpen a.lane))) &&
    executesAnd (.st { mem64 with rm := 2#2, c3 := 5#3 }) s (fun x => closedB x s && reached x s (fun w => x.reachPlain w 4 4 .store)
      (fun oks t => mayReleaseB x t (relScope x.ownRel (warpOf x t)) 4 oks && relScope x.ownRel (warpOf x t) == 5))) = true := by decide +kernel

/-- The state in which the core's L1 holds the line at 0x10000. -/
def cached : State := (atAddr 0x10000).fillLine 0 0x10000 false 4

theorem witness_LoadHitTakesTheHeldBytes : executesAnd (.ld mem64) cached (fun x => closedB x cached && reached x cached (fun w => x.reachPlain w 4 4 .load) (fun oks t =>
    decide (acqScope x.ownAcq (warpOf x t) < 3) && (warpOf x t).acq.isNone && oks.all (fun a => !(warpOf x t).isOpen a.lane &&
      (match a.place with | .dom pa => (t.core x.core).hits pa 4 && !((t.core x.core).sector pa).bad | _ => false)))) = true := by decide +kernel

theorem witness_StoreQueuesItsBytes : [0x10000, portVa, stashVa].all (fun a => let s := atAddr a
    executesAnd (.st mem64) s (fun x => closedB x s && reached x s (fun w => x.reachPlain w 4 4 .store) (fun oks t =>
      decide (relScope x.ownRel (warpOf x t) < 3) && (warpOf x t).rel.isNone && oks.all (fun a => !(warpOf x t).isOpen a.lane)))) = true := by decide +kernel

/-- A valid map 0 of sixteen f32 elements in one block (R113), its owner record at 0x30000, and the shard at 0x20000. -/
def mapped : State :=
  let s := atAddr 0
  let e := 2 ^ 32 + 1 * 2 ^ 33 + 0x30000 * 2 ^ 64 + 1 * 2 ^ 128 + 16 * 2 ^ 144 + 1 * 2 ^ 304
  { s.setCore 0 { s.core 0 with maps := [{ ctx := 0, id := 0, entry := e }] } with mem := writeBytes s.mem 0x30000 8 0x20000 }

/-- The same with a dirty sector of a mapped range at stash offset 0 (R274). -/
def ranged : State :=
  let g : Group := { fetchGroup with maps := [{ gaddr := 0x10000, soff := 0, len := 1024, priv := true, sectors := [(0, { filled := true, dirty := 1#256 })] }] }
  small (withRegs warp1 [(2, 256)]) g

theorem witness_MappedAccessesAndRanges :
    executesAnd (.ldx mem64) mapped (fun x => x.mapWaits (x.note mapped) == false && x.mapEmpty (x.note mapped) == (0#32, 0#32) && closedB x mapped &&
      reached x mapped (fun w => x.reachMap .load w) (fun oks t => oks.all (fun a => !(warpOf x t).isOpen a.lane))) = true ∧
    executesAnd (.stx mem64) mapped (fun x => x.mapWaits (x.note mapped) == false && x.mapEmpty (x.note mapped) == (0#32, 0#32) && closedB x mapped &&
      reached x mapped (fun w => x.reachMap .store w) (fun oks t => decide (relScope x.ownRel (warpOf x t) < 3) && (warpOf x t).rel.isNone &&
        oks.all (fun a => !(warpOf x t).isOpen a.lane))) = true ∧
    (let s := runningWith [(0, 0x10000), (4, 1024)]
     executesAnd (.maps { z64 with rs2 := 2#8, rs3 := 4#8 }) s (fun x => let w := warpOf x s; let l := x.warpLane (x.part w); let g := s.groupOf x.core x.slot
      closedB x s && x.a64 w l % 256 == 0 && x.b w l % 256 == 0 && x.c w l % 256 == 0 && x.c w l != 0 && decide (x.b w l + x.c w l ≤ g.allot.sbytes) &&
        decide (x.a64 w l < 2 ^ 57) && decide (g.maps.length < 8) && g.maps.isEmpty)) = true ∧
    ([.unmaps { z64 with rs2 := 2#8 }, .flushs { z64 with rs2 := 2#8 }] : List Instr).all (fun i => executesAnd i ranged (fun x =>
      let w := warpOf x ranged; let l := x.warpLane (x.part w); let d := (x.note ranged).drain x.core x.slot
      closedB x ranged && x.a (warpOf x d) l % 256 == 0 && x.b (warpOf x d) l % 256 == 0 &&
        decide (x.a (warpOf x d) l + x.b (warpOf x d) l ≤ (d.groupOf x.core x.slot).allot.sbytes) &&
        d.intervalPinned x.core (warpOf x d).group (x.a (warpOf x d) l) (x.b (warpOf x d) l) == false &&
        decide ((d.flushInterval x.core (warpOf x d).group (x.a (warpOf x d) l) (x.b (warpOf x d) l) (d.group x.core (warpOf x d).group).maps.length).1 = .ok))) = true := by
  decide +kernel

theorem witness_AtomicsComplete : [0x10000, stashVa].all (fun a => let s := atAddr a
    executesAnd (.atom rmw64) s (fun x => closedB x s && reached x s (x.reachRmw x.atomOf) (fun oks t => let u := t.drain x.core x.slot
      mayPerformB x u (relScope x.ownRel (warpOf x u)) x.atomOf.width oks)) &&
    executesAnd (.atomc { rmw64 with rs3 := 8#8 }) s (fun x => closedB x s && reached x s (x.reachRmw (.cas x.f.ty.toNat)) (fun oks t => let u := t.drain x.core x.slot
      mayPerformB x u (relScope x.ownRel (warpOf x u)) (Rmw.cas x.f.ty.toNat).width oks)) &&
    executesAnd (.red { rmw64 with rd := 0#8 }) s (fun x => closedB x s && reached x s (x.reachRmw x.atomOf) (fun oks t => let u := t.drain x.core x.slot
      mayPerformB x u (relScope x.ownRel (warpOf x u)) x.atomOf.width oks &&
      oks.all (fun a => match a.place with | .stash k off => decide (u.stashCheck (u.ctxOf x.core x.slot) k off x.atomOf.width ≠ .heldBack) | _ => true)))) = true ∧
    executesAnd (.claim { z64 with rd := 4#8 }) (atAddr 0x10000) (fun x => closedB x (atAddr 0x10000) && reached x (atAddr 0x10000) (x.reachRmw .claim) (fun oks t =>
      let u := t.drain x.core x.slot; mayPerformB x u (relScope 0 (warpOf x u)) Rmw.claim.width oks)) = true := by decide +kernel

/-- Every operation, and both 32-bit and 64-bit widths: operands within the width. -/
theorem witness_AtomicOperationResults : (5 : Nat) < 2 ^ (8 * atomWidth 2) ∧ (7 : Nat) < 2 ^ (8 * atomWidth 1) := by decide +kernel

/-- A warp with a fired monitor. -/
def monitored : State := small { warp1 with monitor := some { line := .dom 0x10000, fired := true } } fetchGroup

theorem witness_WaitsOnValuesAndMonitors :
    executesAnd (.waitv { rmw64 with rs3 := 8#8 }) (atAddr 0x10000) (fun x => let s := atAddr 0x10000
      closedB x s && reached x s (fun w => x.reachPlain w (atomWidth x.f.ty.toNat) (atomWidth x.f.ty.toNat) .load) (fun oks t =>
        let n := atomWidth x.f.ty.toNat; let ty := x.f.ty.toNat
        let kind : LaneAt → WaitKind := fun a => .value a.place n (x.operand (warpOf x t) x.r2 a.lane) (x.operand (warpOf x t) x.r3 a.lane) x.f.c3.toNat
          (ty == 2 || ty == 3) (acqScope x.waitScope (warpOf x t)) x.f.rd.toNat
        let u := (t.clearFence x.core x.slot true false).drain x.core x.slot
        let v := x.waitEach (u.setWarp x.core x.slot { warpOf x u with waits := (warpOf x u).waits.filter (fun z => !(maskAt oks).getLsbD z.lane) }) kind n oks
        let ys := (warpOf x v).waits.filter (fun z => (maskAt oks).getLsbD z.lane)
        !ys.isEmpty && ys.all (fun y => y.done))) = true ∧
    [0x10000, portVa, stashVa].all (fun a => let s := atAddr a
      executesAnd (.lmon z64) s (fun x => closedB x s && reached x s (fun w => x.reachPlain w 1 1 .load) (fun oks t =>
        oks.all (fun a => match a.place with
          | .dom pa => (match t.chase (t.ctxOf x.core x.slot) a.va 2 (.dom pa) with
              | some (.dom qa) => !t.refusesModule x.core (t.ctxOf x.core x.slot) (.dom qa) | _ => false)
          | .port _ _ => true | .stash k off => (match t.stashCheck (t.ctxOf x.core x.slot) k off 1 with | .served _ => true | _ => false))))) = true ∧
    executesAnd (.lmwait z64) monitored (fun x => closedB x monitored && x.part (warpOf x monitored) != 0#32 &&
      (match (warpOf x monitored).monitor with | some y => y.fired | none => true)) = true ∧
    executesAnd (.lmwait z64) running (fun x => closedB x running && x.part (warpOf x running) != 0#32 && (warpOf x running).monitor.isNone) = true := by
  decide +kernel

/-- A warp of which a store to module 1 was declared lost. -/
def losing : State := small { warp1 with lost := 1, lostModule := some 1 } fetchGroup

/-- The premises of `Obligations.FenceCompletes`, with a condition on the state that the fence leaves. -/
def fenceB (x : Iss) (s : State) (more : State → Bool) : Bool :=
  let n := x.note s
  closedB x s && !x.fenceLoads n &&
    (match x.fenceRelease with
     | some sc => n.releaseReady x.core x.slot sc && more (x.fenceBody (n.releaseSteps x.core x.slot sc))
     | none => more (x.fenceBody n))

theorem witness_FenceCompletes :
    [0, 1, 2, 3].all (fun k => executesAnd (.fence { z64 with c3 := 6#3, rm := BitVec.ofNat 2 k }) running (fun x => fenceB x running (fun u => (warpOf x u).lost == 0))) = true ∧
    [(0, 3), (0, 6), (1, 6)].all (fun y => executesAnd (.fence { z64 with c3 := BitVec.ofNat 3 y.2, rm := 2#2, ty := BitVec.ofNat 4 y.1 }) losing (fun x =>
      fenceB x losing (fun u => (warpOf x u).lost != 0) && x.f.c3.toNat == y.2)) = true := by
  decide +kernel

/-- The premise `found` of `Obligations.BarrierInstructions` at offset 0, with a condition on the state after the object is read and on the object. -/
def barrierFound (i : Instr) (s : State) (parity : Bool) (more : Iss → Nat → State → Bool) : Bool :=
  executesAnd i s (fun x =>
    let w := warpOf x s; let l := x.warpLane (x.part w); let v := x.a w l
    let r := ((x.note s).drain x.core x.slot).stashLoad x.core w.group (((x.note s).groupOf x.core x.slot).stashBase + 0) 16
    let q := r.2.2.eccRead (coreModule x.core) (((x.note s).groupOf x.core x.slot).ctx % 32) 1 (.stash x.core (((x.note s).groupOf x.core x.slot).stashBase + 0)) 16
    closedB x s && (if parity then v % 16 / 2 == 0 else v % 16 == 0) && v / 16 * 16 == 0 && decide (0 + 16 ≤ (s.groupOf x.core x.slot).allot.sbytes) &&
      decide (r.1 = .ok) && !q.1 && (warpOf x q.2).group == w.group && more x r.2.1 q.2)

theorem witness_BarrierInstructions :
    barrierFound (.barInit { z64 with rs2 := 2#8, rs3 := 4#8 }) running false (fun x _ u =>
      let l := x.warpLane (x.part (warpOf x running)); decide (x.b (warpOf x u) l ≤ 64) && decide (x.c (warpOf x u) l ≤ 0xFFFFFF)) = true ∧
    barrierFound (.barExp { z64 with rs2 := 2#8 }) running false (fun x o u =>
      let l := x.warpLane (x.part (warpOf x running)); decide (barBytes o + x.b (warpOf x u) l ≤ 0xFFFFFF)) = true ∧
    barrierFound (.barArv z64) running false (fun x _ u => u.releaseReady x.core x.slot 0 && (warpOf x (u.releaseSteps x.core x.slot 0)).group == (warpOf x running).group) = true ∧
    barrierFound (.barWait z64) (runningWith [(0, 1)]) true (fun x o _ => barPhase o != bit (x.a (warpOf x (runningWith [(0, 1)])) 0) 0) = true ∧
    barrierFound (.barTest z64) (runningWith [(0, 1)]) true (fun x o _ => barPhase o != bit (x.a (warpOf x (runningWith [(0, 1)])) 0) 0) = true ∧
    barrierFound (.barTest z64) running true (fun x o _ => barPhase o == bit (x.a (warpOf x running) 0) 0) = true := by decide +kernel

theorem witness_PrefetchAndCacheControl :
    executesAnd (.pref { mem64 with rd := 0#8 }) (atAddr 0x10000) (fun _ => true) = true ∧
    (List.range 6).all (fun op => let s := atAddr 0x10000
      executesAnd (.cctl { mem64 with rd := 0#8, c3 := BitVec.ofNat 3 op }) s (fun x =>
        let u := (x.note s).drain x.core x.slot; let ls := lanes (x.part (warpOf x s))
        closedB x s && x.part (warpOf x s) != 0#32 && x.f.c3.toNat == op && (decide (op = 1) || !x.cctlPinned (warpOf x u) u ls) && u.releaseReady x.core x.slot 3)) = true := by
  decide +kernel

/-! ### Witnesses: tiles, matrices and engines -/

/-- A plain tile record (R289, R290): FMT, rows, columns, ROLE bit, and a reservation at a base. -/
def tileRecord (fmt rows cols role base : Nat) : Nat :=
  let r := fmt + role * 2 ^ 13 + rows * 2 ^ 32 + cols * 2 ^ 48
  r + base * 2 ^ 96 + (tilePlan r).2.2 * 2 ^ 128 + (tilePlan r).1 * 2 ^ 160 + (tilePlan r).2.1 * 2 ^ 192

/-- A running state with tiles t0 and t1, an agreement register c0 and lane 0's registers. -/
def withTiles (l : List (Nat × Nat)) (t0 t1 : Nat) (a : Agr) : State :=
  small (withRegs warp1 l) { fetchGroup with tiles := [(0, BitVec.ofNat 256 t0), (1, BitVec.ofNat 256 t1)], agr := [(0, a)] }

/-- A record of a virtual tile (R290): bf16, 128 × 32, every stride, dilation and kernel size 1, an activation of no bytes. -/
def virtRecord : Nat := 2 + 2 ^ 11 + 128 * 2 ^ 32 + 32 * 2 ^ 48 + 2 ^ 65 + 2 ^ 69 + 2 ^ 73 + 2 ^ 76 + 2 ^ 79 + 2 ^ 82

/-- The state with that record at 0x10000. -/
def virtState : State := let s := atAddr 0x10000; { s with mem := writeBytes s.mem 0x10000 32 virtRecord }

theorem witness_TileReservations :
    executesAnd (.tres { z64 with rs2 := 0x40#8, rs3 := 0x82#8, iv := 2#2 }) running (fun x => let n := x.note running; let r0 := immRecord (imm24 x.f)
      (match x.imm with | .z24 _ => true | _ => false) && x.tile n x.f.rd.toNat == 0 && ((n.groupOf x.core x.slot).tileFirst x.f.rd.toNat).isNone && !recordIllegal r0 && !recordShapeBad r0 &&
        !(n.groupOf x.core x.slot).names .proposed x.f.rd.toNat && !tileVirt r0 && ((n.groupOf x.core x.slot).freeTile x.f.rd.toNat (tilePlan r0).2.2).isSome) = true ∧
    executesAnd (.tres z64) virtState (fun x => let n := x.note virtState; let a := x.a64 (warpOf x virtState) (x.warpLane (x.part (warpOf x virtState)))
      (match x.imm with | .z24 _ => false | _ => true) && a % 32 == 0 &&
        (match n.readRecord x.core x.slot (x.warpLane (x.part (warpOf x virtState))) x.pc 4 a with
         | (.val rec, u) => x.tile n 0 == 0 && ((n.groupOf x.core x.slot).tileFirst 0).isNone && !recordIllegal rec && !recordShapeBad rec && !(u.groupOf x.core x.slot).names .proposed 0 && tileVirt rec &&
            decide (unfoldOff rec + unfoldBytes rec ≤ (u.groupOf x.core x.slot).allot.sbytes)
         | _ => false)) = true ∧
    executesAnd (.trel z64) running (fun x => x.tile (x.note running) 0 == 0 && (((x.note running).groupOf x.core x.slot).tileFirst 0).isNone) = true ∧
    (let s := withTiles [] (tileRecord 2 128 32 0 0) 0 {}
     executesAnd (.trel z64) s (fun x => let n := x.note s; x.tile n 0 != 0 && !n.tileUsed x.core (warpOf x s).group 0 && ((n.groupOf x.core x.slot).tileFirst 0).isNone &&
       !(n.groupOf x.core x.slot).names .proposed 0)) = true := by decide +kernel

/-- A tensor descriptor (R111): f32, two dimensions of 4 × 8, the second of stride 1, its base at 0x10400. -/
def descriptor : Nat := 0x10400 + 4 * 2 ^ 96 + 8 * 2 ^ 128 + 8 * 2 ^ 256 + 2 * 2 ^ 392

/-- A tile t0 of that shape, and the descriptor at 0x10000. -/
def tiled : State :=
  let s := atAddr 0x10000 warp1 { fetchGroup with tiles := [(0, BitVec.ofNat 256 (tileRecord 1 4 8 0 0))] }
  { s with mem := writeBytes s.mem 0x10000 64 (descriptor + 1 * 2 ^ 388) }

theorem witness_TileTransfersAreLaunched : [true, false].all (fun load =>
    executesAnd (if load then .tld { z64 with rs2 := 4#8 } else .tst { z64 with rs2 := 4#8 }) tiled (fun x =>
      let n := commandState x tiled; let w := warpOf x n; let m := x.part (warpOf x tiled); let l := x.warpLane m; let t := x.tile n x.f.rd.toNat
      closedB x tiled && (warpOf x (x.note tiled)).rel.isNone && !(n.groupOf x.core x.slot).names .issued 0 && (n.groupOf x.core x.slot).loads 0 == 0 && t != 0 &&
        ((n.groupOf x.core x.slot).tileFirst 0).isNone && !tileVirt t && (match x.tensor n l (x.a64 w l) with
        | (.ok d none, u) =>
          let org := firstN (tRank d) (fun k => (w.get (x.r2.plus k) l).toNat)
          runAllotted (n.groupOf x.core x.slot).allot x.r2 (tRank d) && w.emptyLanes x.r2 (1#32 <<< l) (tRank d) == 0#32 && !tileMismatch d t org &&
            tileFmt t != 8 && tileFmt t != 9 && x.tileMods.1.isNone &&
            (match u.tileSpans (n.groupOf x.core x.slot).ctx d t (if load then Acc.tileRead else .tileWrite).code none org (tileShape t).1 0 with
             | (.ok sps, v) => (match v.placeSpans x.core (n.groupOf x.core x.slot).ctx w.privileged (if load then .tileRead else .tileWrite)
                 (if load then sps else sps.filter (fun sp => sp.at_.isSome)) with | (.ok runs, _) => !runs.isEmpty | _ => false)
             | _ => false)
        | _ => false))) = true := by decide +kernel

theorem witness_TileWordsAreWrittenAndRead :
    (let s := withTiles [] (tileRecord 2 128 32 0 0) 0 {}
     [0, 1].all (fun c => executesAnd (.twr { z64 with c3 := BitVec.ofNat 3 c }) s (fun x => let n := x.note s; let t := x.tile n 0
       (n.groupOf x.core x.slot).loads 0 == 0 && !(n.groupOf x.core x.slot).names .issued 0 && ((n.groupOf x.core x.slot).tileFirst 0).isNone && t != 0 && !tileVirt t && x.badOffs (warpOf x n) t (x.part (warpOf x n)) == 0#32 &&
         fmtBits (tileFmt t) != 64)) &&
     executesAnd (.trd { z64 with rd := 4#8, rs2 := 6#8 }) s (fun x => let n := x.note s; let w := warpOf x n; let m := x.part w; let t := x.tile n 0
       t != 0 && !tileVirt t && x.badOffs w t m == 0#32 && m != 0#32 && ((n.groupOf x.core x.slot).tileFirst 0).isNone && (n.groupOf x.core x.slot).loads 0 == 0)) = true ∧
    (let s := withTiles [] (tileRecord 10 128 32 0 0) 0 {}
     executesAnd (.twr { z64 with c3 := 1#3 }) s (fun x => let n := x.note s; let w := warpOf x n; let t := x.tile n 0
       (n.groupOf x.core x.slot).loads 0 == 0 && !(n.groupOf x.core x.slot).names .issued 0 && ((n.groupOf x.core x.slot).tileFirst 0).isNone && t != 0 && !tileVirt t && fmtBits (tileFmt t) == 64 && x.f.rs1.toNat % 2 == 0 && runAllotted (n.groupOf x.core x.slot).allot x.r1 2 &&
         w.emptyLanes x.r1 (x.part w) 2 == 0#32)) = true := by decide +kernel

/-- An agreement register open for lanes 0 and 1 of warp 0, with a proposal or none. -/
def agreement (p : Option Nat) : Agr :=
  { state := if p.isSome then .proposed else .opened, warps := 1#16, lanes := [(0, 3#32)], proposal := p }

/-- The matrix instructions with the records of their tiles (R183, R298). -/
def matrixCases : List (Instr × Nat × Nat) :=
  [(.mma { z64 with rs2 := 1#8, ty := 2#4 }, tileRecord 2 128 32 0 0, tileRecord 2 32 96 0 8192),
   (.mmaq { z64 with rs2 := 1#8, ty := 2#4 }, tileRecord 2 128 32 0 0, tileRecord 8 32 96 1 8192),
   (.mmas { z64 with rs2 := 1#8, ty := 2#4 }, tileRecord 2 128 32 0 0, tileRecord 2 32 96 1 8192 + 2 ^ 12),
   (.dmma { z64 with rs2 := 1#8, ty := 10#4 }, tileRecord 10 128 32 0 0, tileRecord 10 32 48 0 32768)]

theorem witness_AgreementsOpenProposeAndSign :
    executesAnd (.magree { z64 with iv := 1#2, rs3 := 1#8 }) running (fun x => let n := x.note running; let mask := imm16 x.f % 65536
      mask != 0 && mask / 2 ^ (n.groupOf x.core x.slot).slots.length == 0 && (x.agr n 0).state == .idle) = true ∧
    (let s := withTiles [] 0 0 (agreement none)
     executesAnd (.magree { z64 with iv := 1#2, rs3 := 1#8 }) s (fun x => (x.agr (x.note s) 0).state == .opened && (x.agr (x.note s) 0).warps.toNat == imm16 x.f)) = true ∧
    matrixCases.all (fun y => let s := withTiles [] y.2.1 y.2.2 (agreement none)
      executesAnd y.1 s (fun x => let n := x.note s
        tilesFit y.1 x.f.ty.toNat (x.tile n 0) (x.tile n 1) && (x.agr n 0).state == .opened && (x.agr n 0).proposal.isNone) &&
      executesAnd y.1 s (fun x => let p := withTiles [] y.2.1 y.2.2 (agreement (some x.insn))
        executesAnd y.1 p (fun z => let n := z.note p
          tilesFit y.1 z.f.ty.toNat (z.tile n 0) (z.tile n 1) && (z.agr n 0).state == .proposed &&
            (match (z.agr n 0).proposal with | some q => proposalKey q == proposalKey z.insn | none => false)))) = true ∧
    (let s := withTiles [] 0 0 (agreement none)
     executesAnd (.msign z64) s (fun x => let n := x.note s; let w := warpOf x n; let m := x.part w; let a := x.agr n 0
       let b := { a with signed := SMap.set 0#32 a.signed w.windex (SMap.get 0#32 a.signed w.windex ||| m) }
       m != 0#32 && a.state == .opened && m &&& ~~~(SMap.get 0#32 a.lanes w.windex) == 0#32 && !b.complete)) = true := by decide +kernel

theorem witness_AccumulatorAccesses : ([.accz z64, .accwr { z64 with rs2 := 2#8 }, .accscl z64] : List Instr).all (fun i => executesAnd i running (fun x =>
      let n := x.note running; let w := warpOf x n; let m := x.part w; let g := n.groupOf x.core x.slot; let a := x.f.rd.toNat
      let mine := fun (o : AccOp) => o.acc == a && o.agr.isNone && o.warp == w.windex && o.pc == x.pc && o.dreg.isNone && o.lanes &&& m != 0#32
      let placed := if g.accOrder.any mine then n else x.withGroup n (fun g =>
        { g with accOrder := g.accOrder ++ [{ acc := a, warp := w.windex, pc := x.pc, lanes := m }] })
      m != 0#32 && (match (placed.groupOf x.core x.slot).accFirst a with | some o => mine o | none => false))) = true ∧
    ([.accrd { z64 with rd := 4#8, iv := 1#2 }, .accrmax { z64 with rd := 4#8, iv := 1#2 }] : List Instr).all
      (fun i => executesAnd i running (fun x => x.part (warpOf x (x.note running)) != 0#32)) = true := by decide +kernel

/-- Words of memory. -/
def withMem (s : State) (l : List (Nat × Nat × Nat)) : State := { s with mem := l.foldl (fun m y => writeBytes m y.1 y.2.1 y.2.2) s.mem }

/-- A TXFER or COPY record at 0x10000 (kind at bits 427 to 424, the descriptors that it names), two descriptors of one shape, the second with GRP and
REPL module 0, and a group record of module 0 at 0x10100 (R303, R306, R307); v2:v3 points to the group record. -/
def engineState (kind : Nat) (grp : Nat) : State :=
  let s := atAddr 0x10000 (withRegs warp1 [(2, 0x10100)]) fetchGroup
  withMem s [(0x10000, 64, kind * 2 ^ 424 + (if kind = 1 then 0x10040 + 0x10080 * 2 ^ 64 + grp * 2 ^ 192 else 0)), (0x10040, 64, descriptor),
    (0x10080, 64, descriptor + 2 ^ 466 + 2 ^ 480), (0x10100, 16, 7 * 2 ^ 64 + 1 * 2 ^ 96)]

/-- The premise `fits` of a TXFER record at a group record, with a condition on the command and the state. -/
def fitsB (x : Iss) (s u : State) (r0 grp : Nat) (more : EngineCmd → State → Bool) : Bool :=
  let w := warpOf x (commandState x s); let m := x.part (warpOf x s); let v := x.a64 w (x.warpLane m); let l := x.warpLane m
  match x.tensor u l (field r0 0 64) with
  | (.ok src none, u1) => (match x.tensor u1 l (field r0 64 64) with
    | (.ok dst none, u2) => (match u2.readRecord x.core x.slot l x.pc 2 grp with
      | (.val gm, z) => grp % 16 == 0 && !collMismatch src dst (coreModule x.core) && ((scalesBad src).or (scalesBad dst)).isNone && tRepl dst != 0 && bit (field gm 96 32) (coreModule x.core) &&
          field gm 96 32 &&& tRepl dst == tRepl dst &&
          more { x.engineCmd z m true r0 v with src := src, dst := dst, gid := field gm 64 32, members := field gm 96 32 } z
      | _ => false)
    | _ => false)
  | _ => false

/-- A legal record of a kind at the address that v0:v1 holds. -/
def recordB (x : Iss) (s : State) (kind : Nat) (more : State → Nat → Bool) : Bool :=
  let n := commandState x s; let w := warpOf x n; let m := x.part (warpOf x s); let v := x.a64 w (x.warpLane m)
  closedB x s && (warpOf x (x.note s)).rel.isNone && v % 64 == 0 &&
    (match n.readRecord x.core x.slot (x.warpLane m) x.pc 8 v with
     | (.val r0, u) => (recordCheck kind r0 (u.groupOf x.core x.slot).allot.sbytes).isNone && more u r0
     | _ => false)

theorem witness_EngineCommandsAndScoreboard :
    executesAnd (.scbset z64) running (fun x => x.part (warpOf x (x.note running)) != 0#32 && (x.note running).releaseReady x.core x.slot 3) = true ∧
    executesAnd (.scbclr z64) running (fun x => x.part (warpOf x (x.note running)) != 0#32) = true ∧
    executesAnd (.copy z64) (engineState 0 0) (fun x => recordB x (engineState 0 0) 0 (fun _ _ => true)) = true ∧
    executesAnd (.txfer { z64 with rs2 := 2#8 }) (engineState 1 0) (fun x => let s := engineState 1 0; let g := x.b64 (warpOf x (commandState x s)) 0
      recordB x s 1 (fun u r0 => field r0 192 64 == 0 && fitsB x s u r0 g (fun k z => match (z.takeSeq k g).1 with | .ok _ => true | _ => false))) = true ∧
    [0, 1].all (fun kind => let s := engineState kind 0x10100
      executesAnd (.trig { z64 with rs2 := 2#8 }) s (fun x => (((commandState x s).groupOf x.core x.slot).freeTrig).isSome &&
        recordB x s kind (fun u r0 => field r0 424 4 == kind && (kind == 0 || (field r0 192 64 != 0 && fitsB x s u r0 (field r0 192 64) (fun _ _ => true)))))) = true := by
  decide +kernel

/-! ### Witnesses: floods, transactions, traps -/

/-- A context whose FCB 0, at 0x50000, holds handle 0, COMPLETE, DEPTHLIM 7, combiner 1 and MAXWARPS 8, and whose fault domain 0, at 0x58000, is assigned with a ring
of eight entries at 0x5A000; at 0x10000 the descriptor of a flood to region 0 (R41, R75, R388). -/
def flooded (w : Warp) : State :=
  let s := atAddr 0x10000 w fetchGroup
  let c := s.ctx 0
  withMem (s.setCtx 0 { c with regs := SMap.set 0#64 (SMap.set 0#64 (SMap.set 0#64 c.regs 0x018 0x50000#64) 0x060 0x58000#64) 0x068 1#64 })
    [(0x10000, 64, 2 ^ 64), (0x50000, 64, 2 ^ 384 + 7 * 2 ^ 208 + 2 ^ 240 + 8 * 2 ^ 64), (0x58000, 32, 0x5A000 + 0x5B000 * 2 ^ 128 + 3 * 2 ^ 224 + 2 ^ 232)]

/-- A warp whose lane 0 runs clause 0 of cairn 0. -/
def clauseWarp : Warp := { warp1 with ident := [(0, { cairn := some 0 })] }

theorem witness_FloodsEchoesAndClauses :
    executesAnd (.flood { z64 with rd := 4#8 }) (flooded warp1) (fun x => let s := flooded warp1; let ls := lanes (x.part (warpOf x s))
      let r := x.emitEach { s := (x.note s).releaseSteps x.core x.slot 3 } ls
      x.part (warpOf x s) != 0#32 && closedB x s && !ls.isEmpty && (x.note s).releaseReady x.core x.slot 3 && r.traps.isEmpty && r.parks.isEmpty && r.again.isEmpty) = true ∧
    executesAnd (.echo { z64 with ty := 1#4 }) (flooded clauseWarp) (fun x => let s := flooded clauseWarp
      closedB x s && x.part (warpOf x s) == 1#32 && (x.note s).releaseReady x.core x.slot 3 && (x.echoCheck (x.note s) (warpOf x (x.note s)) 0).isNone) = true ∧
    executesAnd (.clause { z64 with rs2 := 14#8 }) (flooded clauseWarp) (fun x => let s := flooded clauseWarp
      closedB x s && x.part (warpOf x s) == 1#32 && (x.note s).releaseReady x.core x.slot 3 && (x.clauseCheck (warpOf x s) 0).isNone &&
        (x.clauseEach ((x.note s).releaseSteps x.core x.slot 3) [0]).1.isEmpty) = true := by decide +kernel

/-- The form whose handle is v6, which holds 0. -/
def query64 : Form64 := { z64 with rd := 8#8, rs1 := 6#8 }

theorem witness_FloodQueries :
    executesAnd (.waitf query64) (flooded warp1) (fun x => let s := flooded warp1; let m := x.part (warpOf x s); let n := x.touchHandles (x.note s) m; let ls := lanes m
      let u := ls.foldl (fun s l => x.waitfLane s l) n; let ys := (warpOf x u).waits.filter (fun y => m.getLsbD y.lane)
      closedB x s && m != 0#32 && x.badHandles n m == 0#32 && ys.all (fun y => y.done) && ys.length == ls.length) = true ∧
    ([.testf query64, .cancelf { query64 with rd := 0#8 }, .finfo { query64 with rs3 := 3#8 }] : List Instr).all (fun i => executesAnd i (flooded warp1) (fun x =>
      let m := x.part (warpOf x (flooded warp1)); let n := x.touchHandles (x.note (flooded warp1)) m
      closedB x (flooded warp1) && m != 0#32 && x.badHandles n m == 0#32)) = true ∧
    [8, 9].all (fun k => executesAnd (.finfo { z64 with rd := 8#8, rs3 := BitVec.ofNat 8 k }) (flooded clauseWarp) (fun x =>
      x.f.rs3.toNat == k && !((warpOf x (flooded clauseWarp)).laneIdent 0).cairn.isNone)) = true := by decide +kernel

theorem witness_RoleReadsItsDescriptorAndWaits : executesAnd (.role z64) (atAddr 0x10000) (fun x =>
    let s := atAddr 0x10000; let n := x.waitAt (x.note s) .agreement true
    closedB x s && (match (warpOf x n).entryOf x.e.mask with
      | some (i, e) =>
        let ready : Entry := { e with state := .ready, cause := none }
        let y : Iss := { x with idx := i, e := ready }; let v := n.setWarp x.core x.slot ((warpOf x n).replaceEntry i [ready])
        let va := y.a64 (warpOf x v) (y.warpLane (y.part (warpOf x v)))
        e.mask == (warpOf x n).live && va % 32 == 0 &&
          (match v.readRecord x.core x.slot (y.warpLane (y.part (warpOf x v))) y.pc 20 va with | (.val _, _) => true | _ => false)
      | none => false)) = true := by decide +kernel

/-- A warp whose lane 0 is in a transaction that TXE 0x10040 ends. -/
def openWarp : Warp := { warp1 with tx := [(0, { state := .opened, txe := 0x10040 })] }

theorem witness_TransactionsOpenCommitAndAbort :
    executesAnd (.txb { z64 with iv := 1#2, rs3 := 8#8 }) running (fun x => closedB x running && ((warpOf x (x.note running)).laneTx 0).state == .idle &&
      decide (((warpOf x (x.note running)).laneTx 0).aborts.toNat < 3)) = true ∧
    executesAnd (.txe z64) running (fun x => closedB x running && x.f.rd.toNat != 15 && x.f.rd.toNat != 14) = true ∧
    ([.txe z64, .txa { z64 with iv := 1#2 }] : List Instr).all (fun i => executesAnd i (small openWarp fetchGroup) (fun x =>
      let n := x.note (small openWarp fetchGroup); let u := n.drain x.core x.slot
      x.openPart (warpOf x n) == 1#32 && (warpOf x u).storeq.isEmpty && !x.logHeld u (x.openPart (warpOf x (small openWarp fetchGroup))))) = true := by decide +kernel

theorem witness_TrapInstructionsAndUnassignedOpcodes :
    ([.syscall { z64 with iv := 1#2 }, .trap { z64 with iv := 1#2 }, .bpt z64] : List Instr).all (fun i => executesAnd i running (fun x =>
      closedB x running && x.part (warpOf x running) != 0#32)) = true ∧
    running.cur = .warp 0 0 0 ∧ ∃ e, (running.warp 0 0).entry 0 = some e ∧ filterMask (e.mask &&& e.mask) (running.warp 0 0).isOpen = 0#32 :=
  ⟨by decide +kernel, rfl, _, rfl, by decide +kernel⟩

/-- An unprivileged warp whose trap frame lies at 0x12000. -/
def userState : State := atAddr 0 { fetchWarp with eframe := 0x12000#64, tvec := 0x13000#64 } fetchGroup

theorem witness_TakingATrapEntersTheHandler : (let s := userState; let t : TrapReq := { cause := 0x70, lanes := 1#32, pc := 0x10000, insn := 0, len := 8, info := {} }
    let d := s.completeLanes 0 0 1#32; let w := (d.warp 0 0).leaveWaits 1#32
    let v := (d.setWarp 0 0 w).setGroup 0 w.group ((d.group 0 w.group).leaveOrders w.windex 1#32); let g := v.groupOf 0 0
    let info := { t.info with cause := t.cause, pc := t.pc }
    match (s.warp 0 0).entry 0 with
    | none => false
    | some e => !(s.warp 0 0).privileged && w.storeq.isEmpty && !w.unperformed e.mask && w.eframe.toNat % 64 == 0 && !w.tvec.getLsbD 0 && decide (w.tvec.toNat < 2 ^ 57) && t.epc.isNone &&
        (match v.ctxWrite g.ctx w.eframe.toNat 256 (frameBits (recordBits info g.fcb (w.laneIdent ((lowestLane t.lanes).getD 0)).handle 0 0) t e w.fstat) with
         | (none, u) => decide (0 < (u.warp 0 0).frontier.length) | _ => false)) = true := by decide +kernel

/-- IADD without a type, ERET in unprivileged mode, and a register beyond the allotment. -/
theorem witness_IssueChecksTrap :
    (∃ x, issOf (.iadd64 z64) running = some x ∧ filterMask x.e.mask (warpOf x (x.note running)).isOpen = 0#32 ∧ (Instr.iadd64 z64).wf = false) ∧
    (∃ x, issOf (.eret z64) userState = some x ∧ filterMask x.e.mask (warpOf x (x.note userState)).isOpen = 0#32 ∧ (Instr.eret z64).wf = true ∧ x.g.priv = true ∧
      (warpOf x userState).privileged = false) ∧
    (let s := small warp1 { fetchGroup with allot := { fetchGroup.allot with vregs := 8 } }
     ∃ x, issOf (.mov64 { z64 with rd := 8#8 }) s = some x ∧ filterMask x.e.mask (warpOf x (x.note s)).isOpen = 0#32 ∧ (Instr.mov64 { z64 with rd := 8#8 }).wf = true ∧
      (x.g.priv = true → (warpOf x s).privileged = true) ∧ x.allotted (s.groupOf x.core x.slot).allot = false) :=
  ⟨⟨_, rfl, by decide +kernel, by decide +kernel⟩, ⟨_, rfl, by decide +kernel, by decide +kernel, by decide +kernel, by decide +kernel⟩,
    ⟨_, rfl, by decide +kernel, by decide +kernel, by decide +kernel, by decide +kernel⟩⟩

theorem witness_ReturnFromTrapRestores : executesAnd (.eret z64) running (fun x => let d := (x.note running).completeLanes x.core x.slot x.e.mask; let u := x.waitAt d .agreement true; let w := warpOf x u
    (warpOf x d).storeq.isEmpty && (w.entryOf x.e.mask).isSome && w.trapping.isNone && !w.epc.getLsbD 0 && decide (w.epc.toNat < 2 ^ 57)) = true := by decide +kernel

/-- Every kind and the scopes .co and .dm; a translation of another page of the same context, so that something is named. -/
theorem witness_InvalidationDropsCopies : [(2, 0), (2, 1), (2, 2), (6, 0), (6, 1), (6, 2)].all (fun y => let s := runningWith [(2, 4096)]
    executesAnd (.tlbi { z64 with rs2 := if y.2 = 0 then 2#8 else 0#8, c3 := BitVec.ofNat 3 y.1, rm := BitVec.ofNat 2 y.2 }) s (fun x =>
      closedB x s && (match x.tlbiKind (x.note s) (x.part (warpOf x s)) with
        | .ok k =>
          let n := x.note s; let u := ((n.releaseSteps x.core x.slot x.f.c3.toNat).tlbi x.core x.f.c3.toNat k).drainIn x.core x.f.c3.toNat
          let v := u.setWarp x.core x.slot { warpOf x u with waits := (warpOf x u).waits.filter (fun y => !(x.part (warpOf x s)).getLsbD y.lane) }
          n.releaseReady x.core x.slot x.f.c3.toNat && !v.tlbiPending x.core x.f.c3.toNat &&
            decide (k ≠ .va (s.ctxOf x.core x.slot % 32) (x.a64 (warpOf x s) (x.warpLane (x.part (warpOf x s)))) 0)
        | _ => false))) = true ∧
    executesAnd (.tlbi { z64 with c3 := 2#3 }) running (fun x => closedB x running && (match x.tlbiKind (x.note running) (x.part (warpOf x running)) with
      | .ok k => decide (k = .va (running.ctxOf x.core x.slot % 32) (x.a64 (warpOf x running) (x.warpLane (x.part (warpOf x running)))) 0)
      | _ => false)) = true := by decide +kernel

/-! ### Witnesses: steps of the other agents -/

/-- A small state with a step's operands. -/
def stepping (w : Warp) (a : StepArgs := {}) (g : Group := fetchGroup) : State := { small w g with args := a }

/-- The one entry of warp 0, and the premise that names it. -/
def entry1 : Entry := { pc := BitVec.ofNat 57 fetchPage, prio := 128#8, mask := 1#32 }

/-- Each clause of `Obligations.WarpStepsBetweenIssues`, in its order. -/
theorem witness_WarpStepsBetweenIssues :
    (let e := { entry1 with age := 4096 }; let s := stepping { warp1 with frontier := [e] }
     (s.core 0).warp 0 = some { warp1 with frontier := [e] } ∧ e.state = .ready ∧ 4096 ≤ e.age ∧ e.held = [] ∧ (s.groupOf 0 0).promise = true) ∧
    (let e := { entry1 with state := .waiting, cause := some .reconv }; let w := { warp1 with frontier := [e] }
     w.trapping = none ∧ (∀ y ∈ w.frontier, y.holdsSplit = false → y.state = .waiting ∧ y.cause = some .reconv) ∧ e.holdsSplit = false ∧ lowestReconv w.frontier none = some e) ∧
    (let e := { entry1 with held := [{ pc := 8, prio := 0, mask := 2#32 }] }; let w := { warp1 with frontier := [e] }
     w.entry 0 = some e ∧ e.held ≠ [] ∧ e.replay = 0#32 ∧ e.state ≠ .parked ∧ w.frontier.length + e.held.length ≤ 9) ∧
    (let p : PendingTrap := { cause := 4, lanes := 1#32, pc := 0, insn := 0, len := 8, info := {}, epc := none }; let w := { warp1 with pending := [p] }
     w.trapping = none ∧ w.entryOf p.lanes = some (0, entry1) ∧ entry1.holdsSplit = false ∧ entry1.state ≠ .parked ∧ w.unperformed entry1.mask = false ∧
       (((small w fetchGroup).drain 0 0).warp 0 0).storeq = []) ∧
    (let w := { warp1 with frontier := [] }; w.frontier = [] ∧ w.storeq = [] ∧ w.targetFaults = [] ∧ ∀ r ∈ w.inflight, r.unperformed = 0#32) ∧
    (let t := fun rs : List TxWord => stepping { warp1 with tx := [(0, { state := .opened, issued := 16384, reads := rs })] }
     ((t []).warp 0 0).laneTx 0 = { state := .opened, issued := 16384 } ∧ ((t []).readsHold 0 []).1 = true ∧
       ((t []).readsHold 0 [{ pa := 0x10000, value := 1#64, mask := 255#8 }]).1 = false) ∧
    (let s := { running with modules := [(0, { tokenQueue := [(0, 0, 0)] })] }; (s.module 0).holder = none ∧ (s.module 0).tokenQueue = (0, 0, 0) :: []) ∧
    (let s := { running.setCore 0 { running.core 0 with clock := 0x100000#64 } with modules := [(0, { holder := some (0, 0, 0) })] }
     (s.module 0).holder = some (0, 0, 0) ∧ (s.module 0).tenure + 2 ^ 20 ≤ s.moduleClock 0) := by
  decide +kernel

/-- A load under way to v4 in lane 0. -/
def flight : InFlight := { insn := 0, len := 8, pc := 0x10000, late := false, uniform := false, dreg := 4, width := 4, pend := 1#32 }

theorem witness_ReturnsAndWriteBacks :
    (let s := stepping { warp1 with inflight := [flight] } { lanes := 1#32 }
     (s.warp 0 0).record 0 = some flight ∧ (s.args.lanes &&& flight.pend &&& ~~~flight.remote) ≠ 0#32 ∧ (s.args.lanes &&& flight.pend) &&& flight.unperformed = 0#32) ∧
    (let r := { flight with remote := 1#32, unperformed := 1#32 }; let s := stepping { warp1 with inflight := [r] } { lanes := 1#32 }
     (s.warp 0 0).record 0 = some r ∧ s.args.lanes &&& r.remote ≠ 0#32 ∧ s.packetPinned 0 0 r (r.packet (s.args.lanes &&& r.remote) r.remote) = false) ∧
    (let r := { flight with pointer := [(0, some (.dom 0))], unperformed := 1#32 }; let s := stepping { warp1 with inflight := [r] } { lanes := 1#32 }
     (s.warp 0 0).record 0 = some r ∧ filterMask s.args.lanes (fun l => (SMap.get none r.pointer l).isSome) ≠ 0#32) ∧
    (let w := { warp1 with targetFaults := [flight] }
     w.targetFaults[0]? = some flight ∧ flight.pend &&& w.live ≠ 0#32 ∧
       findIdx (fun y => y.mask &&& (flight.pend &&& w.live) != 0#32 && y.state != .parked && y.replay == 0#32) w.frontier 0 = some (0, entry1)) ∧
    (let o := storeOp 0 0 (.dom 0x10000) false 4 7 0x10000 0 8 0x10000; let s := stepping { warp1 with storeq := [o] }
     (s.warp 0 0).storeq = o :: [] ∧ (s.storeStep 0 0 o []).2.1 = none) ∧
    (let s := { cached.setCore 0 { cached.core 0 with l1 := [{ line := 64, sectors := [(0, { full := true, dirty := 1#256 })], wti := false, spec := [] }] } with
                args := { flag := true, pa := 0x10000 } }
     s.args.flag = true ∧ ((s.core 0).sector s.args.pa).dirty ≠ 0#256 ∧ s.sectorPinned 0 s.args.pa = false) ∧
    (∃ y, (ranged.group 0 0).maps[0]? = some y ∧ (SMap.get ({} : MapSector) y.sectors 0).dirty ≠ 0#256 ∧ ranged.mapPinned 0 0 0 0 = false) :=
  ⟨by decide +kernel, by decide +kernel, by decide +kernel, by decide +kernel, by decide +kernel, by decide +kernel, ⟨_, rfl, by decide +kernel⟩⟩

/-- A wait of lane 0 for an agreement to be idle, and one for a word of host memory. -/
def wait1 (k : WaitKind) : Wait := { lane := 0, kind := k, pc := 0x10000, len := 8 }
def valueWait (p : Place) : WaitKind := .value p 4 0xFFFFFFFF 0 1 false 3 4

theorem witness_WaitsAndParkedFaults :
    (let y := { wait1 (valueWait (.dom 0x10000)) with woken := true }; let w := { warp1 with waits := [y] }
     w.waitOf 0 = some y ∧ y.woken = true ∧ y.done = false ∧ y.perLane = true) ∧
    (let y := { wait1 (valueWait (.dom 0x10000)) with done := true }; let e := { entry1 with state := .waiting, cause := some .wait }; let w := { warp1 with waits := [y], frontier := [e] }
     w.waitOf 0 = some y ∧ y.done = true ∧ e ∈ w.frontier ∧ e.mask.getLsbD y.lane = true ∧ w.allDone e = true) ∧
    (let y := wait1 (.engine (.agrIdle 0)); let s := stepping { warp1 with waits := [y] }
     (s.warp 0 0).waitOf 0 = some y ∧ y.done = false ∧ y.woken = false ∧ s.engineReady 0 0 y = true) ∧
    (let y := wait1 (valueWait (.port 0 0)); let s := running.setCore 0 { running.core 0 with clock := 1024#64 }
     y.done = false ∧ y.period = some 1024 ∧ y.since + 1024 ≤ (s.core 0).clock.toNat) ∧
    (let z : Monitor := { line := .dom 0x10000, hit := some .write }; let w := { warp1 with monitor := some z }
     w.monitor = some z ∧ z.fired = false ∧ z.hit = some .write ∧ (∀ v ∈ w.waits, v.kind ≠ .monitor) ∧ wait1 .monitor ∈ [wait1 .monitor]) ∧
    (let y := wait1 .monitor; let s := running.setCore 0 { running.core 0 with clock := 65536#64 }
     y.kind = .monitor ∧ y.done = false ∧ y.since + 65536 ≤ (s.core 0).clock.toNat) ∧
    (let e := { entry1 with state := .parked, frec := 0xFFFF#16, fault := some { cause := 0x10, lanes := 1#32 } }; let s := stepping { warp1 with frontier := [e] }
     (s.warp 0 0).entry 0 = some e ∧ e.state = .parked ∧ e.frec = 0xFFFF#16 ∧ ({ cause := 0x10, lanes := 1#32 } : FaultInfo).lanes ≠ 0#32 ∧
       (s.ctx (s.groupOf 0 0).ctx).records.length < 0xFFFF) ∧
    (let s := (flooded warp1).setCtx 0 { (flooded warp1).ctx 0 with heldFaults := [(0, [5])] }
     SMap.get [] (s.ctx 0).heldFaults 0 = 5 :: [] ∧ (match s.domainEntry 0 0 with | some d => field d 232 8 != 0 && s.domainRoom 0 0 d | none => false) = true) := by
  decide +kernel

/-- A flood message of class 0 that reaches region 0, and a clause of it. -/
def flood1 : FloodMsg :=
  { handle := 0#32, depth := 0, ctx := 0, fcb := 0#32, entry := 0x10000, regmask := 1#32, modmask := 0#32, grain := 0, mapv := false, mapid := 0, args := [], arglen := 0,
    comb := 0, uid := false, ident := 0#64, silence := 0, cls := 0, deferc := false, promise := true, maxwarps := 8, scope := 3, sig := 0#512 }
def clause1 : Clause := pieceClause flood1 0 none { shard := 0, offset := 0, count := 0, coords := [], last := true } 128

/-- A region whose list of closed warps holds one warp of that clause, with a stash budget in the FCB (`budget`), and with the entry record of its entry
declaring 256 bytes of stash, or none. -/
def placing (declared : Bool) (budget : Nat) : State :=
  let s := flooded warp1
  let c := s.ctx 0
  let s := s.setCtx 0 { c with regs := SMap.set 0#64 (SMap.set 0#64 c.regs 0x090 0x5C000#64) 0x098 (if declared then 1#64 else 0#64) }
  let s := withMem s [(0x50000, 64, 2 ^ 384 + budget * 2 ^ 96 + 2 ^ 240 + 8 * 2 ^ 64), (0x5C000, 32, 0x10000 * 2 ^ 192 + 256 * 2 ^ 160 + 2 ^ 22)]
  s.setRegion 0 { closed := [{ clauses := [clause1], flush := true }] }

/-- A saved group of one warp with an atomic under way that is late (R353, R356). -/
def savedGroup (state : Nat) : Saved :=
  { number := 3, base := 0x10000, len := 4096, state := state, group := fetchGroup, warps := [warp1], stash := [], latepend := 0 }
def lateAtomic : InFlight :=
  { insn := 0x70020080C03C000B, len := 8, pc := 0x10000, late := true, uniform := false, dreg := 8, width := 4, pend := 1#32, unperformed := 1#32,
    place := [(0, some (.dom 0x10000))], addr := [(0, 0x10000)] }

/-- A core without groups, and a saved one. -/
def savedState (v : Saved) : State := { atAddr 0 with cores := [(0, { saved := [v] })] }

/-- A warp that waits for its group at ROLE with a descriptor. -/
def roleWarp (d : Nat) : Warp := { warp1 with waits := [wait1 (.role d)], frontier := [{ entry1 with state := .waiting, cause := some .agreement }] }

/-- The state once the pages of the tables that a placement reads for a clause are marked as used. -/
def touchedFor (s : State) (c : Clause) : State := ((s.touchEntries c.ctx).touchBlocks c.ctx).touchFcb c.ctx c.fcb

theorem witness_GroupsArePlacedSavedAndRestored :
    (let s := placing false 0; let r := s.region 0
     r.closed[0]? = some { clauses := [clause1], flush := true } ∧ (touchedFor s clause1).entryRecord clause1.ctx clause1.entry = none ∧ (r.formed 0 ({} : Allot).warps).isSome = true) ∧
    [0, 4096].all (fun budget => let r := (placing true budget).region 0; let s := touchedFor (placing true budget) clause1
      match s.entryRecord clause1.ctx clause1.entry with
      | some e => (r.formed 0 (allotOf e).warps).isSome && s.fcbField 0 0#32 96 32 == budget && (allotOf e).sbytes == 256 &&
          decide ((allotOf e).tbytes ≤ s.fcbField 0 0#32 128 32) && (budget == 0 || (s.chooseCore 0 1 (allotOf e) (s.sliceDomain 0 0#32)).isSome)
      | none => false) = true ∧
    running.toPreempt 0 false ≠ [] ∧
    (let s := running.setCore 0 { running.core 0 with domain := some 0 }
     (s.core 0).domain = some 0 ∧ (s.core 0).sliceLeft = 0 ∧ s.sliceGroups 0 0 ≠ [] ∧ ∀ y ∈ (s.core 0).warps, ∀ w, y.2 = some w → w.over = false) ∧
    (let y : Wait := { wait1 (.flood 0#32 4) with held := true }; let w := { warp1 with waits := [y], frontier := [{ entry1 with state := .waiting, cause := some .wait }] }
     let s0 := small w { fetchGroup with swapth := 1, idleSince := some 0 }; let s := s0.setCore 0 { s0.core 0 with clock := 2000#64 }
     s.swappable 0 0 = true ∧ ((s.core 0).group 0).isSome = true) ∧
    [0, 2].all (fun k => let s := savedState (savedGroup k); (s.core 0).savedAt 3 == some (savedGroup k) && s.returns 0 (savedGroup k)) = true ∧
    (let v := { savedGroup 0 with warps := [{ warp1 with inflight := [lateAtomic] }], latepend := 1 }; let s := savedState v
     (s.core 0).savedAt 3 = some v ∧ lateAtomic.late = true ∧ (lateAtomic.pend &&& lateAtomic.unperformed).getLsbD 0 = true ∧
       (match (s.lateLane 0 0 lateAtomic 0).1 with | .val _ => true | _ => false) = true) ∧
    (let d := 8 + 8 * 2 ^ 16 + 393216 * 2 ^ 96
     let s := withMem (flooded (roleWarp d)) [(0x8050000, 64, 393216 * 2 ^ 128)]
     let t := (small (roleWarp (d + 2 ^ 43)) fetchGroup)
     s.roleDue 0 0 && s.roleOutcome 0 0 == some (some d) && t.roleDue 0 0 && t.roleOutcome 0 0 == some none) = true := by
  decide +kernel

/-- A COPY of 64 bytes within the mapped GiB, and one whose source no page maps. -/
def copyCmd (src : Nat) : EngineCmd :=
  { txfer := false, record := src + 0x11000 * 2 ^ 64 + 64 * 2 ^ 256, va := 0x12000, ctx := 0, module := 0, priv := true, state := .proceeds }

/-- A matrix operation in agreement register c0: MMA.bf16 a0, t0, t1, c0 (the spec's word), signed. -/
def mmaAgr (st : AgrState) (steps : Nat) : Agr :=
  { state := st, warps := 1#16, lanes := [(0, 1#32)], signed := [(0, 1#32)], proposal := some 0x82000000403C000B, steps := steps }

/-- A core whose unit makes that operation over `cols` positions of K. -/
def multiplying (cols : Nat) : State :=
  let g : Group := { fetchGroup with tiles := [(0, BitVec.ofNat 256 (tileRecord 2 128 cols 0 0)), (1, BitVec.ofNat 256 (tileRecord 2 cols 96 0 8192))],
                                     agr := [(0, mmaAgr .issued 0)], accOrder := [{ acc := 0, agr := some 0 }] }
  let s := small warp1 g
  s.setCore 0 { s.core 0 with matq := [{ group := 0, agr := 0 }] }

/-- A TXFER with REDOP 1 whose one member is module 0, alone in its region's queue. -/
def foldCmd : EngineCmd :=
  { copyCmd 0 with txfer := true, record := 2 ^ 424 + 0x10040 + 0x10080 * 2 ^ 64, src := descriptor, dst := descriptor + 2 ^ 466 + 2 ^ 477 + 2 ^ 480, members := 1 }
def foldState : State := { atAddr 0 with regions := [(0, { copyq := [foldCmd] })] }

theorem witness_TilesMatrixAndEnginesStep :
    (let l : Landing := { load := true, tile := 0, base := 0, left := 4, barrier := none, sbit := none, runs := [], warp := 0, pc := 0, insn := 0, len := 8, lanes := 1#32 }
     ({ fetchGroup with landings := [l] } : Group).landable 0 4 = some l ∧ l.load = true) ∧
    (let g : Group := { fetchGroup with tiles := [(0, BitVec.ofNat 256 (tileRecord 2 128 32 0 0)), (1, BitVec.ofNat 256 (tileRecord 2 32 96 0 8192))], agr := [(0, mmaAgr .proposed 0)] }
     (match g.issues 0 with | some (_, f) => !tileSparse (g.opTiles f).2 | none => false) = true) ∧
    [(32, false), (4096, true)].all (fun y => let s := multiplying y.1; let h := s.group 0 0; let b := SMap.get ({} : Agr) h.agr 0
      (s.core 0).matq == [{ group := 0, agr := 0 }] && (match b.op with
        | some (i, f) => (match h.accFirst f.rd.toNat with
          | some o => o.agr == some 0 && decide (b.steps + 1 < stepCount i (tileFmt (h.opTiles f).1) (tileCols (h.opTiles f).1)) == y.2
          | none => false)
        | none => false)) = true ∧
    ((copyCmd 0x10000).state = .proceeds ∧ ({ copyCmd 0 with state := .mismatch } : EngineCmd).state = .mismatch ∧ (copyCmd 0x10000).txfer = false) ∧
    (match (atAddr 0).workOf (copyCmd 0x10000) with | .done _ _ => true | _ => false) = true ∧
    (match (atAddr 0).workOf (copyCmd (2 ^ 40)) with | .fail _ _ _ => true | _ => false) = true ∧
    (let k : EngineCmd := { copyCmd 0 with txfer := true, record := 2 ^ 424, state := .reporting, src := descriptor, dst := descriptor + 2 ^ 466 + 2 ^ 480, members := 1 }
     let s := { atAddr 0 with regions := [(0, { copyq := [k] })] }; let t := s.putCmd 0 0 { k with state := .reported }
     (s.region 0).copyq[0]? = some k ∧ (t.decide k.members ((t.collective { k with state := .reported }).filter (fun y => y.2.2.state == .reported))).isSome = true) ∧
    (foldCmd.state = .proceeds ∧ foldCmd.txfer = true ∧ tRedop foldCmd.dst ≠ 0 ∧
      (match foldState.writeFolds ((foldState.collective foldCmd).filter (fun y => y.2.2.state == .proceeds)) with
       | some u => (match (u.region 0).copyq[0]? with | some k => (match u.workOf k with | .done _ _ => true | _ => false) | none => false)
       | none => false) = true) ∧
    (let t : Trigger := { vm := 5#64, cmd := copyCmd 0 }; let h : Group := { fetchGroup with trig := [(0, some t)], tscb := 7#64 }
     (small warp1 h).groupAt 0 0 = some h ∧ SMap.get none h.trig 0 = some t ∧ h.tscb &&& t.vm = t.vm) := by
  decide +kernel

/-- A machine with cairns, messages in the net and a region. -/
def netState (k : Cairn) (u : Nat) (net : List NetMsg) (r : Region) (a : StepArgs := {}) : State :=
  { (atAddr 0).setCairn u 0 k with net := net, regions := SMap.set {} [] 0 r, args := { a with unit := u } }

theorem witness_FloodNetworkSteps :
    [0, 64].all (fun n => let s := netState {} 0 [.flood 0 1024 0 0 flood1] { wait := [(0, List.replicate n (0, .flood 0 1024 0 0 flood1))] }
     s.net[0]? == some (.flood 0 1024 0 0 flood1) && s.inOrder 0 && ((s.takeNet 0).waitList 0 flood1.depth).length == n) = true ∧
    (let s := netState {} 0 [] { wait := [(0, [(0, .flood 0 1024 0 0 flood1)])] }
     s.waitList 0 0 = (0, .flood 0 1024 0 0 flood1) :: [] ∧ s.freeCairn 0 0 = some 0) ∧
    (let s := netState { state := .opened, msg := some flood1 } 0 [] {} { reader := some (.cairn 0 0) }
     s.args.reader = some (.cairn 0 0) ∧ (s.cairn 0 0).state = .opened ∧ (s.cairn 0 0).msg = some flood1) ∧
    (let s := netState { state := .dispatch, msg := some flood1 } 0 [] {}; let q := s.cairn 0 0
     q.state = .dispatch ∧ q.msg = some flood1 ∧ (match s.piece 0 0 with | some p => (s.region 0).room (pieceClause flood1 0 q.map p 128) | none => false) = true ∧
       q.warps < flood1.maxwarps) ∧
    (let w : OpenWarp := { clauses := [clause1], since := 0 }; let s0 := running.setCore 0 { running.core 0 with clock := 2048#64 }
     let s := { s0 with regions := SMap.set {} [] 0 { opened := [w] } }
     (s.region 0).opened[0]? = some w ∧ w.since + 2048 ≤ s.regionClock 0) ∧
    (({ spill := [clause1] } : Region).drainable = some (0, clause1)) ∧
    (let s := netState { state := .drain, msg := some flood1, children := [(0, 0, 0, 0)] } 1024 [.echo 1024 0 0 0#32 0 3 {}] {}; let q := (s.takeNet 0).cairn 1024 0
     s.net[0]? = some (.echo 1024 0 0 0#32 0 3 {}) ∧ q.live = true ∧ q.handle = some 0#32 ∧ SMap.get none q.answered 0 = none ∧ q.silent.contains 0 = false ∧
       q.silentDue 0 ((s.takeNet 0).unitClock 1024) = false) ∧
    (let s := netState {} 1024 [.echo 1024 0 0 0#32 0 3 {}] {}; ((s.takeNet 0).cairn 1024 0).live = false) ∧
    ([0, 1024].all (fun u => let s := netState { state := .drain, msg := some flood1 } u [] {}; (s.cairn u 0).drained && (s.cairn u 0).msg == some flood1) = true) ∧
    ((netState { state := .echo } 0 [] {}).cairn 0 0).state = .echo ∧
    (let k : Cairn := { state := .drain, msg := some { flood1 with silence := 1 }, children := [(0, 0, 0, 0)] }
     let s0 := netState k 1024 [] {}; let s := s0.setCore 0 { s0.core 0 with clock := 0x100000000#64 }
     (s.cairn 1024 0).silentDue 0 (s.unitClock 1024) = true ∧ (s.cairn 1024 0).children[0]? = some (0, 0, 0, 0)) ∧
    (let s := netState { state := .drain, msg := some flood1 } 1024 [.cancel 1024 0#32 0 0 0 0] {}
     s.net[0]? = some (.cancel 1024 0#32 0 0 0 0) ∧ s.inOrder 0 = true ∧ (s.takeNet 0).waitList 1024 0 = [] ∧ (s.takeNet 0).cairnFor 1024 0#32 = some 0 ∧
       ((s.takeNet 0).cairn 1024 0).msg = some flood1) ∧
    (let s := netState {} 0 [.cancel 0 0#32 0 0 0 0] { wait := [(0, [(0, .flood 0 1024 0 0 flood1)])] }
     s.net[0]? = some (.cancel 0 0#32 0 0 0 0) ∧ s.inOrder 0 = true ∧ (s.takeNet 0).waitList 0 0 = [(0, .flood 0 1024 0 0 flood1)] ∧ flood1.handle = 0#32) ∧
    (let s := netState {} 1024 [.cancel 1024 0#32 0 0 0 0] {}; s.inOrder 0 = true ∧ (s.takeNet 0).cairnFor 1024 0#32 = none) := by
  decide +kernel

/-- A warp with a queued store to module 1. -/
def remoteStore : Warp := { warp1 with storeq := [storeOp 0 0 (.dom (2 ^ 39)) false 4 7 0x10000 0 8 0x10000] }

theorem witness_MemorySystemSteps :
    (let s := running.setCore 0 { running.core 0 with sig := [(3, BitVec.allOnes 512)] }
     256 ≤ sigCount ((s.core 0).sigOf 3) ∧ s.rolloverPinned 3 0 = false) ∧
    (match walkPage 0 3 (atAddr 0) 0x10000 with
     | (u, .ok (_, l)) => !bit l.e 54 && 2 ^ 30 % 2 ^ l.bits == 0 && !badPa (2 ^ 30) && (2 ^ 30 : Nat) != ptePpn l.e && !u.pageHeld (ptePpn l.e) (2 ^ l.bits)
     | _ => false) = true ∧
    (badPa 0x10000 = false ∧ (0x10000 : Nat) < 2 ^ 51 ∧ ([1#8] : List Byte) ≠ [] ∧ running.pinned (.dom 0x10000) 1 = false ∧ paModule 0x10000 = 0) ∧
    [1, 2].all (fun k => let s := { running with modules := [(0, { hostRmw := some (memKey (.port 0 (2 ^ 51)), 4, 5) })] }
      (s.hostUpdate 0 (2 ^ 51) (leBytes 4 7) true k).isSome) = true ∧
    (let s := atAddr 0; (s.module 0).safe = false ∧ (0x10000 : Nat) % 4096 + 8 ≤ 4096 ∧ (s.bar2 0 0x10000 none 8).isSome = true ∧
      (s.bar2 0 0x10000 (some [1#8]) 1).isSome = true ∧ s.bar2 0 (2 ^ 40) none 8 = none ∧ s.bar2 0 (2 ^ 40) (some [1#8]) 1 = none) ∧
    (let s := { running with modules := [(0, { hostPort := .cxl })] }; (s.module 0).hostPort = .cxl) ∧
    (let s0 := small remoteStore fetchGroup; let s := s0.setCore 0 { s0.core 0 with clock := 0x100000#64 }
     (0, 0) ∈ s.warpsIn (0 * 512) 5 ∧ 2 ^ (s.module 0).hubTmo ≤ s.moduleClock 0 ∧
       (s.warp 0 0).awaitsPeer 1 (s.moduleClock 0 - 2 ^ (s.module 0).hubTmo) = true ∧ (1 : Nat) ∉ (s.module 0).lost) ∧
    badPa (0x10000 / 8 * 8) = false := by
  decide +kernel

/-- A queue that runs and has read a packet. -/
def queued (b : Nat) (reg : List (Nat × DWord) := []) : State :=
  let s := flooded warp1
  let c := s.ctx 0
  let s := s.setCtx 0 { c with regs := reg.foldl (fun m y => SMap.set 0#64 m y.1 y.2) c.regs }
  (withMem s [(0x5C000, 32, 0x10000 * 2 ^ 192 + 2 ^ 22)]).setQueue 0 { state := .running, current := some { index := 0, bytes := b } }

/-- The premises of a packet of a type that starts, with a condition on the state. -/
def startsB (s : State) (type : Nat) (more : State → Nat → Bool) : Bool :=
  match s.headPacket 0 with
  | .packet p u => (match u.publish 0 p with
    | some v => field p.bytes 0 8 == type && (!bit p.bytes 8 || v.earlierDone 0) && field p.bytes 9 23 == 0 && v.queueCtx 0 == s.queueCtx 0 && more v p.bytes
    | none => false)
  | _ => false

theorem witness_QueueStepsAndRegisterWrites :
    ((running.queue 0).tail.toNat < (5#64 : DWord).toNat ∧ (running.module 0).safe = false ∧ 4 ∈ [1, 2, 4, 8] ∧ (0x10 : Nat) % 4 = 0) ∧
    startsB (queued (1 + 0x10000 * 2 ^ 64 + 0x40000 * 2 ^ 128) [(0x090, 0x5C000#64), (0x098, 1#64)]) 1 (fun v b => (v.seedCheck 0 b).1.isNone) = true ∧
    startsB (queued (2 + 0x12000 * 2 ^ 64)) 2 (fun v b => decide (field b 128 8 ≤ 31) && field b 136 376 == 0 && field b 64 64 % 64 == 0 &&
      (match (v.queueRead 0 0 (field b 64 64) 64).1 with | .ok (_, r0) => field r0 424 4 == 0 && field r0 416 2 == 0 && (recordCheck 0 r0 0).isNone | _ => false)) = true ∧
    startsB (queued (3 + 0x12000 * 2 ^ 64)) 3 (fun v b => decide (field b 192 8 ≤ 3) && field b 200 312 == 0 && field b 64 64 % 8 == 0 &&
      (match (v.queueRead 0 0 (field b 64 64) 8).1 with | .ok (_, y) => qwaitHolds (field b 192 8) y (field b 128 64) | _ => false)) = true ∧
    [0, 1].all (fun a => startsB (queued (4 + 0x12000 * 2 ^ 64 + 9 * 2 ^ 128 + a * 2 ^ 192)) 4 (fun v b => decide (field b 192 8 ≤ 1) && field b 200 312 == 0 &&
      field b 64 64 % 8 == 0 && (match v.queueRelease 0 0 (field b 64 64) 8 (field b 128 64) (field b 192 8 == 1) with | .ok _ => true | _ => false))) = true ∧
    ([3, 7].all (fun sc => startsB (queued (5 + sc * 2 ^ 64)) 5 (fun _ b => decide (3 ≤ field b 64 8 ∧ field b 64 8 ≤ 7) && field b 72 440 == 0)) = true ∧
      ((queued 5).queue 0).fenceDone = false) ∧
    startsB (queued 6) 6 (fun v b => field b 96 416 == 0 && bit (v.cdom 0) (handleMod (BitVec.ofNat 32 (field b 64 32))) &&
      v.handleValid 0 (BitVec.ofNat 32 (field b 64 32))) = true ∧
    startsB (queued 7) 7 (fun _ _ => true) = true := by
  decide +kernel

/-- The queue thread runs an instruction, with x10 holding an address. -/
def threaded (va : Nat) (z : Queue := {}) : State :=
  { (flooded warp1).setQueue 0 { z with x := [(10, BitVec.ofNat 64 va)] } with cur := .queue 0 }

theorem witness_QueueThreadInstructions :
    (threaded 0x12000).cur = .queue 0 ∧ ((threaded 0x12000).queue 0).reg 10#5 = 0x12000#64 ∧
    (match (threaded 0x12000).queueRead 0 0 0x12000 8 with
     | (.ok (_, v), t) => qwaitHolds 0 v ((t.queue 0).reg 11#5).toNat && !qwaitHolds 1 v ((t.queue 0).reg 11#5).toNat | _ => false) = true ∧
    (let s := let t := threaded 0x12000 { qctx := 0#64 }; let c := t.ctx 0
              withMem (t.setCtx 0 { c with regs := SMap.set 0#64 (SMap.set 0#64 c.regs 0x090 0x5C000#64) 0x098 1#64 })
                [(0x5C000, 32, 0x10000 * 2 ^ 192 + 2 ^ 22), (0x12000, 64, 1 + 0x10000 * 2 ^ 64 + 0x40000 * 2 ^ 128)]
     match s.queueRead 0 (s.threadCtx 0) 0x12000 64 with
     | (.ok (_, b), t) => field b 0 8 == 1 && field b 9 23 == 0 && (t.seedCheck (s.threadCtx 0) b).1.isNone && !((s.queue 0).waiting && (s.queue 0).seeding) | _ => false) = true ∧
    (let s := threaded 0x12000 { waiting := true, seeding := true }; (s.queue 0).waiting = true ∧ (s.queue 0).seeding = true ∧ s.unplaced 0 = false) ∧
    (match ((threaded 0x12000).queueRead 0 0 0x12000 64).1 with | .ok (_, r0) => field r0 424 4 == 0 && (recordCheck 0 r0 0).isNone | _ => false) = true := by
  decide +kernel

/-- A module whose mailbox holds a command with a request of bytes. -/
def mailbox (code : Nat) (req : List Byte) (z : Module := {}) : Module :=
  { z with mbBusy := true, mbCode := code, mbLen := req.length, mbData := req.zipIdx.foldl (fun d y => SMap.set 0#8 d y.2 y.1) [] }

/-- Images of the targets 0 and 2 with SVN 7 and 9, and the public keys against which each image's digest, taken as r and as s, is a signature (R402): the
point of which the digest is the abscissa, less the generator of P-384. They were computed outside the model. -/
def signer (k : Nat) : BitVec 768 := if k = 0 then 0xf4ea5e1b4c7199beb8819a7d035e66b8b5e1eeb68873d9af77830fbe31478d8a1c3a47e940a2243a5617aa346a318f17f8e28e3ecf27e1e6831a06de21a091e75028c0064711c5b33445409e0dcbfb922bd54f0f17ac40e1ca6eb958381162ee#768 else
  0x95082a188d89e3171ee30e49b70bc42eee81d47bd58044ff6ea2b131de94e5341cd3b1b858e0a07588fe07e2c0771e3c1ac1bb56fb4333f1694f7edc2cf6aa86b426aac615176a0ec724857f26911d603b4be6ffa9a62a1b8756e4cc5fd018a6#768
def signedBank : Bank :=
  { len := 258, bytes := (leBytes 129 0x15544c66d6788a4e0fc6bcbd0aa9916b6d6f54f5fe7a08807bdc2f1311de1db993ab314aa76bf9a22f66122678e8296875544c66d6788a4e0fc6bcbd0aa9916b6d6f54f5fe7a08807bdc2f1311de1db993ab314aa76bf9a22f66122678e8296870000000000000000000000000000000000000001000000070000000151474d49 ++
    leBytes 129 0x1b9cab62a9995b3f2739cbcd165d45b6c1c2dfb136ba53b61364e0ae5baef618440a3dfd035f03be5a3557ea66393bc2bb9cab62a9995b3f2739cbcd165d45b6c1c2dfb136ba53b61364e0ae5baef618440a3dfd035f03be5a3557ea66393bc2b0000000000000000000000000000000000000001000000090102000151474d49).zipIdx.map (fun y => (y.2, y.1)) }
def enrolledModule : Module := { keys := [(0, some (signer 0)), (1, some (signer 1))], banks := [(0, signedBank), (1, signedBank)] }

/-- Both images are accepted, and by every module with those keys. -/
theorem signed_accepted : (signedBank.images 8 0).all enrolledModule.accepts = true := by decide +kernel

theorem signed_good (z : Module) (t : Nat) (h : (signedBank.image t).isSome = true) (hz : ∀ i, z.accepts i = enrolledModule.accepts i) :
    ∃ i, z.goodImage signedBank t = some i := by
  obtain ⟨i, hi⟩ := Option.isSome_iff_exists.1 h
  have ha := List.all_eq_true.1 signed_accepted i (List.mem_of_find?_eq_some hi)
  exact ⟨i, by simp [Module.goodImage, hi, Option.filter, hz, ha]⟩

/-- The premise `ready` of the mailbox statements. -/
def readyB (z : Module) (code : Nat) : Bool :=
  z.mbBusy && z.mbCode == code && (decide (z.lifecycle = .none) || !z.mbHeld) && decide (z.mbLen ≤ 3840) && !z.safe

/-- VERIFY of two accepted images. -/
theorem witness_MailboxCommands_verify : let z := mailbox 0x11 [] enrolledModule
    readyB z 0x11 = true ∧ (SMap.get ({} : Bank) z.banks (1 - z.activeBank)).images 8 0 ≠ [] ∧
      ∀ i ∈ (SMap.get ({} : Bank) z.banks (1 - z.activeBank)).images 8 0, z.accepts i = true :=
  ⟨by decide +kernel, by decide +kernel, fun i hi => List.all_eq_true.1 signed_accepted i hi⟩

theorem witness_MailboxCommands :
    (let z := mailbox 0x10 [0#8, 0#8, 0#8, 0#8, 5#8]; readyB z 0x10 && decide (4 ≤ z.request.length) &&
      decide (ofLe (z.request.take 4) + (z.request.drop 4).length ≤ 2 ^ 25)) = true ∧
    (let z := mailbox 0x13 [2#8]; readyB z 0x13 && decide (z.request ≠ []) && decide (ofLe (z.request.take 1) ≤ 2)) = true ∧
    (let z := mailbox 0x20 (3#8 :: List.replicate 96 1#8) { keyen := true }
     readyB z 0x20 && decide (97 ≤ z.request.length) && z.keyen && (SMap.get none z.keys 3).isNone) = true ∧
    (let z := mailbox 0x21 [0#8] { keyen := true, keys := [(0, some 1#768)] }; readyB z 0x21 && decide (z.request ≠ []) && z.enrolled 0) = true ∧
    (let z := mailbox 0x22 [] { keyen := true, keys := [(0, some 1#768)] }; readyB z 0x22 && z.enrolled 0) = true ∧
    [6, 15].all (fun n => let z := mailbox 0x28 (BitVec.ofNat 8 n :: List.replicate 48 1#8); readyB z 0x28 && decide (49 ≤ z.request.length) &&
      ofLe (z.request.take 1) == n) = true ∧
    [500, 3200].all (fun n => let z := mailbox 0x40 (leBytes 4 n); readyB z 0x40 && ofLe (z.request.take 4) == n) = true ∧
    (let z := mailbox 0x41 [3#8, 3#8]; readyB z 0x41 && ofLe (z.request.take 1) == 3 && ofLe ((z.request.drop 1).take 1) == 3) = true ∧
    (let z := mailbox 0x70 [3#8, 15#8]; readyB z 0x70 && ofLe (z.request.take 1) == 3 && ofLe ((z.request.drop 1).take 1) == 15) = true ∧
    (let z := mailbox 0x60 (leBytes 8 64 ++ leBytes 4 64); readyB z 0x60 && decide (12 ≤ z.request.length) && ofLe (z.request.take 8) % 64 == 0 &&
      ofLe ((z.request.drop 8).take 4) == 64) = true ∧ 0x99 ∉ mailboxCodes := by
  decide +kernel

/-- A module whose rails are up and whose ROM runs. -/
def railed : Module := { railsUp := 5, railsGood := 0xFF#32, romStarted := true }

/-- A resident group with a store that the stash of a halted group of core 1 holds back, which its save must wait for; its context has a save area, or none. -/
def savingState (area : Bool) : State :=
  let s := flooded { warp1 with storeq := [storeOp 0 0 (.stash 1 0) false 4 7 0x10000 0 8 0x10000] }
  let s := s.setCore 1 { s.core 1 with saved := [savedGroup 0] }
  if area then s.setCtx 0 { s.ctx 0 with regs := SMap.set 0#64 (SMap.set 0#64 (s.ctx 0).regs 0x020 0x100000#64) 0x028 0x100000#64 } else s

/-- A module that boots its active bank's housekeeping image, and one whose self-test ends with that bank's test image. -/
theorem witness_LifeOfAModule_boots :
    (let z : Module := { enrolledModule with railsUp := 5, romStarted := true }
     z.booted = false ∧ z.safe = false ∧ z.stage = 0 ∧ ∃ i, z.goodImage (SMap.get {} z.banks z.activeBank) 0 = some i) ∧
    (let z : Module := { enrolledModule with stage := 2 }; let y := { z with report := z.report ++ ([] : List ReportEntry).filter (fun (e : ReportEntry) => e.cls == 1#8 || e.cls == 2#8) }
     z.stage = 2 ∧ ∃ i, y.goodImage y.bootBank 2 = some i) :=
  ⟨⟨rfl, rfl, rfl, signed_good _ 0 (by decide +kernel) (fun _ => rfl)⟩, rfl, signed_good _ 2 (by decide +kernel) (fun _ => rfl)⟩

theorem witness_LifeOfAModule :
    (({ railsUp := 4, romStarted := true } : Module).railFault = none ∧ 1 ∈ stepRails 2 ∧ 7 ∈ stepRails 5 ∧ railed.railsGood.getLsbD 0 = true ∧ railed.railsGood.getLsbD 7 = true) ∧
    (({ railsUp := 2 } : Module).booted = false ∧ ({ railsUp := 2 } : Module).safe = false ∧ ({ railsUp := 2 } : Module).stage = 0) ∧
    (railed.goodImage (SMap.get {} railed.banks railed.activeBank) 0 = none ∧ railed.goodImage (SMap.get {} railed.banks (1 - railed.activeBank)) 0 = none) ∧
    (({ point := 0, target := 2 } : Die).point ≠ ({ point := 0, target := 2 } : Die).target) ∧
    (({ powerCount := 99 } : Module).powerCount < 100 ∧ 8 * 3600 ≤ 9 * ({ powerCount := 99 } : Module).plim) ∧ (({ powerCount := 100, powerSum := 400000 } : Module).plim < 400000 / 100) ∧
    (let z := mailbox 0x12 [] { updok := true }; readyB z 0x12 && decide (z.lifecycle = .none) && z.updok) = true ∧
    (let z := mailbox 0x12 [] { lifecycle := .activating [], mbHeld := true }; let s := { State.reset with modules := [(0, z)] }
     (s.freeze 0 (fun _ => true)).2 && (s.freeze 0 (fun _ => true)).1.frozen 0 (fun _ => true)) = true ∧
    (let v := savingState true; (v.freeze 0 (fun _ => true)).2 && !(v.freeze 0 (fun _ => true)).1.frozen 0 (fun _ => true)) = true ∧
    (let v := savingState false; (v.freeze 0 (fun _ => true)).2) = false ∧
    (let z := mailbox 0x50 [3#8]; let s := { State.reset with modules := [(0, z)] }
     readyB z 0x50 && decide (z.request ≠ []) && !s.captureWaits 0 z.request &&
       (s.freeze 0 (fun y => y == 3)).2 && (s.freeze 0 (fun y => y == 3)).1.frozen 0 (fun y => y == 3)) = true ∧
    (let v := savingState true; (v.freeze 0 (fun y => y == 0)).2 && !(v.freeze 0 (fun y => y == 0)).1.frozen 0 (fun y => y == 0)) = true ∧
    (let v := savingState false; (v.freeze 0 (fun y => y == 0)).2) = false ∧
    (let z := mailbox 0x51 [3#8] { pf := [(0x230, 3#64)] }; let s := { State.reset with modules := [(0, z)], contexts := [(35, { migrated := true })] }
     readyB z 0x51 && (s.ctx (32 * 1 + 3)).migrated && bit (s.domMask 0) 1 &&
       Nat.ble (s.queuesOf 1 (fun k => k == 32 * 1 + 3)).length (s.queuesOf 0 (fun k => k == 32 * 0 + 3)).length) = true := by
  decide +kernel

/-- What a training step measured that passes, and one that does not. -/
def measured (ok : Bool) : TrainResult :=
  { zqdn := 32#6, zqup := 32#6, found := ok, wl := 0#32, rg := 0#16, reye := 0x2020202020202020#64, weye := 0x2020202020202020#64, passing := 0xFFFFFFFF#64, errors := 0 }

theorem witness_TrainingOfChannelsAndLinks :
    (({ stage := 2 } : Module).phyOf 0).running = false ∧
    [(1, 7), (7, 7)].all (fun y => decide (1 ≤ y.1 ∧ y.1 ≤ y.2 ∧ y.2 ≤ 7)) = true ∧ [(0, 7), (1, 8), (3, 2)].all (fun y => decide (y.1 = 0 ∨ 7 < y.2 ∨ y.2 < y.1)) = true ∧
    (({ running := true, step := 3, last := 3 } : Phy).result (measured true)).2 = true ∧ (({ running := true, step := 3, last := 7 } : Phy).result (measured false)).2 = false ∧
    (({ running := true, step := 1, last := 7 } : Phy).result (measured true)).2 = true ∧
    ({ state := 6, retries := 255 } : FabricPort).state = 6 ∧ ({ lanesOk := 255#8, presets := 0#32, codewords := 8, skew := 64, partnerModule := 1#5, partnerHub := 0#2, partnerPort := 0#4 } : LinkSeen).skew ≤ 64 := by
  decide +kernel

/-- A request on the transport of the DOE mailbox, in a state of the responder. -/
def asking (k : Spdm) (z : Module) (msg : List Byte) : State :=
  { State.reset with modules := [(0, { z with spdm := [(1, k)] })], args := { doe := true, data := msg } }

theorem witness_AttestationResponder :
    [(0x84, 0x10), (0xE1, 0x13), (0xE3, 0x13), (0x81, 0x13), (0x83, 0x13), (0xE0, 0x13), (0xEE, 0x13)].all (fun y =>
      let msg : List Byte := [BitVec.ofNat 8 y.2, BitVec.ofNat 8 y.1] ++ [if y.1 = 0xEE then 1#8 else 0#8, 0#8] ++ [0#8, 0#8, 0#8, 0#8, 0x80#8, 0#8, 0#8, 0#8, 2#8, 0#8, 0#8, 0#8] ++
        List.replicate 28 0#8
      let s := asking { version := true, capabilities := true, algorithms := true } { keyen := true } msg
      s.spdmPending == some msg && spdmField msg 1 1 == y.1 && spdmField msg 0 1 == y.2 && decide (44 ≤ msg.length) && bit (spdmField msg 8 4) 7 && bit (spdmField msg 12 4) 1 &&
        (y.1 != 0xEE || spdmField msg 2 1 % 16 == 1) && spdmField msg 3 1 == 0 && (SMap.get {} (s.module 0).spdm 1).algorithms) = true ∧
    (0x99 : Nat) ∉ spdmRequests ∧ (∃ c, spdmChain 0 c 1 = some c ∧ 0 < c.length) := by
  refine ⟨by decide +kernel, by decide +kernel, ⟨[1#8], by decide +kernel, by decide⟩⟩

/-- A core instruction, a short one and a vendor one, each well-formed, and bytes that decode. -/
theorem witness_DecodingUndoesEncoding : ([.iadd64 { z64 with ty := 2#4 }, .fadd16 g16, .iadd32 g32, .qwait { rs2 := 1#5, rs1 := 2#5, funct3 := 3#3, rd := 4#5 }] : List Instr).all
      (fun i => i.wf && (encodeWord i).isSome) = true ∧ (match decode (leBytes 8 0x0000000002442003) with | .ok (_, 8) => true | _ => false) = true := by decide +kernel

theorem witness_EveryStepKeepsMemoryCanonical : memoryCanonical State.reset ∧ ∃ t, step (State.reset.withFetchWord 64 0x02400000003C0003) = .next t := by
  refine ⟨by unfold memoryCanonical; decide +kernel, ?_⟩
  have h : (match step (State.reset.withFetchWord 64 0x02400000003C0003) with | .next _ => true | _ => false) = true := by decide +kernel
  split at h
  · next t ht => exact ⟨t, ht⟩
  · cases h

/-- After reset, with NOP placed: the core's turn; and a queue thread with QFENCE, and an event at the head of the agenda. -/
theorem witness_StepRunsTheDecodedInstruction :
    (let s := State.reset.withFetchWord 64 0x02400000003C0003; let u : State := { s with agenda := [] }
     s.agenda = .issue 0 :: [] ∧ (u.module 0).safe = false ∧ u.firstEvent 0 = none ∧ u.pick 0 = some (0, 0) ∧ (u.warp 0 0).entry 0 = some entry1 ∧
       (match (u.fetch 0 (u.ctxOf 0 0) entry1.pc.toNat (u.warp 0 0).privileged).1 with | .word 8 w => w == 0x02400000003C0003 | _ => false) = true ∧
       (match decode (leBytes 8 0x02400000003C0003) with | .ok (.nop _, 8) => true | _ => false) = true ∧ u.turnCore = some 0 ∧ u.coreIdle 0 = false) ∧
    (let s := State.reset.withFetchWord 32 0x0600700B
     s.agenda = .queue 0 :: [] ∧ (match decodeVendor (readBytes (s.module 0).firmware (s.queue 0).pc.toNat 4) with | .ok (.qfence f) => (Instr.qfence f).wf | _ => false) = true) ∧
    ({ State.reset with agenda := [.event .ackPaused {}] } : State).agenda = .event .ackPaused {} :: [] := by
  decide +kernel

/-! ### One step each, with results worked out by hand from the rules -/

/-- A register of lane 0 of warp 0 after one instruction. -/
def regAfter (i : Instr) (s : State) (r : RegRef) : Option Nat :=
  match exec i s with
  | .next t => some ((t.warp 0 0).get r 0).toNat
  | _ => none

/-- The address of lane 0 after one instruction. -/
def pcAfter (i : Instr) (s : State) : Option Nat :=
  match exec i s with
  | .next t => ((t.warp 0 0).frontier.find? (fun e => e.mask.getLsbD 0)).map (fun e => e.pc.toNat)
  | _ => none

/-- Form: rd v4, rs1 v0, rs2 v2. -/
def abc64 : Form64 := { z64 with rd := 4#8, rs2 := 2#8 }

/-- R234: 0xFFFFFFFF + 2 = 1 modulo 2^32; 0x80000000 .sat stays at the least i32; a count of 32 gives 0, and 32 sign bits. -/
theorem test_integer :
    regAfter (.iadd64 { abc64 with ty := 2#4 }) (runningWith [(0, 0xFFFFFFFF), (2, 2)]) (.v 4) = some 1 ∧
    regAfter (.iadd64 { abc64 with ty := 2#4, rm := 1#2 }) (runningWith [(0, 0x80000000), (2, 0xFFFFFFFF)]) (.v 4) = some 0x80000000 ∧
    regAfter (.shl64 abc64) (runningWith [(0, 1), (2, 32)]) (.v 4) = some 0 ∧
    regAfter (.sar64 abc64) (runningWith [(0, 0x80000000), (2, 32)]) (.v 4) = some 0xFFFFFFFF ∧
    regAfter (.isub64 { z64 with rd := 2#8, rs1 := 2#8, rs3 := 16#8, iv := 1#2, ty := 2#4 }) (runningWith [(2, 10)]) (.v 2) = some 0xFFFFFFFA := by decide +kernel

/-- R236: LEA v4, v0, v2, 2 adds 4 · −1 to 2^32. -/
theorem test_lea : regAfter (.lea { abc64 with rs3 := 2#8, ty := 2#4 }) (runningWith [(0, 0), (1, 1), (2, 0xFFFFFFFF)]) (.v 4) = some 0xFFFFFFFC ∧
    regAfter (.lea { abc64 with rs3 := 2#8, ty := 2#4 }) (runningWith [(0, 0), (1, 1), (2, 0xFFFFFFFF)]) (.v 5) = some 0 := by decide +kernel

/-- R249, R260: 1.0 + 2.0 = 3.0; 2.0 × 0.5 = 1.0; 2.0 × 3.0 + 4.0 = 10.0; 1000.0 saturates to the largest e4m3, 448 = 0x7E. -/
theorem test_float :
    regAfter (.fadd64 abc64) (runningWith [(0, 0x3F800000), (2, 0x40000000)]) (.v 4) = some 0x40400000 ∧
    regAfter (.fmul64 { z64 with rd := 4#8, rs1 := 4#8, rs2 := 0x3F#8, iv := 1#2 }) (runningWith [(4, 0x40000000)]) (.v 4) = some 0x3F800000 ∧
    regAfter (.ffma { abc64 with rs3 := 6#8 }) (runningWith [(0, 0x40000000), (2, 0x40400000), (6, 0x40800000)]) (.v 4) = some 0x41200000 ∧
    regAfter (.cvt { z64 with rd := 4#8, rs3 := 0x10#8, ty := 3#4 }) (runningWith [(0, 0x447A0000)]) (.v 4) = some 0x7E := by decide +kernel

/-- R240, R243: MOVI −1; SRR of LANEID. -/
theorem test_moves : regAfter (.movi64 { z64 with rd := 4#8, rs1 := 0xFF#8, rs2 := 0xFF#8, rs3 := 0xFF#8, iv := 2#2 }) running (.v 4) = some 0xFFFFFFFF ∧
    regAfter (.srr { z64 with rd := 4#8, iv := 1#2 }) (runningWith [(4, 7)]) (.v 4) = some 0 := by decide +kernel

/-- R226, R231: a taken branch of 4 parcels; LOOP at 1 falls through, at 2 goes back by 4 parcels. -/
theorem test_control : pcAfter (.bra { z64 with iv := 2#2, rs3 := 4#8 }) running = some 0x10008 ∧
    pcAfter (.loop { z64 with iv := 1#2, rs2 := 0xFF#8, rs3 := 0xFC#8 }) (runningWith [(0, 1)]) = some 0x10008 ∧
    pcAfter (.loop { z64 with iv := 1#2, rs2 := 0xFF#8, rs3 := 0xFC#8 }) (runningWith [(0, 2)]) = some 0xFFF8 := by decide +kernel

/-- R327, R330 (the trace of SYSCALL): PRIVST 1, EPC the address after the instruction, ECAUSE 0x70, and the entry at TVEC. -/
theorem test_syscall : (match exec (.syscall { z64 with iv := 1#2, rs3 := 0x12#8 }) userState with
    | .next t => (t.warp 0 0).privst == 1#32 && (t.warp 0 0).epc == 0x10008#64 && (t.warp 0 0).ecause == 0x70#32 &&
        (t.warp 0 0).frontier.map (fun e => e.pc.toNat) == [0x13000]
    | _ => false) = true := by decide +kernel

/-- R329 (its last step): ERET with PREVPRIV 0 goes to EPC in unprivileged mode. -/
theorem test_eret : (match exec (.eret z64) (small { warp1 with epc := 0x10008#64 } fetchGroup) with
    | .next t => (t.warp 0 0).privst == 0#32 && (t.warp 0 0).frontier.map (fun e => e.pc.toNat) == [0x10008]
    | _ => false) = true := by decide +kernel

/-- R270, R277: the word at 0x10000 is loaded into v4 once it arrives; ATOM.add.i32 adds 3 to it, as its home then reads. -/
theorem test_memory :
    (match exec (.ld mem64) (withMem (atAddr 0x10000) [(0x10000, 4, 0xDEADBEEF)]) with
     | .next t => (t.warp 0 0).inflight.map (fun r => SMap.get 0 r.val 0) == [0xDEADBEEF] && (t.warp 0 0).isEmpty (.v 4) 0
     | _ => false) = true ∧
    (match exec (.atom rmw64) (let s := withMem (atAddr 0x10000) [(0x10000, 4, 5)]; s.setWarp 0 0 (withRegs (s.warp 0 0) [(6, 3)])) with
     | .next t => (t.homeRead none (.dom 0x10000) 4).1 == 8
     | _ => false) = true := by decide +kernel

/-- The changes that spec/12 lists as traps: FFMA with IV 1, FMUL with C3 1, FMUL with bit 15 set, CVT with TY 10, DADD with rd 5. -/
theorem test_wf_listed_changes : (Instr.ffma { z64 with iv := 1#2 }).wf = false ∧ (Instr.fmul64 { z64 with iv := 1#2, c3 := 1#3 }).wf = false ∧
    (Instr.fmul64 { z64 with iv := 1#2, te := 2#3 }).wf = false ∧ (Instr.cvt { z64 with rs3 := 0x10#8, ty := 10#4 }).wf = false ∧
    (Instr.dadd64 { z64 with rd := 5#8, ty := 10#4 }).wf = false := by decide +kernel

/-- R411, its example: the headers of the capability list. -/
theorem test_capability_headers : ([0x00, 0x18, 0x28, 0x38, 0x40, 0x50, 0x60].map (fun o => State.reset.pfWord 0 (0x201000 + o))) =
    [0x0018001800010001, 0x0028001000010002, 0x0038001000010003, 0x0040000800010004, 0x0050001000010005, 0x0060001000010006, 0x0000001000010007] := by
  decide +kernel

/-- R396, R406, R408, R413: reset values of PLIM, FIRSTBAD, VREF, the ZQ codes, AUTOEQ and HUBTMO as their registers show them. -/
theorem test_register_resets : State.reset.registerRead (.pf 0 0x20) 4 = 3200 ∧ State.reset.registerRead (.pf 0 0x08) 4 = 0xF00 ∧
    State.reset.registerRead (.control 0 0x21000038) 8 = 30 ∧ State.reset.registerRead (.control 0 0x21000010) 8 = 0x2020 ∧
    State.reset.registerRead (.control 0 0x22000000) 4 = 0x100 ∧ State.reset.registerRead (.pf 0 0x200220) 8 = 20 := by decide +kernel

end Sys2Proof.Tests
end

section
/-! SUPPORT. What the moves, the lane exchange and the transfers of control do and leave unchanged (R226 to R231, R240 to R242): rules about the fields and
operands of an instruction that executes, about ILLEGAL_FIELD, and about the registers of its warp, then the statements built from them. -/

namespace Sys2Proof.Machine

open Safety

/-! ### The form and the immediate of an instruction -/

theorem issOf_form {i : Instr} {s : State} {x : Iss} {f : Form64} (h : issOf i s = some x) (hf : formOf i = some f) : x.f = f := by
  obtain ⟨-, -, hform, -⟩ := issOf_eq h
  exact Option.some.inj (hform.symm.trans hf)

theorem issOf_sig {i : Instr} {s : State} {x : Iss} {g : Sig} (h : issOf i s = some x) (hg : sigOf i = some g) : x.g = g := by
  obtain ⟨-, -, -, hsig, -⟩ := issOf_eq h
  exact Option.some.inj (hsig.symm.trans hg)

/-- The immediate kind in force is one that the opcode map lists (R206). -/
theorem executes_imm_mem {i : Instr} {s : State} {x : Iss} (h : Executes i s x) : x.imm ∈ x.g.ivs := by
  have hf := executes_fieldsOk h
  unfold Iss.imm
  cases hk : immOf x.g x.f with
  | none => rw [fieldsOk, hk] at hf; exact Bool.noConfusion hf
  | some k => exact List.mem_of_find?_eq_some hk

theorem signed_eq_toInt (n a : Nat) : signed n a = (BitVec.ofNat n a).toInt := by
  rw [BitVec.toInt_eq_toNat_cond, BitVec.toNat_ofNat]
  rfl

/-- Sign extension of a number, as a word. -/
theorem ofNat_sextNat (n m a : Nat) : BitVec.ofNat m (sextNat n m a) = (BitVec.ofNat n a).signExtend m := by
  have hpos : (0 : Int) < ((2 ^ m : Nat) : Int) := by exact_mod_cast Nat.two_pow_pos m
  apply BitVec.eq_of_toNat_eq
  have hlt : sextNat n m a < 2 ^ m := by
    have := Int.emod_lt_of_pos (signed n a) hpos
    have := Int.emod_nonneg (signed n a) hpos.ne'
    unfold sextNat wrap
    omega
  rw [BitVec.toNat_ofNat, Nat.mod_eq_of_lt hlt, BitVec.signExtend, BitVec.toNat_ofInt, ← signed_eq_toInt]
  rfl

/-- The immediate field of a 16-bit MOVI, read as the 24 bits of the form it executes as (R198). -/
theorem ofNat_imm24_expandImm16 (h : Form16) : BitVec.ofNat 24 (imm24 (expandImm16 h)) = h.rs.signExtend 24 := by
  have hext := ofNat_sextNat 5 24 h.rs.toNat
  rw [BitVec.ofNat_toNat, BitVec.setWidth_eq] at hext
  rw [← hext]
  apply BitVec.eq_of_toNat_eq
  simp only [imm24, expandImm16, BitVec.toNat_ofNat]
  omega

/-! ### ILLEGAL_FIELD (R197) -/

/-- A trap that concerns no lane of an open transaction is taken at once (R156, R327). -/
theorem Iss.raise_note {i : Instr} {s : State} {x : Iss} (h : issOf i s = some x) (t : TrapReq) (mem : Bool)
    (ho : filterMask (t.lanes &&& x.e.mask) (warpOf x (x.note s)).isOpen = 0#32) :
    (x.note s).raise x.core x.slot x.idx t mem = (x.note s).takeTrap x.core x.slot x.idx t := by
  obtain ⟨-, -, -, -, -, he⟩ := issOf_eq h
  have hentry : ((x.note s).warp x.core x.slot).entry x.idx = some { x.e with age := 0, state := .ready, cause := none, fresh := true } := by
    have := Warp.noteIssue_entry (s.warp x.core x.slot) x.idx x.e (s.core x.core).clock.toNat (issueCycles x.i) (Warp.lt_of_entry he)
    rwa [← Iss.note_warp] at this
  unfold State.raise
  simp only [hentry]
  exact if_pos ho

theorem Iss.trapReq_lanes (x : Iss) (cause : Nat) (m : LaneMask) (info : FaultInfo) : (x.trapReq cause m info).lanes = m := rfl

/-- An instruction whose fields break a rule traps ILLEGAL_FIELD in every lane of its entry. -/
theorem runCore_illegal {i : Instr} {s : State} {x : Iss} (h : issOf i s = some x) (hw : i.wf = false)
    (ho : filterMask x.e.mask (warpOf x (x.note s)).isOpen = 0#32) (eff : Iss → State → Res) :
    runCore i eff s = .next ((x.note s).takeTrap x.core x.slot x.idx (x.trapReq 0x02 x.e.mask)) := by
  obtain ⟨hi, -⟩ := issOf_eq h
  have hrun : x.run eff s = (x.note s).raise x.core x.slot x.idx (x.trapReq 0x02 x.e.mask) false := by
    unfold Iss.run
    simp only [hi, hw]
    rfl
  unfold runCore
  rw [h]
  simp only
  rw [hrun, Iss.raise_note h _ _ (by rw [Iss.trapReq_lanes, BitVec.and_self]; exact ho)]

/-- Modifier values that the opcode map does not list make an instruction ill-formed (R205). -/
theorem wf_false_of_mods {i : Instr} {f : Form64} {g : Sig} (hf : formOf i = some f) (hg : sigOf i = some g) (hm : g.mods = false) :
    i.wf = false := by
  have hfields : fieldsOk g f = false := by
    unfold fieldsOk
    split
    · rfl
    · simp [hm]
  simp [Instr.wf, fieldsLegal, hf, hg, hfields]

/-- TY and C3 outside their lists are modifier values that an instruction does not accept. -/
theorem modsIn_false {f : Form64} {tys c3s rms : List Nat} (h : f.ty.toNat ∉ tys ∨ f.c3.toNat ∉ c3s) : modsIn f tys c3s rms = false := by
  rcases h with h | h
  · simp [modsIn, among, h]
  · simp [modsIn, among, h]

/-! ### Registers of the issuing warp -/

/-- The participating lanes of the warp that has issued. -/
theorem Iss.part_issued (x : Iss) (s : State) : x.part (warpOf x (x.note s)) = x.part (warpOf x s) := Iss.part_note x s

/-- The registers of the warp that has issued. -/
theorem Iss.get_issued (x : Iss) (s : State) (r : RegRef) (l : Nat) : (warpOf x (x.note s)).get r l = (warpOf x s).get r l := Iss.get_note x s r l

/-- The vector class names a vector register where an instruction has no uniform form (R209, R210). -/
theorem executes_rd_v {i : Instr} {s : State} {x : Iss} (h : Executes i s x) {n al : Nat} (hu : x.g.u = false) (hg : x.g.rd = .v n al) :
    x.rd = .v x.f.rd.toNat := by
  unfold Iss.rd
  rw [executes_uniform h hu, hg]
  rfl

theorem Iss.exec_note (x : Iss) (s : State) : x.exec (warpOf x (x.note s)) = x.exec (warpOf x s) := by
  unfold Iss.exec; rw [Iss.part_issued]

@[simp] theorem Warp.get_put_self (w : Warp) (r : RegRef) (l : Nat) (v : Word) : (w.put r l v).get r l = v := by
  cases r <;> exact SMap.get_set_self _ _ _ _

/-- Every register after one vector register is written in the lanes of a mask. -/
theorem Warp.get_writeLanes_mask (w : Warp) (k : Nat) (val : Nat → Nat) (m : LaneMask) (r : RegRef) (l : Nat) (hl : l < 32) :
    (w.writeLanes (.v k) 1 val (lanes m)).get r l = if r = .v k ∧ m.getLsbD l = true then BitVec.ofNat 32 (val l) else w.get r l := by
  cases r with
  | s j => rw [Warp.get_writeLanes_v_s, if_neg (by simp)]
  | v j =>
    rw [Warp.get_writeLanes_v _ _ _ _ _ _ _ (lanes_nodup m) (fun _ => lt_of_mem_lanes) hl]
    simp only [RegRef.v.injEq, mem_lanes]
    by_cases hj : j = k
    · subst hj; simp
    · rw [if_neg (by omega), if_neg (by simp [hj])]

/-- What a lane that computes reads in the register that rd names, once every such lane has written it (R209, R210). -/
theorem Iss.get_writeLanes_exec (x : Iss) (w u : Warp) (val : Nat → Nat) {n al : Nat} (hrd : x.g.rd = .v n al) {l : Nat} (hl : l ∈ x.exec u) :
    (w.writeLanes x.rd 1 val (x.exec u)).get x.rd l = BitVec.ofNat 32 (val l) := by
  unfold Iss.exec at hl ⊢
  cases hu : x.f.uf with
  | false =>
    simp only [hu, Bool.false_eq_true, if_false] at hl ⊢
    have hv : x.rd = .v x.f.rd.toNat := by unfold Iss.rd; rw [hu, hrd]; rfl
    rw [hv, Warp.get_writeLanes_mask _ _ _ _ _ _ (lt_of_mem_lanes hl), if_pos ⟨rfl, (mem_lanes _ _).mp hl⟩]
  | true =>
    simp only [hu, if_true] at hl ⊢
    cases hls : lanes (x.part u) with
    | nil => rw [hls] at hl; exact absurd hl (by simp)
    | cons a t =>
      rw [hls, List.take_succ_cons, List.take_zero, List.mem_singleton] at hl
      subst hl
      exact Warp.get_put_self _ _ _ _

/-- The one-register results of an instruction that computes registers from registers. -/
theorem writesLane_of_laneOp {i : Instr} {s : State} {x : Iss} (h : Executes i s x) {val : Iss → Warp → Nat → Nat} {v : Nat → Word}
    (hexec : exec i s = runCore i (laneOp 1 val) s) {n al : Nat} (hrd : x.g.rd = .v n al)
    (hv : ∀ l, BitVec.ofNat 32 (val x (warpOf x (x.note s)) l) = v l) : writesLane i s x v := by
  obtain ⟨w, hrun, -, -, hget⟩ := runCore_laneOp h 1 val
  refine ⟨w, hexec.trans hrun, fun l hl => ?_⟩
  rw [hget, Iss.get_writeLanes_exec x _ _ _ hrd (by rwa [Iss.exec_note]), hv]

/-- A warp like the issued one but for its registers and its frontier is like the one before the issue but for these and what every issue touches. -/
theorem Iss.sameButRegs_note (x : Iss) (s : State) (w u : Warp) (hw : w = { warpOf x (x.note s) with v := w.v, s := w.s })
    (hu : u = { w with frontier := u.frontier }) : sameButRegs (warpOf x s) u := by
  have hn := Iss.note_eq x s
  unfold sameButRegs
  rw [hu, hw, hn]

theorem Warp.get_withFrontier (w : Warp) (fr : List Entry) (r : RegRef) (l : Nat) : ({ w with frontier := fr } : Warp).get r l = w.get r l := by
  cases r <;> rfl

/-- An effect that only writes registers of the issuing warp: its entry moves past the instruction, and nothing but those registers changes. -/
theorem runCore_registers {i : Instr} {s : State} {x : Iss} (h : Executes i s x) (eff : Iss → State → Res) (w : Warp)
    (he : eff x (x.note s) = .done { s := x.withWarp (x.note s) w }) (hw : w = { warpOf x (x.note s) with v := w.v, s := w.s }) :
    ∃ u, runCore i eff s = .next (s.setWarp x.core x.slot u) ∧ sameButRegs (warpOf x s) u ∧ advanced x (s.setWarp x.core x.slot u) ∧
      ∀ r l, u.get r l = w.get r l := by
  obtain ⟨u, hafter, hu, hadv⟩ := after_plain h w (by rw [hw])
  refine ⟨u, by rw [runCore_done h eff _ he, hafter], Iss.sameButRegs_note x s w u hw hu, hadv, fun r l => ?_⟩
  rw [hu, Warp.get_withFrontier]

/-- A vector register is a destination of an instruction that writes one register exactly in the participating lanes. -/
theorem inDest_v_iff {x : Iss} {k al : Nat} (hrd : x.rd = .v k) (hg : x.g.rd = .v 1 al) (w : Warp) (r : RegRef) (l : Nat) :
    inDest x w r l ↔ r = .v k ∧ (x.part w).getLsbD l = true := by
  unfold inDest
  rw [hrd, hg]
  cases r with
  | s j => simp
  | v j =>
    have hj : (k ≤ j ∧ j < k + 1) ↔ j = k := by omega
    simp only [slotRun, RegRef.v.injEq, ← and_assoc, hj]

end Sys2Proof.Machine
end

section
/-! SUPPORT. The proofs of the statements on control flow, moves and lane exchange. -/

namespace Sys2Proof.Machine

open Safety

/-! ### The targets of transfers (R226, R228) -/

theorem Warp.pair_lt (w : Warp) (r : RegRef) (l : Nat) : w.pair r l < 2 ^ 64 := by
  have h0 := (w.get r l).isLt
  have h1 := (w.get (r.plus 1) l).isLt
  simp only [Warp.pair, Warp.getRun]
  omega

theorem Iss.a64_lt (x : Iss) (w : Warp) (l : Nat) : x.a64 w l < 2 ^ 64 := Warp.pair_lt w x.r1 l

/-- The trap of a register target below 2^64. -/
theorem targetCause_eq {a : Nat} (ha : a < 2 ^ 64) :
    targetCause a = if a % 2 = 1 then some 0x06 else if 2 ^ 57 ≤ a then some 0x11 else none := by
  have hbit : bit a 0 = true ↔ a % 2 = 1 := by simp [bit]
  have hfield : field a 57 7 ≠ 0 ↔ 2 ^ 57 ≤ a := by unfold field; omega
  unfold targetCause
  simp only [hbit, hfield]

/-- A register target below 2^64 fails where it is odd or has a bit of [63:57] set. -/
theorem targetCause_isSome {a : Nat} (ha : a < 2 ^ 64) : (targetCause a).isSome = true ↔ a % 2 = 1 ∨ 2 ^ 57 ≤ a := by
  rw [targetCause_eq ha]
  by_cases h1 : a % 2 = 1
  · simp [h1]
  · by_cases h2 : 2 ^ 57 ≤ a <;> simp [h1]

/-- A lane of a mask below which the mask holds none is its lowest. -/
theorem lowestLane_eq {m : LaneMask} {l : Nat} (hl : m.getLsbD l = true) (hmin : ∀ k, k < l → m.getLsbD k = false) : lowestLane m = some l := by
  cases hk : lowestLane m with
  | none =>
    have hm : m ≠ 0#32 := by rintro rfl; simp at hl
    have := lowestLane_isSome hm
    rw [hk] at this; exact Bool.noConfusion this
  | some k =>
    obtain ⟨hmem, hle⟩ := lowestLane_spec hk
    have hkl := hle l hl
    rcases Nat.lt_or_eq_of_le hkl with hlt | rfl
    · rw [hmin k hlt] at hmem; exact Bool.noConfusion hmem
    · rfl

/-- The participating lanes of a warp whose register targets fail. -/
def Iss.failing (x : Iss) (w : Warp) : LaneMask := filterMask (x.part w) (fun l => (targetCause (x.a64 w l)).isSome)

theorem Iss.getLsbD_failing (x : Iss) (w : Warp) (k : Nat) :
    (x.failing w).getLsbD k = true ↔ (x.part w).getLsbD k = true ∧ (x.a64 w k % 2 = 1 ∨ 2 ^ 57 ≤ x.a64 w k) := by
  by_cases hk : k < 32
  · rw [Iss.failing, getLsbD_filterMask _ _ _ hk, Bool.and_eq_true, targetCause_isSome (x.a64_lt w k)]
  · simp [BitVec.getLsbD_of_ge _ k (Nat.le_of_not_lt hk)]

/-- The failing lanes are the same before and after the issue. -/
theorem Iss.failing_note (x : Iss) (s : State) : x.failing (warpOf x (x.note s)) = x.failing (warpOf x s) := by
  unfold Iss.failing
  simp only [Iss.part_issued, Iss.a64_note]

/-- What the trap of a failing register target records. -/
def targetInfo (a : Nat) : FaultInfo := { fva := a, acc := 3, kind := if (targetCause a).getD 0 = 0x11 then 10 else 0 }

theorem Iss.badTargets_eq {x : Iss} {s : State} {l : Nat} (hl : lowestLane (x.failing (warpOf x s)) = some l) :
    x.badTargets s =
      some (x.trap s ((targetCause (x.a64 (warpOf x s) l)).getD 0) (x.failing (warpOf x s)) (targetInfo (x.a64 (warpOf x s) l))) := by
  have hl' : lowestLane (filterMask (x.part (s.warp x.core x.slot)) (fun l => (targetCause (x.a64 (s.warp x.core x.slot) l)).isSome)) = some l := hl
  unfold Iss.badTargets
  simp only [hl']
  rfl

/-- In lanes of no transaction no failing lane is open. -/
theorem Iss.failing_closed {x : Iss} {s : State} (hc : closedLanes x s) (m : LaneMask) :
    filterMask (x.failing (warpOf x s) &&& m) (warpOf x (x.note s)).isOpen = 0#32 := by
  apply BitVec.eq_of_getLsbD_eq
  intro k hk
  rw [getLsbD_filterMask _ _ _ hk, BitVec.getLsbD_and, Iss.isOpen_note, BitVec.getLsbD_zero]
  have hopen : (x.openPart (warpOf x s)).getLsbD k = false := by
    unfold closedLanes at hc; rw [hc, BitVec.getLsbD_zero]
  rw [Iss.openPart, getLsbD_filterMask _ _ _ hk] at hopen
  have hsub : (x.failing (warpOf x s)).getLsbD k = true → (x.part (warpOf x s)).getLsbD k = true := fun hf => ((Iss.getLsbD_failing _ _ _).mp hf).1
  cases hf : (x.failing (warpOf x s)).getLsbD k with
  | false => rfl
  | true =>
    rw [hsub hf, Bool.true_and] at hopen
    rw [hopen, Bool.and_false]

/-- BRX and CALLX check their targets before anything else: where some fail, the lowest such lane decides the trap (R228). -/
theorem runCore_badTargets {i : Instr} {s : State} {x : Iss} (h : Executes i s x) (hc : closedLanes x s) (rest : Iss → State → Res) {l : Nat}
    (hl : lowestLane (x.failing (warpOf x s)) = some l) :
    runCore i (fun x s => (x.badTargets s).getD (rest x s)) s = .next ((x.note s).takeTrap x.core x.slot x.idx
      (x.trapReq ((targetCause (x.a64 (warpOf x s) l)).getD 0) (x.failing (warpOf x s)) (targetInfo (x.a64 (warpOf x s) l)))) := by
  have heff : (x.badTargets (x.note s)).getD (rest x (x.note s)) =
      x.trap (x.note s) ((targetCause (x.a64 (warpOf x s) l)).getD 0) (x.failing (warpOf x s)) (targetInfo (x.a64 (warpOf x s) l)) := by
    rw [Iss.badTargets_eq (by rwa [Iss.failing_note]), Option.getD_some, Iss.failing_note, Iss.a64_note]
  rw [runCore_trap h _ _ _ _ _ heff, Iss.raise_note h.holds _ _ (by rw [Iss.trapReq_lanes]; exact Iss.failing_closed hc _)]

/-- The targets of immediate transfers have the parity of the instruction's own address, and lie below 2^57 (R206). -/
theorem Iss.target_aligned (x : Iss) : x.target % 2 = x.pc % 2 ∧ x.target < 2 ^ 57 := by
  have hwrap : ∀ d : Int, wrap 57 ((x.pc : Int) + 2 * d) % 2 = x.pc % 2 ∧ wrap 57 ((x.pc : Int) + 2 * d) < 2 ^ 57 := by
    intro d; unfold wrap; omega
  unfold Iss.target
  split <;> exact hwrap _

/-- Settles O8: where a register target fails, the check of R228 comes before every other effect, and its lowest failing lane gives the trap. -/
theorem registerTargetsAreChecked : Obligations.RegisterTargetsAreChecked := by
  unfold Obligations.RegisterTargetsAreChecked
  refine fun i f s x l => ⟨fun hi h hc hpart hbad hmin => ?_, fun _ _ => x.target_aligned⟩
  have hl : lowestLane (x.failing (warpOf x s)) = some l :=
    lowestLane_eq ((Iss.getLsbD_failing _ _ _).mpr ⟨hpart, hbad⟩) fun k hk =>
      Bool.eq_false_iff.mpr fun hf => hmin k hk ((Iss.getLsbD_failing _ _ _).mp hf).1 ((Iss.getLsbD_failing _ _ _).mp hf).2
  refine ⟨x.trapReq ((targetCause (x.a64 (warpOf x s) l)).getD 0) (x.failing (warpOf x s)) (targetInfo (x.a64 (warpOf x s) l)), ?_, ?_, rfl, rfl,
    Iss.getLsbD_failing x _⟩
  · rcases List.mem_pair.mp hi with rfl | rfl <;> exact runCore_badTargets h hc _ hl
  · change (targetCause (x.a64 (warpOf x s) l)).getD 0 = _
    rw [targetCause_eq (x.a64_lt (warpOf x s) l)]
    split
    · rfl
    · rw [if_pos (hbad.resolve_left ‹_›)]; rfl

/-! ### LOOP (R231) -/

/-- The count that LOOP leaves in a lane. -/
def loopCount (x : Iss) (w : Warp) (l : Nat) : Nat := (w.get x.rd l - 1#32).toNat

/-- The participating lanes that LOOP sends to its target. -/
def loopTaken (x : Iss) (w : Warp) : List Nat := (lanes (x.part w)).filter (fun l => loopCount x w l != 0)

theorem loopCount_ne_zero (x : Iss) (w : Warp) (l : Nat) : loopCount x w l ≠ 0 ↔ w.get x.rd l ≠ 1#32 := by
  rw [loopCount, ne_eq, ← BitVec.toNat_zero, BitVec.toNat_inj, BitVec.sub_eq_iff_eq_add]
  rfl

/-- The warp once LOOP has counted down in its participating lanes. -/
def loopCounted (x : Iss) (w : Warp) : Warp := w.writeLanes x.rd 1 (loopCount x w) (lanes (x.part w))

theorem exec_loop {f : Form64} {s : State} {x : Iss} (h : Executes (.loop f) s x) : exec (.loop f) s = .next (after x
    { s := x.withWarp (x.note s) (loopCounted x (warpOf x (x.note s))), go := goEach (fun _ => x.target) (loopTaken x (warpOf x (x.note s))) }) :=
  runCore_done h _ _ rfl

/-- Where LOOP sends a lane. -/
theorem loop_goal (x : Iss) (s : State) (l : Nat) :
    (SMap.get none (goEach (fun _ => x.target) (loopTaken x (warpOf x (x.note s)))) l).getD (x.pc + x.len) =
      if (x.part (warpOf x s)).getLsbD l = true ∧ (warpOf x s).get x.rd l ≠ 1#32 then x.target else x.pc + x.len := by
  have hmem : l ∈ loopTaken x (warpOf x (x.note s)) ↔ (x.part (warpOf x s)).getLsbD l = true ∧ (warpOf x s).get x.rd l ≠ 1#32 := by
    rw [loopTaken, List.mem_filter, mem_part_note, bne_iff_ne, loopCount_ne_zero, Iss.get_issued]
  unfold goEach
  rw [get_goEach _ (loopTaken x _) ((lanes_sorted _).filter _), getD_ite]
  simp only [hmem]

/-- Settles O11: what LOOP writes and where its lanes go, read off the warp that its count leaves and the moves of its entry. -/
theorem loopCountsDown : Obligations.LoopCountsDown := by
  unfold Obligations.LoopCountsDown
  intro f s x h hroom
  have hsig := issOf_sig h.holds rfl
  have hrd := executes_rd_v h (by rw [hsig]) (by rw [hsig])
  obtain ⟨w, hafter, hw, hlanes⟩ := after_moves h (loopCounted x (warpOf x (x.note s)))
    (goEach (fun _ => x.target) (loopTaken x (warpOf x (x.note s)))) [x.target, x.pc + x.len] (by rw [loopCounted, Warp.writeLanes_eq])
    (fun l _ => by rw [loop_goal]; split <;> simp) (by simpa using hroom)
  have hget : ∀ r l, l < 32 → w.get r l =
      if r = x.rd ∧ (x.part (warpOf x s)).getLsbD l = true then (warpOf x s).get x.rd l - 1#32 else (warpOf x s).get r l := by
    intro r l hl
    rw [hw, Warp.get_withFrontier, loopCounted, hrd, Warp.get_writeLanes_mask _ _ _ _ _ _ hl, Iss.part_issued, Iss.get_issued, loopCount,
      Iss.get_issued, hrd, BitVec.ofNat_toNat, BitVec.setWidth_eq]
  refine ⟨w, by rw [exec_loop h, hafter], Iss.sameButRegs_note x s _ w (Warp.writeLanes_eq _ _ _ _ _) hw, fun l hl => ?_, fun r l hl hnot => ?_,
    fun l hl => ?_⟩
  · rw [hget _ _ (lt_of_mem_lanes ((mem_lanes _ _).mpr hl)), if_pos ⟨rfl, hl⟩]
  · rw [hget _ _ hl, if_neg hnot]
  · rw [← loop_goal]; exact hlanes l hl

/-! ### MOV, MOVI, MOVW and S2V (R240) -/

theorem ofNat_movVal (x : Iss) (s : State) (l : Nat) : BitVec.ofNat 32 (movVal x (warpOf x (x.note s)) l) = (warpOf x s).get x.r1 l := by
  rw [movVal, Iss.a_note, Iss.a, BitVec.ofNat_toNat, BitVec.setWidth_eq]

theorem ofNat_moviVal {x : Iss} (himm : x.imm = .s24) (w : Warp) (l : Nat) :
    BitVec.ofNat 32 (moviVal x w l) = (BitVec.ofNat 24 (imm24 x.f)).signExtend 32 := by
  rw [moviVal, himm]
  exact ofNat_sextNat 24 32 _

/-- MOVW writes its immediate, and MOVW.hi writes it above the low half that stands (R240). -/
theorem ofNat_movwVal (x : Iss) (s : State) (l : Nat) : BitVec.ofNat 32 (movwVal x (warpOf x (x.note s)) l) =
    if x.f.c3 = 0#3 then BitVec.ofNat 32 (imm16 x.f) else BitVec.ofNat 16 (imm16 x.f) ++ ((warpOf x s).get x.rd l).setWidth 16 := by
  rw [movwVal, Iss.get_issued]
  split
  · rfl
  · apply BitVec.eq_of_toNat_eq
    rw [BitVec.toNat_append, BitVec.toNat_setWidth, BitVec.toNat_ofNat, BitVec.toNat_ofNat,
      ← Nat.shiftLeft_add_eq_or_of_lt (Nat.mod_lt _ (by norm_num)), Nat.shiftLeft_eq]
    omega

/-- A TY other than 0, and a C3 that the opcode map does not list for a move, break its field rules (R240). -/
theorem moves_illegal {f : Form64} {i : Instr} (hi : i ∈ [Instr.mov64 f, .movi64 f, .movw f, .s2v f])
    (hbad : f.ty ≠ 0#4 ∨ 1 < f.c3.toNat ∨ (f.c3 = 1#3 ∧ i ≠ .movw f)) : i.wf = false := by
  have hty : f.ty ≠ 0#4 → f.ty.toNat ∉ [0] := fun hne h0 => hne (BitVec.eq_of_toNat_eq (List.mem_singleton.mp h0))
  have hplain : modsIn f [0] [0] [0] = false := by
    refine modsIn_false (hbad.imp hty ?_)
    rintro (h | ⟨h, -⟩)
    · rw [List.mem_singleton]; omega
    · simp [h]
  simp only [List.mem_cons, List.not_mem_nil, or_false] at hi
  rcases hi with rfl | rfl | rfl | rfl
  · exact wf_false_of_mods rfl rfl hplain
  · exact wf_false_of_mods rfl rfl hplain
  · refine wf_false_of_mods rfl rfl (modsIn_false (hbad.imp hty ?_))
    rintro (h | ⟨-, h⟩)
    · simp only [List.mem_cons, List.not_mem_nil, or_false]; omega
    · exact absurd rfl h
  · exact wf_false_of_mods rfl rfl hplain

/-- Settles O6: the value that each move computes, and its field rules, which an illegal TY or C3 breaks. -/
theorem movesWriteTheirSource : Obligations.MovesWriteTheirSource := by
  unfold Obligations.MovesWriteTheirSource
  intro f h k s x
  refine ⟨fun hx => ?_, fun hx => ?_, fun hx => ?_, fun hx => ?_, fun hx => ?_, fun hx => ?_, fun hx => ?_, fun i hi hx ho hbad => ?_⟩
  · exact writesLane_of_laneOp hx rfl (by rw [issOf_sig hx.holds rfl]) (ofNat_movVal x s)
  · exact writesLane_of_laneOp hx rfl (by rw [issOf_sig hx.holds rfl]) (ofNat_movVal x s)
  · exact writesLane_of_laneOp hx rfl (by rw [issOf_sig hx.holds rfl]) (ofNat_movVal x s)
  · have himm : x.imm = .s24 := by simpa [issOf_sig hx.holds rfl] using executes_imm_mem hx
    refine writesLane_of_laneOp hx rfl (by rw [issOf_sig hx.holds rfl]) fun l => ?_
    rw [ofNat_moviVal himm, issOf_form hx.holds rfl, ofNat_imm24_expandImm16, BitVec.signExtend, BitVec.toInt_signExtend_of_le (by decide)]
    rfl
  · have himm : x.imm = .s24 := by simpa [issOf_sig hx.holds rfl] using executes_imm_mem hx
    refine writesLane_of_laneOp hx rfl (by rw [issOf_sig hx.holds rfl]) fun l => ?_
    rw [ofNat_moviVal himm, issOf_form hx.holds rfl]
    rfl
  · refine writesLane_of_laneOp hx rfl (by rw [issOf_sig hx.holds rfl]) fun l => ?_
    rw [ofNat_movwVal, issOf_form hx.holds rfl]
  · have hr1 : x.r1 = .s f.rs1.toNat := by
      unfold Iss.r1; rw [issOf_sig hx.holds rfl, issOf_form hx.holds rfl]; rfl
    exact writesLane_of_laneOp hx rfl (by rw [issOf_sig hx.holds rfl]) fun l => by rw [ofNat_movVal, hr1]
  · have hw := moves_illegal hi hbad
    simp only [List.mem_cons, List.not_mem_nil, or_false] at hi
    rcases hi with rfl | rfl | rfl | rfl <;> exact runCore_illegal hx hw ho _

/-! ### V2S (R241) -/

/-- The register that V2S reads, in the lane that it names. -/
def v2sValue (x : Iss) (w : Warp) : Word :=
  w.get x.r1 ((if x.imm = .reg then x.b w ((lowestLane (x.part w)).getD 0) else imm16 x.f) % 32)

/-- The issuing warp after V2S: the uniform register takes the value, where a lane takes part. -/
def v2sWarp (x : Iss) (w : Warp) (val : Word) : Warp := if x.part w = 0#32 then w else w.put x.rd 0 val

theorem v2sWarp_eq (x : Iss) (w : Warp) (val : Word) : v2sWarp x w val = { w with v := (v2sWarp x w val).v, s := (v2sWarp x w val).s } := by
  unfold v2sWarp
  split
  · rfl
  · exact Warp.put_eq w x.rd 0 val

/-- What every register reads after V2S. -/
theorem get_v2sWarp {x : Iss} {k : Nat} (hrd : x.rd = .s k) (w : Warp) (val : Word) (r : RegRef) (l : Nat) :
    (v2sWarp x w val).get r l = if r = .s k ∧ x.part w ≠ 0#32 then val else w.get r l := by
  unfold v2sWarp
  by_cases hp : x.part w = 0#32
  · rw [if_pos hp, if_neg (fun h => h.2 hp)]
  · rw [if_neg hp, hrd]
    cases r with
    | v j => rw [Warp.get_put_s_v, if_neg (by simp)]
    | s j => rw [Warp.get_put_s]; simp [hp]

/-- The lane that V2S reads is the same before and after the issue. -/
theorem v2sValue_note (x : Iss) (s : State) : v2sValue x (warpOf x (x.note s)) = v2sValue x (warpOf x s) := by
  rw [v2sValue, Iss.get_issued, Iss.b_note, Iss.part_issued, v2sValue]

theorem v2sEff_eq {x : Iss} (himm : x.imm = .reg ∨ x.imm = .z16 31) (s : State) :
    v2sEff x (x.note s) = .done { s := x.withWarp (x.note s) (v2sWarp x (warpOf x (x.note s)) (v2sValue x (warpOf x (x.note s)))) } := by
  have hlane : (warpOf x (x.note s)).get x.r1 (x.v2sLane (warpOf x (x.note s))) = v2sValue x (warpOf x (x.note s)) := by
    unfold Iss.v2sLane v2sValue
    rcases himm with h | h
    · rw [h]; rfl
    · rw [h]; rfl
  unfold v2sEff v2sWarp
  by_cases hp : x.part (warpOf x (x.note s)) = 0#32
  · rw [if_pos hp, Iss.withWarp_self]; exact if_pos hp
  · rw [if_neg hp, ← hlane]; exact if_neg hp

/-- A uniform register is a destination exactly where a lane takes part. -/
theorem inDest_s_iff {x : Iss} {k : Nat} (hrd : x.rd = .s k) (hg : x.g.rd = .s) (w : Warp) (r : RegRef) (l : Nat) :
    inDest x w r l ↔ r = .s k ∧ x.part w ≠ 0#32 := by
  unfold inDest
  rw [hrd, hg]
  cases r with
  | v j => simp
  | s j =>
    have hj : (k ≤ j ∧ j < k + 1) ↔ j = k := by omega
    simp only [slotRun, RegRef.s.injEq, ← and_assoc, hj]

/-- Settles O14: V2S writes one uniform register, at most once, with the value that stood before. -/
theorem oneLaneIsCopied : Obligations.OneLaneIsCopied := by
  unfold Obligations.OneLaneIsCopied
  intro f s x h
  have hg : x.g.rd = .s := by rw [issOf_sig h.holds rfl]
  have hrd : x.rd = .s x.f.rd.toNat := by unfold Iss.rd; rw [hg]; rfl
  have himm : x.imm = .reg ∨ x.imm = .z16 31 := by simpa [issOf_sig h.holds rfl] using executes_imm_mem h
  obtain ⟨u, hrun, hsame, hadv, hget⟩ := runCore_registers h v2sEff _ (v2sEff_eq himm s) (v2sWarp_eq _ _ _)
  refine ⟨u, hrun, hsame, hadv, fun hne l => ?_, fun r l _ hnot => ?_⟩
  · rw [hget, get_v2sWarp hrd, Iss.part_issued, if_pos ⟨hrd, hne⟩, v2sValue_note]
    rfl
  · rw [inDest_s_iff hrd hg] at hnot
    rw [hget, get_v2sWarp hrd, Iss.part_issued, if_neg hnot, Iss.get_issued]

/-! ### LXCH (R242) -/

/-- A table of the values of ascending keys, read at one of them. -/
theorem SMap.get_map_mem {α : Type} (d : α) (f : Nat → α) {ls : List Nat} (hs : ls.Pairwise (· < ·)) {l : Nat} (hl : l ∈ ls) :
    SMap.get d (ls.map (fun l => (l, f l))) l = f l := by
  induction ls with
  | nil => exact absurd hl (by simp)
  | cons a t ih =>
    obtain ⟨hhead, htail⟩ := List.pairwise_cons.mp hs
    simp only [List.map_cons, SMap.get]
    rcases List.mem_cons.mp hl with rfl | ht
    · simp
    · have := hhead l ht
      rw [if_neg (by omega), if_neg (by omega), ih htail ht]

/-- The table of the values that LXCH reads before any lane writes. -/
def lxchTable (x : Iss) (w : Warp) : SMap Nat := (lanes (x.part w)).map (fun l => (l, lxchVal x w l))

/-- The issuing warp after LXCH. -/
def lxchWarp (x : Iss) (w : Warp) : Warp := w.writeLanes x.rd 1 (fun l => SMap.get 0 (lxchTable x w) l) (lanes (x.part w))

/-- What every register reads after LXCH. -/
theorem get_lxchWarp {x : Iss} {k : Nat} (hrd : x.rd = .v k) (w : Warp) (r : RegRef) (l : Nat) (hl : l < 32) : (lxchWarp x w).get r l =
    if r = .v k ∧ (x.part w).getLsbD l = true then w.get x.r1 (if (x.part w).getLsbD (x.lxchSource w l) then x.lxchSource w l else l)
    else w.get r l := by
  rw [lxchWarp, hrd, Warp.get_writeLanes_mask _ _ _ _ _ _ hl]
  by_cases hd : r = .v k ∧ (x.part w).getLsbD l = true
  · rw [if_pos hd, if_pos hd, lxchTable, SMap.get_map_mem 0 _ (lanes_sorted _) ((mem_lanes _ _).mpr hd.2), lxchVal]
    simp only [Iss.a]
    split <;> simp
  · rw [if_neg hd, if_neg hd]

theorem Iss.lxchSource_note (x : Iss) (s : State) (l : Nat) : x.lxchSource (warpOf x (x.note s)) l = x.lxchSource (warpOf x s) l := by
  unfold Iss.lxchSource
  rw [Iss.b_note, Iss.c_note]

/-- A C3 that names no exchange breaks the field rules of LXCH. -/
theorem lxch_illegal {f : Form64} (hc : 3 < f.c3.toNat) : (Instr.lxch f).wf = false := by
  refine wf_false_of_mods rfl rfl (modsIn_false (.inr ?_))
  simp only [List.mem_cons, List.not_mem_nil, or_false]
  omega

/-- Settles O15: every value of LXCH is in its table before the first write, and a C3 above 3 breaks its field rules. -/
theorem lanesExchangeWithinSegments : Obligations.LanesExchangeWithinSegments := by
  unfold Obligations.LanesExchangeWithinSegments
  refine fun f s x => ⟨fun hc hx ho => runCore_illegal hx (lxch_illegal hc) ho _, fun h => ?_⟩
  have hsig := issOf_sig h.holds rfl
  have hrd := executes_rd_v h (by rw [hsig]) (by rw [hsig])
  obtain ⟨u, hrun, hsame, hadv, hget⟩ := runCore_registers h lxchEff (lxchWarp x (warpOf x (x.note s))) rfl (Warp.writeLanes_eq _ _ _ _ _)
  refine ⟨u, hrun, hsame, hadv, fun l hl => ?_, fun r l hl hnot => ?_⟩
  · have hsource : u.get x.rd l = (warpOf x s).get x.r1
        (if (x.part (warpOf x s)).getLsbD (x.lxchSource (warpOf x s) l) then x.lxchSource (warpOf x s) l else l) := by
      rw [hget, get_lxchWarp hrd _ _ _ (lt_of_mem_lanes ((mem_lanes _ _).mpr hl)), Iss.part_issued, if_pos ⟨hrd, hl⟩,
        Iss.lxchSource_note, Iss.get_issued]
    rw [hsource, ← issOf_form h.holds rfl]
    rfl
  · rw [inDest_v_iff hrd (by rw [hsig])] at hnot
    rw [hget, get_lxchWarp hrd _ _ _ hl, Iss.part_issued, if_neg hnot, Iss.get_issued]

end Sys2Proof.Machine
end

section
/-! SUPPORT. Decoding and encoding: the fields of words, the opcode tables, and the proof of the statement on them. -/

namespace Sys2Proof.Machine
open Safety

/-! ### Fields of words (R198 to R202, R205, R381) -/

theorem ofNat_eq_of_mod {n x : Nat} {b : BitVec n} (h : x % 2 ^ n = b.toNat) : BitVec.ofNat n x = b :=
  BitVec.eq_of_toNat_eq (by rw [BitVec.toNat_ofNat, h])

theorem form16Of_word16 (op : Nat) (f : Form16) : form16Of (word16 op f) = f := by
  obtain ⟨rd, rs⟩ := f
  simp only [form16Of, word16, field, Form16.mk.injEq]
  refine ⟨ofNat_eq_of_mod ?_, ofNat_eq_of_mod ?_⟩ <;> omega

theorem form32Of_word32 (op : Nat) (f : Form32) : form32Of (word32 op f) = f := by
  obtain ⟨rd, rs1, rs2, guard⟩ := f
  simp only [form32Of, word32, field, Form32.mk.injEq]
  refine ⟨ofNat_eq_of_mod ?_, ofNat_eq_of_mod ?_, ofNat_eq_of_mod ?_, ofNat_eq_of_mod ?_⟩ <;> omega

theorem formROf_wordR (op : Nat) (f : FormR) : formROf (wordR op f) = f := by
  obtain ⟨rs2, rs1, funct3, rd⟩ := f
  simp only [formROf, wordR, field, FormR.mk.injEq]
  refine ⟨ofNat_eq_of_mod ?_, ofNat_eq_of_mod ?_, ofNat_eq_of_mod ?_, ofNat_eq_of_mod ?_⟩ <;> omega

theorem word16_form16Of {w : Nat} (hw : w < 2 ^ 16) (he : w % 2 = 0) : word16 (field w 12 4) (form16Of w) = w := by
  simp only [word16, form16Of, field, BitVec.toNat_ofNat]; omega

theorem word32_form32Of {w : Nat} (hw : w < 2 ^ 32) (he : w % 4 = 1) : word32 (field w 26 6) (form32Of w) = w := by
  simp only [word32, form32Of, field, BitVec.toNat_ofNat]; omega

theorem toNat_bit (w n : Nat) : (bit w n).toNat = w / 2 ^ n % 2 := by
  unfold bit; rcases Nat.mod_two_eq_zero_or_one (w / 2 ^ n) with h | h <;> rw [h] <;> rfl

theorem toNat_ofNat_field (w lo n : Nat) : (BitVec.ofNat n (field w lo n)).toNat = field w lo n := by
  rw [BitVec.toNat_ofNat, field, Nat.mod_mod]

theorem toNat_bit_field (w n : Nat) : (bit w n).toNat = field w n 1 := toNat_bit w n

/-- A word cut at a bit: the bits below it and the field above. -/
theorem mod_add_field (w lo n : Nat) : w % 2 ^ (lo + n) = w % 2 ^ lo + field w lo n * 2 ^ lo := by
  rw [pow_add, Nat.mod_mul, field, Nat.mul_comm]

theorem word64_form64Of {w : Nat} (hw : w < 2 ^ 64) (he : w % 4 = 3) : word64 (64 * field w 60 4 + field w 54 6) (form64Of w) = w := by
  have h := mod_add_field w
  have hall : w = w % 2 ^ (60 + 4) := (Nat.mod_eq_of_lt hw).symm
  rw [h 60 4, h 54 6, h 46 8, h 38 8, h 30 8, h 22 8, h 18 4, h 17 1, h 14 3, h 12 2, h 11 1, h 8 3, h 6 2, h 2 4] at hall
  simp only [word64, modWord, form64Of, toNat_ofNat_field, toNat_bit_field]
  omega

theorem bit_eq {w n : Nat} {b : Bool} (h : w / 2 ^ n % 2 = b.toNat) : bit w n = b := by
  rw [← toNat_bit] at h
  revert h
  cases bit w n <;> cases b <;> decide

/-- The register fields of a 64-bit word, its guard and its trap-on-empty bits. -/
theorem form64Of_word64_operands (op : Nat) (f : Form64) :
    let g := form64Of (word64 op f)
    g.rd = f.rd ∧ g.rs1 = f.rs1 ∧ g.rs2 = f.rs2 ∧ g.rs3 = f.rs3 ∧ g.guard = f.guard ∧ g.negate = f.negate ∧ g.te = f.te := by
  have hn := f.negate.toNat_lt
  have hu := f.uf.toNat_lt
  simp only [form64Of, word64, modWord, field]
  refine ⟨ofNat_eq_of_mod ?_, ofNat_eq_of_mod ?_, ofNat_eq_of_mod ?_, ofNat_eq_of_mod ?_, ofNat_eq_of_mod ?_,
    bit_eq ?_, ofNat_eq_of_mod ?_⟩ <;> omega

/-- The modifier fields of a 64-bit word (R205). -/
theorem form64Of_word64_modifiers (op : Nat) (f : Form64) :
    let g := form64Of (word64 op f)
    g.iv = f.iv ∧ g.uf = f.uf ∧ g.c3 = f.c3 ∧ g.rm = f.rm ∧ g.ty = f.ty := by
  have hn := f.negate.toNat_lt
  have hu := f.uf.toNat_lt
  simp only [form64Of, word64, modWord, field]
  refine ⟨ofNat_eq_of_mod ?_, bit_eq ?_, ofNat_eq_of_mod ?_, ofNat_eq_of_mod ?_, ofNat_eq_of_mod ?_⟩ <;> omega

theorem form64Of_word64 (op : Nat) (f : Form64) : form64Of (word64 op f) = f := by
  obtain ⟨h1, h2, h3, h4, h5, h6, h7⟩ := form64Of_word64_operands op f
  obtain ⟨h8, h9, h10, h11, h12⟩ := form64Of_word64_modifiers op f
  cases f
  exact (Form64.mk.injEq ..).mpr ⟨h1, h2, h3, h4, h5, h6, h7, h8, h9, h10, h11, h12⟩

/-! ### Opcode tables (R198, R201, R211) -/

/-- The instruction that stands at an opcode of the 64-bit tables. -/
def entry64 (op : Nat) : Option (Form64 → Instr) := table64[op / 64]?.bind (fun b => b[op % 64]?)

/-- A core instruction with the length and the word of its encoding: its opcode is its place in the table of its form. -/
inductive CoreEncoding : Instr → Nat → Nat → Prop
  | parcel {op : Nat} {mk : Form16 → Instr} (h : table16[op]? = some mk) (f : Form16) : CoreEncoding (mk f) 2 (word16 op f)
  | word {op : Nat} {mk : Form32 → Instr} (h : table32[op]? = some mk) (f : Form32) : CoreEncoding (mk f) 4 (word32 op f)
  | double {op : Nat} {mk : Form64 → Instr} (h : entry64 op = some mk) (f : Form64) : CoreEncoding (mk f) 8 (word64 op f)

/-- Every instruction that has a form stands in the table of its form, at the opcode of its encoding. -/
theorem coreEncoding_of_form {i : Instr} {len w : Nat} (hi : (formOf i).isSome = true) (h : encodeWord i = some (len, w)) : CoreEncoding i len w := by
  cases i with
  | mov16 f | movi16 f | iadd16 f | isub16 f | imul16 f | and16 f | or16 f | xor16 f | shl16 f | shr16 f | sar16 f | fadd16 f | fsub16 f
    | fmul16 f | fmin16 f | fmax16 f => cases h; exact .parcel rfl f
  | iadd32 f | isub32 f | imul32 f | imulhi32 f | imulhn32 f | imini32 f | imaxi32 f | iminn32 f | imaxn32 f | and32 f | or32 f | xor32 f
    | shl32 f | shr32 f | sar32 f | rot32 f | fadd32 f | fsub32 f | fmul32 f | fmin32 f | fmax32 f | pfadd32 f | pfmul32 f | pfmin32 f
    | pfmax32 f | dadd32 f | dmul32 f | dmin32 f | dmax32 f | mov32 f | ineg32 f | iabs32 f | not32 f | popc32 f | clz32 f | ctz32 f | brev32 f
    | frcp32 f | frsq32 f | fsqrt32 f | fexp232 f | flog232 f => cases h; exact .word rfl f
  | bra f | brx f | call f | callx f | ret f | reconv f | prio f | yield f | loop f | nop f | exit f | iadd64 f | isum f | isub64 f | ineg64 f
    | iabs64 f | imul64 f | imulh64 f | imad f | imadw f | imin64 f | imax64 f | isad f | and64 f | or64 f | xor64 f | not64 f | blut f
    | shl64 f | shr64 f | sar64 f | shf f | rot64 f | popc64 f | clz64 f | ctz64 f | brev64 f | bxtr f | bins f | bsel f | lea f | icmp f
    | isel f | pset f | plut f | pmov f | pgath f | lpeer f | mov64 f | movi64 f | movw f | s2v f | v2s f | lxch f | srr f | srw f | fadd64 f
    | fsub64 f | fmul64 f | ffma f | fmin64 f | fmax64 f | fcmp f | fsel f | fclass f | frnd f | frcp64 f | frsq64 f | fsqrt64 f | fexp264 f
    | flog264 f | fsin f | fcos f | ftanh f | pfadd64 f | pfmul64 f | pffma f | pfmin64 f | pfmax64 f | dadd64 f | dmul64 f | dfma f | dmin64 f
    | dmax64 f | dcmp f | cvt f | cvtq f | cvtd f | pack f | unpk f | ld f | st f | ldx f | stx f | pref f | cctl f | maps f | unmaps f
    | flushs f | atom f | atomc f | red f | waitv f | lmon f | lmwait f | fence f | barInit f | barExp f | barArv f | barWait f | barTest f
    | claim f | tres f | trel f | tld f | tst f | twr f | trd f | magree f | msign f | mma f | mmaq f | mmas f | dmma f | accz f | accrd f
    | accwr f | accrmax f | accscl f | copy f | txfer f | trig f | scbset f | scbclr f | flood f | echo f | waitf f | testf f | cancelf f
    | finfo f | clause f | role f | txb f | txe f | txa f | txst f | syscall f | eret f | trap f | bpt f | tlbi f => cases h; exact .double rfl f
  | _ => cases hi

/-- What stands at an index of a list satisfies what all its elements with their indices do. -/
theorem forall_zipIdx {α : Type} {P : α → Nat → Prop} {l : List α} (h : ∀ p ∈ l.zipIdx, P p.1 p.2) {k : Nat} {a : α} (ha : l[k]? = some a) : P a k :=
  h (a, k) (List.mem_zipIdx_iff_getElem?.mpr ha)

theorem encodeWord_table16 : ∀ p ∈ table16.zipIdx, ∀ f, encodeWord (p.1 f) = some (2, word16 p.2 f) := by
  simp only [table16, List.zipIdx_cons, List.zipIdx_nil, List.forall_mem_cons, List.not_mem_nil, IsEmpty.forall_iff, implies_true, and_true]
  and_intros <;> exact fun f => rfl

theorem encodeWord_table32 : ∀ p ∈ table32.zipIdx, ∀ f, encodeWord (p.1 f) = some (4, word32 p.2 f) := by
  simp only [table32, List.zipIdx_cons, List.zipIdx_nil, List.forall_mem_cons, List.not_mem_nil, IsEmpty.forall_iff, implies_true, and_true]
  and_intros <;> exact fun f => rfl

theorem encodeWord_table64 : ∀ b ∈ table64.zipIdx, ∀ p ∈ b.1.zipIdx, ∀ f, encodeWord (p.1 f) = some (8, word64 (64 * b.2 + p.2) f) := by
  simp only [table64, blockControl, blockIntegerAndAddress, blockPredicatesVotesMoves, blockFp32Vector, blockPackedAndFp64Vector, blockConversion,
    blockMemory, blockAtomicsBarriersWaiting, blockTilesAndMatrix, blockEngines, blockFloodsAndScheduling, blockTransactions, blockSystem,
    List.zipIdx_cons, List.zipIdx_nil, List.forall_mem_cons, List.not_mem_nil, IsEmpty.forall_iff, implies_true, and_true]
  and_intros <;> exact fun f => rfl

theorem table64_entry {op : Nat} {mk : Form64 → Instr} (h : entry64 op = some mk) (f : Form64) : encodeWord (mk f) = some (8, word64 op f) := by
  obtain ⟨b, hb, hop⟩ := Option.bind_eq_some_iff.mp h
  have := forall_zipIdx (P := fun mk k => ∀ f, encodeWord (mk f) = some (8, word64 (64 * (op / 64) + k) f)) (forall_zipIdx (P := fun b k => ∀ p ∈ b.zipIdx, ∀ f,
    encodeWord (p.1 f) = some (8, word64 (64 * k + p.2) f)) encodeWord_table64 hb) hop f
  rwa [Nat.div_add_mod] at this

theorem CoreEncoding.encodeWord_eq {i : Instr} {len w : Nat} (h : CoreEncoding i len w) : encodeWord i = some (len, w) := by
  cases h with
  | parcel h f => exact forall_zipIdx (P := fun mk k => ∀ f, encodeWord (mk f) = some (2, word16 k f)) encodeWord_table16 h f
  | word h f => exact forall_zipIdx (P := fun mk k => ∀ f, encodeWord (mk f) = some (4, word32 k f)) encodeWord_table32 h f
  | double h f => exact table64_entry h f

theorem lt_of_getElem?_eq_some {α : Type} {l : List α} {k : Nat} {a : α} (h : l[k]? = some a) : k < l.length := (List.getElem?_eq_some_iff.mp h).1

theorem lt_of_entry64 {op : Nat} {mk : Form64 → Instr} (h : entry64 op = some mk) : op < 1024 := by
  obtain ⟨b, hb, -⟩ := Option.bind_eq_some_iff.mp h
  have := lt_of_getElem?_eq_some hb
  simp only [table64, List.length_cons, List.length_nil] at this
  omega

theorem decode64_eq (w : Nat) : decode64 w = (entry64 (64 * field w 60 4 + field w 54 6)).map (fun mk => mk (form64Of w)) := by
  have h := Nat.mod_lt (w / 2 ^ 54) (show 0 < 2 ^ 6 by decide)
  rw [decode64, entry64, show (64 * field w 60 4 + field w 54 6) / 64 = field w 60 4 by unfold field at *; omega,
    show (64 * field w 60 4 + field w 54 6) % 64 = field w 54 6 by unfold field at *; omega]

/-- The opcode of a 64-bit word (R202). -/
theorem opcode_word64 {op : Nat} (hop : op < 1024) (f : Form64) : 64 * field (word64 op f) 60 4 + field (word64 op f) 54 6 = op := by
  have hn := f.negate.toNat_lt
  have hu := f.uf.toNat_lt
  simp only [word64, modWord, field]
  omega

theorem CoreEncoding.word_lt {i : Instr} {len w : Nat} (h : CoreEncoding i len w) : w < 2 ^ (8 * len) := by
  cases h with
  | parcel h f =>
    have := lt_of_getElem?_eq_some h
    simp only [table16, List.length_cons, List.length_nil] at this
    unfold word16; omega
  | word h f =>
    have := lt_of_getElem?_eq_some h
    simp only [table32, List.length_cons, List.length_nil] at this
    unfold word32; omega
  | double h f =>
    have := lt_of_entry64 h
    have hn := f.negate.toNat_lt
    have hu := f.uf.toNat_lt
    unfold word64 modWord; omega

/-- The low bits of a word tell its length (R195). -/
theorem CoreEncoding.lengthOf_eq {i : Instr} {len w : Nat} (h : CoreEncoding i len w) : lengthOf w = len := by
  cases h with
  | parcel _ f => exact Laws.lengthOf_word16 _ f
  | word _ f => exact Laws.lengthOf_word32 _ f
  | double _ f => exact Laws.lengthOf_word64 _ f

/-- The decoder reads a core instruction from its word; the parcel 0x0000 is none (R199). -/
theorem CoreEncoding.decodeWord_eq {i : Instr} {len w : Nat} (h : CoreEncoding i len w) (hz : len = 2 → w ≠ 0) : decodeWord len w = some i := by
  have hlt := h.word_lt
  cases h with
  | @parcel op mk h f =>
    have hop : field (word16 op f) 12 4 = op := by unfold word16 field at *; omega
    have hw : word16 op f % 65536 ≠ 0 := by have := hz rfl; omega
    simp only [decodeWord, if_true, decode16, if_neg hw, hop, h, form16Of_word16, Option.map_some]
  | @word op mk h f =>
    have hop : field (word32 op f) 26 6 = op := by unfold word32 field at *; omega
    rw [decodeWord, if_neg (by decide), if_pos rfl, decode32, hop, h, form32Of_word32, Option.map_some]
  | double h f =>
    rw [decodeWord, if_neg (by decide), if_neg (by decide), decode64_eq, opcode_word64 (lt_of_entry64 h), h, form64Of_word64, Option.map_some]

/-- What the decoder reads from a word of the length that its low bits tell is encoded by that word. -/
theorem coreEncoding_of_decodeWord {i : Instr} {len w : Nat} (hlen : len = lengthOf w) (hlt : w < 2 ^ (8 * len)) (h : decodeWord len w = some i) :
    CoreEncoding i len w := by
  subst hlen
  unfold lengthOf at *
  by_cases he : w % 2 = 0
  · simp only [he, if_true] at h hlt ⊢
    simp only [decodeWord, if_true, decode16] at h
    split at h
    · cases h
    · obtain ⟨mk, hmk, rfl⟩ := Option.map_eq_some_iff.mp h
      have := CoreEncoding.parcel hmk (form16Of w)
      rwa [word16_form16Of hlt he] at this
  · by_cases h4 : w % 4 = 1
    · simp only [he, h4, if_false, if_true] at h hlt ⊢
      simp only [decodeWord, decode32] at h
      obtain ⟨mk, hmk, rfl⟩ := Option.map_eq_some_iff.mp h
      have := CoreEncoding.word hmk (form32Of w)
      rwa [word32_form32Of hlt h4] at this
    · simp only [he, h4, if_false] at h hlt ⊢
      change decode64 w = some i at h
      rw [decode64_eq] at h
      obtain ⟨mk, hmk, rfl⟩ := Option.map_eq_some_iff.mp h
      have := CoreEncoding.double hmk (form64Of w)
      rwa [word64_form64Of hlt (by omega)] at this

/-! ### Bytes -/

theorem leBytes_length (n x : Nat) : (leBytes n x).length = n := by
  induction n generalizing x with
  | zero => rfl
  | succ n ih => rw [leBytes, List.length_cons, ih]

theorem ofLe_leBytes (n x : Nat) : ofLe (leBytes n x) = x % 256 ^ n := by
  induction n generalizing x with
  | zero => simp [leBytes, ofLe, Nat.mod_one]
  | succ n ih => rw [leBytes, ofLe, ih, BitVec.toNat_ofNat, show 256 ^ (n + 1) = 256 * 256 ^ n from Nat.pow_succ', Nat.mod_mul]

theorem ofLe_lt (bs : List Byte) : ofLe bs < 256 ^ bs.length := by
  induction bs with
  | nil => simp [ofLe]
  | cons b t ih => rw [ofLe, List.length_cons, Nat.pow_succ']; have := b.isLt; omega

/-- The length is told by the first byte alone (R195). -/
theorem lengthOf_mod_four (w : Nat) : lengthOf (w % 4) = lengthOf w := by
  unfold lengthOf; rw [Nat.mod_mod, Nat.mod_mod_of_dvd _ (by decide)]

theorem lengthOf_congr {v w : Nat} (h : v % 4 = w % 4) : lengthOf v = lengthOf w := by
  rw [← lengthOf_mod_four v, h, lengthOf_mod_four]

theorem lengthOf_pos (w : Nat) : 1 < lengthOf w := by
  unfold lengthOf; split <;> [decide; split <;> decide]

/-- Decoding bytes whose first byte tells a length that they have. -/
theorem decode_eq (b : Byte) (t : List Byte) : decode (b :: t) =
    if (b :: t).length < lengthOf b.toNat then .error .tooShort
    else match decodeWord (lengthOf b.toNat) (ofLe ((b :: t).take (lengthOf b.toNat))) with
      | some i => .ok (i, lengthOf b.toNat)
      | none => .error (.unassigned (lengthOf b.toNat) (BitVec.ofNat 64 (ofLe ((b :: t).take (lengthOf b.toNat))))) := rfl

theorem decode_leBytes {i : Instr} {w : Nat} (hlt : w < 2 ^ (8 * lengthOf w)) (h : decodeWord (lengthOf w) w = some i) (rest : List Byte) :
    decode (leBytes (lengthOf w) w ++ rest) = .ok (i, lengthOf w) := by
  have hpos := lengthOf_pos w
  have hcons : leBytes (lengthOf w) w ++ rest = BitVec.ofNat 8 w :: (leBytes (lengthOf w - 1) (w / 256) ++ rest) := by
    conv_lhs => rw [show lengthOf w = lengthOf w - 1 + 1 by omega, leBytes, List.cons_append]
  have hlen : lengthOf (BitVec.ofNat 8 w).toNat = lengthOf w := lengthOf_congr (by rw [BitVec.toNat_ofNat]; omega)
  have htake : (leBytes (lengthOf w) w ++ rest).take (lengthOf w) = leBytes (lengthOf w) w := List.take_left' (leBytes_length _ _)
  have hword : ofLe (leBytes (lengthOf w) w) = w := by
    rw [ofLe_leBytes, Nat.mod_eq_of_lt]; rwa [show (256 : Nat) = 2 ^ 8 by rfl, ← pow_mul]
  rw [hcons, decode_eq, ← hcons, hlen, htake, hword, h, if_neg (by rw [List.length_append, leBytes_length]; omega)]

/-- What the decoder reads stands in the first bytes, as many as its length. -/
theorem decodeWord_of_decode {bytes : List Byte} {i : Instr} {len : Nat} (h : decode bytes = .ok (i, len)) :
    let w := ofLe (bytes.take len)
    len ≤ bytes.length ∧ len = lengthOf w ∧ w < 2 ^ (8 * len) ∧ decodeWord len w = some i := by
  cases bytes with
  | nil => cases h
  | cons b t =>
    rw [decode_eq] at h
    split at h
    · cases h
    · split at h
      · rename_i hshort j hj
        cases h
        have hpos := lengthOf_pos b.toNat
        refine ⟨by omega, lengthOf_congr ?_, ?_, hj⟩
        · rw [show lengthOf b.toNat = lengthOf b.toNat - 1 + 1 by omega, List.take_succ_cons, ofLe]; omega
        · have hofLe := ofLe_lt ((b :: t).take (lengthOf b.toNat))
          rwa [List.length_take, Nat.min_eq_left (by omega), show (256 : Nat) = 2 ^ 8 by rfl, ← pow_mul] at hofLe
      · cases h

/-- The well-formed MOV of 16 bits is not the parcel 0x0000 (R199). -/
theorem CoreEncoding.ne_zero {i : Instr} {len w : Nat} (h : CoreEncoding i len w) (hwf : i.wf = true) : len = 2 → w ≠ 0 := by
  rintro hlen rfl
  generalize hw : 0 = w at h
  cases h with
  | @parcel op mk h f =>
    obtain ⟨rfl, hrd, hrs⟩ : op = 0 ∧ f.rd.toNat = 0 ∧ f.rs.toNat = 0 := by unfold word16 at hw; omega
    cases h
    simp [Instr.wf, operandsLegal, hrd, hrs] at hwf
  | word | double => cases hlen

/-! ### Vendor instructions (R381) -/

theorem wordR_lt {k : Nat} (hk : k < 128) (f : FormR) : wordR k f < 2 ^ 32 := by unfold wordR; omega

theorem opcode_wordR (k : Nat) (f : FormR) : field (wordR k f) 0 7 = 0x0B := by unfold wordR field; omega

theorem funct7_wordR {k : Nat} (hk : k < 128) (f : FormR) : field (wordR k f) 25 7 = k := by unfold wordR field; omega

theorem decodeVendor_wordR {i : Instr} {f : FormR} (hi : i ∈ [Instr.qwait f, .qseed f, .qeng f, .qfence f]) {len w : Nat}
    (h : encodeWord i = some (len, w)) : len = 4 ∧ w < 2 ^ 32 ∧ decodeVendor w = .ok i := by
  simp only [List.mem_cons, List.not_mem_nil, or_false] at hi
  rcases hi with rfl | rfl | rfl | rfl <;> cases h <;> refine ⟨rfl, wordR_lt (by decide) f, ?_⟩ <;>
    rw [decodeVendor, if_pos (opcode_wordR _ f), funct7_wordR (by decide), formROf_wordR] <;> rfl

/-- Settles O56: an instruction that has a form stands in the table of its form at the opcode of its word, and the fields of a word and of a form are each
other's. -/
theorem decodingUndoesEncoding : Obligations.DecodingUndoesEncoding := by
  unfold Obligations.DecodingUndoesEncoding
  refine ⟨fun i len w rest hwf henc => ⟨fun hform => ?_, fun f hi => decodeVendor_wordR hi henc⟩, fun bytes i len h => ?_⟩
  · have hcore := coreEncoding_of_form hform henc
    obtain rfl := hcore.lengthOf_eq
    exact ⟨hcore.word_lt, decode_leBytes hcore.word_lt (hcore.decodeWord_eq (hcore.ne_zero hwf)) rest⟩
  · obtain ⟨hle, hlen, hlt, hw⟩ := decodeWord_of_decode h
    exact ⟨(coreEncoding_of_decodeWord hlen hlt hw).encodeWord_eq, hle⟩

end Sys2Proof.Machine
end

section
/-! SUPPORT. The proofs of the statements on the spec's words, the reset state and the step. -/

namespace Sys2Proof.Machine

open Safety

/-- Settles O57: each word decodes by evaluation. -/
theorem specWordsDecode : Obligations.SpecWordsDecode := by
  unfold Obligations.SpecWordsDecode
  exact ⟨by rfl, ⟨_, by rfl, by rfl⟩, ⟨_, by rfl, by rfl, by rfl, by rfl, by rfl⟩, ⟨_, by rfl, by rfl, by rfl⟩, ⟨_, by rfl, by rfl, by rfl⟩⟩

/-- Settles O59: every table of the reset state is empty, so each of its parts reads as its default. -/
theorem resetState : Obligations.ResetState := by
  unfold Obligations.ResetState
  exact ⟨reset_canonical, rfl, rfl, rfl, fun _ => ⟨rfl, rfl, rfl, rfl⟩, fun _ _ => rfl, fun _ => rfl,
    fun _ => ⟨fun _ => rfl, rfl, rfl, rfl, rfl, fun _ => ⟨rfl, rfl⟩⟩, fun _ => ⟨rfl, rfl, rfl⟩⟩

/-! ### The plan of a step (R26, R380) -/

theorem instrOf_eq {i : Instr} {len w : Nat} (h : decode (leBytes len w) = .ok (i, len)) : instrOf len w = i := by
  unfold instrOf; rw [h]

/-- A core with no step of its own due issues what its picked entry fetches. -/
theorem State.planCore_run {s t : State} {c slot idx len w : Nat} {e : Entry} {i : Instr} (hsafe : (s.module (coreModule c)).safe = false)
    (hev : s.firstEvent c = none) (hpick : s.pick c = some (slot, idx)) (he : (s.warp c slot).entry idx = some e)
    (hf : s.fetch c (s.ctxOf c slot) e.pc.toNat (s.warp c slot).privileged = (.word len w, t)) (hd : decode (leBytes len w) = .ok (i, len)) :
    s.planCore c = .run i { t with cur := .warp c slot idx } := by
  simp only [State.planCore, hsafe, hev, hpick, he, hf, instrOf_eq hd, Bool.false_eq_true, if_false]

theorem vendorOf_eq {i : Instr} {w : Nat} (hwf : i.wf = true) (h : decodeVendor w = .ok i) : vendorOf w = some i := by
  simp only [vendorOf, h, hwf, if_true]

/-- A step whose plan is an instruction executes it. -/
theorem step_of_run {s t : State} {i : Instr} (h : s.plan = .run i t) : step s = exec i t := by unfold step; rw [h]

/-- Settles O60: the plan of a step names the instruction that its agent fetches, and `step` executes it. -/
theorem stepRunsTheDecodedInstruction : Obligations.StepRunsTheDecodedInstruction := by
  unfold Obligations.StepRunsTheDecodedInstruction
  refine fun s t i => ⟨?_, ?_, ?_, ?_⟩
  · intro c rest slot idx e len w hag u hsafe hev hpick he hf hd
    exact step_of_run (by rw [State.plan, hag]; exact State.planCore_run hsafe hev hpick he hf hd)
  · intro c slot idx e len w hag hturn hidle hsafe hev hpick he hf hd
    refine step_of_run ?_
    rw [State.plan, hag]
    simp only [State.ownPlan, hturn, Option.filter_some, hidle, Bool.not_false, if_true]
    exact State.planCore_run hsafe hev hpick he hf hd
  · intro q rest hag hwf hd
    refine step_of_run ?_
    rw [State.plan, hag]
    simp only [State.planQueue]
    change (match vendorOf (readBytes (s.module (q / 32)).firmware (s.queue q).pc.toNat 4) with | some i => _ | none => _) = _
    rw [vendorOf_eq hwf hd]
  · intro a rest hag
    exact step_of_run (by rw [State.plan, hag])

end Sys2Proof.Machine
end

section
/-! SUPPORT. Instructions that compute registers or a predicate from registers: which registers they write. -/

namespace Sys2Proof.Machine

open Safety

/-- Instructions run alike whose effects agree for the issued instruction. -/
theorem runCore_congr {i : Instr} {s : State} {x : Iss} (h : issOf i s = some x) {eff eff' : Iss → State → Res} (he : eff x = eff' x) :
    runCore i eff s = runCore i eff' s := by
  unfold runCore
  rw [h]
  simp only [Iss.run, he]

/-- A register-only instruction computes the run that its rd field names (R209, R224). -/
theorem exec_registerOnly {i : Instr} {s : State} {x : Iss} (hr : registerOnly i = true) (h : issOf i s = some x) :
    ∃ val, exec i s = runCore i (laneOp (slotRun x.g.rd) val) s := by
  cases i with
  | cvtd f => exact ⟨_, runCore_congr h (by rw [issOf_sig h rfl, issOf_form h rfl]; rfl)⟩
  | mov16 f | movi16 f | iadd16 f | isub16 f | imul16 f | and16 f | or16 f | xor16 f | shl16 f | shr16 f | sar16 f | fadd16 f | fsub16 f
    | fmul16 f | fmin16 f | fmax16 f | iadd32 f | isub32 f | imul32 f | imulhi32 f | imulhn32 f | imini32 f | imaxi32 f | iminn32 f | imaxn32 f
    | and32 f | or32 f | xor32 f | shl32 f | shr32 f | sar32 f | rot32 f | fadd32 f | fsub32 f | fmul32 f | fmin32 f | fmax32 f | pfadd32 f
    | pfmul32 f | pfmin32 f | pfmax32 f | dadd32 f | dmul32 f | dmin32 f | dmax32 f | mov32 f | ineg32 f | iabs32 f | not32 f | popc32 f
    | clz32 f | ctz32 f | brev32 f | frcp32 f | frsq32 f | fsqrt32 f | fexp232 f | flog232 f | iadd64 f | isum f | isub64 f | ineg64 f
    | iabs64 f | imul64 f | imulh64 f | imad f | imadw f | imin64 f | imax64 f | isad f | and64 f | or64 f | xor64 f | not64 f | blut f
    | shl64 f | shr64 f | sar64 f | shf f | rot64 f | popc64 f | clz64 f | ctz64 f | brev64 f | bxtr f | bins f | bsel f | lea f | isel f
    | pgath f | lpeer f | mov64 f | movi64 f | movw f | s2v f | fadd64 f | fsub64 f | fmul64 f | ffma f | fmin64 f | fmax64 f | fsel f
    | fclass f | frnd f | frcp64 f | frsq64 f | fsqrt64 f | fexp264 f | flog264 f | fsin f | fcos f | ftanh f | pfadd64 f | pfmul64 f | pffma f
    | pfmin64 f | pfmax64 f | dadd64 f | dmul64 f | dfma f | dmin64 f | dmax64 f | cvt f | cvtq f | pack f | unpk f | txst f => exact ⟨_, by rw [issOf_sig h rfl]; rfl⟩
  | _ => cases hr

/-- A predicate instruction computes the predicate that its rd field names (R208, R209). -/
theorem exec_predicateOnly {i : Instr} (s : State) (hr : predicateOnly i = true) : ∃ val, exec i s = runCore i (predOp val) s := by
  cases i with
  | icmp f | pset f | plut f | pmov f | fcmp f | dcmp f => exact ⟨_, rfl⟩
  | _ => cases hr

theorem Iss.uf_of_rd_v {x : Iss} {k : Nat} (h : x.rd = .v k) : x.f.uf = false := by
  unfold Iss.rd refOf at h
  cases hu : x.f.uf with
  | false => rfl
  | true => rw [hu] at h; cases hg : x.g.rd <;> rw [hg] at h <;> cases h

theorem Warp.get_writeLanes_s_of_not_mem (w : Warp) {k j n : Nat} (l : Nat) (val : Nat → Nat) {ls : List Nat} (h : ¬(k ≤ j ∧ j < k + n ∧ ls ≠ [])) :
    (w.writeLanes (.s k) n val ls).get (.s j) l = w.get (.s j) l := by
  induction ls generalizing w with
  | nil => rfl
  | cons a t ih =>
    have hj : ¬(k ≤ j ∧ j < k + n) := fun hj => h ⟨hj.1, hj.2, List.cons_ne_nil _ _⟩
    rw [Warp.writeLanes, ih _ (fun ht => hj ⟨ht.1, ht.2.1⟩), Warp.get_putRun_s w k j a l n, if_neg hj]

/-- A write of the run that rd names changes no register but the destinations (R209, R210). -/
theorem Iss.get_writeLanes_of_not_inDest {x : Iss} {w u : Warp} {r : RegRef} {l : Nat} (hl : l < 32) (h : ¬ inDest x u r l) (val : Nat → Nat) :
    (w.writeLanes x.rd (slotRun x.g.rd) val (x.exec u)).get r l = w.get r l := by
  unfold inDest at h
  cases hrd : x.rd with
  | v k =>
    cases r with
    | s j => rw [Warp.get_writeLanes_v_s]
    | v j =>
      simp only [hrd] at h
      rw [Iss.exec, Iss.uf_of_rd_v hrd, if_neg Bool.false_ne_true, Warp.get_writeLanes_v _ _ _ _ _ _ _ (lanes_nodup _) (fun _ => lt_of_mem_lanes) hl,
        if_neg (by rwa [mem_lanes])]
  | s k =>
    cases r with
    | v j => rw [Warp.get_writeLanes_s_v]
    | s j =>
      simp only [hrd] at h
      refine Warp.get_writeLanes_s_of_not_mem _ _ _ fun ⟨h1, h2, hne⟩ => h ⟨h1, h2, fun hz => hne ?_⟩
      rw [Iss.exec, hz, lanes_zero, List.take_nil, ite_self]

/-- Settles O1: each register-only instruction writes the run that rd names, in the lanes that compute, and nothing else. -/
theorem registerOnlyCompletes : Obligations.RegisterOnlyCompletes := by
  unfold Obligations.RegisterOnlyCompletes
  intro i s x hr h
  obtain ⟨val, hexec⟩ := exec_registerOnly hr h.holds
  obtain ⟨w, hrun, hsame, hadv, hget⟩ := runCore_laneOp h (slotRun x.g.rd) val
  refine ⟨w, hexec.trans hrun, hsame, hadv, fun r l hl hnot => ?_⟩
  rw [hget, Iss.exec_note, Iss.get_writeLanes_of_not_inDest hl hnot, Iss.get_issued]

/-- Settles O2: each predicate instruction writes the predicate that rd names in its participating lanes, and nothing else. -/
theorem predicateOnlyCompletes : Obligations.PredicateOnlyCompletes := by
  unfold Obligations.PredicateOnlyCompletes
  intro i s x hr h
  obtain ⟨val, hexec⟩ := exec_predicateOnly s hr
  obtain ⟨w, hrun, hsame, hadv, hpred⟩ := runCore_predOp h val
  refine ⟨w, hexec.trans hrun, hsame, hadv, fun q l hq => ?_⟩
  rw [hpred, Warp.pred_putPred, Iss.part_issued, Iss.pred_note]
  refine if_neg fun ⟨hqp, hne, _, hm⟩ => ?_
  rcases hq with h1 | h1 | h1
  · exact h1 hqp
  · exact hne (hqp ▸ h1)
  · rw [h1] at hm; cases hm

end Sys2Proof.Machine
end

section
/-! SUPPORT. Integer and bitwise results, comparisons, selections and votes. -/

namespace Sys2Proof.Machine

open Safety

/-! ### Words of natural numbers and integers -/

theorem ofNat_wrap (n : Nat) (z : Int) : BitVec.ofNat n (wrap n z) = BitVec.ofInt n z := by
  have hpos : (0 : Int) < ((2 ^ n : Nat) : Int) := by exact_mod_cast Nat.two_pow_pos n
  have := Int.emod_lt_of_pos z hpos
  have := Int.emod_nonneg z hpos.ne'
  apply BitVec.eq_of_toNat_eq
  rw [BitVec.toNat_ofNat, BitVec.toNat_ofInt, wrap, Nat.mod_eq_of_lt (by omega)]

theorem ofNat_mod_two_pow (n a : Nat) : BitVec.ofNat n (a % 2 ^ n) = BitVec.ofNat n a :=
  BitVec.eq_of_toNat_eq (by simp)

theorem toNat_ofNat_of_lt {n a : Nat} (h : a < 2 ^ n) : (BitVec.ofNat n a).toNat = a := by rw [BitVec.toNat_ofNat, Nat.mod_eq_of_lt h]

theorem ofNat_iabs (a : Nat) : BitVec.ofNat 32 (wrap 32 ((signed 32 a).natAbs : Int)) =
    if (BitVec.ofNat 32 a).msb then - BitVec.ofNat 32 a else BitVec.ofNat 32 a := by
  rw [ofNat_wrap, signed_eq_toInt]
  generalize BitVec.ofNat 32 a = b
  rw [BitVec.msb_eq_toInt]
  by_cases hb : b.toInt < 0
  · rw [decide_eq_true hb, if_pos rfl, Int.ofNat_natAbs_of_nonpos (Int.le_of_lt hb), BitVec.ofInt_neg, BitVec.ofInt_toInt]
  · rw [decide_eq_false hb, if_neg Bool.false_ne_true, Int.natAbs_of_nonneg (Int.not_lt.mp hb), BitVec.ofInt_toInt]

theorem ofNat_shl (a b : Nat) : BitVec.ofNat 32 (if b ≥ 32 then 0 else (a * 2 ^ b) % 2 ^ 32) = BitVec.ofNat 32 a <<< b := by
  split
  · rw [BitVec.shiftLeft_eq_zero ‹_›]
  · apply BitVec.eq_of_toNat_eq
    rw [ofNat_mod_two_pow, BitVec.toNat_shiftLeft, BitVec.toNat_ofNat, BitVec.toNat_ofNat, Nat.shiftLeft_eq, Nat.mod_mul_mod]

theorem ofNat_shr {a : Nat} (ha : a < 2 ^ 32) (b : Nat) : BitVec.ofNat 32 (if b ≥ 32 then 0 else a / 2 ^ b) = BitVec.ofNat 32 a >>> b := by
  apply BitVec.eq_of_toNat_eq
  rw [BitVec.toNat_ushiftRight, toNat_ofNat_of_lt ha, Nat.shiftRight_eq_div_pow, BitVec.toNat_ofNat]
  have hle := Nat.div_le_self a (2 ^ b)
  split
  · rw [Nat.div_eq_of_lt (Nat.lt_of_lt_of_le ha (Nat.pow_le_pow_right (by decide) ‹_›)), Nat.zero_mod]
  · rw [Nat.mod_eq_of_lt (by omega)]

/-- From 31 on every shift of a 32-bit value gives its sign. -/
theorem toInt_ediv_two_pow (x : BitVec 32) (b : Nat) : x.toInt / ((2 ^ min 31 b : Nat) : Int) = x.toInt / ((2 ^ b : Nat) : Int) := by
  rcases Nat.le_total b 31 with hb | hb
  · rw [Nat.min_eq_right hb]
  · rw [Nat.min_eq_left hb]
    have hle : ((2 ^ 31 : Nat) : Int) ≤ ((2 ^ b : Nat) : Int) := by exact_mod_cast Nat.pow_le_pow_right (by decide) hb
    have hlt := x.toInt_lt
    have hge := x.le_toInt
    rcases Int.lt_or_le x.toInt 0 with hx | hx
    · rw [Int.ediv_eq_neg_one_of_neg_of_le hx (by omega), Int.ediv_eq_neg_one_of_neg_of_le hx (by omega)]
    · rw [Int.ediv_eq_zero_of_lt hx (by omega), Int.ediv_eq_zero_of_lt hx (by omega)]

theorem ofNat_sar (a b : Nat) : BitVec.ofNat 32 (wrap 32 (signed 32 a / ((2 ^ min 31 b : Nat) : Int))) = (BitVec.ofNat 32 a).sshiftRight b := by
  rw [ofNat_wrap, signed_eq_toInt, toInt_ediv_two_pow, ← Int.shiftRight_eq_div_pow]
  rfl

theorem ofNat_rot {a : Nat} (ha : a < 2 ^ 32) {n : Nat} (hn : n < 32) :
    BitVec.ofNat 32 ((a * 2 ^ n + a / 2 ^ (32 - n)) % 2 ^ 32) = (BitVec.ofNat 32 a).rotateLeft n := by
  have hsplit : 2 ^ 32 = 2 ^ n * 2 ^ (32 - n) := by rw [← pow_add]; congr 1; omega
  have hhigh : a / 2 ^ (32 - n) < 2 ^ n := Nat.div_lt_of_lt_mul (by rw [Nat.mul_comm, ← hsplit]; exact ha)
  have hlow : a * 2 ^ n % 2 ^ 32 = (a % 2 ^ (32 - n)) <<< n := by
    rw [hsplit, Nat.mul_comm, Nat.mul_mod_mul_left, Nat.shiftLeft_eq, Nat.mul_comm]
  apply BitVec.eq_of_toNat_eq
  rw [ofNat_mod_two_pow, BitVec.toNat_rotateLeft, toNat_ofNat_of_lt ha, Nat.mod_eq_of_lt hn, Nat.shiftLeft_eq, Nat.shiftRight_eq_div_pow, hlow,
    ← Nat.shiftLeft_add_eq_or_of_lt hhigh, BitVec.toNat_ofNat, ← Nat.mod_add_mod, hlow, Nat.mod_eq_of_lt]
  have hr : a % 2 ^ (32 - n) + 1 ≤ 2 ^ (32 - n) := Nat.mod_lt _ (Nat.two_pow_pos _)
  have := Nat.mul_le_mul_left (2 ^ n) hr
  rw [Nat.shiftLeft_eq, Nat.mul_comm]
  rw [← hsplit, Nat.mul_add, Nat.mul_one] at this
  omega

/-! ### Operands -/

theorem imm16_lt (f : Form64) : imm16 f < 2 ^ 16 := by unfold imm16; omega

theorem imm24_lt (f : Form64) : imm24 f < 2 ^ 24 := by unfold imm24; omega

theorem wrap_lt (n : Nat) (z : Int) : wrap n z < 2 ^ n := by
  have hpos : (0 : Int) < ((2 ^ n : Nat) : Int) := by exact_mod_cast Nat.two_pow_pos n
  have := Int.emod_lt_of_pos z hpos
  have := Int.emod_nonneg z hpos.ne'
  unfold wrap; omega

theorem immValue_lt (k : Imm) (f : Form64) : immValue k f < 2 ^ 32 := by
  have h16 := imm16_lt f
  have h24 := imm24_lt f
  cases k with
  | reg => exact Nat.two_pow_pos 32
  | s16 | o16 => exact wrap_lt _ _
  | s24 | o24 => exact wrap_lt _ _
  | z16 _ | h16 | z24 _ => simp only [immValue]; omega

theorem Iss.a_lt (x : Iss) (w : Warp) (l : Nat) : x.a w l < 2 ^ 32 := (w.get x.r1 l).isLt

theorem Iss.b_lt (x : Iss) (w : Warp) (l : Nat) : x.b w l < 2 ^ 32 := by
  unfold Iss.b
  split
  · exact (w.get x.r2 l).isLt
  · exact immValue_lt _ _

theorem Iss.toNat_b (x : Iss) (w : Warp) (l : Nat) : (BitVec.ofNat 32 (x.b w l)).toNat = x.b w l := toNat_ofNat_of_lt (x.b_lt w l)

/-- The one-register results, computed from the operands before the instruction. -/
theorem writesLane_of_val {i : Instr} {s : State} {x : Iss} (h : Executes i s x) {val : Iss → Warp → Nat → Nat} {v : Nat → Word}
    (hexec : exec i s = runCore i (laneOp 1 val) s) {n al : Nat} (hrd : x.g.rd = .v n al)
    (hcongr : ∀ l, val x (warpOf x (x.note s)) l = val x (warpOf x s) l) (hv : ∀ l, BitVec.ofNat 32 (val x (warpOf x s) l) = v l) :
    writesLane i s x v :=
  writesLane_of_laneOp h hexec hrd fun l => by rw [hcongr, hv]

/-- Settles O3: each row's value, computed on the operands before the instruction, is the word operation of R234. -/
theorem integerAndBitwiseResults : Obligations.IntegerAndBitwiseResults := by
  unfold Obligations.IntegerAndBitwiseResults
  intro f s x
  refine ⟨fun h hrm => ?_, fun h hrm => ?_, fun h => ?_, fun h => ?_, fun h => ?_, fun h => ?_, fun h => ?_, fun h => ?_, fun h => ?_, fun h => ?_,
    fun h => ?_, fun h => ?_, fun h => ?_, fun h => ?_, fun h => ?_⟩ <;>
    refine writesLane_of_val h rfl (by rw [issOf_sig h.holds rfl]; rfl) (fun l => ?_) (fun l => ?_)
  · simp only [iaddVal, Iss.a_note, Iss.b_note]
  · simp only [iaddVal, hrm, if_neg (show ¬(0#2 = 1#2) by decide), ofNat_mod_two_pow, BitVec.ofNat_add]
  · simp only [isubVal, Iss.a_note, Iss.b_note]
  · simp only [isubVal, hrm, if_neg (show ¬(0#2 = 1#2) by decide), ofNat_wrap, Int.sub_eq_add_neg, BitVec.ofInt_add, BitVec.ofInt_neg,
      BitVec.ofInt_natCast, ← BitVec.sub_eq_add_neg]
  · simp only [Iss.a_note, Iss.b_note, Iss.c_note]
  · simp only [ofNat_mod_two_pow, BitVec.ofNat_add]
  · simp only [inegVal, Iss.a_note]
  · simp only [inegVal, ofNat_wrap, BitVec.ofInt_neg, BitVec.ofInt_natCast]
  · simp only [iabsVal, Iss.a_note]
  · exact ofNat_iabs _
  · simp only [imulVal, Iss.a_note, Iss.b_note]
  · simp only [imulVal, ofNat_mod_two_pow, BitVec.ofNat_mul]
  · simp only [Iss.a_note, Iss.b_note, Iss.c_note]
  · simp only [ofNat_mod_two_pow, BitVec.ofNat_add, BitVec.ofNat_mul]
  · simp only [shlVal, Iss.a_note, Iss.b_note]
  · rw [Iss.toNat_b]; exact ofNat_shl _ _
  · simp only [shrVal, Iss.a_note, Iss.b_note]
  · rw [Iss.toNat_b]; exact ofNat_shr (x.a_lt _ _) _
  · simp only [sarVal, Iss.a_note, Iss.b_note]
  · rw [Iss.toNat_b]; exact ofNat_sar _ _
  · simp only [rotVal, Iss.a_note, Iss.b_note]
  · rw [Iss.toNat_b]; exact ofNat_rot (x.a_lt _ _) (Nat.mod_lt _ (by decide))
  · simp only [andVal, Iss.a_note, Iss.b_note]
  · exact BitVec.ofNat_and
  · simp only [orVal, Iss.a_note, Iss.b_note]
  · exact BitVec.ofNat_or
  · simp only [xorVal, Iss.a_note, Iss.b_note]
  · exact BitVec.ofNat_xor
  · simp only [notVal, Iss.a_note]
  · have ha := x.a_lt (warpOf x s) l
    apply BitVec.eq_of_toNat_eq
    rw [BitVec.toNat_not, toNat_ofNat_of_lt ha, notVal, toNat_ofNat_of_lt (by omega)]

/-! ### Exact products, clamps and 64-bit sums (R234, R236) -/

theorem Iss.byTy_signed {x : Iss} (hty : x.f.ty = 2#4) (a : Nat) : x.byTy a = (BitVec.ofNat 32 a).toInt := by
  rw [Iss.byTy, if_pos hty, signed_eq_toInt]

theorem ofNat_clamp {x : Iss} (hty : x.f.ty = 2#4) (z : Int) :
    BitVec.ofNat 32 (x.clamp z) = BitVec.ofInt 32 (max (-2147483648) (min 2147483647 z)) := by
  rw [Iss.clamp, if_pos hty]
  rcases Int.lt_or_le 2147483647 z with hz | hz
  · rw [if_pos hz, min_eq_left hz.le]; rfl
  · rw [if_neg (Int.not_lt.mpr hz), min_eq_right hz]
    rcases Int.lt_or_le z (-2147483648) with hn | hn
    · rw [if_pos hn, max_eq_left hn.le]; rfl
    · rw [if_neg (Int.not_lt.mpr hn), max_eq_right hn, ofNat_wrap]

/-- The high word of a 64-bit value is the quotient by 2^32, modulo 2^32. -/
theorem ofNat_wrap64_high (z : Int) : BitVec.ofNat 32 (wrap 64 z / 2 ^ 32) = BitVec.ofInt 32 (z / 4294967296) := by
  rw [← ofNat_wrap]
  congr 1
  unfold wrap; omega

theorem Warp.pair_eq_of_get {w : Warp} {r : RegRef} {l v : Nat} (hv : v < 2 ^ 64) (h0 : w.get r l = BitVec.ofNat 32 v)
    (h1 : w.get (r.plus 1) l = BitVec.ofNat 32 (v / 2 ^ 32)) : w.pair r l = v := by
  simp only [Warp.pair, Warp.getRun, h0, h1, BitVec.toNat_ofNat]
  omega

/-- What a lane that computes reads in the pair that rd names, once every such lane has written it (R209, R210). -/
theorem Iss.pair_writeLanes_exec (x : Iss) (w u : Warp) (val : Nat → Nat) {n al : Nat} (hrd : x.g.rd = .v n al) {l : Nat} (hl : l ∈ x.exec u)
    (hv : val l < 2 ^ 64) : (w.writeLanes x.rd 2 val (x.exec u)).pair x.rd l = val l := by
  unfold Iss.exec at hl ⊢
  cases hu : x.f.uf with
  | false =>
    simp only [hu, Bool.false_eq_true, if_false] at hl ⊢
    have hrdv : x.rd = .v x.f.rd.toNat := by unfold Iss.rd; rw [hu, hrd]; rfl
    have hget := fun j => Warp.get_writeLanes_v w x.f.rd.toNat j 2 l val _ (lanes_nodup (x.part u)) (fun _ => lt_of_mem_lanes) (lt_of_mem_lanes hl)
    rw [hrdv]
    refine Warp.pair_eq_of_get hv ?_ ?_
    · rw [hget, if_pos ⟨Nat.le_refl _, by omega, hl⟩, Nat.sub_self]; simp
    · rw [RegRef.plus, hget, if_pos ⟨by omega, by omega, hl⟩, Nat.add_sub_cancel_left]
  | true =>
    simp only [hu, if_true] at hl ⊢
    have hrds : x.rd = .s x.f.rd.toNat := by unfold Iss.rd; rw [hu, hrd]; rfl
    cases hls : lanes (x.part u) with
    | nil => rw [hls] at hl; exact absurd hl (by simp)
    | cons a t =>
      rw [hls, List.take_succ_cons, List.take_zero, List.mem_singleton] at hl
      subst hl
      rw [hrds, List.take_succ_cons, List.take_zero, Warp.writeLanes, Warp.writeLanes]
      refine Warp.pair_eq_of_get hv ?_ ?_
      · rw [Warp.get_putRun_s, if_pos ⟨Nat.le_refl _, by omega⟩, Nat.sub_self]; simp
      · rw [RegRef.plus, Warp.get_putRun_s, if_pos ⟨by omega, by omega⟩, Nat.add_sub_cancel_left]

theorem Warp.pair_congr {w u : Warp} (h : ∀ r l, u.get r l = w.get r l) (r : RegRef) (l : Nat) : u.pair r l = w.pair r l :=
  Warp.getRun_congr _ _ h r l 2

/-- The two-register results, computed from the operands before the instruction. -/
theorem writesPair_of_val {i : Instr} {s : State} {x : Iss} (h : Executes i s x) {val : Iss → Warp → Nat → Nat} {v : Nat → Nat}
    (hexec : exec i s = runCore i (laneOp 2 val) s) {n al : Nat} (hrd : x.g.rd = .v n al)
    (hv : ∀ l, val x (warpOf x (x.note s)) l = v l) (hlt : ∀ l, v l < 2 ^ 64) : writesPair i s x v := by
  obtain ⟨w, hrun, -, -, hget⟩ := runCore_laneOp h 2 val
  refine ⟨w, hexec.trans hrun, fun l hl => ?_⟩
  rw [Warp.pair_congr hget, Iss.pair_writeLanes_exec x _ _ _ hrd (by rwa [Iss.exec_note]) (by rw [hv]; exact hlt l), hv]

/-- Settles O4: under .i32 the operands are read as signed integers, and each row's value is the exact result clamped or cut to its width. -/
theorem exactProductsAndSaturation : Obligations.ExactProductsAndSaturation := by
  unfold Obligations.ExactProductsAndSaturation
  intro f s x hty
  refine ⟨fun h hrm => ?_, fun h => ?_, fun h => ?_, fun h himm => ?_⟩
  · refine writesLane_of_val h rfl (by rw [issOf_sig h.holds rfl]; rfl) (fun l => ?_) (fun l => ?_)
    · simp only [iaddVal, Iss.a_note, Iss.b_note]
    · rw [iaddVal, if_pos hrm, ofNat_clamp hty, Iss.byTy_signed hty, Iss.byTy_signed hty]
  · refine writesLane_of_val h rfl (by rw [issOf_sig h.holds rfl]; rfl) (fun l => ?_) (fun l => ?_)
    · simp only [imulhVal, Iss.a_note, Iss.b_note]
    · rw [imulhVal, ofNat_wrap64_high, Iss.byTy_signed hty, Iss.byTy_signed hty]
  · refine writesPair_of_val h rfl (by rw [issOf_sig h.holds rfl]) (fun l => ?_) (fun l => wrap_lt 64 _)
    simp only [Iss.a_note, Iss.b_note, Iss.c64_note, Iss.byTy_signed hty]
    rfl
  · refine writesPair_of_val h rfl (by rw [issOf_sig h.holds rfl]) (fun l => ?_) (fun l => wrap_lt 64 _)
    simp only [leaVal, if_pos himm, Iss.a64_note, Iss.b_note, Iss.byTy_signed hty, Nat.cast_pow, Nat.cast_ofNat]
    rfl

/-! ### Comparisons, selections and votes (R208, R237, R238) -/

/-- What a predicate instruction writes to the predicate that rd names (R208, R209). -/
theorem writesPred_of_predOp {i : Instr} {s : State} {x : Iss} (h : Executes i s x) {val : Iss → Warp → Nat → Bool} {v : Nat → Bool}
    (hexec : exec i s = runCore i (predOp val) s) (hv : ∀ l, (x.part (warpOf x s)).getLsbD l = true → val x (warpOf x (x.note s)) l = v l) :
    writesPred i s x v := by
  obtain ⟨w, hrun, -, -, hpred⟩ := runCore_predOp h val
  refine ⟨w, hexec.trans hrun, fun h15 h14 l hl => ?_⟩
  have hdef : (warpOf x (x.note s)).deferred = (warpOf x s).deferred := by rw [Iss.note_eq]
  rw [hpred, Warp.pred_putPred, Iss.part_issued, hdef, if_pos ⟨rfl, h15, h14, hl⟩, getLsbD_filterMask _ _ _ (lt_of_mem_lanes ((mem_lanes _ _).mpr hl)), hl,
    Bool.true_and, hv l hl]

theorem Iss.predOf_note (x : Iss) (s : State) (p : Nat) : (warpOf x (x.note s)).pred p = (warpOf x s).pred p := funext fun l => Iss.pred_note x s p l

/-- The modifiers of what executes hold legal values (R205). -/
theorem executes_mods {i : Instr} {s : State} {x : Iss} (h : Executes i s x) : x.g.mods = true := by
  have hf := executes_fieldsOk h
  unfold fieldsOk at hf
  split at hf
  · cases hf
  · simp only [Bool.and_eq_true] at hf
    exact hf.1.1.1.1.1.1.1.1.1.2

/-- The codes of ICMP are those of the six comparisons (R208). -/
theorem icmp_code {f : Form64} {s : State} {x : Iss} (h : Executes (.icmp f) s x) : x.f.c3.toNat ≤ 5 := by
  have hm := executes_mods h
  rw [issOf_sig h.holds rfl, ← issOf_form h.holds rfl] at hm
  simp only [modsIn, among, Bool.and_eq_true, List.contains_iff_mem, List.mem_cons, List.not_mem_nil, or_false] at hm
  omega

/-- Settles O5: the values that ICMP, ISEL, PGATH.mask and PMOV compute from the warp before the instruction. -/
theorem comparesSelectionsAndVotes : Obligations.ComparesSelectionsAndVotes := by
  unfold Obligations.ComparesSelectionsAndVotes
  refine ⟨fun f s x h hty => ?_, fun f s x => ⟨fun h himm => ?_, fun h hc3 => ?_, fun h => ?_⟩⟩
  · refine writesPred_of_predOp h rfl fun l _ => ?_
    simp only [icmpVal, Iss.a_note, Iss.b_note, Iss.byTy_signed hty]
    have hcode := icmp_code h
    generalize x.f.c3.toNat = k at hcode ⊢
    interval_cases k <;> rfl
  · refine writesLane_of_val h rfl (by rw [issOf_sig h.holds rfl]) (fun l => ?_) (fun l => ?_)
    · simp only [Iss.a_note, Iss.b_note, Iss.pred_note]
    · rw [Iss.a, Iss.b, if_pos himm]
      split <;> rw [BitVec.ofNat_toNat, BitVec.setWidth_eq]
  · refine writesLane_of_val h rfl (by rw [issOf_sig h.holds rfl]) (fun l => ?_) (fun l => ?_)
    · simp only [pgathVal, Iss.part_issued, Iss.predOf_note]
    · simp only [pgathVal, hc3]
      exact (BitVec.ofNat_toNat 32 _).trans (BitVec.setWidth_eq _)
  · exact writesPred_of_predOp h rfl fun l _ => by simp only [Iss.pred_note]

end Sys2Proof.Machine
end

section
/-! SUPPORT. Transfers of control and the instructions that move their entry alone: BRA, BRX, CALL, CALLX, RET, NOP, RECONV, YIELD, PRIO and EXIT
(R19, R24, R226 to R230, R232). -/

namespace Sys2Proof.Machine

open Safety

/-! ### Effects that complete -/

/-- An effect that places its frontier itself. -/
theorem runCore_placed {i : Instr} {s : State} {x : Iss} (h : Executes i s x) (eff : Iss → State → Res) (t : State)
    (he : eff x (x.note s) = .placed t) : runCore i eff s = .next t := by
  rw [runCore_executes h, he]
  rfl

/-- A done effect that changes the issuing warp alone leaves a state that differs from the one before in that warp alone, and there in its frontier. -/
theorem after_frontier {i : Instr} {s : State} {x : Iss} (h : Executes i s x) (w' : Warp) (go : SMap (Option Nat))
    (hf : w'.frontier = (warpOf x (x.note s)).frontier) :
    ∃ fr, after x { s := s.setWarp x.core x.slot w', go := go } = s.setWarp x.core x.slot { w' with frontier := fr } := by
  have hentry : ((s.setWarp x.core x.slot w').warp x.core x.slot).entry x.idx =
      some { x.e with age := 0, state := .ready, cause := none, fresh := true } := by
    have he := Iss.entry_note h
    unfold Warp.entry at he ⊢
    rw [State.setWarp_warp_self, hf, he]
  obtain ⟨fr, hfr⟩ := Out.finish_frontier { s := s.setWarp x.core x.slot w', go := go } x.core x.slot x.idx x.len _ hentry rfl
  refine ⟨fr, ?_⟩
  have hheal : x.heal (s.setWarp x.core x.slot w') = s.setWarp x.core x.slot w' := Iss.heal_clean x _ h.clean
  simp only [after, hheal, Res.finish, hfr, State.setWarp_setWarp, State.setWarp_warp_self]

/-! ### BRA and BRX (R226, R228) -/

/-- Register targets that are all even and below 2^57 pass the check of R228. -/
theorem Iss.badTargets_none {x : Iss} {s : State}
    (ht : ∀ l, (x.part (warpOf x s)).getLsbD l = true → x.a64 (warpOf x s) l % 2 = 0 ∧ x.a64 (warpOf x s) l < 2 ^ 57) :
    x.badTargets (x.note s) = none := by
  have hfail : x.failing (warpOf x (x.note s)) = 0#32 := by
    rw [Iss.failing_note]
    refine BitVec.eq_of_getLsbD_eq fun k _ => ?_
    rw [BitVec.getLsbD_zero, Bool.eq_false_iff]
    intro hk
    obtain ⟨hpart, hbad⟩ := (Iss.getLsbD_failing _ _ _).mp hk
    have := ht k hpart
    omega
  have hlow : lowestLane (filterMask (x.part ((x.note s).warp x.core x.slot))
      (fun l => (targetCause (x.a64 ((x.note s).warp x.core x.slot) l)).isSome)) = none := by
    change lowestLane (x.failing (warpOf x (x.note s))) = none
    rw [hfail]
    rfl
  unfold Iss.badTargets
  simp only [hlow]

/-- Settles O7: a transfer moves the lanes of its entry to their goals and changes the frontier alone; BRX transfers once its targets pass their check. -/
theorem branchesGoToTheirTargets : Obligations.BranchesGoToTheirTargets := by
  unfold Obligations.BranchesGoToTheirTargets
  refine fun f s x => ⟨fun h hroom => ?_, fun ts h ht hts hroom => ?_⟩
  · exact transfer_moves h _ (fun _ => x.target) [x.target, x.pc + x.len] rfl (fun l _ => by split <;> simp) (by simpa using hroom)
  · refine transfer_moves h _ (x.a64 (warpOf x s)) ts ?_ hts hroom
    have hgoal : x.a64 (warpOf x (x.note s)) = x.a64 (warpOf x s) := funext (Iss.a64_note x s)
    rw [Iss.badTargets_none ht, Option.getD_none, ← hgoal]
    rfl

/-! ### CALL and CALLX (R226, R227) -/

/-- A call whose spills all translate pushes in every participating lane and transfers. -/
theorem callTo_clear (target : Iss → Warp → Nat → Nat) (x : Iss) (s : State)
    (hf : x.spillFaults s .store spillIdx (lanes (x.part (warpOf x s))) = []) :
    callTo target x s = .done { s := x.pushEach s (s.ctxOf x.core x.slot) (x.pc + x.len) (lanes (x.part (warpOf x s))),
                                go := goEach (target x (warpOf x s)) (lanes (x.part (warpOf x s))) } := by
  have hf' : x.spillFaults s .store spillIdx (lanes (x.part (s.warp x.core x.slot))) = [] := hf
  have hall : ∀ m : LaneMask, m &&& ~~~maskOf (([] : List (Nat × Nat × Xlat)).map Prod.fst) = m := fun m => BitVec.and_allOnes
  unfold callTo Iss.withSpill
  simp only [hf', List.filter_nil, hall]
  rfl

/-- The warp once a lane has pushed an address without spilling. -/
def Warp.pushLane (ret : Nat) (w : Warp) (l : Nat) : Warp :=
  { w with rstack := SMap.set [] w.rstack l (ret :: SMap.get [] w.rstack l), depth := SMap.set 0 w.depth l (SMap.get 0 w.depth l + 1) }

/-- A lane that holds fewer than sixteen addresses pushes without spilling. -/
theorem State.push_unspilled (s : State) (c slot cx l ret insn len pc : Nat) (h : (SMap.get [] (s.warp c slot).rstack l).length < 16) :
    s.push c slot cx l ret insn len pc = s.setWarp c slot ((s.warp c slot).pushLane ret l) := by
  have hidx : spillIdx (s.warp c slot) l = [] := if_pos h
  unfold State.push
  simp only [hidx]
  rfl

/-- Listed lanes that hold fewer than sixteen addresses each push in turn. -/
theorem Iss.pushEach_unspilled (x : Iss) (cx ret : Nat) (ls : List Nat) (hd : ls.Nodup) (s : State) (w : Warp)
    (h : ∀ l ∈ ls, (SMap.get [] w.rstack l).length < 16) :
    x.pushEach (s.setWarp x.core x.slot w) cx ret ls = s.setWarp x.core x.slot (ls.foldl (Warp.pushLane ret) w) := by
  induction ls generalizing w with
  | nil => rfl
  | cons l t ih =>
    obtain ⟨hl, ht⟩ := List.nodup_cons.mp hd
    rw [Iss.pushEach, State.push_unspilled _ _ _ _ _ _ _ _ _ (by rw [State.setWarp_warp_self]; exact h l List.mem_cons_self),
      State.setWarp_warp_self, State.setWarp_setWarp, ih ht _ fun k hk => ?_]
    · rfl
    · have hne : k ≠ l := fun he => hl (he ▸ hk)
      simp only [Warp.pushLane, SMap.get_set_ne _ _ _ hne]
      exact h k (List.mem_cons_of_mem _ hk)

/-- Pushes change the return stacks and their depths alone. -/
theorem foldl_pushLane_eq (ret : Nat) (ls : List Nat) (w : Warp) :
    ls.foldl (Warp.pushLane ret) w = { w with rstack := (ls.foldl (Warp.pushLane ret) w).rstack, depth := (ls.foldl (Warp.pushLane ret) w).depth } := by
  induction ls generalizing w with
  | nil => rfl
  | cons l t ih => rw [List.foldl_cons, ih]; rfl

/-- Each listed lane has one address more. -/
theorem foldl_pushLane_get (ret : Nat) (ls : List Nat) (hd : ls.Nodup) (w : Warp) (l : Nat) :
    SMap.get [] (ls.foldl (Warp.pushLane ret) w).rstack l = (if l ∈ ls then [ret] else []) ++ SMap.get [] w.rstack l ∧
      SMap.get 0 (ls.foldl (Warp.pushLane ret) w).depth l = (if l ∈ ls then 1 else 0) + SMap.get 0 w.depth l := by
  induction ls generalizing w with
  | nil => simp
  | cons k t ih =>
    obtain ⟨hk, ht⟩ := List.nodup_cons.mp hd
    obtain ⟨ih1, ih2⟩ := ih ht (w.pushLane ret k)
    rw [List.foldl_cons, ih1, ih2]
    by_cases hlk : l = k
    · subst hlk
      simp only [Warp.pushLane, SMap.get_set_self, if_neg hk, List.mem_cons_self, if_true]
      exact ⟨rfl, by omega⟩
    · simp only [Warp.pushLane, SMap.get_set_ne _ _ _ hlk, List.mem_cons, hlk, false_or]
      exact ⟨trivial, trivial⟩

/-- What CALL and CALLX come to, with every target good. -/
theorem exec_call {i : Instr} {f : Form64} {s : State} {x : Iss} {goal : Nat → Nat} (h : Executes i s x)
    (hi : i = .call f ∧ goal = (fun _ => x.target) ∨ i = .callx f ∧ goal = x.a64 (warpOf x s) ∧
      ∀ l, (x.part (warpOf x s)).getLsbD l = true → x.a64 (warpOf x s) l % 2 = 0 ∧ x.a64 (warpOf x s) l < 2 ^ 57)
    (hf : x.spillFaults (x.note s) .store spillIdx (lanes (x.part (warpOf x s))) = []) :
    exec i s = .next (after x { s := x.pushEach (x.note s) (s.ctxOf x.core x.slot) (x.pc + x.len) (lanes (x.part (warpOf x s))),
                                go := goEach goal (lanes (x.part (warpOf x s))) }) := by
  have hclear : ∀ target : Iss → Warp → Nat → Nat, callTo target x (x.note s) = .done
      { s := x.pushEach (x.note s) (s.ctxOf x.core x.slot) (x.pc + x.len) (lanes (x.part (warpOf x s))),
        go := goEach (target x (warpOf x (x.note s))) (lanes (x.part (warpOf x s))) } := by
    intro target
    rw [callTo_clear target x (x.note s) (by rwa [Iss.part_issued]), Iss.part_issued, Iss.ctxOf_note]
  rcases hi with ⟨rfl, rfl⟩ | ⟨rfl, rfl, ht⟩
  · exact runCore_done h _ _ (hclear _)
  · refine runCore_done h _ _ ?_
    rw [Iss.badTargets_none ht, Option.getD_none, hclear, show x.a64 (warpOf x (x.note s)) = x.a64 (warpOf x s) from funext (Iss.a64_note x s)]

/-- Settles O9: without a spill each push only lengthens its lane's stack. -/
theorem callPushesAndTransfers : Obligations.CallPushesAndTransfers := by
  unfold Obligations.CallPushesAndTransfers
  refine fun i f s x goal hi h hf => ⟨exec_call h hi hf, fun hfew => ?_⟩
  let w' := (lanes (x.part (warpOf x s))).foldl (Warp.pushLane (x.pc + x.len)) (warpOf x (x.note s))
  have hw' := foldl_pushLane_eq (x.pc + x.len) (lanes (x.part (warpOf x s))) (warpOf x (x.note s))
  have hstack : (warpOf x (x.note s)).rstack = (warpOf x s).rstack := by rw [Iss.note_eq]
  have hdepth : (warpOf x (x.note s)).depth = (warpOf x s).depth := by rw [Iss.note_eq]
  have hpush := Iss.pushEach_unspilled x (s.ctxOf x.core x.slot) (x.pc + x.len) _ (lanes_nodup (x.part (warpOf x s))) s (warpOf x (x.note s))
    (fun l _ => by rw [hstack]; exact hfew l)
  have hnote : s.setWarp x.core x.slot (warpOf x (x.note s)) = x.note s := by rw [← Iss.note_setWarp]; exact Iss.withWarp_self x s
  rw [hnote] at hpush
  have hfront := congrArg Warp.frontier hw'
  obtain ⟨fr, hafter⟩ := after_frontier h w' (goEach goal (lanes (x.part (warpOf x s)))) hfront
  refine ⟨{ w' with frontier := fr }, by rw [exec_call h hi hf, hpush, hafter], ?_, fun l => ?_⟩
  · have hn := Iss.note_eq x s
    change _ = { warpOf x s with rstack := w'.rstack, depth := w'.depth, frontier := fr, lastIssue := w'.lastIssue, busy := w'.busy, tx := w'.tx }
    rw [show w' = _ from hw', hn]
  · have hget := foldl_pushLane_get (x.pc + x.len) _ (lanes_nodup (x.part (warpOf x s))) (warpOf x (x.note s)) l
    simp only [mem_lanes, hstack, hdepth] at hget
    exact hget

/-! ### RET (R226, R227) -/

/-- No lane's pop is refused, parks or waits. -/
def popsClear (ps : List (Nat × Except Got (List Nat))) : Prop := ∀ p ∈ ps, popTrap p.2 = none ∧ popPark p.2 = none ∧ popHeld p.2 = false

/-- RET whose pops are clear pops and transfers. -/
theorem exec_ret {f : Form64} {s u : State} {x : Iss} {ps : List (Nat × Except Got (List Nat))} (h : Executes (.ret f) s x)
    (hps : x.popEach (x.note s) (s.ctxOf x.core x.slot) (lanes (x.part (warpOf x s))) = (ps, u)) (hclear : popsClear ps) :
    exec (.ret f) s = .next (after x { s := (ps.foldl (fun s p => s.popLane x.core x.slot p) u).exitLanes x.core x.slot (popExits ps),
                                       go := sortGo (popGo ps), exits := popExits ps }) := by
  have hps' : x.popEach (x.note s) ((x.note s).ctxOf x.core x.slot) (lanes (x.part ((x.note s).warp x.core x.slot))) = (ps, u) := by
    rw [Iss.ctxOf_note, ← hps]
    exact congrArg (fun m => x.popEach (x.note s) (s.ctxOf x.core x.slot) (lanes m)) (Iss.part_issued x s)
  have htraps : ps.filterMap (fun p => (popTrap p.2).map (fun i => (p.1, i))) = [] :=
    List.filterMap_eq_nil_iff.mpr fun p hp => by rw [(hclear p hp).1]; rfl
  have hparks : ps.filterMap (fun p => (popPark p.2).map (fun i => (p.1, i))) = [] :=
    List.filterMap_eq_nil_iff.mpr fun p hp => by rw [(hclear p hp).2.1]; rfl
  have hheld : ps.any (fun p => popHeld p.2) = false := List.any_eq_false.mpr fun p hp => by rw [(hclear p hp).2.2]; exact Bool.false_ne_true
  refine runCore_done h _ _ ?_
  unfold retEff
  simp only [hps', htraps, hparks, hheld, Bool.false_eq_true, if_false, List.map_nil, maskOf, if_true, List.append_nil]

/-- A lane that holds an address pops from what it holds. -/
theorem State.heldReturns_held {s : State} {c slot cx l : Nat} (hd : SMap.get 0 (s.warp c slot).depth l ≠ 0)
    (hs : SMap.get [] (s.warp c slot).rstack l ≠ []) : s.heldReturns c slot cx l = (.ok (SMap.get [] (s.warp c slot).rstack l), s) := by
  unfold State.heldReturns
  simp only [if_neg hd]

/-- The pops of lanes that hold the addresses `held`. -/
def heldPops (held : Nat → List Nat) (ls : List Nat) : List (Nat × Except Got (List Nat)) := ls.map (fun l => (l, .ok (held l)))

theorem Iss.popEach_held (x : Iss) (s : State) (cx : Nat) (ls : List Nat)
    (h : ∀ l ∈ ls, SMap.get 0 (warpOf x s).depth l ≠ 0 ∧ SMap.get [] (warpOf x s).rstack l ≠ []) :
    x.popEach s cx ls = (heldPops (fun l => SMap.get [] (warpOf x s).rstack l) ls, s) := by
  induction ls with
  | nil => rfl
  | cons l t ih =>
    obtain ⟨hd, hs⟩ := h l List.mem_cons_self
    simp only [Iss.popEach, State.heldReturns_held (s := s) (c := x.core) (slot := x.slot) hd hs, ih fun k hk => h k (List.mem_cons_of_mem _ hk)]
    rfl

/-- The warp once a lane has popped the newest of the addresses that it held. -/
def Warp.popTo (held : Nat → List Nat) (w : Warp) (l : Nat) : Warp :=
  { w with rstack := SMap.set [] w.rstack l (held l).tail, depth := SMap.set 0 w.depth l (SMap.get 0 w.depth l - 1) }

/-- Pops of lanes that hold addresses, in a state that differs in the issuing warp alone. -/
theorem foldl_popLane_held (x : Iss) (s : State) (held : Nat → List Nat) (ls : List Nat) (h : ∀ l ∈ ls, held l ≠ []) (w : Warp) :
    (heldPops held ls).foldl (fun s p => s.popLane x.core x.slot p) (s.setWarp x.core x.slot w) =
      s.setWarp x.core x.slot (ls.foldl (Warp.popTo held) w) := by
  induction ls generalizing w with
  | nil => rfl
  | cons l t ih =>
    have hpop : (s.setWarp x.core x.slot w).popLane x.core x.slot (l, .ok (held l)) = s.setWarp x.core x.slot (w.popTo held l) := by
      obtain ⟨a, r, har⟩ := List.exists_cons_of_ne_nil (h l List.mem_cons_self)
      simp only [State.popLane, Warp.popTo, har, State.setWarp_warp_self, State.setWarp_setWarp, List.tail_cons]
    rw [heldPops, List.map_cons, List.foldl_cons, hpop, List.foldl_cons]
    exact ih (fun k hk => h k (List.mem_cons_of_mem _ hk)) _

/-- Pops change the return stacks and their depths alone. -/
theorem foldl_popTo_eq (held : Nat → List Nat) (ls : List Nat) (w : Warp) :
    ls.foldl (Warp.popTo held) w = { w with rstack := (ls.foldl (Warp.popTo held) w).rstack, depth := (ls.foldl (Warp.popTo held) w).depth } := by
  induction ls generalizing w with
  | nil => rfl
  | cons l t ih => rw [List.foldl_cons, ih]; rfl

/-- Each listed lane has one address less. -/
theorem foldl_popTo_get (held : Nat → List Nat) (ls : List Nat) (hd : ls.Nodup) (w : Warp) (l : Nat) :
    SMap.get [] (ls.foldl (Warp.popTo held) w).rstack l = (if l ∈ ls then (held l).tail else SMap.get [] w.rstack l) ∧
      SMap.get 0 (ls.foldl (Warp.popTo held) w).depth l = SMap.get 0 w.depth l - (if l ∈ ls then 1 else 0) := by
  induction ls generalizing w with
  | nil => simp
  | cons k t ih =>
    obtain ⟨hk, ht⟩ := List.nodup_cons.mp hd
    obtain ⟨ih1, ih2⟩ := ih ht (w.popTo held k)
    rw [List.foldl_cons, ih1, ih2]
    by_cases hlk : l = k
    · subst hlk
      simp only [Warp.popTo, SMap.get_set_self, if_neg hk, List.mem_cons_self, if_true]
      exact ⟨trivial, rfl⟩
    · simp only [Warp.popTo, SMap.get_set_ne _ _ _ hlk, List.mem_cons, hlk, false_or]
      exact ⟨trivial, trivial⟩

/-- Where lanes that hold addresses go. -/
theorem popGo_held (held : Nat → List Nat) (ls : List Nat) (h : ∀ l ∈ ls, held l ≠ []) :
    popGo (heldPops held ls) = ls.map (fun l => (l, some ((held l).headD 0))) := by
  induction ls with
  | nil => rfl
  | cons l t ih =>
    obtain ⟨a, r, har⟩ := List.exists_cons_of_ne_nil (h l List.mem_cons_self)
    have ih := ih fun k hk => h k (List.mem_cons_of_mem _ hk)
    unfold popGo heldPops at ih ⊢
    simp only [List.map_cons, List.filterMap_cons, har, ih, List.headD_cons]

/-- Lanes that hold addresses do not exit. -/
theorem popExits_held (held : Nat → List Nat) (ls : List Nat) (h : ∀ l ∈ ls, held l ≠ []) : popExits (heldPops held ls) = 0#32 := by
  unfold popExits
  refine congrArg maskOf (a₂ := []) (List.filterMap_eq_nil_iff.mpr fun p hp => ?_)
  obtain ⟨l, hl, rfl⟩ := List.mem_map.mp hp
  obtain ⟨a, r, har⟩ := List.exists_cons_of_ne_nil (h l hl)
  simp only [har]

/-- Gathered moves, read at a lane. -/
theorem get_sortGo_map (f : Nat → Nat) (ls : List Nat) (l : Nat) :
    SMap.get none (sortGo (ls.map (fun l => (l, some (f l))))) l = if l ∈ ls then some (f l) else none := by
  have key : ∀ acc : SMap (Option Nat), SMap.get none ((ls.map (fun l => (l, some (f l)))).foldl (fun acc x => SMap.set none acc x.1 x.2) acc) l =
      if l ∈ ls then some (f l) else SMap.get none acc l := by
    induction ls with
    | nil => intro acc; rfl
    | cons k t ih =>
      intro acc
      rw [List.map_cons, List.foldl_cons, ih, SMap.get_set]
      by_cases hlk : l = k <;> simp [hlk]
  exact key []

/-- Pops of lanes whose newest addresses are even and below 2^57 are clear. -/
theorem heldPops_clear (held : Nat → List Nat) (ls : List Nat)
    (h : ∀ l ∈ ls, held l ≠ [] ∧ (held l).headD 0 % 2 = 0 ∧ (held l).headD 0 < 2 ^ 57) : popsClear (heldPops held ls) := by
  intro p hp
  obtain ⟨l, hl, rfl⟩ := List.mem_map.mp hp
  obtain ⟨hne, heven, hlt⟩ := h l hl
  obtain ⟨a, r, har⟩ := List.exists_cons_of_ne_nil hne
  rw [har, List.headD_cons] at heven hlt
  have hcause : targetCause a = none := by
    rw [targetCause_eq (by omega), if_neg (by omega), if_neg (by omega)]
  simp only [har, popTrap, hcause]
  exact ⟨rfl, rfl, rfl⟩

/-- Settles O10: the lanes that hold addresses pop from them and go to the newest. -/
theorem returnPopsAndTransfers : Obligations.ReturnPopsAndTransfers := by
  unfold Obligations.ReturnPopsAndTransfers
  refine fun f s u x ps ts h => ⟨fun hps hclear => exec_ret h hps hclear, fun hheld hts hroom => ?_⟩
  let ls := lanes (x.part (warpOf x s))
  let held := fun l => SMap.get [] (warpOf x s).rstack l
  have hin : ∀ l ∈ ls, (x.part (warpOf x s)).getLsbD l = true := fun l hl => (mem_lanes _ _).mp hl
  have hne : ∀ l ∈ ls, held l ≠ [] := fun l hl => (hheld l (hin l hl)).2.1
  have hstack : (warpOf x (x.note s)).rstack = (warpOf x s).rstack := by rw [Iss.note_eq]
  have hdepth : (warpOf x (x.note s)).depth = (warpOf x s).depth := by rw [Iss.note_eq]
  have hpops := Iss.popEach_held x (x.note s) (s.ctxOf x.core x.slot) ls fun l hl => by
    rw [hstack, hdepth]; exact ⟨(hheld l (hin l hl)).1, hne l hl⟩
  rw [hstack] at hpops
  have hclear := heldPops_clear held ls fun l hl => by
    obtain ⟨-, -, heven, hlt⟩ := hheld l (hin l hl)
    simp only [hin l hl, if_true] at heven hlt
    exact ⟨hne l hl, heven, hlt⟩
  let w' := ls.foldl (Warp.popTo held) (warpOf x (x.note s))
  have hw' := foldl_popTo_eq held ls (warpOf x (x.note s))
  have hfront := congrArg Warp.frontier hw'
  have hfold : (heldPops held ls).foldl (fun s p => s.popLane x.core x.slot p) (x.note s) = x.withWarp (x.note s) w' := by
    have := foldl_popLane_held x (x.note s) held ls hne (warpOf x (x.note s))
    rwa [show (x.note s).setWarp x.core x.slot (warpOf x (x.note s)) = x.note s from Iss.withWarp_self x s] at this
  have hgo : ∀ l, (SMap.get none (sortGo (popGo (heldPops held ls))) l).getD (x.pc + x.len) =
      if (x.part (warpOf x s)).getLsbD l then (held l).headD 0 else x.pc + x.len := by
    intro l
    rw [popGo_held held ls hne, get_sortGo_map, getD_ite]
    simp only [ls, mem_lanes]
  obtain ⟨w, hafter, hw, hlanes⟩ := after_moves h w' (sortGo (popGo (heldPops held ls))) ts hfront
    (fun l hl => by rw [hgo]; exact hts l hl) hroom
  have hexits := popExits_held held ls hne
  refine ⟨w, ?_, ?_, fun l => ?_⟩
  · rw [exec_ret h hpops hclear, hexits, hfold]
    exact congrArg Host.Outcome.next hafter
  · have hn := Iss.note_eq x s
    rw [hw, show w' = _ from hw', hn]
  · obtain ⟨hget1, hget2⟩ := foldl_popTo_get held ls (lanes_nodup _) (warpOf x (x.note s)) l
    simp only [ls, mem_lanes, hstack, hdepth] at hget1 hget2
    rw [hw]
    exact ⟨hget1, hget2, fun hl => by have := hlanes l hl; rw [hgo, hw] at this; exact this⟩

/-! ### NOP, RECONV, YIELD, PRIO and EXIT (R15, R19, R24, R230, R232) -/

/-- An entry waits for its RECONV with a lane, at an address. -/
def Entry.reconverges (l : Nat) (pc : BitVec 57) (e : Entry) : Prop :=
  e.mask.getLsbD l = true ∧ e.pc = pc ∧ e.state = .waiting ∧ e.cause = some .reconv

/-- A merge loses no waiting lane of the entries that stand. -/
theorem mergeEntry_keeps {l : Nat} {pc : BitVec 57} (e : Entry) {es : List Entry} (h : ∃ y ∈ es, y.reconverges l pc) :
    ∃ y ∈ mergeEntry e es, y.reconverges l pc := by
  induction es with
  | nil => obtain ⟨y, hy, -⟩ := h; exact absurd hy (by simp)
  | cons a t ih =>
    obtain ⟨y, hy, hw⟩ := h
    unfold mergeEntry
    split
    · rcases List.mem_cons.mp hy with rfl | hy
      · exact ⟨_, List.mem_cons_self, by simp [hw.1], hw.2⟩
      · exact ⟨y, List.mem_cons_of_mem _ hy, hw⟩
    · rcases List.mem_cons.mp hy with rfl | hy
      · exact ⟨y, List.mem_cons_self, hw⟩
      · obtain ⟨z, hz, hzw⟩ := ih ⟨y, hy, hw⟩
        exact ⟨z, List.mem_cons_of_mem _ hz, hzw⟩

/-- A merge takes in every waiting lane of the entry that merges. -/
theorem mergeEntry_adds {l : Nat} {pc : BitVec 57} {e : Entry} (he : e.reconverges l pc) (es : List Entry) :
    ∃ y ∈ mergeEntry e es, y.reconverges l pc := by
  induction es with
  | nil => exact ⟨e, List.mem_singleton.mpr rfl, he⟩
  | cons a t ih =>
    unfold mergeEntry
    split
    · rename_i hm
      simp only [Bool.and_eq_true, decide_eq_true_eq, beq_iff_eq] at hm
      obtain ⟨⟨⟨⟨⟨hpc, hstate⟩, -⟩, hcause⟩, -⟩, -⟩ := hm
      obtain ⟨hl, hpc', hwait, hrec⟩ := he
      exact ⟨_, List.mem_cons_self, by simp [hl], hpc.trans hpc', hstate, hcause.trans hrec⟩
    · obtain ⟨y, hy, hw⟩ := ih
      exact ⟨y, List.mem_cons_of_mem _ hy, hw⟩

/-- Merging the waiting entries of a frontier loses no waiting lane. -/
theorem mergeWaiting_keeps {l : Nat} {pc : BitVec 57} {e : Entry} (he : e.reconverges l pc) {f : List Entry} (hf : e ∈ f) :
    ∃ y ∈ mergeWaiting f, y.reconverges l pc := by
  have key : ∀ (f acc : List Entry), (e ∈ f ∨ ∃ y ∈ acc, y.reconverges l pc) →
      ∃ y ∈ f.foldl (fun acc e => if e.state = .waiting then mergeEntry e acc else acc ++ [e]) acc, y.reconverges l pc := by
    intro f
    induction f with
    | nil =>
      rintro acc (h | h)
      · exact absurd h (by simp)
      · exact h
    | cons a t ih =>
      intro acc h
      rw [List.foldl_cons]
      refine ih _ ?_
      rcases h with h | ⟨y, hy, hw⟩
      · rcases List.mem_cons.mp h with rfl | ht
        · exact .inr (by rw [if_pos he.2.2.1]; exact mergeEntry_adds he acc)
        · exact .inl ht
      · right
        split
        · exact mergeEntry_keeps a ⟨y, hy, hw⟩
        · exact ⟨y, List.mem_append_left _ hy, hw⟩
  exact key f [] (.inl hf)

/-- The entries put in the place of one stand in the frontier. -/
theorem Warp.mem_replaceEntry {w : Warp} {i : Nat} {es : List Entry} {e : Entry} (h : e ∈ es) : e ∈ (w.replaceEntry i es).frontier := by
  simp [Warp.replaceEntry, h]

/-- What RECONV leaves in the issuing warp. -/
theorem exec_reconv {f : Form64} {s : State} {x : Iss} (h : Executes (.reconv f) s x) :
    exec (.reconv f) s = .next (s.setWarp x.core x.slot { warpOf x (x.note s) with frontier := mergeWaiting ((warpOf x (x.note s)).replaceEntry x.idx
      [{ x.e with age := 0, state := .waiting, cause := some .reconv, fresh := true }]).frontier }) := by
  have he : ((x.note s).warp x.core x.slot).entry x.idx = _ := Iss.entry_note h
  refine runCore_placed h _ _ ?_
  simp only [Iss.waitAt, he, if_true, Iss.note_setWarp]
  rfl

/-- YIELD moves its entry past itself, ranked below every other (R24). -/
theorem exec_yield {f : Form64} {s : State} {x : Iss} (h : Executes (.yield f) s x) :
    ∃ prio w, exec (.yield f) s = .next (s.setWarp x.core x.slot w) ∧ w = { warpOf x (x.note s) with frontier := w.frontier } ∧
      w.entry x.idx = some { pc := BitVec.ofNat 57 (x.pc + x.len), prio := prio, mask := x.e.mask, fresh := true, yielded := true } := by
  have he : ((x.note s).warp x.core x.slot).entry x.idx = _ := Iss.entry_note h
  have hlt := Warp.lt_of_entry he
  let w' := (warpOf x (x.note s)).replaceEntry x.idx [{ x.e with age := 0, state := .ready, cause := none, fresh := true, yielded := true }]
  have hw' : w'.entry x.idx = some { x.e with age := 0, state := .ready, cause := none, fresh := true, yielded := true } :=
    Warp.entry_replaceEntry_one _ _ _ hlt
  have hrun : exec (.yield f) s = .next (after x { s := s.setWarp x.core x.slot w' }) := by
    refine runCore_done h _ _ ?_
    simp only [he, Iss.note_setWarp]
    rfl
  have hfin := Out.finish_advance { s := s.setWarp x.core x.slot w' } x.core x.slot x.idx x.len
    { x.e with age := 0, state := .ready, cause := none, fresh := true, yielded := true }
    (by simp only [State.setWarp_warp_self]; exact hw') rfl rfl rfl h.plain h.lanes
  have hheal : x.heal (s.setWarp x.core x.slot w') = s.setWarp x.core x.slot w' := Iss.heal_clean x _ h.clean
  simp only [after, hheal, Res.finish, hfin, State.setWarp_setWarp, State.setWarp_warp_self] at hrun
  exact ⟨_, _, hrun, Warp.replaceEntry_eq w' x.idx _, Warp.entry_replaceEntry_one _ _ _ (Warp.lt_of_entry hw')⟩

/-- Where PRIO sends a lane of its entry, and with which priority (R15, R230). -/
theorem mem_prioParts (x : Iss) (s : State) (part : LaneMask) (imm l : Nat) (hl : x.e.mask.getLsbD l = true) :
    ∃ p ∈ prioParts x s part imm, p.mask.getLsbD l = true ∧ p.pc = x.pc + x.len ∧
      p.prio = (s.prioAt (s.ctxOf x.core x.slot) x.pc (x.pc + x.len) (if part.getLsbD l then BitVec.ofNat 8 imm else x.e.prio)).toNat := by
  have hlt : l < 32 := lt_of_mem_lanes ((mem_lanes _ _).mpr hl)
  have hne : ∀ m : LaneMask, m.getLsbD l = true → m ≠ 0#32 := by rintro m hm rfl; simp at hm
  unfold prioParts
  by_cases hp : part.getLsbD l = true
  · exact ⟨_, List.mem_append_left _ (by rw [if_neg (hne _ hp)]; exact List.mem_singleton.mpr rfl), hp, rfl, by rw [if_pos hp]⟩
  · have hrest : (x.e.mask &&& ~~~part).getLsbD l = true := by
      rw [BitVec.getLsbD_and, BitVec.getLsbD_not, Bool.eq_false_iff.mpr hp, hl]
      simp [hlt]
    exact ⟨_, List.mem_append_right _ (by rw [if_neg (hne _ hrest)]; exact List.mem_singleton.mpr rfl), hrest, rfl, by rw [if_neg hp]⟩

theorem prioParts_length (x : Iss) (s : State) (part : LaneMask) (imm : Nat) : (prioParts x s part imm).length ≤ 2 := by
  unfold prioParts
  rw [List.length_append]
  split <;> split <;> simp

/-- PRIO with a slot for its split (R20). -/
theorem exec_prio {f : Form64} {s : State} {x : Iss} (h : Executes (.prio f) s x) (hroom : (warpOf x s).frontier.length ≤ 7) :
    exec (.prio f) s = .next (s.setWarp x.core x.slot ((warpOf x (x.note s)).replaceEntry x.idx
      ((prioParts x (x.note s) (x.part (warpOf x s)) (imm16 x.f)).map SplitPart.toEntry))) := by
  have hlen := prioParts_length x (x.note s) (x.part (warpOf x s)) (imm16 x.f)
  have hslots : (warpOf x (x.note s)).frontier.length - 1 + (prioParts x (x.note s) (x.part (warpOf x (x.note s))) (imm16 x.f)).length ≤ 8 := by
    rw [Iss.length_note h, Iss.part_issued]
    omega
  refine runCore_placed h _ _ ?_
  rw [← Iss.part_issued, ← Iss.note_setWarp]
  exact if_pos hslots

/-- Settles O12: each effect read off the entry that the instruction leaves. -/
theorem nopReconvYieldAndPrio : Obligations.NopReconvYieldAndPrio := by
  unfold Obligations.NopReconvYieldAndPrio
  refine fun f s x => ⟨fun h => ?_, fun h => ?_, fun h => ?_, fun h hroom => ?_⟩
  · obtain ⟨w, hafter, hw, hadv⟩ := after_plain h (warpOf x (x.note s)) rfl
    rw [Iss.withWarp_self] at hafter
    exact ⟨w, by rw [← hafter]; exact runCore_done h _ _ rfl, Iss.same_note x s w hw, hadv⟩
  · exact ⟨_, exec_reconv h, Iss.same_note x s _ rfl, fun l hl =>
      mergeWaiting_keeps (l := l) (pc := x.e.pc) (e := { x.e with age := 0, state := .waiting, cause := some .reconv, fresh := true })
        ⟨hl, rfl, rfl, rfl⟩ (Warp.mem_replaceEntry (List.mem_singleton.mpr rfl))⟩
  · obtain ⟨prio, w, hrun, hw, he⟩ := exec_yield h
    exact ⟨w, hrun, Iss.same_note x s w hw, _, he, rfl, rfl, rfl, rfl⟩
  · refine ⟨_, exec_prio h hroom, Iss.same_note x s _ (Warp.replaceEntry_eq _ _ _), fun l hl => ?_⟩
    obtain ⟨p, hp, hmask, hpc, hprio⟩ := mem_prioParts x (x.note s) (x.part (warpOf x s)) (imm16 x.f) l hl
    refine ⟨p.toEntry, Warp.mem_replaceEntry (List.mem_map_of_mem hp), hmask, by rw [SplitPart.toEntry, hpc], rfl, ?_⟩
    rw [SplitPart.toEntry, hprio, Iss.ctxOf_note, BitVec.ofNat_toNat, BitVec.setWidth_eq]

/-- Settles O13: EXIT is every step of R232 for the participating lanes. -/
theorem exitEndsItsLanes : Obligations.ExitEndsItsLanes := by
  unfold Obligations.ExitEndsItsLanes
  intro f s x h
  rw [← Iss.part_issued]
  exact runCore_done h _ _ rfl

end Sys2Proof.Machine
end

section
/-! SUPPORT. SRR and SRW: what the special registers read and take (R243 to R245, R352). -/

namespace Sys2Proof.Machine

open Safety

/-! ### Reads (R243) -/

/-- A run of two registers takes 64 bits of its value. -/
theorem Warp.putRun_two_mod (w : Warp) (r : RegRef) (l v : Nat) : w.putRun r l 2 (v % 2 ^ 64) = w.putRun r l 2 v := by
  have hlow : BitVec.ofNat 32 (v % 2 ^ 64) = BitVec.ofNat 32 v := BitVec.eq_of_toNat_eq (by simp only [BitVec.toNat_ofNat]; omega)
  have hhigh : BitVec.ofNat 32 (v % 2 ^ 64 / 2 ^ 32) = BitVec.ofNat 32 (v / 2 ^ 32) :=
    BitVec.eq_of_toNat_eq (by simp only [BitVec.toNat_ofNat]; omega)
  simp only [Warp.putRun, hlow, hhigh]

theorem Warp.writeLanes_two_mod (w : Warp) (r : RegRef) (val : Nat → Nat) (ls : List Nat) :
    w.writeLanes r 2 (fun l => val l % 2 ^ 64) ls = w.writeLanes r 2 val ls := by
  induction ls generalizing w with
  | nil => rfl
  | cons l t ih => simp only [Warp.writeLanes, Warp.putRun_two_mod, ih]

/-- An issue leaves the core's clock. -/
theorem Iss.clock_note (x : Iss) (s : State) : ((x.note s).core x.core).clock = (s.core x.core).clock := by
  unfold Iss.note State.setWarp
  simp

/-- An issue changes no special register. -/
theorem Iss.special_note (x : Iss) (s : State) (n l : Nat) : x.special (x.note s) n l = x.special s n l := by
  have hw : (x.note s).warp x.core x.slot = _ := Iss.note_eq x s
  unfold Iss.special
  simp only [Iss.groupOf_note, Iss.clock_note, hw]
  rfl

/-- The special registers of one word, with their values in a lane (R243). -/
def specialWords (x : Iss) (s : State) (l : Nat) : List (Nat × Nat) :=
  let old := warpOf x s; let g := s.groupOf x.core x.slot
  [(0x000, l), (0x001, x.slot), (0x002, old.windex), (0x003, g.slots.length), (0x004, x.core % 512),
    (0x005, coreRegion x.core % 32), (0x006, coreDie x.core), (0x007, coreModule x.core), (0x008, x.e.mask.toNat), (0x011, g.allot.sbytes),
    (0x014, old.fstat.toNat), (0x016, SMap.get 0 old.depth l), (0x100, old.privst.toNat), (0x103, old.ecause.toNat), (0x105, g.ctx % 32)]

/-- The special registers of two words, with their values (R243). -/
def specialPairs (x : Iss) (s : State) : List (Nat × Nat) :=
  let old := warpOf x s; let g := s.groupOf x.core x.slot
  [(0x010, 2 ^ 56 + x.core % 512 * 2 ^ 19 + g.stashBase), (0x012, (s.core x.core).clock.toNat), (0x013, g.tscb.toNat),
    (0x015, old.spillb.toNat), (0x101, old.tvec.toNat), (0x102, old.epc.toNat), (0x104, old.eframe.toNat)]

theorem special_of_mem_words (x : Iss) (s : State) (l : Nat) : ∀ y ∈ specialWords x s l, specialRegs y.1 = 1 ∧ x.special s y.1 l = y.2 := by
  simp [specialWords, specialRegs, specialWidth, Iss.special, warpOf]

theorem special_of_mem_pairs (x : Iss) (s : State) (l : Nat) : ∀ y ∈ specialPairs x s, specialRegs y.1 = 2 ∧ x.special s y.1 l = y.2 := by
  simp [specialPairs, specialRegs, specialWidth, Iss.special, warpOf]

/-- The issuing warp after SRR. -/
def srrWarp (x : Iss) (s : State) : Warp :=
  (warpOf x (x.note s)).writeLanes x.rd (specialRegs (imm16 x.f)) (x.special s (imm16 x.f)) (x.exec (warpOf x s))

/-- What SRR comes to. -/
theorem exec_srr {f : Form64} {s : State} {x : Iss} (h : Executes (.srr f) s x) :
    let u := (x.note s).setWarp x.core x.slot (srrWarp x s)
    exec (.srr f) s = .next (after x
      { s := if imm16 x.f = 0x013 ∧ x.part (warpOf x s) ≠ 0#32 then u.tscbAcquire x.core (warpOf x s).group (s.groupOf x.core x.slot).tscb else u }) := by
  refine runCore_done h _ _ ?_
  have hval : x.special (x.note s) (imm16 x.f) = x.special s (imm16 x.f) := funext (Iss.special_note x s _)
  rw [← Iss.part_issued, ← Iss.group_note x s, srrWarp, ← Iss.exec_note, ← hval, ← Iss.groupOf_note x s]
  rfl

/-! ### Writes (R243, R244, R352) -/

/-- A written special register changes what R243 lets SRW change, alone. -/
theorem Warp.writeSpecial_eq (w : Warp) (n v : Nat) : w.writeSpecial n v =
    { w with fstat := (w.writeSpecial n v).fstat, lostShown := (w.writeSpecial n v).lostShown, spillb := (w.writeSpecial n v).spillb,
             privst := (w.writeSpecial n v).privst, tvec := (w.writeSpecial n v).tvec, epc := (w.writeSpecial n v).epc,
             eframe := (w.writeSpecial n v).eframe } := by
  unfold Warp.writeSpecial
  split <;> rfl

/-- What each writable special register holds after a write (R243). -/
theorem Warp.writeSpecial_fields (w : Warp) (n v : Nat) :
    (w.writeSpecial n v).fstat = (if n = 0x014 then fstatWrite w.fstat v else w.fstat) ∧
    (w.writeSpecial n v).spillb = (if n = 0x015 then BitVec.ofNat 64 (v - v % 256) else w.spillb) ∧
    (w.writeSpecial n v).privst = (if n = 0x100 then privstWrite w.privst v else w.privst) ∧
    (w.writeSpecial n v).tvec = (if n = 0x101 then BitVec.ofNat 64 v else w.tvec) ∧
    (w.writeSpecial n v).epc = (if n = 0x102 then BitVec.ofNat 64 v else w.epc) ∧
    (w.writeSpecial n v).eframe = (if n = 0x104 then BitVec.ofNat 64 v else w.eframe) := by
  unfold Warp.writeSpecial
  split <;> grind

/-- The issuing warp after SRW: the lowest participating lane's value is written, if there is such a lane. -/
def srwWarp (x : Iss) (w : Warp) : Warp :=
  match lowestLane (x.part w) with
  | none => w
  | some l => w.writeSpecial (imm16 x.f) (w.getRun x.r1 l (specialRegs (imm16 x.f)))

theorem srwWarp_frontier (x : Iss) (w : Warp) : (srwWarp x w).frontier = w.frontier := by
  unfold srwWarp
  split
  · rfl
  · rw [Warp.writeSpecial_eq]

theorem srwEff_eq (x : Iss) (s : State) : srwEff x (x.note s) = .done { s := x.withWarp (x.note s) (srwWarp x (warpOf x (x.note s))) } := by
  have hw : (x.note s).warp x.core x.slot = warpOf x (x.note s) := rfl
  unfold srwEff srwWarp
  simp only [hw]
  cases lowestLane (x.part (warpOf x (x.note s))) with
  | none => simp only [Iss.withWarp_self]
  | some l => rfl

/-- Settles O16: SRR writes the listed values, computed before the issue, and SRW changes the one register that it names. -/
theorem specialRegistersReadAndWritten : Obligations.SpecialRegistersReadAndWritten := by
  unfold Obligations.SpecialRegistersReadAndWritten
  intro f s x
  refine ⟨fun h => ⟨srrWarp x s, Warp.writeLanes_eq _ _ _ _ _, fun l hl => ⟨?_, ?_⟩, exec_srr h, fun hn => ?_⟩, fun h => ?_⟩
  · intro y hy hny
    obtain ⟨hregs, hval⟩ := special_of_mem_words x s l y hy
    rw [← hny] at hregs hval
    rw [srrWarp, hregs, Iss.get_writeLanes_exec x _ _ _ (by rw [issOf_sig h.holds rfl]; rfl) hl, hval]
  · intro y hy hny
    obtain ⟨hregs, hval⟩ := special_of_mem_pairs x s l y hy
    rw [← hny] at hregs hval
    rw [srrWarp, hregs, ← Warp.writeLanes_two_mod, Iss.pair_writeLanes_exec x _ _ _ (by rw [issOf_sig h.holds rfl]; rfl) hl (Nat.mod_lt _ (by norm_num)),
      hval]
  · obtain ⟨z, hafter, hz, hadv⟩ := after_plain h (srrWarp x s) (by rw [srrWarp, Warp.writeLanes_eq])
    refine ⟨z, ?_, hz, hadv⟩
    rw [exec_srr h, if_neg fun hc => hn hc.1]
    exact congrArg Host.Outcome.next hafter
  · obtain ⟨w, hafter, hw, hadv⟩ := after_plain h (srwWarp x (warpOf x (x.note s))) (srwWarp_frontier x _)
    have hn := Iss.note_eq x s
    refine ⟨w, by rw [← hafter]; exact runCore_done h _ _ (srwEff_eq x s), hadv, fun hp => ?_, fun l hl => ?_⟩
    · have hnone : srwWarp x (warpOf x (x.note s)) = warpOf x (x.note s) := by
        unfold srwWarp
        rw [Iss.part_issued, hp]
        rfl
      rw [hnone] at hw
      exact Iss.same_note x s w hw
    · have hsome : srwWarp x (warpOf x (x.note s)) =
          (warpOf x (x.note s)).writeSpecial (imm16 x.f) ((warpOf x s).getRun x.r1 l (specialRegs (imm16 x.f))) := by
        unfold srwWarp
        rw [Iss.part_issued, hl]
        simp only [Iss.getRun_note]
      rw [hsome] at hw
      have heq := Warp.writeSpecial_eq (warpOf x (x.note s)) (imm16 x.f) ((warpOf x s).getRun x.r1 l (specialRegs (imm16 x.f)))
      refine ⟨?_, ?_⟩
      · unfold sameButIssue
        rw [hw, heq, hn]
      · rw [hw, hn]
        exact Warp.writeSpecial_fields _ _ _

end Sys2Proof.Machine
end

section
/-! SUPPORT. Loads, stores and atomics whose accesses pass every check: they complete, and what they queue, read and write (R134, R266 to R279). -/

namespace Sys2Proof.Machine

open Safety

/-! ### Instructions with per-lane addresses that complete -/

/-- An instruction with per-lane addresses whose accesses pass every check and whose effect is done. -/
theorem runCore_memory_done {i : Instr} {s t : State} {x : Iss} (h : Executes i s x) (hc : closedLanes x s) (un : Bool)
    {check : Warp → State → Nat → Reach × State} {oks : List LaneAt} (hr : reaches x s check oks t) (eff : List LaneAt → State → Res) {o : Out}
    (run : Iss → State → Res) (hrun : run x (x.note s) = x.memory (x.note s) un check eff) (he : eff oks t = .done o) :
    runCore i run s = .next (afterMemory x o) :=
  runCore_done h run _ (by rw [hrun, Iss.memory_eq x s t un check oks eff hc hr, he])

/-- The end of an effect that moves and parks no lane. -/
theorem afterMemory_plain (x : Iss) (u : State) : afterMemory x { s := u } = after x { s := u } := by
  have hpark : (0#32 ||| 0#32 : LaneMask) = 0#32 := by decide
  simp only [afterMemory, hpark]
  rfl

/-! ### Loads and stores (R134, R270) -/

/-- Lanes of no transaction read no line that an engine owns transactionally. -/
theorem Iss.txHeld_closed (x : Iss) (s : State) (n : Nat) (oks : List LaneAt) (hc : ∀ a ∈ oks, (warpOf x s).isOpen a.lane = false) :
    x.txHeld s n oks = false := by
  unfold Iss.txHeld
  refine List.any_eq_false.mpr fun a ha => ?_
  have hclosed : (s.warp x.core x.slot).isOpen a.lane = false := hc a ha
  rw [hclosed, Bool.false_and]
  exact Bool.false_ne_true

/-- A load of lanes of no transaction is done. -/
theorem Iss.loadEff_done (x : Iss) (n : Nat) (ext : Nat → Nat) (oks : List LaneAt) (s : State) (hc : ∀ a ∈ oks, (warpOf x s).isOpen a.lane = false) :
    ∃ o, x.loadEff n ext oks s = .done o := by
  unfold Iss.loadEff
  rw [x.txHeld_closed s n oks hc]
  split
  · exact ⟨_, rfl⟩
  · exact ⟨_, rfl⟩

/-- A store whose release may be made is done. -/
theorem Iss.storeEff_done (x : Iss) (n : Nat) (data : Nat → Nat) (oks : List LaneAt) (s : State) (h : mayRelease x s (relScope x.ownRel (warpOf x s)) n oks) :
    ∃ o, x.storeEff n data oks s = .done o := by
  unfold Iss.storeEff
  split
  · exact ⟨_, rfl⟩
  · exact ⟨_, Iss.releaseAt_ready x s _ n oks _ h⟩

/-- Settles O18: loads and stores whose accesses pass every check have effects that are done. -/
theorem loadsAndReleasingStoresComplete : Obligations.LoadsAndReleasingStoresComplete := by
  unfold Obligations.LoadsAndReleasingStoresComplete
  refine fun f s t x oks hc => ⟨fun h hr hclosed => ?_, fun h hr hrel => ?_⟩
  · obtain ⟨o, ho⟩ := x.loadEff_done (tyBytes x.f.ty.toNat) (extendTy x.f.ty.toNat) oks t hclosed
    exact ⟨o, ho, runCore_memory_done h hc _ hr _ _ rfl ho⟩
  · obtain ⟨o, ho⟩ := x.storeEff_done (tyBytes x.f.ty.toNat)
      (fun l => (warpOf x s).getRun x.rd l (tyRegs x.f.ty.toNat) % 2 ^ (8 * tyBytes x.f.ty.toNat)) oks t hrel
    rw [← getRun_mod_note x s x.rd (fun _ => tyRegs x.f.ty.toNat) (fun _ => tyBytes x.f.ty.toNat)] at ho
    exact ⟨o, by rw [← getRun_mod_note x s x.rd (fun _ => tyRegs x.f.ty.toNat) (fun _ => tyBytes x.f.ty.toNat)]; exact ho,
      runCore_memory_done h hc _ hr _ _ rfl ho⟩

/-- Without a pending release of a fence, a store has none to clear. -/
theorem State.clearFence_rel_none (s : State) (c slot : Nat) (h : (s.warp c slot).rel = none) : s.clearFence c slot false true = s := by
  unfold State.clearFence
  simp [h]

theorem State.clearFence_acq_none (s : State) (c slot : Nat) (h : (s.warp c slot).acq = none) : s.clearFence c slot true false = s := by
  unfold State.clearFence
  simp [h]

/-- What a store below .rg leaves where no log is full. -/
theorem Iss.storeDone_plain (x : Iss) {rel : Nat} (hrel : rel < 3) (u : State) : x.storeDone rel (u, []) = .done { s := u } := by
  unfold Iss.storeDone
  rw [if_neg (by omega)]
  rfl

/-- A store below .rg needs no release. -/
theorem Iss.releaseAt_none (x : Iss) (s : State) {rel : Nat} (hrel : rel < 3) (n : Nat) (oks : List LaneAt) (k : State → Res) :
    x.releaseAt s rel n oks k = k s := by
  rw [Iss.releaseAt_ready x s rel n oks k fun h => absurd hrel (by omega), if_neg (by omega)]

/-- Settles O20: a store that releases nothing queues its bytes, lane by lane. -/
theorem storeQueuesItsBytes : Obligations.StoreQueuesItsBytes := by
  unfold Obligations.StoreQueuesItsBytes
  intro f s t x oks n h hc hr hne hrel hnone hclosed
  have hrun := getRun_mod_note x s x.rd (fun _ => tyRegs x.f.ty.toNat) (fun _ => n)
  have heff : x.storeEff n (fun l => ((x.note s).warp x.core x.slot).getRun x.rd l (tyRegs x.f.ty.toNat) % 2 ^ (8 * n)) oks t =
      .done { s := t.setWarp x.core x.slot { warpOf x t with storeq := (warpOf x t).storeq ++ oks.map (queuedOp x (t.core x.core).clock.toNat
        (relScope x.ownRel (warpOf x t)) n (fun l => (warpOf x s).getRun x.rd l (tyRegs x.f.ty.toNat) % 2 ^ (8 * n))) } } := by
    unfold Iss.storeEff
    have hrel' : relScope x.ownRel (t.warp x.core x.slot) < 3 := hrel
    simp only [List.isEmpty_eq_false_iff.mpr hne, Bool.false_eq_true, if_false, Iss.releaseAt_none x t hrel', State.clearFence_rel_none t _ _ hnone]
    rw [storeEach_queue x _ n _ hrel' oks t hclosed, if_neg hne, Iss.storeDone_plain x hrel', hrun]
    rfl
  rw [← afterMemory_plain]
  exact runCore_memory_done h hc _ hr _ _ rfl heff

/-! ### LDX and STX (R271) -/

/-- A load through a map of lanes of no transaction is done. -/
theorem Iss.loadMapped_done (x : Iss) (size fmt : Nat → Nat) (oks : List LaneAt) (s : State) (hc : ∀ a ∈ oks, (warpOf x s).isOpen a.lane = false) :
    ∃ o, x.loadMapped size fmt oks s = .done o := by
  unfold Iss.loadMapped
  rw [x.txHeld_closed s 8 oks hc]
  split
  · exact ⟨_, rfl⟩
  · exact ⟨_, rfl⟩

/-! ### Loads that hit (R28, R95, R129) -/

/-- The L1 line of an address is the line that the address lies in. -/
theorem Core.lineFor_line (k : Core) (line : Nat) (wti : Bool) : (k.lineFor line wti).line = line := by
  unfold Core.lineFor Core.findLine
  cases hf : k.l1.find? (fun l => l.line == line) with
  | none => rfl
  | some l => simpa using List.find?_some hf

/-- Touching a line changes no sector that the L1 holds. -/
theorem Core.sector_touchLine (k : Core) (line : Nat) (wti : Bool) (pa : Nat) : (k.touchLine (k.lineFor line wti)).sector pa = k.sector pa := by
  have hline := k.lineFor_line line wti
  unfold Core.sector Core.touchLine Core.findLine
  simp only [List.find?_cons, hline]
  by_cases h : line = pa / 1024
  · subst h
    simp only [beq_self_eq_true]
    unfold Core.lineFor Core.findLine
    cases k.l1.find? (fun l => l.line == pa / 1024) <;> rfl
  · have hne : (line == pa / 1024) = false := by simpa using h
    simp only [hne]
    rw [List.find?_filter]
    have hsame : ∀ l : Line, decide ((l.line != line) = true ∧ (l.line == pa / 1024) = true) = (l.line == pa / 1024) := by
      intro l
      by_cases hl : l.line = pa / 1024
      · simp [hl, Ne.symm h]
      · simp [hl]
    simp only [hsame]

/-- A state that serves the hits of a core's L1 as another does: the warp and the sectors are the same. -/
def hitsAlike (c slot : Nat) (t u : State) : Prop := u.warp c slot = t.warp c slot ∧ ∀ pa, (u.core c).sector pa = (t.core c).sector pa

/-- The value that a load takes from the L1, under the warp's queued stores. -/
def hitValue (c slot n : Nat) (t : State) (a : LaneAt) : Nat :=
  match a.place with
  | .dom pa => overlay (t.warp c slot).storeq (.dom pa) n (((t.core c).sector pa).bytes (pa % 256) n)
  | _ => 0

/-- A lane's load hits the L1 of its core in a sector without error. -/
def hitsL1 (c slot n : Nat) (t : State) (a : LaneAt) : Prop :=
  (t.warp c slot).isOpen a.lane = false ∧ ∃ pa, a.place = .dom pa ∧ (t.core c).hits pa n = true ∧ ((t.core c).sector pa).bad = false

theorem Core.hits_congr {k k' : Core} (h : ∀ pa, k'.sector pa = k.sector pa) (pa n : Nat) : k'.hits pa n = k.hits pa n := by
  unfold Core.hits
  rw [h]

/-- A plain read that hits takes the bytes held and touches their line. -/
theorem State.l1Load_hit {s : State} {c pa n : Nat} (h : (s.core c).hits pa n = true) (wti : Bool) : s.l1Load c pa n wti =
    (((s.core c).sector pa).bytes (pa % 256) n, s.setCore c ((s.core c).touchLine ((s.core c).lineFor (pa / 1024) wti))) := if_pos h

/-- A sector without error shows none. -/
theorem State.l1Check_good {s : State} {c pa : Nat} (h : ((s.core c).sector pa).bad = false) (ctx : Nat) : s.l1Check c ctx pa = (false, s) := by
  unfold State.l1Check
  simp only [h]
  rfl

/-- Touching a line changes nothing that serves hits. -/
theorem hitsAlike_touch {c slot : Nat} {t u : State} (h : hitsAlike c slot t u) (line : Nat) (wti : Bool) :
    hitsAlike c slot t (u.setCore c ((u.core c).touchLine ((u.core c).lineFor line wti))) := by
  refine ⟨?_, fun pa => ?_⟩
  · rw [← h.1]
    unfold State.warp
    rw [State.setCore_core_self]
    rfl
  · rw [State.setCore_core_self, Core.sector_touchLine, h.2]

/-- A load that hits takes the bytes held, and leaves what serves hits as it was. -/
theorem State.loadLane_hit {c slot x n acq : Nat} {t u : State} {a : LaneAt} (hacq : acq < 3) (hu : hitsAlike c slot t u) (ha : hitsL1 c slot n t a) :
    ∃ v, u.loadLane c slot x n acq a = (.val (hitValue c slot n t a), v) ∧ hitsAlike c slot t v := by
  obtain ⟨hopen, pa, hplace, hhit, hbad⟩ := ha
  have hnext := hitsAlike_touch hu (pa / 1024) a.wti
  obtain ⟨hw, hsec⟩ := hu
  have hopen' : (u.warp c slot).isOpen a.lane = false := by rw [hw, hopen]
  have hhit' : (u.core c).hits pa n = true := by rw [Core.hits_congr hsec, hhit]
  have hcheck : u.l1Check c (x % 32) pa = (false, u) := State.l1Check_good (by rw [hsec, hbad]) _
  refine ⟨_, ?_, hnext⟩
  unfold State.loadLane State.readNow
  simp only [hopen', hplace, hhit', hacq, hcheck, decide_true, Bool.and_true, Bool.not_true, Bool.and_false, Bool.false_eq_true, if_true, if_false,
    State.readMem, State.l1Load_hit hhit', hnext.1, hitValue, hsec]

/-- What gathering the lanes of a load that hits leaves: every lane awaits its value, and nothing else is to be done. -/
structure Gather.took (g : Gather) (val : LaneAt → Nat) (oks : List LaneAt) (g' : Gather) : Prop where
  pc : g'.r.pc = g.r.pc
  dreg : g'.r.dreg = g.r.dreg
  pend : g'.r.pend = g.r.pend ||| maskAt oks
  gone : g'.gone = g.gone
  stale : g'.stale = g.stale
  parks : g'.parks = g.parks
  aborts : g'.aborts = g.aborts
  vals : ∀ a ∈ oks, SMap.get 0 g'.r.val a.lane = val a
  others : ∀ l, l ∉ oks.map (fun a => a.lane) → SMap.get 0 g'.r.val l = SMap.get 0 g.r.val l

/-- Gathering lanes whose loads hit. -/
theorem Gather.run_hits {c slot cx n acq : Nat} {t : State} (hacq : acq < 3) (ext : Nat → Nat) (b d : Nat → Nat) (oks : List LaneAt)
    (hd : (oks.map (fun a => a.lane)).Nodup) (hhit : ∀ a ∈ oks, hitsL1 c slot n t a) (g : Gather) (hg : hitsAlike c slot t g.s) :
    g.took (fun a => ext (hitValue c slot n t a)) oks (g.run (fun s a => s.loadLane c slot cx n acq a) ext b d oks) := by
  induction oks generalizing g with
  | nil => exact ⟨rfl, rfl, (BitVec.or_zero).symm, rfl, rfl, rfl, rfl, fun _ h => absurd h (by simp), fun _ _ => rfl⟩
  | cons a l ih =>
    obtain ⟨hal, hl⟩ := List.nodup_cons.mp hd
    obtain ⟨v, hv, hnext⟩ := State.loadLane_hit (x := cx) hacq hg (hhit a List.mem_cons_self)
    have hrun : g.run (fun s a => s.loadLane c slot cx n acq a) ext b d (a :: l) =
        (g.add a (.val (hitValue c slot n t a)) v ext (b a.lane) (d a.lane)).run (fun s a => s.loadLane c slot cx n acq a) ext b d l := by
      simp only [Gather.run, hv]
    have h := ih hl (fun k hk => hhit k (List.mem_cons_of_mem _ hk)) (g.add a (.val (hitValue c slot n t a)) v ext (b a.lane) (d a.lane)) hnext
    rw [hrun]
    refine ⟨h.pc, h.dreg, ?_, h.gone, h.stale, h.parks, h.aborts, fun k hk => ?_, fun k hk => ?_⟩
    · rw [h.pend]
      exact BitVec.or_assoc _ _ _
    · rcases List.mem_cons.mp hk with rfl | hk
      · rw [h.others _ hal]
        exact SMap.get_set_self _ _ _ _
      · exact h.vals k hk
    · rw [List.map_cons, List.mem_cons, not_or] at hk
      rw [h.others k hk.2]
      exact SMap.get_set_ne _ _ _ hk.1

/-- The lanes that pass their checks are lanes that were checked. -/
theorem reachOks_sublist (rs : List (Nat × Reach)) : ((reachOks rs).map (fun a => a.lane)).Sublist (rs.map Prod.fst) := by
  unfold reachOks
  induction rs with
  | nil => exact List.Sublist.slnil
  | cons r t ih =>
    rw [List.filterMap_cons, List.map_cons]
    cases hr : r.2 with
    | ok p w sa va => exact ih.cons_cons _
    | park i => exact ih.cons _
    | trap i => exact ih.cons _

theorem reachLanes_lanes (s : State) (f : State → Nat → Reach × State) (ls : List Nat) : (s.reachLanes f ls).1.map Prod.fst = ls := by
  induction ls generalizing s with
  | nil => rfl
  | cons l t ih => simp only [State.reachLanes, List.map_cons, ih]

/-- The accesses that pass every check are of different lanes. -/
theorem reaches_nodup {x : Iss} {s t : State} {check : Warp → State → Nat → Reach × State} {oks : List LaneAt} (h : reaches x s check oks t) :
    (oks.map (fun a => a.lane)).Nodup ∧ ∀ a ∈ oks, a.lane < 32 := by
  obtain ⟨rs, hrs, -, -, hoks⟩ := h
  have hfst := reachLanes_lanes (x.note s) (check (warpOf x (x.note s))) (lanes (x.part (warpOf x (x.note s))))
  rw [hrs] at hfst
  have hsub := reachOks_sublist rs
  rw [hoks, hfst] at hsub
  exact ⟨hsub.nodup (lanes_nodup _), fun a ha => lt_of_mem_lanes (hsub.subset (List.mem_map_of_mem ha))⟩

/-- Accesses of lanes below 32 have a lane. -/
theorem maskAt_ne_zero {oks : List LaneAt} (hne : oks ≠ []) (hlt : ∀ a ∈ oks, a.lane < 32) : maskAt oks ≠ 0#32 := by
  obtain ⟨a, l, rfl⟩ := List.exists_cons_of_ne_nil hne
  intro hz
  have hbit := getLsbD_maskOf ((a :: l).map (fun a => a.lane)) a.lane (hlt a List.mem_cons_self)
  rw [show maskOf ((a :: l).map (fun a => a.lane)) = 0#32 from hz] at hbit
  simp at hbit

/-- A gathered record with lanes that await their values goes under way. -/
theorem Iss.launch_pend (x : Iss) (g : Gather) (acc : Nat) (hp : g.r.pend ≠ 0#32) (hgone : g.gone = 0#32) (hstale : g.stale = 0#32)
    (hparks : g.parks = 0#32) (haborts : g.aborts = []) : ∃ (w : Warp) (tx : LaneMask) (clock : Nat), x.launch g acc =
      .done { s := g.s.setWarp x.core x.slot { w with inflight := w.inflight ++ [{ g.r with txLanes := tx, issued := clock }] } } := by
  unfold Iss.launch
  simp only [haborts, hgone, hstale, hparks, State.abortEach, if_true, List.map_nil]
  rw [if_pos hp]
  exact ⟨_, _, _, rfl⟩

/-- Settles O19: every lane of a load that hits takes its value from the L1 when it issues (log 9), and the record of the load holds it. -/
theorem loadHitTakesTheHeldBytes : Obligations.LoadHitTakesTheHeldBytes := by
  unfold Obligations.LoadHitTakesTheHeldBytes
  intro f s t x oks n h hc hr hne hacq hnone hhits
  obtain ⟨hd, hlt⟩ := reaches_nodup hr
  let g : Gather := { s := t, r := x.record (max n 4) false (acqScope x.ownAcq (warpOf x t)) 0 }
  let g' : Gather := g.run (fun s a => s.loadLane x.core x.slot (t.ctxOf x.core x.slot) n (acqScope x.ownAcq (warpOf x t)) a) (extendTy x.f.ty.toNat)
    (fun _ => 0) (fun _ => 0) oks
  have htook : g.took (fun a => extendTy x.f.ty.toNat (hitValue x.core x.slot n t a)) oks g' :=
    Gather.run_hits hacq (extendTy x.f.ty.toNat) (fun _ => 0) (fun _ => 0) oks hd hhits g ⟨rfl, fun _ => rfl⟩
  have hpend : g'.r.pend = maskAt oks := htook.pend.trans BitVec.zero_or
  obtain ⟨w, tx, clock, hlaunch⟩ := Iss.launch_pend x g' 0 (by rw [hpend]; exact maskAt_ne_zero hne hlt) htook.gone htook.stale htook.parks htook.aborts
  have heff : x.loadEff n (extendTy x.f.ty.toNat) oks t = x.launch g' 0 := by
    unfold Iss.loadEff
    simp only [List.isEmpty_eq_false_iff.mpr hne, x.txHeld_closed t n oks fun a ha => (hhits a ha).1, Bool.false_eq_true, if_false,
      State.clearFence_acq_none t _ _ hnone]
    rfl
  have hexec : exec (.ld f) s = _ := runCore_memory_done h hc _ hr _ _ rfl (heff.trans hlaunch)
  rw [afterMemory_plain] at hexec
  refine ⟨_, hexec, { g'.r with txLanes := tx, issued := clock }, ?_, htook.pc, htook.dreg, hpend, fun a ha => ?_⟩
  · unfold warpOf
    rw [State.setWarp_warp_self]
    exact List.mem_append_right _ (List.mem_singleton.mpr rfl)
  · obtain ⟨-, pa, hplace, -⟩ := hhits a ha
    refine ⟨pa, hplace, (htook.vals a ha).trans ?_⟩
    unfold hitValue
    rw [hplace]
    rfl

/-! ### Atomics (R144, R276 to R279) -/

/-- An atomic that may be performed is done. -/
theorem Iss.rmwEff_done (x : Iss) (r : Rmw) (b d : Nat → Nat) (oks : List LaneAt) (s : State)
    (h : mayPerform x (s.drain x.core x.slot) (relScope (if r = .claim then 0 else x.ownRel) (warpOf x (s.drain x.core x.slot))) r.width oks) :
    ∃ o, x.rmwEff r b d oks s = .done o := by
  unfold Iss.rmwEff
  split
  · exact ⟨_, rfl⟩
  · have hrel : (if r = .claim then relScope 0 ((s.drain x.core x.slot).warp x.core x.slot) else relScope x.ownRel ((s.drain x.core x.slot).warp x.core x.slot)) =
        relScope (if r = .claim then 0 else x.ownRel) (warpOf x (s.drain x.core x.slot)) := by split <;> rfl
    simp only [hrel]
    rw [if_neg (by rw [h.2]; exact Bool.false_ne_true), Iss.releaseAt_ready x _ _ _ oks _ h.1]
    exact ⟨_, rfl⟩

/-- A RED that may be performed, none of whose lanes a halted peer group holds back, is done. -/
theorem Iss.redEff_done (x : Iss) (r : Rmw) (b : Nat → Nat) (oks : List LaneAt) (s : State)
    (h : mayPerform x (s.drain x.core x.slot) (relScope x.ownRel (warpOf x (s.drain x.core x.slot))) r.width oks)
    (hheld : ∀ a ∈ oks, ∀ k off, a.place = .stash k off →
      (s.drain x.core x.slot).stashCheck ((s.drain x.core x.slot).ctxOf x.core x.slot) k off r.width ≠ .heldBack) :
    ∃ o, x.redEff r b oks s = .done o := by
  unfold Iss.redEff
  split
  · exact ⟨_, rfl⟩
  · dsimp only
    split
    · rename_i hwait
      rw [Bool.or_eq_true] at hwait
      rcases hwait with hany | hwaits
      · obtain ⟨a, ha, hb⟩ := List.any_eq_true.mp hany
        split at hb
        · rename_i k off hp
          exact absurd (beq_iff_eq.mp hb) (hheld a ha k off hp)
        · cases hb
      · exact absurd (hwaits.symm.trans h.2) (by simp)
    · exact ⟨_, Iss.releaseAt_ready x _ _ _ oks _ h.1⟩

/-- The operands of an atomic are the same before and after the issue. -/
theorem Iss.operand_note (x : Iss) (s : State) (r : RegRef) : x.operand (warpOf x (x.note s)) r = x.operand (warpOf x s) r :=
  funext fun l => Iss.getRun_note x s r l _

/-- Settles O22: atomics that nothing holds have effects that are done. -/
theorem atomicsComplete : Obligations.AtomicsComplete := by
  unfold Obligations.AtomicsComplete
  refine fun f s t x oks hc => ⟨fun h hr hfree => ?_, fun h hr hfree => ?_, fun h hr hfree => ?_, fun h hr hfree hheld => ?_⟩
  · obtain ⟨o, ho⟩ := x.rmwEff_done x.atomOf (x.operand (warpOf x (x.note s)) x.r2) (fun _ => 0) oks t (by rw [if_neg (by unfold Iss.atomOf; simp)]; exact hfree)
    exact ⟨o, ho, runCore_memory_done h hc _ hr _ _ rfl ho⟩
  · obtain ⟨o, ho⟩ := x.rmwEff_done (.cas x.f.ty.toNat) (x.operand (warpOf x (x.note s)) x.r2) (x.operand (warpOf x (x.note s)) x.r3) oks t
      (by rw [if_neg (by simp)]; exact hfree)
    exact ⟨o, ho, runCore_memory_done h hc _ hr _ _ rfl ho⟩
  · obtain ⟨o, ho⟩ := x.rmwEff_done .claim (fun _ => 0) (fun _ => 0) oks t (by rw [if_pos rfl]; exact hfree)
    exact ⟨o, ho, runCore_memory_done h hc _ hr _ _ rfl ho⟩
  · obtain ⟨o, ho⟩ := x.redEff_done x.atomOf (x.operand (warpOf x (x.note s)) x.r2) oks t hfree hheld
    exact ⟨o, ho, runCore_memory_done h hc _ hr _ _ rfl ho⟩

/-- Settles O23: the integer rows of R276, and the comparison of R278. -/
theorem atomicOperationResults : Obligations.AtomicOperationResults := by
  unfold Obligations.AtomicOperationResults
  intro ty o b d n sg v _ _
  have hless : ∀ a c : Nat, (if ty = 2 ∨ ty = 3 then decide (signed n a < signed n c) else decide (a < c)) = true ↔ v a < v c := by
    intro a c
    simp only [v, sg, signed_eq_toInt]
    split
    · exact decide_eq_true_iff
    · rw [decide_eq_true_iff, Int.ofNat_lt]
  refine ⟨fun _ _ => rfl, rfl, ?_, ?_, rfl, rfl, rfl, rfl, rfl, rfl, rfl⟩
  · have h := hless b o
    simp only [Rmw.apply, atomNew, Bool.false_eq_true, if_false]
    exact congrArg (fun k => (some k, o)) (if_congr h rfl rfl)
  · have h := hless o b
    simp only [Rmw.apply, atomNew, Bool.false_eq_true, if_false]
    exact congrArg (fun k => (some k, o)) (if_congr h rfl rfl)

end Sys2Proof.Machine
end

section
/-! SUPPORT. Mapped ranges, waits, monitors, fences, barriers and cache control: their effects where nothing holds them back (R271 to R286). -/

namespace Sys2Proof.Machine

open Safety

/-- An instruction outside transactions whose effect is done. -/
theorem runCore_closed_done {i : Instr} {s u : State} {x : Iss} (h : Executes i s x) (hc : closedLanes x s) (hp : x.part (warpOf x s) ≠ 0#32)
    (eff : LaneMask → State → Res) (run : Iss → State → Res) (hrun : run x (x.note s) = x.closed (x.note s) eff)
    (he : eff (x.part (warpOf x s)) (x.note s) = .done { s := u }) : runCore i run s = .next (after x { s := u }) :=
  runCore_done h run _ (by rw [hrun, Iss.closed_done x s u eff hc hp he])

/-! ### LDX, STX, MAPS, UNMAPS and FLUSHS (R271, R274, R275) -/

/-- What STX queues through maps that can be read. -/
theorem exec_stx {f : Form64} {s t : State} {x : Iss} {oks : List LaneAt} (h : Executes (.stx f) s x) (hc : closedLanes x s)
    (hw : x.mapWaits (x.note s) = false) (he : x.mapEmpty (x.note s) = (0#32, 0#32)) (hr : reaches x s (fun w => x.reachMap .store w) oks t)
    (hne : oks ≠ []) (hrel : relScope x.ownRel (warpOf x t) < 3) (hnone : (warpOf x t).rel = none)
    (hclosed : ∀ a ∈ oks, (warpOf x t).isOpen a.lane = false) :
    exec (.stx f) s = .next (after x { s := t.setWarp x.core x.slot { warpOf x t with
      storeq := (warpOf x t).storeq ++ oks.map (fun a => queuedOp x (t.core x.core).clock.toNat (relScope x.ownRel (warpOf x t))
        (x.mapSize (x.note s) a.lane)
        (fun l => (warpOf x s).getRun x.rd l (if x.mapSize (x.note s) l = 8 then 2 else 1) % 2 ^ (8 * x.mapSize (x.note s) l)) a) } }) := by
  have hdata := getRun_mod_note x s x.rd (fun l => if x.mapSize (x.note s) l = 8 then 2 else 1) (x.mapSize (x.note s))
  have hrel' : relScope x.ownRel (t.warp x.core x.slot) < 3 := hrel
  rw [← afterMemory_plain, ← hdata]
  refine runCore_memory_done h hc x.ordered hr _ _ (Iss.mapped_eq x (x.note s) _ hw he) ?_
  simp only [List.isEmpty_eq_false_iff.mpr hne, Bool.false_eq_true, if_false, Iss.releaseAt_none x t hrel', State.clearFence_rel_none t _ _ hnone]
  rw [foldl_storeEach_queue x _ (x.mapSize (x.note s)) _ hrel' oks t hclosed, if_neg hne, Iss.storeDone_plain x hrel']
  rfl

/-- Settles O21: through maps that can be read the accesses of LDX and STX are those of LD and ST; the mapped ranges change as their checks allow. -/
theorem mappedAccessesAndRanges : Obligations.MappedAccessesAndRanges := by
  unfold Obligations.MappedAccessesAndRanges
  refine ⟨?_, ?_⟩
  · intro f s t x oks size hw he hc
    refine ⟨fun h hr hclosed => ?_, fun h hr hne hrel hnone hclosed => exec_stx h hc hw he hr hne hrel hnone hclosed⟩
    obtain ⟨o, ho⟩ := x.loadMapped_done size (fun l => match x.anyEntry (x.note s) l with | some e => mapFmt e | none => 0) oks t hclosed
    exact ⟨o, ho, runCore_memory_done h hc x.ordered hr _ _ (Iss.mapped_eq x (x.note s) _ hw he) ho⟩
  · intro f s u x w l g d hc
    refine ⟨fun h hga hso hle hlen hfit hva hover hroom => ?_, fun i hi h hso hle hfit hpin hflush => ?_⟩
    · obtain ⟨-, hp⟩ := executes_whole h (by rw [issOf_sig h.holds rfl])
      refine runCore_closed_done h hc hp _ _ rfl ?_
      have hany : g.maps.any (fun r => overlaps (x.b w l) (x.c w l) r.soff r.len || overlaps (x.a64 w l) (x.c w l) r.gaddr r.len) = false :=
        List.any_eq_false.mpr fun r hr => by rw [(hover r hr).1, (hover r hr).2]; simp
      have hfield : field (x.a64 w l) 57 7 = 0 := by unfold field; omega
      have hrange : ¬(x.b w l + x.c w l > g.allot.sbytes ∨ field (x.a64 w l) 57 7 ≠ 0) := by omega
      have hwarp : (x.note s).warp x.core x.slot = warpOf x (x.note s) := rfl
      simp only [hwarp, Iss.groupOf_note, Iss.a64_note, Iss.b_note, Iss.c_note, Iss.privileged_note, Iss.group_note]
      simp only [w, l, g] at hga hso hle hlen hrange hany hroom
      rw [if_neg (by omega), if_neg hlen, if_neg hrange, if_neg (by rw [hany]; exact Bool.false_ne_true), if_neg (by omega)]
    · have hframe : ∀ (i : Instr) (k : State → Nat → Nat → Nat → State), i ∈ [Instr.unmaps f, .flushs f] → Executes i s x →
          x.flushFrame (x.note s) k = .done { s := k u (warpOf x d).group (x.a (warpOf x d) l) (x.b (warpOf x d) l) } := by
        intro i k hi h
        have hp : x.part (warpOf x s) ≠ 0#32 := by
          rcases List.mem_pair.mp hi with rfl | rfl <;> exact (executes_whole h (by rw [issOf_sig h.holds rfl])).2
        refine Iss.closed_done x s _ _ hc hp ?_
        have hd : (x.note s).drain x.core x.slot = d := rfl
        have hwarp : d.warp x.core x.slot = warpOf x d := rfl
        simp only [hd, hwarp]
        simp only [l, w] at hso hle hfit hpin hflush
        rw [if_neg (by omega), if_neg (by omega), if_neg (by rw [hpin]; exact Bool.false_ne_true), hflush]
      rcases List.mem_pair.mp hi with rfl | rfl
      · rw [if_neg (by simp)]
        exact runCore_done h _ _ (hframe _ _ hi h)
      · rw [if_pos rfl]
        exact runCore_done h _ _ (hframe _ _ hi h)

/-! ### WAITV, LMON and LMWAIT (R280, R282) -/

/-- Settles O24: the effects of the three waiting instructions where none of them has to wait. -/
theorem waitsOnValuesAndMonitors : Obligations.WaitsOnValuesAndMonitors := by
  unfold Obligations.WaitsOnValuesAndMonitors
  refine ⟨?_, ?_⟩
  · intro f s t x oks n ty kind u v ys h hc hr hne hdone
    rw [← afterMemory_plain]
    refine runCore_memory_done h hc true hr x.waitvEff _ rfl ?_
    have hall : ys.all (fun y => y.done) = true := List.all_eq_true.mpr hdone
    unfold Iss.waitvEff
    rw [if_neg (by simpa using hne)]
    exact if_pos hall
  · refine fun f s t x a oks hc => ⟨fun h hr => ⟨fun pa qa hplace hchase hserve => ?_, fun m pa hplace => ?_, fun k off g hplace hserve => ?_⟩,
      fun h hp hfired => ?_⟩
    · rw [← afterMemory_plain]
      refine runCore_memory_done h hc true hr x.lmonEff _ rfl ?_
      simp only [Iss.lmonEff, hplace, hchase, hserve, Bool.false_eq_true, if_false]
      rfl
    · rw [← afterMemory_plain]
      refine runCore_memory_done h hc true hr x.lmonEff _ rfl ?_
      simp only [Iss.lmonEff, hplace]
      rfl
    · rw [← afterMemory_plain]
      refine runCore_memory_done h hc true hr x.lmonEff _ rfl ?_
      simp only [Iss.lmonEff, hplace, hserve]
      rfl
    · have hmon : (warpOf x (x.note s)).monitor = (warpOf x s).monitor := by rw [Iss.note_eq]
      have hwarp : (x.note s).warp x.core x.slot = warpOf x (x.note s) := rfl
      obtain ⟨w, hafter, hw, hadv⟩ := after_plain h { warpOf x (x.note s) with monitor := none } rfl
      refine ⟨w, ?_, ?_, hadv⟩
      · rw [← hafter]
        refine runCore_closed_done h hc hp _ _ rfl ?_
        cases hm : (warpOf x s).monitor with
        | none =>
          have hsame : ({ warpOf x (x.note s) with monitor := none } : Warp) = warpOf x (x.note s) := by rw [← hm, ← hmon]
          simp only [hwarp, hmon, hm, hsame, Iss.withWarp_self]
        | some y =>
          simp only [hwarp, hmon, hm, hfired y hm, if_true]
          rfl
      · unfold sameButIssue
        rw [hw, Iss.note_eq]

/-! ### Fences (R149, R283) -/

/-- A fence whose loads have arrived and whose release is ready runs its body and its end. -/
theorem Iss.fenceEff_ready (x : Iss) (m : LaneMask) (s : State) (hl : x.fenceLoads s = false)
    (hr : ∀ sc, x.fenceRelease = some sc → s.releaseReady x.core x.slot sc = true) :
    x.fenceEff m s = x.fenceEnd (x.fenceBody (match x.fenceRelease with | some sc => s.releaseSteps x.core x.slot sc | none => s)) m := by
  unfold Iss.fenceEff
  rw [hl, if_neg Bool.false_ne_true]
  cases hf : x.fenceRelease with
  | none => rfl
  | some sc => exact Iss.release_ready x s sc m _ (hr sc hf)

/-- Settles O25: a fence that need not wait runs its body, and its end as its kind says. -/
theorem fenceCompletes : Obligations.FenceCompletes := by
  unfold Obligations.FenceCompletes
  intro f s x h hc hl hr u
  obtain ⟨-, hp⟩ := executes_whole h (by rw [issOf_sig h.holds rfl])
  have heff : ∀ v : State, x.fenceEnd u (x.part (warpOf x s)) = .done { s := v } → exec (.fence f) s = .next (after x { s := v }) := fun v hv =>
    runCore_closed_done h hc hp x.fenceEff _ rfl ((Iss.fenceEff_ready x _ _ hl hr).trans hv)
  refine ⟨fun hkeep => heff _ ?_, fun hlost hscope hty => heff _ ?_⟩
  · have hcond : (x.f.c3.toNat < 6 || (u.warp x.core x.slot).lost == 0) = true := by
      rcases hkeep with h0 | h6
      · rw [show (u.warp x.core x.slot).lost = 0 from h0]; simp
      · simp [h6]
    exact if_pos hcond
  · have hcond : ¬(x.f.c3.toNat < 6 || (u.warp x.core x.slot).lost == 0) = true := by
      have hne : (u.warp x.core x.slot).lost ≠ 0 := hlost
      simp [hne, hscope]
    unfold Iss.fenceEnd
    simp only [if_neg hcond, if_pos hty]
    rfl

/-! ### Barriers (R284 to R286) -/

/-- A barrier instruction finds the object `o` at offset `b`, which leaves the state `u`: its offset is aligned and in range, and the object can be read. -/
structure BarFound (x : Iss) (s u : State) (parity : Bool) (b o : Nat) : Prop where
  low : if parity then x.a (warpOf x s) (x.warpLane (x.part (warpOf x s))) % 16 / 2 = 0 else x.a (warpOf x s) (x.warpLane (x.part (warpOf x s))) % 16 = 0
  offset : b = x.a (warpOf x s) (x.warpLane (x.part (warpOf x s))) / 16 * 16
  range : b + 16 ≤ (s.groupOf x.core x.slot).allot.sbytes
  read : ∃ u1, ((x.note s).drain x.core x.slot).stashLoad x.core (warpOf x s).group (((x.note s).groupOf x.core x.slot).stashBase + b) 16 = (.ok, o, u1) ∧
    u1.eccRead (coreModule x.core) (((x.note s).groupOf x.core x.slot).ctx % 32) 1
      (.stash x.core (((x.note s).groupOf x.core x.slot).stashBase + b)) 16 = (false, u)

/-- The frame of a barrier instruction that finds its object runs its effect. -/
theorem runCore_barrier {i : Instr} {s u v : State} {x : Iss} {parity : Bool} {b o : Nat} (h : Executes i s x) (hc : closedLanes x s) (hw : x.g.w = true)
    (hf : BarFound x s u parity b o) (eff : Iss → LaneMask → Nat → Bool → Nat → State → Res)
    (he : eff x (x.part (warpOf x s)) b (bit (x.a (warpOf x s) (x.warpLane (x.part (warpOf x s)))) 0) o u = .done { s := v }) :
    runCore i (fun x s => x.barrier s parity (eff x)) s = .next (after x { s := v }) := by
  obtain ⟨-, hp⟩ := executes_whole h hw
  obtain ⟨hlow, hb, hrange, u1, hload, hread⟩ := hf
  refine runCore_closed_done h hc hp _ _ rfl ?_
  have hwarp : (x.note s).warp x.core x.slot = warpOf x (x.note s) := rfl
  have hzero : (if parity then x.a (warpOf x s) (x.warpLane (x.part (warpOf x s))) % 16 / 2 * 2
      else x.a (warpOf x s) (x.warpLane (x.part (warpOf x s))) % 16) = 0 := by
    cases parity
    · exact hlow
    · have hlow' : x.a (warpOf x s) (x.warpLane (x.part (warpOf x s))) % 16 / 2 = 0 := hlow
      simp [hlow']
  simp only [hwarp, Iss.a_note, Iss.group_note, hzero, ← hb, hload, hread]
  rw [Iss.groupOf_note, if_neg (by simp), if_neg (by omega)]
  exact he

/-- Settles O26: the effect of each barrier instruction on the object that its frame finds. -/
theorem barrierInstructions : Obligations.BarrierInstructions := by
  unfold Obligations.BarrierInstructions
  intro f s u x b o w l v gi found
  have hfound : ∀ i parity, found i parity → Executes i s x ∧ closedLanes x s ∧ BarFound x s u parity b o := by
    rintro i parity ⟨hx, hc, hlow, hb, hrange, hread⟩
    exact ⟨hx, hc, hlow, hb, hrange, hread⟩
  refine ⟨fun hf hgi hn hk => ?_, fun hf hgi hk => ?_, ?_, fun hf hgi hne => ?_, fun hf hgi => ?_⟩
  · obtain ⟨h, hc, hbar⟩ := hfound _ _ hf
    refine runCore_barrier h hc (by rw [issOf_sig h.holds rfl]) hbar _ ?_
    have hok : ¬(x.b (u.warp x.core x.slot) (x.warpLane (x.part (warpOf x s))) > 64 ∨ x.c (u.warp x.core x.slot) (x.warpLane (x.part (warpOf x s))) > 0xFFFFFF) :=
      not_or.mpr ⟨Nat.not_lt.mpr hn, Nat.not_lt.mpr hk⟩
    simp only [if_neg hok, show (u.warp x.core x.slot).group = gi from hgi]
    rfl
  · obtain ⟨h, hc, hbar⟩ := hfound _ _ hf
    refine runCore_barrier h hc (by rw [issOf_sig h.holds rfl]) hbar _ ?_
    have hok : ¬(barBytes o + x.b (u.warp x.core x.slot) (x.warpLane (x.part (warpOf x s))) > 0xFFFFFF) := Nat.not_lt.mpr hk
    simp only [if_neg hok, show (u.warp x.core x.slot).group = gi from hgi]
    rfl
  · intro hf hready r hgi
    obtain ⟨h, hc, hbar⟩ := hfound _ _ hf
    refine runCore_barrier h hc (by rw [issOf_sig h.holds rfl]) hbar _ ?_
    rw [Iss.release_ready x u 0 _ _ hready]
    simp only [show ((u.releaseSteps x.core x.slot 0).warp x.core x.slot).group = gi from hgi]
    rfl
  · obtain ⟨h, hc, hbar⟩ := hfound _ _ hf
    refine runCore_barrier h hc (by rw [issOf_sig h.holds rfl]) hbar _ ?_
    have hpass : (barPhase o != bit (x.a (warpOf x s) (x.warpLane (x.part (warpOf x s)))) 0) = true := bne_iff_ne.mpr hne
    simp only [hpass, if_true, show (u.warp x.core x.slot).group = gi from hgi]
  · intro r
    obtain ⟨h, hc, hbar⟩ := hfound _ _ hf
    refine runCore_barrier h hc (by rw [issOf_sig h.holds rfl]) hbar _ ?_
    simp only [show (u.warp x.core x.slot).group = gi from hgi]
    rfl

/-! ### PREF and CCTL (R272, R273) -/

/-- Settles O27: PREF never traps, and CCTL acts once its write-backs and its release may be made. -/
theorem prefetchAndCacheControl : Obligations.PrefetchAndCacheControl := by
  unfold Obligations.PrefetchAndCacheControl
  refine fun f s x => ⟨fun h => ?_, fun h hc hp => ?_⟩
  · rw [← Iss.part_issued, ← Iss.openPart_note]
    exact runCore_done h _ _ rfl
  · intro u op ls
    refine ⟨fun hop hpin => ?_, ?_⟩
    · refine runCore_closed_done h hc hp _ _ rfl ?_
      have hwait : ¬((decide (x.f.c3.toNat ≠ 1) && x.cctlPinned ((((x.note s).drain x.core x.slot)).warp x.core x.slot) ((x.note s).drain x.core x.slot)
          (lanes (x.part (warpOf x s)))) = true) := by
        rcases hpin with h1 | hpin
        · simp [show x.f.c3.toNat = 1 from h1]
        · change x.cctlPinned (((x.note s).drain x.core x.slot).warp x.core x.slot) ((x.note s).drain x.core x.slot)
            (lanes (x.part (warpOf x s))) = false at hpin
          rw [hpin, Bool.and_false]
          exact Bool.false_ne_true
      rw [if_neg (by exact Nat.not_le.mpr hop), if_neg hwait]
      rfl
    · intro hop hready v
      refine runCore_closed_done h hc hp _ _ rfl ?_
      simp only
      rw [if_pos hop, Iss.release_ready x _ 3 _ _ hready]
      by_cases h5 : op = 5
      · rw [if_pos h5, if_pos h5]
      · rw [if_neg h5, if_neg h5]
        by_cases h4 : op = 4
        · rw [if_pos h4, if_pos h4]
        · rw [if_neg h4, if_neg h4]
          rfl

end Sys2Proof.Machine
end

section
/-! SUPPORT. The flood instructions and ROLE: their effects where every lane passes its checks (R30, R42 to R86, R313 to R322). -/

namespace Sys2Proof.Machine

open Safety

/-- A list of the lanes of a mask that meet a test that none of them meets. -/
theorem filter_lanes_eq_nil {m : LaneMask} {p : Nat → Bool} (h : ∀ l, m.getLsbD l = true → p l = false) : (lanes m).filter p = [] :=
  List.filter_eq_nil_iff.mpr fun l hl => Bool.eq_false_iff.mp (h l ((mem_lanes _ _).mp hl))

/-! ### FLOOD, ECHO and CLAUSE (R313 to R315, R319, R320) -/

/-- FLOOD whose release is ready and whose lanes all emit. -/
theorem Iss.floodEff_emits (x : Iss) (m : LaneMask) (s : State) (hm : m ≠ 0#32) (hr : s.releaseReady x.core x.slot 3 = true)
    (ht : (x.emitEach { s := s.releaseSteps x.core x.slot 3 } (lanes m)).traps = [])
    (hp : (x.emitEach { s := s.releaseSteps x.core x.slot 3 } (lanes m)).parks = [])
    (ha : (x.emitEach { s := s.releaseSteps x.core x.slot 3 } (lanes m)).again = []) :
    x.floodEff m s = .done { s := (x.emitEach { s := s.releaseSteps x.core x.slot 3 } (lanes m)).s.clearFence x.core x.slot false true } := by
  have hlen : 0 < (lanes m).length := List.length_pos_iff.mpr fun h => hm ((lanes_eq_nil m).mp h)
  unfold Iss.floodEff
  rw [Iss.release_ready x s 3 m _ hr]
  simp only [ht, hp, ha, List.map_nil, List.length_nil, Nat.add_zero, if_pos hlen]
  rfl

/-- ECHO whose lanes all pass their checks. -/
theorem Iss.echoEff_passes (x : Iss) (m : LaneMask) (s : State) (hr : s.releaseReady x.core x.slot 3 = true)
    (hc : ∀ l, m.getLsbD l = true → x.echoCheck s (warpOf x s) l = none) :
    x.echoEff m s = .done { s := x.echoEach (s.releaseSteps x.core x.slot 3) (lanes m) } := by
  have hbad : (lanes m).filter (fun l => (x.echoCheck s (s.warp x.core x.slot) l).isSome) = [] :=
    filter_lanes_eq_nil fun l hl => by rw [show x.echoCheck s (s.warp x.core x.slot) l = none from hc l hl]; rfl
  unfold Iss.echoEff
  simp only [hbad]
  exact Iss.release_ready x s 3 m _ hr

/-- CLAUSE whose lanes all pass their checks and whose ring has room. -/
theorem Iss.clauseEff_passes (x : Iss) (m : LaneMask) (s u : State) (hr : s.releaseReady x.core x.slot 3 = true)
    (hc : ∀ l, m.getLsbD l = true → x.clauseCheck (warpOf x s) l = none) (hu : x.clauseEach (s.releaseSteps x.core x.slot 3) (lanes m) = ([], u)) :
    x.clauseEff m s = .done { s := u } := by
  have hbad : (lanes m).filter (fun l => (x.clauseCheck (s.warp x.core x.slot) l).isSome) = [] :=
    filter_lanes_eq_nil fun l hl => by rw [show x.clauseCheck (s.warp x.core x.slot) l = none from hc l hl]; rfl
  unfold Iss.clauseEff
  simp only [hbad]
  rw [Iss.release_ready x s 3 m _ hr, hu]

/-- An issue changes no operand and no identity that CLAUSE checks. -/
theorem Iss.clauseCheck_note (x : Iss) (s : State) (l : Nat) : x.clauseCheck (warpOf x (x.note s)) l = x.clauseCheck (warpOf x s) l := by
  unfold Iss.clauseCheck
  rw [Iss.b64_note, Iss.ident_note]

/-- Settles O34: each of the three instructions runs its lanes once its release has been made. -/
theorem floodsEchoesAndClauses : Obligations.FloodsEchoesAndClauses := by
  unfold Obligations.FloodsEchoesAndClauses
  intro f s u x ls rel hc hp hr
  refine ⟨fun h ht hpk ha => ?_, fun h hcheck => ?_, fun h hcheck hu => ?_⟩
  · exact runCore_closed_done h hc hp x.floodEff _ rfl (x.floodEff_emits _ _ hp hr ht hpk ha)
  · exact runCore_closed_done h hc hp x.echoEff _ rfl (x.echoEff_passes _ _ hr hcheck)
  · exact runCore_closed_done h hc hp x.clauseEff _ rfl
      (x.clauseEff_passes _ _ u hr (fun l hl => by rw [Iss.clauseCheck_note]; exact hcheck l hl) hu)

/-! ### WAITF, TESTF, CANCELF and FINFO (R316 to R318) -/

/-- A read that is put under way is done. -/
theorem Iss.launchRead_done (x : Iss) (s : State) (r : InFlight) : ∃ o, x.launchRead s r = .done o := by
  unfold Iss.launchRead
  dsimp only
  split
  · exact ⟨_, rfl⟩
  · split
    · exact ⟨_, rfl⟩
    · exact ⟨_, rfl⟩

/-- Marking registers empty changes their marks alone. -/
theorem Warp.markEmptyRun_eq (w : Warp) (r : RegRef) (m : LaneMask) (n : Nat) :
    w.markEmptyRun r m n = { w with vEmpty := (w.markEmptyRun r m n).vEmpty, sEmpty := (w.markEmptyRun r m n).sEmpty } := by
  induction n generalizing w r with
  | zero => rfl
  | succ n ih =>
    rw [Warp.markEmptyRun, ih]
    cases r <;> rfl

/-- What FINFO reads of listed lanes: every lane awaits its value. -/
theorem Iss.finfoEach_reads (x : Iss) (s : State) (item : Nat) (ls : List Nat) (hd : ls.Nodup) (r : InFlight) :
    (x.finfoEach s r item ls).pend = r.pend ||| maskOf ls ∧ (x.finfoEach s r item ls).dreg = r.dreg ∧
      (∀ l ∈ ls, SMap.get 0 (x.finfoEach s r item ls).val l = s.finfoRead (s.ctxOf x.core x.slot) ((warpOf x s).get x.r1 l) item) ∧
      ∀ l, l ∉ ls → SMap.get 0 (x.finfoEach s r item ls).val l = SMap.get 0 r.val l := by
  induction ls generalizing r with
  | nil => exact ⟨(BitVec.or_zero).symm, rfl, fun _ h => absurd h (by simp), fun _ _ => rfl⟩
  | cons l t ih =>
    obtain ⟨hl, ht⟩ := List.nodup_cons.mp hd
    unfold Iss.finfoEach
    obtain ⟨hpend, hdreg, hval, hother⟩ := ih ht { r with
      pend := r.pend ||| (1#32 <<< l)
      val := SMap.set 0 r.val l (s.finfoRead (s.ctxOf x.core x.slot) (x.handle (s.warp x.core x.slot) l) item)
      addr := SMap.set 0 r.addr l (x.handle (s.warp x.core x.slot) l).toNat }
    refine ⟨hpend.trans (BitVec.or_assoc _ _ _), hdreg, fun k hk => ?_, fun k hk => ?_⟩
    · rcases List.mem_cons.mp hk with rfl | hk
      · rw [hother _ hl]
        exact SMap.get_set_self _ _ _ _
      · exact hval k hk
    · rw [List.mem_cons, not_or] at hk
      rw [hother k hk.2]
      exact SMap.get_set_ne _ _ _ hk.1

/-- FINFO of the lane's own clause: the value of an item (R318). -/
def finfoOwn (s : State) (w : Warp) (item l : Nat) : Nat :=
  let i := w.laneIdent l
  match item with | 8 => i.clause | 9 => i.echoed.toNat | _ => s.identScope i

/-- An issue changes no cairn, so that no ordering scope of a flood changes. -/
theorem Iss.identScope_note (x : Iss) (s : State) (i : Ident) : (x.note s).identScope i = s.identScope i := rfl

/-- What FINFO of the lane's own clause comes to. -/
theorem finfo_own_effect {f : Form64} {s : State} {x : Iss} (h : Executes (.finfo f) s x) (hitem : 3 < x.f.rs3.toNat)
    (hin : ∀ l ∈ lanes (x.part (warpOf x s)), ((warpOf x s).laneIdent l).cairn.isNone = false) :
    ∃ u, exec (.finfo f) s = .next (s.setWarp x.core x.slot u) ∧ sameButRegs (warpOf x s) u ∧ advanced x (s.setWarp x.core x.slot u) ∧
      ∀ l ∈ lanes (x.part (warpOf x s)), u.get x.rd l = BitVec.ofNat 32 (finfoOwn s (warpOf x s) x.f.rs3.toNat l) := by
  have hrd := executes_rd_v h (by rw [issOf_sig h.holds rfl]) (by rw [issOf_sig h.holds rfl])
  have hwarp : (x.note s).warp x.core x.slot = warpOf x (x.note s) := rfl
  have hbad : filterMask (x.part (warpOf x s)) (fun l => ((warpOf x s).laneIdent l).cairn.isNone) = 0#32 := by
    unfold filterMask
    rw [filter_lanes_eq_nil fun l hl => hin l ((mem_lanes _ _).mpr hl)]
    rfl
  have heff : ∃ eff, exec (.finfo f) s = runCore (.finfo f) eff s ∧ eff x (x.note s) = .done (Out.mk (x.withWarp (x.note s)
      ((warpOf x (x.note s)).writeLanes x.rd 1 (finfoOwn s (warpOf x s) x.f.rs3.toNat) (lanes (x.part (warpOf x s))))) [] 0#32 {} 0#32) := by
    refine ⟨_, rfl, ?_⟩
    simp only [hwarp, Iss.ident_note, Iss.part_issued, if_neg (Nat.not_le.mpr hitem), hbad, ne_eq, not_true_eq_false, if_false]
    rfl
  obtain ⟨eff, hexec, heff⟩ := heff
  obtain ⟨u, hrun, hsame, hadv, hget⟩ := runCore_registers h eff _ heff (Warp.writeLanes_eq _ _ _ _ _)
  rw [← hexec] at hrun
  refine ⟨u, hrun, hsame, hadv, fun l hl => ?_⟩
  rw [hget, hrd, Warp.get_writeLanes_mask _ _ _ _ _ _ (lt_of_mem_lanes hl), if_pos ⟨rfl, (mem_lanes _ _).mp hl⟩]

/-- Settles O35: with valid handles each query reads the FCBs named, and the rest of its effect follows. -/
theorem floodQueries : Obligations.FloodQueries := by
  unfold Obligations.FloodQueries
  intro f s x m ls n w
  have hpart : x.part ((x.note s).warp x.core x.slot) = m := Iss.part_issued x s
  refine ⟨?_, fun h hbad => ?_, fun h hc hp hbad => ?_, fun h hitem hp hbad => ?_, fun h hitem hin => ?_⟩
  · intro h hc hp hbad u ys hdone hlen
    refine runCore_closed_done h hc hp x.waitfEff _ rfl ?_
    have hgood : ¬(x.badHandles (x.touchHandles (x.note s) m) m ≠ 0#32) := fun hne => hne hbad
    have hall : (ys.all (fun y => y.done) && ((lanes m).map (fun l => x.handle ((x.touchHandles (x.note s) m).warp x.core x.slot) l)).length == ys.length) = true := by
      rw [List.all_eq_true.mpr hdone, List.length_map, Bool.true_and, beq_iff_eq]
      exact hlen.symm
    exact (if_neg hgood).trans (if_pos hall)
  · obtain ⟨o, ho⟩ := x.launchRead_done (x.testfEach n (x.record 12 false 0 0) ls).1 (x.testfEach n (x.record 12 false 0 0) ls).2
    refine ⟨o, ho, runCore_done h _ _ ?_⟩
    have hgood : ¬(x.badHandles (x.touchHandles (x.note s) m) m ≠ 0#32) := fun hne => hne hbad
    simp only [hpart]
    exact (if_neg hgood).trans ho
  · refine runCore_closed_done h hc hp x.cancelfEff _ rfl ?_
    have hgood : ¬(x.badHandles (x.touchHandles (x.note s) m) m ≠ 0#32) := fun hne => hne hbad
    exact if_neg hgood
  · obtain ⟨hpend, hdreg, hval, -⟩ := x.finfoEach_reads n x.f.rs3.toNat ls (lanes_nodup m) (x.record 4 false 0 0)
    have hgood : ¬(x.badHandles (x.touchHandles (x.note s) m) m ≠ 0#32) := fun hne => hne hbad
    have hall : (x.finfoEach n (x.record 4 false 0 0) x.f.rs3.toNat ls).pend = m := hpend.trans (by rw [maskOf_lanes]; exact BitVec.zero_or)
    let r := x.finfoEach n (x.record 4 false 0 0) x.f.rs3.toNat ls
    have hmark := Warp.markEmptyRun_eq w r.dst (r.pend ||| r.trapLanes) r.regs
    have hv := congrArg Warp.v hmark
    have hs := congrArg Warp.s hmark
    have hp' := congrArg Warp.p hmark
    refine ⟨{ w.markEmptyRun r.dst (r.pend ||| r.trapLanes) r.regs with inflight := w.inflight ++ [r] }, runCore_done h _ _ ?_, ?_, ?_, ?_,
      r, List.mem_append_right _ (List.mem_singleton.mpr rfl), hall, hdreg, hval⟩
    · simp only [hpart]
      exact (if_pos hitem).trans ((if_neg hgood).trans (if_pos (by rw [hall]; exact hp)))
    · exact hv
    · exact hs
    · exact hp'
  · obtain ⟨u, hrun, hsame, hadv, hget⟩ := finfo_own_effect h hitem hin
    refine ⟨u, hrun, hsame, hadv, fun l hl => ⟨fun h8 => ?_, fun h9 => ?_, fun h10 => ?_⟩⟩
    · rw [hget l hl, h8]; rfl
    · rw [hget l hl, h9]; rfl
    · rw [hget l hl, h10]; rfl

/-! ### ROLE (R30, R322) -/

/-- Settles O36: the whole warp stands at its ROLE, whose descriptor its lowest lane reads. -/
theorem roleReadsItsDescriptorAndWaits : Obligations.RoleReadsItsDescriptorAndWaits := by
  unfold Obligations.RoleReadsItsDescriptorAndWaits
  intro f s u x i e d n ready y v va h hc hentry hlive halign hread
  obtain ⟨-, hp⟩ := executes_whole h (by rw [issOf_sig h.holds rfl])
  let wait : Wait := { lane := (lowestLane e.mask).getD 0, kind := .role d, pc := y.pc, len := x.len, insn := x.insn, since := (u.core x.core).clock.toNat }
  let w : Warp := { warpOf x u with waits := (warpOf x u).waits.filter (fun z => !e.mask.getLsbD z.lane) ++ [wait] }
  have harrive : y.arrive v = u.setWarp x.core x.slot (w.replaceEntry i [{ e with state := .waiting, cause := some .agreement, age := 0 }]) := by
    have halign' : ¬(y.a64 (v.warp y.core y.slot) (y.warpLane (y.part (v.warp y.core y.slot))) % 32 ≠ 0) := fun hne => hne halign
    have hread' : v.readRecord y.core y.slot (y.warpLane (y.part (v.warp y.core y.slot))) y.pc 20
        (y.a64 (v.warp y.core y.slot) (y.warpLane (y.part (v.warp y.core y.slot)))) = (.val d, u) := hread
    unfold Iss.arrive
    simp only [if_neg halign', hread', Iss.entryWait, State.setWarp_warp_self, State.setWarp_setWarp]
    rfl
  have hexec : exec (.role f) s =
      .next (u.setWarp x.core x.slot (w.replaceEntry i [{ e with state := .waiting, cause := some .agreement, age := 0 }])) := by
    have hentry' : ((x.waitAt (x.note s) .agreement true).warp x.core x.slot).entryOf x.e.mask = some (i, e) := hentry
    have hlive' : e.mask = ((x.waitAt (x.note s) .agreement true).warp x.core x.slot).live := hlive
    refine runCore_placed h _ _ ?_
    rw [Iss.closed_eq x s _ hc hp]
    simp only [hentry', if_pos hlive']
    rw [← harrive]
    rfl
  refine ⟨_, hexec, rfl, ⟨wait, List.mem_append_right _ (List.mem_singleton.mpr rfl), rfl⟩, fun hnone => ?_⟩
  have hrole := List.findSome?_eq_none_iff.mp hnone wait (List.mem_append_right _ (List.mem_singleton.mpr rfl))
  cases hrole

end Sys2Proof.Machine
end

section
/-! SUPPORT. Transactions, traps and system instructions: what they come to. -/

namespace Sys2Proof.Machine

open Safety

/-! ### Transactions (R152, R155, R158, R162, R164) -/

theorem Warp.laneTx_setTx (w : Warp) (l : Nat) (t : LaneTx) (k : Nat) : (w.setTx l t).laneTx k = if k = l then t else w.laneTx k :=
  SMap.get_set _ _ _ _ _

/-- Counting an issue changes nothing of a lane's transaction but the count. -/
theorem Warp.countIssue_laneTx (w : Warp) (ls : List Nat) (l : Nat) : ∃ n, (w.countIssue ls).laneTx l = { w.laneTx l with issued := n } := by
  induction ls generalizing w with
  | nil => exact ⟨_, rfl⟩
  | cons a t ih =>
    obtain ⟨n, hn⟩ := ih (if (w.laneTx a).state = .opened then w.setTx a { w.laneTx a with issued := (w.laneTx a).issued + 1 } else w)
    refine ⟨n, hn.trans ?_⟩
    split
    · rw [Warp.laneTx_setTx]
      split
      next h => rw [h]
      next => rfl
    · rfl

theorem Iss.laneTx_note (x : Iss) (s : State) (l : Nat) : ∃ n, (warpOf x (x.note s)).laneTx l = { (warpOf x s).laneTx l with issued := n } := by
  rw [Iss.note_warp]
  exact Warp.countIssue_laneTx _ _ l

theorem Warp.openLanes_eq (w : Warp) (txe : Nat) (ls : List Nat) : w.openLanes txe ls = { w with tx := (w.openLanes txe ls).tx } := by
  induction ls generalizing w with
  | nil => rfl
  | cons a t ih => rw [Warp.openLanes, ih]; rfl

/-- The transactions that TXB opens. -/
theorem Warp.laneTx_openLanes (w : Warp) (txe : Nat) (ls : List Nat) (hd : ls.Nodup) (l : Nat) :
    (w.openLanes txe ls).laneTx l = if l ∈ ls then (w.laneTx l).enter txe false else w.laneTx l := by
  induction ls generalizing w with
  | nil => rfl
  | cons a t ih =>
    obtain ⟨hat, ht⟩ := List.nodup_cons.mp hd
    rw [Warp.openLanes, ih _ ht, Warp.laneTx_setTx]
    by_cases hla : l = a
    · subst hla
      rw [if_neg hat, if_pos rfl, if_pos List.mem_cons_self]
    · rw [if_neg hla]
      simp only [List.mem_cons, hla, false_or]

/-- A lane that TXB opens at once. -/
def txbOpens (w : Warp) (l : Nat) : Bool := (w.laneTx l).state == .idle && (w.laneTx l).aborts.toNat < 3

/-- TXB where every lane opens at once. -/
theorem Iss.txb_opens (x : Iss) (s : State) (go : SMap (Option Nat)) (m : LaneMask)
    (h : ∀ l, m.getLsbD l = true → ((warpOf x s).laneTx l).state = .idle ∧ ((warpOf x s).laneTx l).aborts.toNat < 3) :
    x.txb s go m = .done { s := x.withWarp s ((warpOf x s).openLanes x.target (lanes m)), go := go } := by
  have hw : s.warp x.core x.slot = warpOf x s := rfl
  have hq : (lanes m).filter (fun l => ((warpOf x s).laneTx l).state == .idle && decide (3 ≤ ((warpOf x s).laneTx l).aborts.toNat)) = [] :=
    filter_lanes_eq_nil fun l hl => by simp [Nat.not_le.mpr (h l hl).2]
  have hopen : (lanes m).filter (fun l => ((warpOf x s).laneTx l).state == .idle && decide (((warpOf x s).laneTx l).aborts.toNat < 3)) = lanes m :=
    List.filter_eq_self.mpr fun l hl => by
      obtain ⟨hi, ha⟩ := h l ((mem_lanes _ _).mp hl)
      simp [hi, ha]
  unfold Iss.txb
  simp only [hw, hq, hopen]
  rfl

/-- No lane commits where none is open. -/
theorem State.commitEach_closed (s : State) (c slot : Nat) (ls : List Nat) (h : ∀ l ∈ ls, (s.warp c slot).isOpen l = false) :
    s.commitEach c slot ls = (0#32, s) := by
  induction ls with
  | nil => rfl
  | cons l t ih =>
    rw [State.commitEach, if_neg (by rw [h l List.mem_cons_self]; exact Bool.false_ne_true)]
    exact ih fun k hk => h k (List.mem_cons_of_mem _ hk)

theorem closedLanes_isOpen {x : Iss} {s : State} (hc : closedLanes x s) {l : Nat} (hl : (x.part (warpOf x s)).getLsbD l = true) :
    (warpOf x s).isOpen l = false := by
  have hopen : (x.openPart (warpOf x s)).getLsbD l = false := by unfold closedLanes at hc; rw [hc, BitVec.getLsbD_zero]
  rw [Iss.openPart, getLsbD_filterMask _ _ _ (lt_of_mem_lanes ((mem_lanes _ _).mpr hl)), hl, Bool.true_and] at hopen
  exact hopen

theorem closedLanes_note {x : Iss} {s : State} (hc : closedLanes x s) : x.openPart (warpOf x (x.note s)) = 0#32 := (Iss.openPart_note x s).trans hc

/-! ### What an abort leaves (R155, R162, R163) -/

theorem Warp.markFullRun_eq (w : Warp) (r : RegRef) (m : LaneMask) (n : Nat) :
    w.markFullRun r m n = { w with vEmpty := (w.markFullRun r m n).vEmpty, sEmpty := (w.markFullRun r m n).sEmpty } := by
  induction n generalizing w r with
  | zero => rfl
  | succ n ih => rw [Warp.markFullRun, ih]; cases r <;> rfl

theorem Warp.deliver_tx (w : Warp) (r : InFlight) (ls : List Nat) : (w.deliver r ls).tx = w.tx := by
  induction ls generalizing w with
  | nil => rfl
  | cons l t ih => rw [Warp.deliver, ih, Warp.markFullRun_eq, Warp.putRun_eq]

theorem Warp.recordTraps_tx (w : Warp) (r : InFlight) : (w.recordTraps r).tx = w.tx := by
  unfold Warp.recordTraps
  dsimp only
  split
  · rfl
  · rw [Warp.markFullRun_eq]

theorem Warp.putRecords_tx (w : Warp) (rs : List InFlight) : (w.putRecords rs).tx = w.tx :=
  foldl_keeps (fun u => u.tx = w.tx) _ (fun u r hu => (Warp.recordTraps_tx u r).trans hu)
    { w with inflight := rs.filter (fun r => r.pend != 0#32) } _ rfl

theorem Warp.dropPending_tx (w : Warp) (m : LaneMask) (only : InFlight → LaneMask) : (w.dropPending m only).tx = w.tx := by
  unfold Warp.dropPending
  dsimp only
  rw [Warp.putRecords_tx]
  exact foldl_keeps (fun u => u.tx = w.tx) _ (fun u r hu => (Warp.deliver_tx u _ _).trans hu) _ _ rfl

theorem Core.dropSpec_warps (k : Core) (id : Nat) : (k.dropSpec id).warps = k.warps := by
  unfold Core.dropSpec
  split <;> rfl

theorem State.releaseToken_cores (s : State) (c slot lane : Nat) : (s.releaseToken c slot lane).cores = s.cores := by
  unfold State.releaseToken
  dsimp only
  split
  · rfl
  · split <;> rfl

theorem State.warp_congr_cores {s t : State} (h : t.cores = s.cores) (c slot : Nat) : t.warp c slot = s.warp c slot := by
  unfold State.warp State.core
  rw [h]

theorem State.warp_setCore_warps {s : State} {c : Nat} {k : Core} (h : k.warps = (s.core c).warps) (d slot : Nat) :
    (s.setCore c k).warp d slot = s.warp d slot := by
  unfold State.warp
  rw [State.setCore_core]
  split
  next hd => subst hd; unfold Core.warp; rw [h]
  next => rfl

/-- The record that an abort leaves in a lane (R155, R162, R163). -/
def LaneTx.aborted (t : LaneTx) (cause fcause ucode : Nat) : LaneTx :=
  { txe := t.txe, cause := BitVec.ofNat 4 cause, esc := t.esc, aborts := countAborts cause t.aborts,
    fcause := if cause = 9 then BitVec.ofNat 8 fcause else t.fcause, ucode := BitVec.ofNat 8 ucode }

theorem State.abortLane_laneTx (s : State) (c slot lane cause fcause ucode k : Nat) :
    ((s.abortLane c slot lane cause fcause ucode).warp c slot).laneTx k =
      if k = lane then ((s.warp c slot).laneTx lane).aborted cause fcause ucode else (s.warp c slot).laneTx k := by
  unfold State.abortLane
  dsimp only
  rw [State.warp_congr_cores (State.releaseToken_cores _ _ _ _), State.warp_setCore_warps (Core.dropSpec_warps _ _), State.setWarp_warp_self,
    Warp.laneTx_setTx]
  split
  · rfl
  · unfold Warp.laneTx
    rw [Warp.dropPending_tx]

theorem countAborts_eq (cause : Nat) (n : BitVec 4) :
    countAborts cause n = (if 2 ≤ cause ∧ cause ≤ 5 then 0#4 else if n = 15#4 then 15#4 else n + 1#4) := by
  unfold countAborts
  split
  · rfl
  · split
    next h => exact h
    next => rfl

/-- What TXB comes to in idle lanes. -/
theorem exec_txb_opens {f : Form64} {s : State} {x : Iss} (h : Executes (.txb f) s x) (hc : closedLanes x s)
    (hidle : ∀ l, (x.part (warpOf x s)).getLsbD l = true → ((warpOf x s).laneTx l).state = .idle ∧ ((warpOf x s).laneTx l).aborts.toNat < 3) :
    exec (.txb f) s = .next (after x { s := x.withWarp (x.note s) ((warpOf x (x.note s)).openLanes x.target (lanes (x.part (warpOf x s)))) }) := by
  have hno : x.openPart ((x.note s).warp x.core x.slot) = 0#32 := closedLanes_note hc
  have hpart : x.part ((x.note s).warp x.core x.slot) = x.part (warpOf x s) := Iss.part_issued x s
  have hall : x.part (warpOf x s) &&& ~~~0#32 = x.part (warpOf x s) := BitVec.and_allOnes
  refine runCore_done h _ _ ?_
  simp only [hno, hpart, hall, Iss.abortOpen, if_true]
  refine x.txb_opens (x.note s) [] _ fun l hl => ?_
  obtain ⟨k, hk⟩ := Iss.laneTx_note x s l
  rw [hk]
  exact hidle l hl

/-- What TXE comes to in lanes of no transaction. -/
theorem exec_txe_idle {f : Form64} {s : State} {x : Iss} (h : Executes (.txe f) s x) (hc : closedLanes x s) :
    exec (.txe f) s = .next (after x
      { s := x.withWarp (x.note s) ((warpOf x (x.note s)).putPred x.f.rd.toNat (x.part (warpOf x s)) 0#32) }) := by
  have hno : x.openPart ((x.note s).warp x.core x.slot) = 0#32 := closedLanes_note hc
  have hpart : x.part ((x.note s).warp x.core x.slot) = x.part (warpOf x s) := Iss.part_issued x s
  have hcommit : (x.note s).commitEach x.core x.slot (lanes (x.part (warpOf x s))) = (0#32, x.note s) :=
    State.commitEach_closed _ _ _ _ fun l hl => (Iss.isOpen_note x s l).trans (closedLanes_isOpen hc ((mem_lanes _ _).mp hl))
  refine runCore_done h _ _ ?_
  simp only [hno, hpart, ne_eq, not_true_eq_false, false_and, if_false, if_true, hcommit]
  rfl

/-- Settles O37: the lanes of TXB open at once, TXE and TXA are their effects, and an abort replaces its lane's record alone. -/
theorem transactionsOpenCommitAndAbort : Obligations.TransactionsOpenCommitAndAbort := by
  unfold Obligations.TransactionsOpenCommitAndAbort
  refine ⟨?_, ?_⟩
  · intro f s x n w m
    have hn := Iss.note_eq x s
    refine ⟨fun h hc hidle => ?_, ?_, fun h hc => ?_, fun h => runCore_done h _ _ rfl⟩
    · obtain ⟨v, hafter, hv, hadv⟩ := after_plain h ((warpOf x (x.note s)).openLanes x.target (lanes m)) (by rw [Warp.openLanes_eq])
      refine ⟨v, by rw [exec_txb_opens h hc hidle, hafter], ?_, hadv, fun l hl => ?_⟩
      · unfold sameButIssue
        rw [hv, Warp.openLanes_eq, hn]
      · obtain ⟨k, hk⟩ := Iss.laneTx_note x s l
        have hopen := Warp.laneTx_openLanes (warpOf x (x.note s)) x.target (lanes m) (lanes_nodup m) l
        rw [if_pos ((mem_lanes _ _).mpr hl)] at hopen
        have htx : v.laneTx l = ((warpOf x (x.note s)).laneTx l).enter x.target false := by rw [← hopen, hv]; rfl
        rw [htx, hk]
        exact ⟨rfl, rfl, rfl, rfl, rfl⟩
    · intro h opened u hready r z
      have hop : x.openPart ((x.note s).warp x.core x.slot) = opened := Iss.openPart_note x s
      have hpart : x.part ((x.note s).warp x.core x.slot) = m := Iss.part_issued x s
      have hgo : ¬(opened ≠ 0#32 ∧ (!(warpOf x u).storeq.isEmpty || x.logHeld u opened) = true) := by
        rintro ⟨hne, hheld⟩
        obtain hz | ⟨hq, hl⟩ := hready
        · exact hne hz
        · rw [hq, hl] at hheld
          exact Bool.false_ne_true hheld
      refine runCore_done h _ _ ?_
      simp only [hop, hpart]
      exact if_neg hgo
    · obtain ⟨v, hafter, hv, hadv⟩ := after_plain h ((warpOf x (x.note s)).putPred x.f.rd.toNat m 0#32) (by rw [Warp.putPred_eq])
      refine ⟨v, by rw [exec_txe_idle h hc, hafter], ?_, hadv, fun h15 h14 l hl => ?_⟩
      · unfold sameButPreds
        rw [hv, Warp.putPred_eq, hn]
      · have hpred : v.pred x.f.rd.toNat l = ((warpOf x (x.note s)).putPred x.f.rd.toNat m 0#32).pred x.f.rd.toNat l := by rw [hv]; rfl
        have h14' : ¬(x.f.rd.toNat = 14 ∧ (warpOf x (x.note s)).deferred = true) := by rw [hn]; exact h14
        rw [hpred, Warp.pred_putPred, if_pos ⟨rfl, h15, h14', hl⟩, BitVec.getLsbD_zero]
  · intro s c slot lane cause fcause ucode t u
    have htx := fun k => s.abortLane_laneTx c slot lane cause fcause ucode k
    refine ⟨?_, ?_, fun k hk => (htx k).trans (if_neg hk)⟩
    · rw [← countAborts_eq]
      exact (htx lane).trans (if_pos rfl)
    · unfold Warp.isOpen
      rw [(htx lane).trans (if_pos rfl)]
      rfl

/-! ### Traps (R197, R199, R327, R330) -/

/-- Lanes among the participating ones hold no open transaction. -/
theorem filterMask_closed {x : Iss} {s : State} (hc : closedLanes x s) {m : LaneMask} (hm : ∀ l, m.getLsbD l = true → (x.part (warpOf x s)).getLsbD l = true) :
    filterMask m (warpOf x (x.note s)).isOpen = 0#32 := by
  unfold filterMask
  rw [filter_lanes_eq_nil fun l hl => (Iss.isOpen_note x s l).trans (closedLanes_isOpen hc (hm l hl))]
  rfl

/-- What SYSCALL, TRAP and BPT come to (R330). -/
theorem runCore_trapInstr {i : Instr} {s : State} {x : Iss} (h : Executes i s x) (hc : closedLanes x s) (hp : x.part (warpOf x s) ≠ 0#32) (cause : Nat) :
    runCore i (trapInstr cause) s = .next ((x.note s).takeTrap x.core x.slot x.idx (x.trapReq cause (x.part (warpOf x s)))) := by
  have hpart : x.part ((x.note s).warp x.core x.slot) = x.part (warpOf x s) := Iss.part_issued x s
  have heff : trapInstr cause x (x.note s) = x.trap (x.note s) cause (x.part (warpOf x s)) := by
    unfold trapInstr
    rw [hpart]
    exact if_neg hp
  rw [runCore_trap h _ _ _ _ _ heff, Iss.raise_note h.holds]
  refine filterMask_closed hc fun l hl => ?_
  rw [BitVec.getLsbD_and, Bool.and_eq_true] at hl
  exact hl.1

/-- A trap without open lanes among those that it concerns is taken (R156). -/
theorem State.raise_closed {s : State} {c slot idx : Nat} {e : Entry} (he : (s.warp c slot).entry idx = some e) (t : TrapReq) (mem : Bool)
    (ho : filterMask (t.lanes &&& e.mask) (s.warp c slot).isOpen = 0#32) : s.raise c slot idx t mem = s.takeTrap c slot idx t := by
  unfold State.raise
  simp only [he]
  exact if_pos ho

/-- Settles O38: the participating lanes take the instruction's trap, and every lane that of an unassigned opcode. -/
theorem trapInstructionsAndUnassignedOpcodes : Obligations.TrapInstructionsAndUnassignedOpcodes := by
  unfold Obligations.TrapInstructionsAndUnassignedOpcodes
  intro f s x len word c slot idx e
  refine ⟨fun hc hp => ⟨fun h => runCore_trapInstr h hc hp _, fun h => runCore_trapInstr h hc hp _, fun h => runCore_trapInstr h hc hp _⟩,
    fun hcur he ho => ?_⟩
  change execIllegalOpcode len word s = _
  unfold execIllegalOpcode
  simp only [hcur, he]
  exact congrArg Host.Outcome.next (State.raise_closed he _ _ ho)

/-- An address below 2^57 has no bit of [63:57] (R196). -/
theorem field_high_eq_zero {v : Nat} (h : v < 2 ^ 57) : field v 57 7 = 0 := by
  unfold field
  rw [Nat.div_eq_of_lt h, Nat.zero_mod]

/-- Settles O39: with an aligned frame that can be written and an even TVEC below 2^57 no check of R328 fails. -/
theorem takingATrapEntersTheHandler : Obligations.TakingATrapEntersTheHandler := by
  unfold Obligations.TakingATrapEntersTheHandler
  intro s u c slot idx t e d w v g info he hpriv hq hun halign hodd hhigh hepc hwrite hidx z
  let e' : Entry := { pc := (u.warp c slot).tvec.setWidth 57,
                      prio := u.prioAt g.ctx e.pc.toNat (u.warp c slot).tvec.toNat e.prio, mask := e.mask }
  let y : Warp := { u.warp c slot with
    ecause := BitVec.ofNat 32 t.cause, epc := BitVec.ofNat 64 (if t.cause = 0x70 ∨ t.cause = 0x7F then t.pc + t.len else t.pc),
    privst := 1#32, trapping := some { lanes := e.mask, record := info, sent := false } }
  have hz : s.takeTrap c slot idx t = u.setWarp c slot (y.replaceEntry idx [e']) := by
    have hstay : ¬((!w.storeq.isEmpty || w.unperformed e.mask) = true) := by rw [hq, hun]; exact Bool.false_ne_true
    unfold State.takeTrap
    simp only [he, hpriv, hepc, Bool.false_eq_true, if_false]
    refine (if_neg hstay).trans ((if_neg (not_not.mpr halign)).trans ((if_neg (by rw [hodd]; exact Bool.false_ne_true)).trans
      ((if_neg (not_not.mpr (field_high_eq_zero hhigh))).trans ?_)))
    split
    next r s' heq => exact absurd (congrArg Prod.fst (heq.symm.trans hwrite)) (Option.some_ne_none r)
    next s' heq =>
      have hu : s' = u := congrArg Prod.snd (heq.symm.trans hwrite)
      rw [hu]
  have hzw : z = y.replaceEntry idx [e'] := by
    change (s.takeTrap c slot idx t).warp c slot = _
    rw [hz, State.setWarp_warp_self]
  rw [hzw]
  exact ⟨rfl, rfl, rfl, rfl, rfl, rfl, rfl, e', Warp.entry_replaceEntry_one _ _ _ hidx, rfl, rfl, rfl, rfl⟩

/-! ### The checks of an issue (R197) -/

/-- A check of an issue that fails traps in every lane of the entry. -/
theorem runCore_check {i : Instr} {eff : Iss → State → Res} {s : State} {x : Iss} (h : issOf i s = some x) {cause : Nat}
    (ho : filterMask x.e.mask (warpOf x (x.note s)).isOpen = 0#32)
    (hrun : x.run eff s = (x.note s).raise x.core x.slot x.idx (x.trapReq cause x.e.mask) false) :
    runCore i eff s = .next ((x.note s).takeTrap x.core x.slot x.idx (x.trapReq cause x.e.mask)) := by
  unfold runCore
  rw [h]
  simp only
  rw [hrun, Iss.raise_note h _ _ (by rw [Iss.trapReq_lanes, BitVec.and_self]; exact ho)]

/-- Settles O40: each check that fails traps before any later one is looked at. -/
theorem issueChecksTrap : Obligations.IssueChecksTrap := by
  unfold Obligations.IssueChecksTrap
  intro i eff s x h ho
  obtain ⟨hi, -⟩ := issOf_eq h
  refine ⟨fun hw => runCore_illegal h hw ho eff, fun hw hpriv hmode => runCore_check h ho ?_, fun hw hmode hallot => runCore_check h ho ?_⟩
  · have hmode' : (s.warp x.core x.slot).privileged = false := hmode
    unfold Iss.run
    simp only [hi, hw, hpriv, hmode']
    rfl
  · have hmode' : (x.g.priv && !(s.warp x.core x.slot).privileged) = false := by
      cases hpriv : x.g.priv with
      | false => rfl
      | true => rw [show (s.warp x.core x.slot).privileged = true from hmode hpriv]; rfl
    unfold Iss.run
    simp only [hi, hw, hmode', hallot]
    rfl

/-! ### ERET (R329, R332) -/

/-- The warp after its return from a trap: privileged as PREVPRIV says, with every other entry at age 0. -/
def Warp.returned (w : Warp) (i : Nat) (e : Entry) : Warp :=
  { w with frontier := w.frontier.map (fun y : Entry => { y with age := 0 }), privst := if w.privst.getLsbD 1 then 1#32 else 0#32, trapping := none }.replaceEntry
    i [e]

theorem Warp.returned_ages {w : Warp} {i : Nat} {e : Entry} (he : e.age = 0) : ∀ y ∈ (w.returned i e).frontier, y.age = 0 := by
  intro y hy
  unfold Warp.returned Warp.replaceEntry at hy
  simp only [List.mem_append, List.mem_singleton] at hy
  obtain (hy | hy) | hy := hy
  · obtain ⟨a, -, rfl⟩ := List.mem_map.mp (List.mem_of_mem_take hy)
    rfl
  · rw [hy, he]
  · obtain ⟨a, -, rfl⟩ := List.mem_map.mp (List.mem_of_mem_drop hy)
    rfl

theorem Warp.returned_eq (w : Warp) (i : Nat) (e : Entry) : w.returned i e =
    { w with frontier := (w.returned i e).frontier, privst := if w.privst.getLsbD 1 then 1#32 else 0#32, trapping := none } := rfl

theorem Warp.returned_entry (w : Warp) {i : Nat} (e : Entry) (h : i < w.frontier.length) : (w.returned i e).entry i = some e :=
  Warp.entry_replaceEntry_one _ _ _ (by rw [List.length_map]; exact h)

/-- A return from a trap to an address that R228 allows. -/
theorem State.returnTrap_even {s : State} {c slot idx pc : Nat} {e : Entry} (he : (s.warp c slot).entry idx = some e)
    (hodd : (s.warp c slot).epc.getLsbD 0 = false) (hhigh : (s.warp c slot).epc.toNat < 2 ^ 57) :
    ∃ prio, s.returnTrap c slot idx pc = s.setWarp c slot ((s.warp c slot).returned idx
      { pc := (s.warp c slot).epc.setWidth 57, prio := prio, mask := e.mask }) := by
  unfold State.returnTrap
  simp only [he, hodd, field_high_eq_zero hhigh, Bool.false_eq_true, ne_eq, not_true_eq_false, if_false]
  exact ⟨_, rfl⟩

theorem getElem?_of_findIdx {α : Type} {p : α → Bool} {xs : List α} {k i : Nat} {a : α} (h : findIdx p xs k = some (i, a)) :
    k ≤ i ∧ xs[i - k]? = some a := by
  induction xs generalizing k with
  | nil => cases h
  | cons b t ih =>
    unfold findIdx at h
    split at h
    · cases h
      simp
    · obtain ⟨hle, hget⟩ := ih h
      refine ⟨by omega, ?_⟩
      rw [show i - k = i - (k + 1) + 1 by omega, List.getElem?_cons_succ, hget]

/-- The entry that holds some lanes stands at its index. -/
theorem Warp.entry_of_entryOf {w : Warp} {m : LaneMask} {i : Nat} {e : Entry} (h : w.entryOf m = some (i, e)) : w.entry i = some e :=
  (getElem?_of_findIdx h).2

/-- Settles O41: the entry that holds every live lane of the trapping entry returns, to an even address below 2^57. -/
theorem returnFromTrapRestores : Obligations.ReturnFromTrapRestores := by
  unfold Obligations.ReturnFromTrapRestores
  intro f s x i e d u w h hq hent hall hodd hhigh
  have hentry := Warp.entry_of_entryOf hent
  have hexec : exec (.eret f) s = .next (u.returnTrap x.core x.slot i x.pc) := by
    have hempty : ¬((!(warpOf x d).storeq.isEmpty) = true) := by rw [hq]; exact Bool.false_ne_true
    refine runCore_placed h _ _ ((if_neg hempty).trans ?_)
    dsimp only
    split
    next hnone => exact absurd (hnone.symm.trans hent) (Option.some_ne_none _).symm
    next j y hsome =>
      obtain ⟨rfl, rfl⟩ := Prod.mk.inj (Option.some.inj (hsome.symm.trans hent))
      refine if_pos ?_
      split
      next t ht => exact hall t ht
      next => exact BitVec.zero_and
  obtain ⟨prio, hret⟩ : ∃ prio, u.returnTrap x.core x.slot i x.pc = u.setWarp x.core x.slot
      (w.returned i { pc := w.epc.setWidth 57, prio := prio, mask := e.mask }) := State.returnTrap_even hentry hodd hhigh
  rw [hret] at hexec
  clear_value w
  exact ⟨_, hexec, rfl, rfl, Warp.returned_eq _ _ _, ⟨_, Warp.returned_entry _ _ (Warp.lt_of_entry hentry), rfl, rfl, rfl, rfl⟩, Warp.returned_ages rfl⟩

/-! ### TLBI (R108, R331) -/

/-- Settles O42: an empty range ends at once, and any other TLBI once its release is ready and none of the accesses it names is under way. -/
theorem invalidationDropsCopies : Obligations.InvalidationDropsCopies := by
  unfold Obligations.InvalidationDropsCopies
  intro f s x k h hc hk n scope a
  obtain ⟨-, hp⟩ := executes_whole h (by rw [issOf_sig h.holds rfl])
  have hctx : n.ctxOf x.core x.slot = s.ctxOf x.core x.slot := Iss.ctxOf_note x s
  have ha : x.a64 (n.warp x.core x.slot) (x.warpLane (x.part (warpOf x s))) = a := Iss.a64_note x s _
  refine ⟨fun hk0 => runCore_closed_done h hc hp _ _ rfl ?_, ?_⟩
  · simp only [hk]
    refine if_pos ?_
    rw [hctx, ha, hk0]
  · intro hk0 hr u v hpending
    refine runCore_closed_done h hc hp _ _ rfl ?_
    simp only [hk]
    refine (if_neg ?_).trans ((Iss.release_ready _ _ _ _ _ hr).trans (if_neg (ne_true_of_eq_false hpending)))
    rw [hctx, ha]
    exact hk0

end Sys2Proof.Machine
end

section
/-! SUPPORT. Instructions with per-lane operands in an entry without a participating lane. -/

namespace Sys2Proof.Machine

open Safety

section
variable {x : Iss} {s : State} (hp : x.part (warpOf x s) = 0#32)
include hp

theorem Iss.part_note_none : x.part ((x.note s).warp x.core x.slot) = 0#32 := (Iss.part_issued x s).trans hp

theorem closedLanes_none : closedLanes x s := by
  unfold closedLanes Iss.openPart filterMask
  rw [hp]
  rfl

/-- An access without a participating lane whose effect does nothing for no lanes (R268). -/
theorem Iss.memory_none (un : Bool) (check : Warp → State → Nat → Reach × State) {eff : List LaneAt → State → Res}
    (he : eff [] (x.note s) = .done { s := x.note s }) : x.memory (x.note s) un check eff = .done { s := x.note s } := by
  have hreach : reaches x s check [] (x.note s) := ⟨[], by rw [Iss.part_issued, hp]; rfl, rfl, rfl, rfl⟩
  rw [Iss.memory_eq x s (x.note s) un check [] eff (closedLanes_none hp) hreach, he]
  simp only [BitVec.or_zero, sortGo, List.foldl_nil]

/-- Without a participating lane no map is read again, and no coordinate or data register is empty. -/
theorem Iss.mapped_none (eff : Res) : x.mapped (x.note s) eff = eff := by
  refine Iss.mapped_eq x _ eff ?_ ?_
  · unfold Iss.mapWaits
    simp only [Iss.part_note_none hp, lanes_zero, List.any_nil]
  · unfold Iss.mapEmpty
    simp only [Iss.part_note_none hp, filterMask, lanes_zero, List.filter_nil, maskOf]

/-- A trap instruction without a participating lane. -/
theorem trapInstr_none (cause : Nat) : trapInstr cause x (x.note s) = .done { s := x.note s } := by
  unfold trapInstr
  rw [Iss.part_note_none hp]
  exact if_pos rfl

theorem Iss.accWrite_none (reads writes : Nat → Nat → Bool) (eff : LaneMask → Group → SMap Word) :
    x.accWrite (x.note s) reads writes eff = .done { s := x.note s } := by
  unfold Iss.accWrite
  simp only [Iss.part_note_none hp, if_true]

theorem Iss.accRead_none (cell : Warp → Nat → Nat) : x.accRead (x.note s) cell = .done { s := x.note s } := by
  unfold Iss.accRead
  simp only [Iss.part_note_none hp, if_true]

end

/-- The frame of R154 without a participating lane. -/
theorem runCore_closed_none {i : Instr} {s : State} {x : Iss} (h : Executes i s x) (hp : x.part (warpOf x s) = 0#32) (eff : LaneMask → State → Res)
    (run : Iss → State → Res) (hrun : run x (x.note s) = x.closed (x.note s) eff) : runCore i run s = .next (after x { s := x.note s }) :=
  runCore_done h _ _ (hrun.trans (Iss.closed_none x s eff hp))

/-- The frame of per-lane addresses without a participating lane. -/
theorem runCore_memory_none {i : Instr} {s : State} {x : Iss} (h : Executes i s x) (hp : x.part (warpOf x s) = 0#32) (un : Bool)
    (check : Warp → State → Nat → Reach × State) (eff : List LaneAt → State → Res) (run : Iss → State → Res)
    (hrun : run x (x.note s) = x.memory (x.note s) un check eff) (he : eff [] (x.note s) = .done { s := x.note s }) :
    runCore i run s = .next (after x { s := x.note s }) :=
  runCore_done h _ _ (hrun.trans (Iss.memory_none hp un check he))

/-- The same through a shard map. -/
theorem runCore_mapped_none {i : Instr} {s : State} {x : Iss} (h : Executes i s x) (hp : x.part (warpOf x s) = 0#32) (un : Bool)
    (check : Warp → State → Nat → Reach × State) (eff : List LaneAt → State → Res) (run : Iss → State → Res)
    (hrun : run x (x.note s) = x.mapped (x.note s) (x.memory (x.note s) un check eff)) (he : eff [] (x.note s) = .done { s := x.note s }) :
    runCore i run s = .next (after x { s := x.note s }) :=
  runCore_done h _ _ (hrun.trans ((Iss.mapped_none hp _).trans (Iss.memory_none hp un check he)))

/-- Settles O17: each frame of per-lane operands does nothing for no lanes. -/
theorem noParticipantNoEffect : Obligations.NoParticipantNoEffect := by
  unfold Obligations.NoParticipantNoEffect
  intro i f s x h hp hi
  have hpart := Iss.part_note_none hp
  simp only [List.mem_cons, List.not_mem_nil, or_false] at hi
  obtain rfl | rfl | rfl | rfl | rfl | rfl | rfl | rfl | rfl | rfl | rfl | rfl | rfl | rfl | rfl | rfl | rfl | rfl | rfl | rfl | rfl | rfl | rfl |
    rfl | rfl | rfl | rfl | rfl := hi
  · exact runCore_memory_none h hp _ _ _ _ rfl rfl
  · exact runCore_memory_none h hp _ _ _ _ rfl rfl
  · exact runCore_mapped_none h hp _ _ _ _ rfl rfl
  · exact runCore_mapped_none h hp _ _ _ _ rfl rfl
  · exact runCore_memory_none h hp _ _ _ _ rfl rfl
  · exact runCore_memory_none h hp _ _ _ _ rfl rfl
  · exact runCore_memory_none h hp _ _ _ _ rfl rfl
  · exact runCore_memory_none h hp _ _ _ _ rfl rfl
  · exact runCore_memory_none h hp _ _ _ _ rfl rfl
  · exact runCore_memory_none h hp _ _ _ _ rfl rfl
  · exact runCore_closed_none h hp _ _ rfl
  · exact runCore_closed_none h hp _ _ rfl
  · refine runCore_done h _ _ ?_
    simp only [hpart, BitVec.zero_and, lanes_zero]
    rfl
  · exact runCore_closed_none h hp _ _ rfl
  · exact runCore_closed_none h hp _ _ rfl
  · exact runCore_closed_none h hp _ _ rfl
  · refine runCore_done h _ _ ?_
    simp only [hpart]
    rfl
  · exact runCore_closed_none h hp _ _ rfl
  · exact runCore_closed_none h hp _ _ rfl
  · exact runCore_done h _ _ (trapInstr_none hp _)
  · exact runCore_done h _ _ (trapInstr_none hp _)
  · exact runCore_done h _ _ (trapInstr_none hp _)
  · refine runCore_done h _ _ ?_
    simp only [show x.openPart ((x.note s).warp x.core x.slot) = 0#32 from closedLanes_note (closedLanes_none hp), lanes_zero]
    rfl
  · refine runCore_done h _ _ ?_
    simp only [hpart, if_true]
  · refine runCore_done h _ _ ?_
    simp only [hpart, if_true]
  · exact runCore_done h _ _ (Iss.accRead_none hp _)
  · exact runCore_done h _ _ (Iss.accRead_none hp _)
  · exact runCore_done h _ _ (Iss.accWrite_none hp _ _ _)

end Sys2Proof.Machine
end

section
/-! SUPPORT. Tiles: what their instructions come to when no command waits for the tile. -/

namespace Sys2Proof.Machine

open Safety

/-- The noted state's issuing warp, named. -/
theorem Iss.warp_note (x : Iss) (s : State) : (x.note s).warp x.core x.slot = warpOf x (x.note s) := rfl

/-! ### TRES and TREL (R291, R292) -/

/-- A legal record reserves its tile: a virtual one as it stands, a plain one as its plan at a free run. -/
theorem Iss.reserve_virtual {x : Iss} {s : State} (m : LaneMask) {rec : Nat} (hl : recordIllegal rec = false) (hs : recordShapeBad rec = false)
    (hn : (s.groupOf x.core x.slot).names .proposed x.f.rd.toNat = false) (hv : tileVirt rec = true)
    (hfit : unfoldOff rec + unfoldBytes rec ≤ (s.groupOf x.core x.slot).allot.sbytes) :
    x.reserve s m rec = .done { s := x.withGroup s (fun g => { g with tiles := SMap.set 0#256 g.tiles x.f.rd.toNat (BitVec.ofNat 256 rec) }) } := by
  unfold Iss.reserve
  simp only [hl, hn, hs, hv, Bool.false_eq_true, if_false, if_true, if_neg (Nat.not_lt.mpr hfit)]

theorem Iss.reserve_plain {x : Iss} {s : State} (m : LaneMask) {rec b : Nat} (hl : recordIllegal rec = false) (hs : recordShapeBad rec = false)
    (hn : (s.groupOf x.core x.slot).names .proposed x.f.rd.toNat = false) (hv : tileVirt rec = false)
    (hb : (s.groupOf x.core x.slot).freeTile x.f.rd.toNat (tilePlan rec).2.2 = some b) :
    x.reserve s m rec = .done { s := x.withGroup s (fun g => { g with tiles := SMap.set 0#256 g.tiles x.f.rd.toNat (BitVec.ofNat 256
      (rec % 2 ^ 96 + b * 2 ^ 96 + (tilePlan rec).2.2 * 2 ^ 128 + (tilePlan rec).1 * 2 ^ 160 + (tilePlan rec).2.1 * 2 ^ 192)) }) } := by
  unfold Iss.reserve
  simp only [hl, hn, hs, hv, Bool.false_eq_true, if_false, hb]

/-- The record that TRES reserves: its immediate one, or the one that it reads. -/
def tresRecord (x : Iss) (s : State) (rec : Nat) (u : State) : Prop :=
  let n := x.note s; let l := x.warpLane (x.part (warpOf x s)); let va := x.a64 (warpOf x s) l
  (∃ ok, x.imm = .z24 ok) ∧ rec = immRecord (imm24 x.f) ∧ u = n ∨
    (∀ ok, x.imm ≠ .z24 ok) ∧ va % 32 = 0 ∧ n.readRecord x.core x.slot l x.pc 4 va = (.val rec, u)

/-- What TRES comes to: the reservation of its record. -/
theorem exec_tres {f : Form64} {s u : State} {x : Iss} {rec : Nat} {o : Out} (h : Executes (.tres f) s x) (hrec : tresRecord x s rec u)
    (hfree : x.tile (x.note s) x.f.rd.toNat = 0 ∨ (x.note s).tileUsed x.core (warpOf x s).group x.f.rd.toNat = false)
    (hturn : ((x.note s).groupOf x.core x.slot).tileFirst x.f.rd.toNat = none)
    (hres : x.reserve u (x.part (warpOf x s)) rec = .done o) : exec (.tres f) s = .next (after x o) := by
  refine runCore_done h _ _ ?_
  simp only [Iss.warp_note, Iss.part_issued, Iss.group_note, Iss.a64_note]
  refine (Iss.tileTurn_free _ _ _ _ _ _ _ hturn ?_).trans ?_
  · rw [Bool.or_eq_true, beq_iff_eq, Bool.not_eq_true']
    exact hfree
  · obtain ⟨⟨ok, himm⟩, rfl, rfl⟩ | ⟨himm, halign, hread⟩ := hrec
    · simp only [himm]
      exact hres
    · split
      next ok hz => exact absurd hz (himm ok)
      next =>
        rw [if_neg (not_not.mpr halign)]
        unfold Iss.withRecord
        rw [hread]
        exact hres

/-- Settles O28: a legal record is reserved in a tile that nothing uses, and such a tile is freed. -/
theorem tileReservations : Obligations.TileReservations := by
  unfold Obligations.TileReservations
  intro f s u x rec td n
  refine ⟨?_, ?_⟩
  · intro h hrec hfree hturn hl hs hn
    exact ⟨fun hv hfit => exec_tres h hrec hfree hturn (Iss.reserve_virtual _ hl hs hn hv hfit),
      fun hv b hb => exec_tres h hrec hfree hturn (Iss.reserve_plain _ hl hs hn hv hb)⟩
  · intro h hturn
    refine ⟨fun hzero => runCore_done h _ _ ?_, fun hne hused hnames => runCore_done h _ _ ?_⟩
    · refine (Iss.tileTurn_free _ _ _ _ _ _ _ hturn ?_).trans (if_pos hzero)
      rw [Bool.or_eq_true, beq_iff_eq]
      exact .inl hzero
    · simp only [Iss.warp_note, Iss.group_note]
      refine (Iss.tileTurn_free _ _ _ _ _ _ _ hturn ?_).trans ((if_neg hne).trans (if_neg (ne_true_of_eq_false hnames)))
      rw [Bool.or_eq_true, Bool.not_eq_true']
      exact .inr hused

/-! ### TLD and TST (R294, R295) -/

/-- An engine command whose pending release, if any, is ready, and whose effect is done. -/
theorem runCore_command_done {i : Instr} {s : State} {x : Iss} (h : Executes i s x) (hc : closedLanes x s) (hp : x.part (warpOf x s) ≠ 0#32)
    (hf : commandFree x s) (eff : LaneMask → State → Res) (run : Iss → State → Res) (hrun : run x (x.note s) = x.command (x.note s) eff) {o : Out}
    (he : eff (x.part (warpOf x s)) (commandState x s) = .done o) : runCore i run s = .next (after x { o with go := sortGo o.go }) := by
  refine runCore_done h _ _ ?_
  rw [hrun, Iss.command_free x s eff hc hp hf, he]
  rfl

/-- A transfer whose checks all pass and whose runs all translate is launched. -/
theorem Iss.tileEff_launches {x : Iss} {load : Bool} {m : LaneMask} {n u v z : State} {d : Nat} {map : Option Nat} {sps : List Span} {runs : List TileRun}
    {acc : Acc} (hacc : acc = if load then .tileRead else .tileWrite) :
    let w := warpOf x n; let l := x.warpLane m; let t := x.tile n x.f.rd.toNat; let g := n.groupOf x.core x.slot
    let org := firstN (tRank d) (fun k => (w.get (x.r2.plus k) l).toNat)
    t ≠ 0 → tileVirt t = false → x.tensor n l (x.a64 w l) = (.ok d map, u) → runAllotted g.allot x.r2 (tRank d) = true →
    w.emptyLanes x.r2 (1#32 <<< l) (tRank d) = 0#32 → tileMismatch d t org = false →
    ((tileFmt t = 8 ∨ tileFmt t = 9) → map = none → (field d 0 64 + field d 408 40) % 4 = 0) →
    (∀ b, x.tileMods.1 = some b → b + 16 ≤ g.allot.sbytes) → (map ≠ none → outside d org = false) →
    u.tileSpans g.ctx d t acc.code map org (tileShape t).1 0 = (.ok sps, v) →
    v.placeSpans x.core g.ctx w.privileged acc (if load then sps else sps.filter (fun sp => sp.at_.isSome)) = (.ok runs, z) →
    x.tileEff load m n = x.launchTile z m load t runs := by
  subst hacc
  intro w l t g org ht hv htensor hallot hfull hmis hzp hbar hout hspans hplace
  have hread : x.tensor n (x.warpLane m) (x.a64 (n.warp x.core x.slot) (x.warpLane m)) = (.ok d map, u) := htensor
  have hreserved : ¬(t = 0 ∨ tileVirt t = true) := fun hor => hor.elim ht (ne_true_of_eq_false hv)
  have hzero : ¬((tileFmt t = 8 ∨ tileFmt t = 9) ∧ map.isNone = true ∧ (field d 0 64 + field d 408 40) % 4 ≠ 0) :=
    fun ⟨hfmt, hmap, hne⟩ => hne (hzp hfmt (Option.isNone_iff_eq_none.mp hmap))
  have hbarrier : ¬(x.tileMods.1.any (fun b => decide (b + 16 > g.allot.sbytes)) = true) := by
    rw [Option.any_eq_true]
    rintro ⟨b, hb, hlt⟩
    exact Nat.not_lt.mpr (hbar b hb) (of_decide_eq_true hlt)
  have hinside : ¬(map.isSome = true ∧ outside d org = true) :=
    fun ⟨hsome, ho⟩ => ne_true_of_eq_false (hout (Option.isSome_iff_ne_none.mp hsome)) ho
  unfold Iss.tileEff
  refine (if_neg hreserved).trans ?_
  simp only [hread]
  refine (if_neg (by rw [hallot]; exact Bool.false_ne_true)).trans ((if_neg (not_not.mpr hfull)).trans ((if_neg (ne_true_of_eq_false hmis)).trans
    ((if_neg hzero).trans ((if_neg hbarrier).trans ((if_neg hinside).trans ?_)))))
  dsimp only [w, l, t, g, org, warpOf] at hspans hplace
  simp only [hspans, hplace]
  rfl

/-- Settles O29: a descriptor that passes every check of R294 launches its runs. -/
theorem tileTransfersAreLaunched : Obligations.TileTransfersAreLaunched := by
  unfold Obligations.TileTransfersAreLaunched
  intro f s u v z x load d map sps runs i n w m l t org h hc hf hready hturn ht hv htensor hallot hfull hmis hzp hbar hout acc hspans hplace
  have heff : x.tileEff load m n = x.launchTile z m load t runs :=
    Iss.tileEff_launches rfl ht hv htensor hallot hfull hmis hzp hbar hout hspans hplace
  refine ⟨_, rfl, ?_⟩
  cases load with
  | true =>
    obtain ⟨-, hp⟩ := executes_whole h (by rw [issOf_sig h.holds rfl])
    refine runCore_command_done h hc hp hf _ _ rfl ((Iss.tileTurn_free _ _ _ _ _ _ _ hturn ?_).trans heff)
    rw [Bool.not_eq_true']
    exact hready
  | false =>
    obtain ⟨-, hp⟩ := executes_whole h (by rw [issOf_sig h.holds rfl])
    exact runCore_command_done h hc hp hf _ _ rfl ((Iss.tileTurn_free _ _ _ _ _ _ _ hturn (beq_iff_eq.mpr hready)).trans heff)

/-! ### TWR and TRD (R296) -/

theorem Iss.tileOff_note (x : Iss) (s : State) (l : Nat) : x.tileOff (warpOf x (x.note s)) l = x.tileOff (warpOf x s) l := by
  unfold Iss.tileOff
  rw [Iss.b_note]

theorem Iss.badOffs_note (x : Iss) (s : State) (t : Nat) (m : LaneMask) : x.badOffs (warpOf x (x.note s)) t m = x.badOffs (warpOf x s) t m := by
  unfold Iss.badOffs
  simp only [Iss.tileOff_note]

/-- A change of the issuing group meets no bit error where none stands. -/
theorem Iss.healWords_withGroup {x : Iss} {s : State} (hclean : s.ecc = []) (fg : Group → Group) (c gi : Nat) (writes : Nat → Bool) :
    Res.done { s := (x.withGroup (x.note s) fg).healWords c gi writes } = .done { s := x.withGroup (x.note s) fg } := by
  rw [State.healWords_clean _ _ _ _ (by rw [Iss.withGroup_ecc, Iss.note_ecc, hclean])]

/-- The issuing warp with a read under way: its destination is empty until the values arrive (R28). -/
def Warp.awaits (w : Warp) (r : InFlight) : Warp :=
  { w.markEmptyRun r.dst (r.pend ||| r.trapLanes) r.regs with inflight := w.inflight ++ [r] }

theorem Warp.awaits_fields (w : Warp) (r : InFlight) :
    (w.awaits r).frontier = w.frontier ∧ (w.awaits r).v = w.v ∧ (w.awaits r).s = w.s ∧ (w.awaits r).p = w.p ∧ r ∈ (w.awaits r).inflight := by
  unfold Warp.awaits
  rw [Warp.markEmptyRun_eq]
  exact ⟨rfl, rfl, rfl, rfl, List.mem_append_right _ (List.mem_singleton.mpr rfl)⟩

theorem Iss.launchRead_pend (x : Iss) (s : State) {r : InFlight} (hp : r.pend ≠ 0#32) :
    x.launchRead s r = .done { s := s.setWarp x.core x.slot ((warpOf x s).awaits r) } := if_pos hp

/-- The record of a TRD: its values are read at once where no load is still landing (R293, R296). -/
def trdRecord (x : Iss) (s : State) : InFlight :=
  let w := warpOf x s; let m := x.part w; let g := (x.note s).groupOf x.core x.slot; let ahead := g.loads x.f.rs1.toNat
  let at_ := fun l => tileBase (x.tile (x.note s) x.f.rs1.toNat) + x.tileOff w l + 4 * l
  let r := { x.record 4 false 0 0 with pend := m, ahead := ahead, unperformed := m, addr := (lanes m).map (fun l => (l, at_ l)) }
  if ahead ≠ 0 then r else r.readBuffers 0#32 (fun l => bufRead g.opbuf (at_ l) 4)

theorem trdRecord_fields (x : Iss) (s : State) :
    let w := warpOf x s; let m := x.part w; let g := (x.note s).groupOf x.core x.slot; let r := trdRecord x s
    r.pc = x.pc ∧ r.pend = m ∧ r.dreg = x.f.rd.toNat ∧ r.ahead = g.loads x.f.rs1.toNat ∧
      (g.loads x.f.rs1.toNat = 0 → r.val = (lanes m).map (fun l =>
        (l, bufRead g.opbuf (tileBase (x.tile (x.note s) x.f.rs1.toNat) + x.tileOff w l + 4 * l) 4))) := by
  unfold trdRecord
  dsimp only
  split
  next hne => exact ⟨rfl, rfl, rfl, rfl, fun h => absurd h hne⟩
  next heq =>
    rw [not_not] at heq
    exact ⟨rfl, BitVec.and_allOnes, rfl, heq.symm, fun _ => rfl⟩

/-- What TRD comes to: its record is put under way. -/
theorem exec_trd {f : Form64} {s : State} {x : Iss} {o : Out} (h : Executes (.trd f) s x) (hp : x.part (warpOf x s) ≠ 0#32)
    (hturn : ((x.note s).groupOf x.core x.slot).tileFirst x.f.rs1.toNat = none) (ht : x.tile (x.note s) x.f.rs1.toNat ≠ 0)
    (hv : tileVirt (x.tile (x.note s) x.f.rs1.toNat) = false)
    (hoff : x.badOffs (warpOf x s) (x.tile (x.note s) x.f.rs1.toNat) (x.part (warpOf x s)) = 0#32)
    (ho : x.launchRead (x.note s) (trdRecord x s) = .done o) : exec (.trd f) s = .next (after x o) := by
  have hreserved : ¬(x.tile (x.note s) x.f.rs1.toNat = 0 ∨ tileVirt (x.tile (x.note s) x.f.rs1.toNat) = true) :=
    fun hor => hor.elim ht (ne_true_of_eq_false hv)
  have hmeet : ∀ reads, (x.note s).meetErrors x.core (warpOf x s).group ((x.note s).groupOf x.core x.slot).ctx reads = ([], x.note s) :=
    fun reads => State.meetErrors_clean _ _ _ _ _ (by rw [Iss.note_ecc, h.clean])
  refine runCore_done h _ _ (Eq.trans ?_ ho)
  simp only [Iss.warp_note, Iss.part_issued, Iss.group_note, Iss.badOffs_note, Iss.tileOff_note]
  refine (if_neg hp).trans ((Iss.tileTurn_free _ _ _ _ _ _ _ hturn rfl).trans ((if_neg hreserved).trans ((if_neg (not_not.mpr hoff)).trans ?_)))
  simp only [hmeet]
  unfold trdRecord
  by_cases hahead : ((x.note s).groupOf x.core x.slot).loads x.f.rs1.toNat = 0
  · simp only [hahead, ne_eq, not_true_eq_false, if_false]
    rfl
  · simp only [ne_eq, hahead, not_false_eq_true, if_true]

/-- Settles O30: without bit errors the words are written, or read, as they stand. -/
theorem tileWordsAreWrittenAndRead : Obligations.TileWordsAreWrittenAndRead := by
  unfold Obligations.TileWordsAreWrittenAndRead
  intro f s x n w m
  refine ⟨?_, ?_⟩
  · intro h t hloads hnames hturn ht hv
    have hturned : ∀ eff, x.tileTurn n m x.f.rd.toNat (.tileOpen x.f.rd.toNat)
        ((n.groupOf x.core x.slot).loads x.f.rd.toNat == 0 && !(n.groupOf x.core x.slot).names .issued x.f.rd.toNat) eff = eff n :=
      fun eff => Iss.tileTurn_free _ _ _ _ _ _ _ hturn (by rw [hloads, hnames]; rfl)
    have hreserved : ¬(t = 0 ∨ tileVirt t = true) := fun hor => hor.elim ht (ne_true_of_eq_false hv)
    refine ⟨fun hc3 hoff => runCore_done h _ _ ?_, fun hc3 hwide => runCore_done h _ _ ?_, fun hc3 hwide hodd hallot hfull => runCore_done h _ _ ?_⟩
    · simp only [Iss.warp_note, Iss.part_issued, Iss.group_note, Iss.a_note, Iss.a64_note, Iss.badOffs_note, Iss.tileOff_note]
      exact (hturned _).trans ((if_neg hreserved).trans ((if_neg hc3).trans ((if_neg (not_not.mpr hoff)).trans (Iss.healWords_withGroup h.clean _ _ _ _))))
    · have hnarrow : (fmtBits (tileFmt (x.tile (x.note s) x.f.rd.toNat)) == 64) = false := beq_eq_false_iff_ne.mpr hwide
      simp only [Iss.warp_note, Iss.part_issued, Iss.group_note, Iss.a_note, Iss.a64_note, Iss.emptyLanes_note,
        hnarrow, Bool.false_and, Bool.false_eq_true, if_false]
      exact (hturned _).trans ((if_neg hreserved).trans ((if_pos hc3).trans (Iss.healWords_withGroup h.clean _ _ _ _)))
    · have hwide' : (fmtBits (tileFmt (x.tile (x.note s) x.f.rd.toNat)) == 64) = true := beq_iff_eq.mpr hwide
      have heven : (x.f.rs1.toNat % 2 == 1) = false := by rw [hodd]; rfl
      have hallot' : (!runAllotted ((x.note s).groupOf x.core x.slot).allot x.r1 2) = false := by
        rw [show runAllotted ((x.note s).groupOf x.core x.slot).allot x.r1 2 = true from hallot]; rfl
      have hfull' : ((warpOf x s).emptyLanes x.r1 (x.part (warpOf x s)) 2 != 0#32) = false := by
        rw [show (warpOf x s).emptyLanes x.r1 (x.part (warpOf x s)) 2 = 0#32 from hfull]; rfl
      simp only [Iss.warp_note, Iss.part_issued, Iss.group_note, Iss.a_note, Iss.a64_note, Iss.emptyLanes_note,
        hwide', heven, hallot', hfull', Bool.and_false, Bool.false_eq_true, if_false, if_true]
      exact (hturned _).trans ((if_neg hreserved).trans ((if_pos hc3).trans (Iss.healWords_withGroup h.clean _ _ _ _)))
  · intro h t ahead at_ hturn ht hv hoff hp
    obtain ⟨hpc, hpend, hdreg, hahead, hval⟩ := trdRecord_fields x s
    obtain ⟨hfront, hvec, huni, hpred, hmem⟩ := Warp.awaits_fields (warpOf x n) (trdRecord x s)
    have hn := Iss.note_eq x s
    refine ⟨(warpOf x n).awaits (trdRecord x s), exec_trd h hp hturn ht hv hoff (Iss.launchRead_pend x n (by rw [hpend]; exact hp)), hfront, ?_, ?_, ?_,
      trdRecord x s, hmem, hpc, hpend, hdreg, hahead, hval⟩
    · rw [hvec, hn]
    · rw [huni, hn]
    · rw [hpred, hn]

end Sys2Proof.Machine
end

section
/-! SUPPORT. Agreements, accumulators, the scoreboard and engine commands: what their instructions come to. -/

namespace Sys2Proof.Machine

open Safety

/-! ### Agreements (R297 to R299) -/

/-- A matrix instruction that opens no proposal traps in no register that is open, or holds its own proposal. -/
theorem proposeEff_opened {x : Iss} {s : State} (hopen : (x.agr (x.note s) x.f.rs3.toNat).state = .opened)
    (hfit : tilesFit x.i x.f.ty.toNat (x.tile (x.note s) x.f.rs1.toNat) (x.tile (x.note s) x.f.rs2.toNat) = true) :
    proposeEff x (x.note s) = .done { s := x.putAgr (x.note s) x.f.rs3.toNat { x.agr (x.note s) x.f.rs3.toNat with
      state := .proposed, proposal := some x.insn, proposer := some ((warpOf x s).windex, x.pc, x.part (warpOf x s)) } } := by
  unfold proposeEff
  simp only [Iss.warp_note, Iss.part_issued, Iss.windex_note, hopen, hfit, reduceCtorEq, false_and, or_self, Bool.not_true, Bool.false_eq_true, if_false,
    if_true]

theorem proposeEff_agrees {x : Iss} {s : State} {p : Nat} (hprop : (x.agr (x.note s) x.f.rs3.toNat).state = .proposed)
    (hp : (x.agr (x.note s) x.f.rs3.toNat).proposal = some p) (hkey : proposalKey p = proposalKey x.insn)
    (hfit : tilesFit x.i x.f.ty.toNat (x.tile (x.note s) x.f.rs1.toNat) (x.tile (x.note s) x.f.rs2.toNat) = true) :
    proposeEff x (x.note s) = .done { s := x.note s } := by
  unfold proposeEff
  simp only [hprop, hp, hkey, bne_self_eq_false, hfit, reduceCtorEq, Bool.false_eq_true, and_false, or_self, Bool.not_true, if_false]

/-- Settles O31: the register is idle or open for what each instruction asks of it. -/
theorem agreementsOpenProposeAndSign : Obligations.AgreementsOpenProposeAndSign := by
  unfold Obligations.AgreementsOpenProposeAndSign
  intro f s x n w m
  refine ⟨?_, ?_, ?_⟩
  · intro h c a mask parts hne hsize
    have hmask : ¬(mask = 0 ∨ mask / 2 ^ (n.groupOf x.core x.slot).slots.length ≠ 0) := fun hor => hor.elim hne fun h => h hsize
    refine ⟨fun hidle => runCore_done h _ _ ?_, fun hidle hissued hwarps => runCore_done h _ _ ?_⟩
    · have hnot : ¬(a.state = .issued) := by rw [hidle]; exact AgrState.noConfusion
      simp only [Iss.warp_note, Iss.part_issued, Iss.group_note, Iss.a_note]
      exact (if_neg hmask).trans ((if_neg hnot).trans (if_neg (not_not.mpr hidle)))
    · simp only [Iss.warp_note, Iss.part_issued, Iss.group_note, Iss.a_note]
      exact (if_neg hmask).trans ((if_neg hissued).trans ((if_pos hidle).trans (if_pos hwarps)))
  · intro i hi h a hfit
    obtain ⟨hxi, -⟩ := issOf_eq h.holds
    rw [← hxi] at hfit
    simp only [List.mem_cons, List.not_mem_nil, or_false] at hi
    have hexec : exec i s = runCore i proposeEff s := by obtain rfl | rfl | rfl | rfl := hi <;> rfl
    exact ⟨fun hopen _ => by rw [hexec, runCore_done h _ _ (proposeEff_opened hopen hfit)],
      fun hprop p hp hkey => by rw [hexec, runCore_done h _ _ (proposeEff_agrees hprop hp hkey hfit)]⟩
  · intro h c a b hp hstate hlanes hlast
    refine runCore_done h _ _ ?_
    have hbad : ¬(a.state = .idle ∨ a.state = .issued ∨ m &&& ~~~(SMap.get 0#32 a.lanes w.windex) ≠ 0#32) := by
      rw [hlanes]
      obtain hs | hs := hstate <;> rw [hs] <;> simp
    have hmore : ¬((b.complete && !a.complete) = true) := by
      obtain hb | ha := hlast
      · rw [hb]; exact Bool.false_ne_true
      · rw [ha, Bool.not_true, Bool.and_false]; exact Bool.false_ne_true
    simp only [Iss.warp_note, Iss.part_issued, Iss.windex_note]
    exact (if_neg hp).trans ((if_neg hbad).trans (if_neg hmore))

/-! ### Accumulators (R301) -/

theorem Iss.withGroup_groupOf (x : Iss) (s : State) (fg : Group → Group) :
    (x.withGroup s fg).groupOf x.core x.slot = fg (s.groupOf x.core x.slot) := by
  unfold Iss.withGroup
  rw [State.groupOf_eq, State.setGroup_warp, State.setGroup_group, if_pos ⟨rfl, rfl⟩]
  rfl

/-- Changes of the issuing group are alike that agree on it. -/
theorem Iss.withGroup_congr {x : Iss} {s : State} {fg fg' : Group → Group} (h : fg (s.groupOf x.core x.slot) = fg' (s.groupOf x.core x.slot)) :
    x.withGroup s fg = x.withGroup s fg' :=
  congrArg (s.setGroup x.core (s.warp x.core x.slot).group) h

/-- An access in an accumulator's order is the issuing instruction's. -/
def Iss.ownAccOp (x : Iss) (w : Warp) (o : AccOp) : Bool :=
  o.acc == x.f.rd.toNat && o.agr.isNone && o.warp == w.windex && o.pc == x.pc && o.dreg.isNone && o.lanes &&& x.part w != 0#32

/-- The state in which the issuing write of an accumulator has its place in the order. -/
def Iss.accPlaced (x : Iss) (s : State) (w : Warp) : State :=
  if (s.groupOf x.core x.slot).accOrder.any (x.ownAccOp w) then s
  else x.withGroup s (fun g => { g with accOrder := g.accOrder ++ [{ acc := x.f.rd.toNat, warp := w.windex, pc := x.pc, lanes := x.part w }] })

theorem Iss.accPlaced_acc (x : Iss) (s : State) (w : Warp) : ((x.accPlaced s w).groupOf x.core x.slot).acc = (s.groupOf x.core x.slot).acc := by
  unfold Iss.accPlaced
  split
  · rfl
  · rw [Iss.withGroup_groupOf]

theorem Iss.accPlaced_ecc (x : Iss) (s : State) (w : Warp) : (x.accPlaced s w).ecc = s.ecc := by
  unfold Iss.accPlaced
  split
  · rfl
  · rfl

theorem Iss.ownAccOp_note (x : Iss) (s : State) : x.ownAccOp (warpOf x (x.note s)) = x.ownAccOp (warpOf x s) := by
  unfold Iss.ownAccOp
  rw [Iss.windex_note, Iss.part_issued]

theorem Iss.accPlaced_note (x : Iss) (s t : State) : x.accPlaced t (warpOf x (x.note s)) = x.accPlaced t (warpOf x s) := by
  unfold Iss.accPlaced
  rw [Iss.ownAccOp_note, Iss.windex_note, Iss.part_issued]

/-- A write of an accumulator whose turn has come takes effect, where no bit error stands. -/
theorem Iss.accWrite_turn {x : Iss} {t : State} (hclean : t.ecc = []) (hp : x.part (warpOf x t) ≠ 0#32) {o : AccOp}
    (ho : ((x.accPlaced t (warpOf x t)).groupOf x.core x.slot).accFirst x.f.rd.toNat = some o) (hmine : x.ownAccOp (warpOf x t) o = true)
    (reads writes : Nat → Nat → Bool) (eff : LaneMask → Group → SMap Word) :
    let placed := x.accPlaced t (warpOf x t)
    x.accWrite t reads writes eff = .done {
      s := (x.withGroup placed (fun g =>
          { g with acc := eff (x.part (warpOf x t)) g, accOrder := g.accOrder.filter (fun o => !x.ownAccOp (warpOf x t) o) })).pumpAcc x.core
        (warpOf x t).group x.f.rd.toNat ((placed.groupOf x.core x.slot).accOrder.length + 1) } := by
  intro placed
  have hecc : placed.ecc = [] := by rw [Iss.accPlaced_ecc, hclean]
  have hmeet : ∀ c gi ctx reads, placed.meetErrors c gi ctx reads = ([], placed) := fun _ _ _ _ => State.meetErrors_clean _ _ _ _ _ hecc
  have hheal : ∀ fg c gi writes, (x.withGroup placed fg).healWords c gi writes = x.withGroup placed fg :=
    fun fg _ _ _ => State.healWords_clean _ _ _ _ (by rw [Iss.withGroup_ecc, hecc])
  unfold Iss.accWrite
  extract_lets w m a mine op s' g' cells
  have hs : s' = placed := rfl
  clear_value s'
  subst hs
  refine (if_neg hp).trans ((if_pos ?_).trans ?_)
  · rw [show g'.accFirst a = some o from ho]
    exact hmine
  · have hm : m &&& ~~~0#32 = m := BitVec.and_allOnes
    simp only [hmeet, List.isEmpty_nil, if_true, hheal, hm]
    rfl

/-- A write instruction of an accumulator whose turn has come. -/
theorem runCore_accWrite {i : Instr} {s : State} {x : Iss} (h : Executes i s x) (hp : x.part (warpOf x s) ≠ 0#32)
    (hturn : ∃ o, ((x.accPlaced (x.note s) (warpOf x s)).groupOf x.core x.slot).accFirst x.f.rd.toNat = some o ∧ x.ownAccOp (warpOf x s) o = true)
    {reads writes : Nat → Nat → Bool} {eff : LaneMask → Group → SMap Word} {run : Iss → State → Res} {cells : SMap Word}
    (hrun : run x (x.note s) = x.accWrite (x.note s) reads writes eff)
    (hcells : eff (x.part (warpOf x s)) ((x.accPlaced (x.note s) (warpOf x s)).groupOf x.core x.slot) = cells) :
    let placed := x.accPlaced (x.note s) (warpOf x s)
    runCore i run s = .next (after x {
      s := (x.withGroup placed (fun g =>
          { g with acc := cells, accOrder := g.accOrder.filter (fun o => !x.ownAccOp (warpOf x s) o) })).pumpAcc x.core
        (warpOf x s).group x.f.rd.toNat ((placed.groupOf x.core x.slot).accOrder.length + 1) }) := by
  intro placed
  obtain ⟨o, ho, hmine⟩ := hturn
  have hwrite := Iss.accWrite_turn (t := x.note s) (by rw [Iss.note_ecc, h.clean]) (by rw [Iss.part_issued]; exact hp)
    (by rw [Iss.accPlaced_note]; exact ho) (by rw [Iss.ownAccOp_note]; exact hmine) reads writes eff
  simp only [Iss.accPlaced_note, Iss.ownAccOp_note, Iss.part_issued, Iss.group_note] at hwrite
  rw [runCore_done h run _ (hrun.trans hwrite), ← hcells]
  rfl

theorem Iss.accRow_note (x : Iss) (s : State) (l : Nat) : x.accRow (warpOf x (x.note s)) l = x.accRow (warpOf x s) l := by
  unfold Iss.accRow
  rw [Iss.b_note]

/-- A read of an accumulator takes its place in the order behind its record (R301). -/
theorem Iss.accRead_placed {x : Iss} {s : State} (hp : x.part (warpOf x s) ≠ 0#32) {cell : Warp → Nat → Nat} {at_ : Nat → Nat}
    (hcell : ∀ l, cell (warpOf x (x.note s)) l = at_ l) :
    let n := x.note s; let m := x.part (warpOf x s)
    let r : InFlight := { x.record 4 false 0 0 with pend := m, unperformed := m, addr := (lanes m).map (fun l => (l, at_ l)) }
    let v := x.withGroup (n.setWarp x.core x.slot { (warpOf x n).markEmptyRun r.dst m r.regs with inflight := (warpOf x n).inflight ++ [r] }) (fun g =>
      { g with accOrder := g.accOrder ++ [{ acc := x.f.rs1.toNat, warp := (warpOf x s).windex, pc := x.pc, lanes := m, dreg := some x.f.rd.toNat }] })
    x.accRead n cell = .done { s := v.pumpAcc x.core (warpOf x s).group x.f.rs1.toNat ((v.groupOf x.core x.slot).accOrder.length + 1) } := by
  intro n m r v
  have hmark : r.pend ||| r.trapLanes = m := BitVec.or_zero
  have hlaunch : x.launchRead n r = .done { s := n.setWarp x.core x.slot { (warpOf x n).markEmptyRun r.dst m r.regs with
      inflight := (warpOf x n).inflight ++ [r] } } := by
    rw [Iss.launchRead_pend x n hp, Warp.awaits, hmark]
  unfold Iss.accRead
  simp only [n, Iss.warp_note, Iss.part_issued, Iss.windex_note, Iss.group_note, hcell]
  refine (if_neg hp).trans ?_
  dsimp only [n, m, r] at hlaunch
  simp only [hlaunch]
  rfl

/-- Settles O32: a write whose turn has come takes effect, and a read takes its place. -/
theorem accumulatorAccesses : Obligations.AccumulatorAccesses := by
  unfold Obligations.AccumulatorAccesses
  intro f s x n w m g a mine placed order write
  refine ⟨?_, ?_, ?_, ?_⟩
  · intro h hp hturn
    refine runCore_accWrite h hp hturn rfl ?_
    rw [Iss.accPlaced_acc]
  · intro h hp hturn
    refine runCore_accWrite h hp hturn rfl ?_
    simp only [Iss.warp_note, Iss.accPlaced_acc, Iss.accRow_note, Iss.a_note]
    rfl
  · intro h hp hturn
    refine runCore_accWrite h hp hturn rfl ?_
    simp only [Iss.warp_note, Iss.accPlaced_acc, Iss.a_note]
    rfl
  · intro i hi h hp
    simp only [List.mem_cons, List.not_mem_nil, or_false] at hi
    obtain rfl | rfl := hi
    · refine ⟨_, runCore_done h _ _ (Iss.accRead_placed hp fun l => by rw [Iss.accRow_note]), rfl, rfl, rfl, ?_⟩
      simp only [if_true]
      rfl
    · refine ⟨_, runCore_done h _ _ (Iss.accRead_placed hp fun l => by rw [Iss.accRow_note]), rfl, rfl, rfl, ?_⟩
      simp only [reduceCtorEq, if_false]
      rfl

/-! ### The scoreboard and engine commands (R302 to R310) -/

/-- A command whose effect only changes the state. -/
theorem runCore_command_plain {i : Instr} {s u : State} {x : Iss} (h : Executes i s x) (hc : closedLanes x s) (hp : x.part (warpOf x s) ≠ 0#32)
    (hf : commandFree x s) (eff : LaneMask → State → Res) (run : Iss → State → Res) (hrun : run x (x.note s) = x.command (x.note s) eff)
    (he : eff (x.part (warpOf x s)) (commandState x s) = .done { s := u }) : runCore i run s = .next (after x { s := u }) :=
  runCore_command_done h hc hp hf eff run hrun he

/-- A command whose record can be read and passes the checks of R305. -/
theorem Iss.withCommand_passes {x : Iss} {s u : State} {m : LaneMask} {kind : Option Nat} {rec : Nat} (eff : (va rec : Nat) → State → Res)
    (halign : x.a64 (warpOf x s) (x.warpLane m) % 64 = 0)
    (hread : s.readRecord x.core x.slot (x.warpLane m) x.pc 8 (x.a64 (warpOf x s) (x.warpLane m)) = (.val rec, u))
    (hcheck : recordCheck (kind.getD (if field rec 424 4 = 1 then 1 else 0)) rec (u.groupOf x.core x.slot).allot.sbytes = none) :
    x.withCommand s m kind eff = eff (x.a64 (warpOf x s) (x.warpLane m)) rec u := by
  have hread' : s.readRecord x.core x.slot (x.warpLane m) x.pc 8 (x.a64 (s.warp x.core x.slot) (x.warpLane m)) = (.val rec, u) := hread
  unfold Iss.withCommand Iss.withRecord
  simp only [hread', hcheck]
  exact if_neg (not_not.mpr halign)

/-- The group record and the descriptors of a collective command pass the checks of R307: they give the command `k`, in the state `z`. -/
def Iss.collFits (x : Iss) (u : State) (m : LaneMask) (va rec grp : Nat) (k : EngineCmd) (z : State) : Prop :=
  grp % 16 = 0 ∧ ∃ u1 u2 src dst gm, x.tensor u (x.warpLane m) (field rec 0 64) = (.ok src none, u1) ∧
    x.tensor u1 (x.warpLane m) (field rec 64 64) = (.ok dst none, u2) ∧ collMismatch src dst (coreModule x.core) = false ∧
    (scalesBad src).or (scalesBad dst) = none ∧ tRepl dst ≠ 0 ∧
    u2.readRecord x.core x.slot (x.warpLane m) x.pc 2 grp = (.val gm, z) ∧ bit (field gm 96 32) (coreModule x.core) = true ∧
    field gm 96 32 &&& tRepl dst = tRepl dst ∧
    k = { x.engineCmd z m true rec va with src := src, dst := dst, gid := field gm 64 32, members := field gm 96 32 }

theorem Iss.withGroupRecord_fits {x : Iss} {u z : State} {m : LaneMask} {va rec grp : Nat} {k : EngineCmd} (h : x.collFits u m va rec grp k z)
    (eff : EngineCmd → State → Res) : x.withGroupRecord u m va rec grp false eff = eff k z := by
  obtain ⟨halign, u1, u2, src, dst, gm, hsrc, hdst, hmis, hscales, hrepl, hrec, hself, hmembers, rfl⟩ := h
  have hin : (!bit (field gm 96 32) (coreModule x.core) || field gm 96 32 &&& tRepl dst != tRepl dst) = false := by
    rw [hself, hmembers, bne_self_eq_false]; rfl
  unfold Iss.withGroupRecord Iss.withRecord
  simp only [hsrc, hdst, hmis, hscales, hrec, hin, Option.isSome_none, Bool.false_eq_true, if_false]
  exact (if_neg (not_not.mpr halign)).trans (if_neg hrepl)

/-- Settles O33: the scoreboard changes as named, and a command whose records pass every check is handed on or armed. -/
theorem engineCommandsAndScoreboard : Obligations.EngineCommandsAndScoreboard := by
  unfold Obligations.EngineCommandsAndScoreboard
  refine ⟨?_, ?_⟩
  · intro f s u x rec n w m v
    refine ⟨fun h hp hready => runCore_done h _ _ ?_, fun h hp => runCore_done h _ _ ?_, ?_⟩
    · simp only [Iss.warp_note, Iss.part_issued, Iss.group_note, Iss.a64_note]
      exact (if_neg hp).trans (Iss.release_ready x n 3 m _ hready)
    · simp only [Iss.warp_note, Iss.part_issued, Iss.a64_note]
      exact if_neg hp
    · intro c v h hc hf halign hread hcheck
      obtain ⟨-, hp⟩ := executes_whole h (by rw [issOf_sig h.holds rfl])
      exact runCore_command_plain h hc hp hf _ _ rfl (Iss.withCommand_passes (kind := some 0) _ halign hread hcheck)
  · intro f s u x rec n w m v l record fits hc hf
    refine ⟨?_, ?_⟩
    · intro k z q z' h hrec hres hfits hseq
      obtain ⟨hread, halign, hcheck⟩ := hrec
      obtain ⟨-, hp⟩ := executes_whole h (by rw [issOf_sig h.holds rfl])
      refine runCore_command_plain h hc hp hf _ _ rfl ((Iss.withCommand_passes (kind := some 1) _ halign hread hcheck).trans ?_)
      have hzero : (field rec 192 64 != 0) = false := by rw [hres]; rfl
      change x.withGroupRecord u m v rec (x.b64 w l) (field rec 192 64 != 0) _ = _
      rw [hzero, Iss.withGroupRecord_fits hfits]
      dsimp only [w, n, l, m, warpOf] at hseq
      simp only [warpOf, hseq]
    · intro i h hfree
      obtain ⟨-, hp⟩ := executes_whole h (by rw [issOf_sig h.holds rfl])
      refine ⟨fun hrec hkind => runCore_command_plain h hc hp hf _ _ rfl ?_, fun k z hrec hkind hgrp hfits => runCore_command_plain h hc hp hf _ _ rfl ?_⟩
      · obtain ⟨hread, halign, hcheck⟩ := hrec
        simp only [show ((commandState x s).groupOf x.core x.slot).freeTrig = some i from hfree]
        refine (Iss.withCommand_passes (kind := none) _ halign hread (by rw [hkind]; exact hcheck)).trans ?_
        exact if_pos hkind
      · obtain ⟨hread, halign, hcheck⟩ := hrec
        simp only [show ((commandState x s).groupOf x.core x.slot).freeTrig = some i from hfree]
        refine (Iss.withCommand_passes (kind := none) _ halign hread (by rw [hkind]; exact hcheck)).trans ?_
        have hzero : (field rec 192 64 == 0) = false := beq_eq_false_iff_ne.mpr hgrp
        have hcoll : ¬(field rec 424 4 = 0) := by rw [hkind]; exact Nat.one_ne_zero
        refine (if_neg hcoll).trans ?_
        rw [hzero, Iss.withGroupRecord_fits hfits]
        rfl

end Sys2Proof.Machine
end

section
/-! SUPPORT. The steps of a warp that come between its issues. -/

namespace Sys2Proof.Machine

open Safety

/-- A resident warp is what its slot reads as. -/
theorem State.warp_of_some {s : State} {c slot : Nat} {w : Warp} (h : (s.core c).warp slot = some w) : s.warp c slot = w := by
  unfold State.warp
  rw [h]
  rfl

/-- The oldest waiting trap of a warp is due where its lanes stand in an entry that it can be taken for (R327). -/
theorem State.trapDue_head {s : State} {c slot i : Nat} {w : Warp} {e : Entry} {p : PendingTrap} {rest : List PendingTrap} (h : s.warp c slot = w)
    (hp : w.pending = p :: rest) (ht : w.trapping = none) (he : w.entryOf p.lanes = some (i, e)) (hs : e.holdsSplit = false) (hpark : e.state ≠ .parked)
    (hun : w.unperformed e.mask = false) (hq : ((s.drain c slot).warp c slot).storeq = []) : s.trapDue c slot = some 0 := by
  have hready : s.trapReady c slot p = true := by
    unfold State.trapReady
    simp only [h, ht, he, hs, hun, hq]
    simp [hpark]
  unfold State.trapDue
  rw [h, hp, findIdx, if_pos hready]
  rfl

/-- Taking the oldest waiting trap. -/
theorem State.takePending_head {s : State} {c slot i : Nat} {w : Warp} {e : Entry} {p : PendingTrap} {rest : List PendingTrap} (h : s.warp c slot = w)
    (hp : w.pending = p :: rest) (he : w.entryOf p.lanes = some (i, e)) (hs : e.holdsSplit = false) :
    s.takePending c slot 0 = (s.setWarp c slot { w with pending := rest }).takeTrap c slot i
      { cause := p.cause, lanes := p.lanes, pc := p.pc, insn := p.insn, len := p.len, info := p.info, epc := p.epc, extra := p.extra } := by
  unfold State.takePending State.trapLanes
  simp only [h, hp, List.getElem?_cons_zero, State.setWarp_warp_self]
  have he' : ({ w with pending := dropAt (p :: rest) 0 } : Warp).entryOf p.lanes = some (i, e) := he
  simp only [he', hs, Bool.false_eq_true, if_false]
  rfl

/-- A warp whose entries all wait at a RECONV, those that hold a split back aside, can release its lowest set (R19). -/
theorem Warp.releasable_of_reconv {w : Warp} {e : Entry} (hall : ∀ y ∈ w.frontier, y.holdsSplit = false → y.state = .waiting ∧ y.cause = some .reconv)
    (he : e ∈ w.frontier) (hs : e.holdsSplit = false) : w.releasable = true := by
  have hwaits : ∀ y ∈ w.frontier.filter (fun y => !y.holdsSplit), (y.state == .waiting && y.cause == some .reconv) = true := by
    intro y hy
    obtain ⟨hmem, hsplit⟩ := List.mem_filter.mp hy
    obtain ⟨hstate, hcause⟩ := hall y hmem (by simpa using hsplit)
    rw [hstate, hcause]
    rfl
  have hmem : e ∈ w.frontier.filter (fun y => !y.holdsSplit) := List.mem_filter.mpr ⟨he, by rw [hs]; rfl⟩
  unfold Warp.releasable
  rw [Bool.and_eq_true, List.any_eq_true, List.all_eq_true]
  exact ⟨⟨e, hmem, hwaits e hmem⟩, hwaits⟩

/-- What the check of an open lane comes to once it has issued 16,384 instructions (R157). -/
theorem exec_txValidateCheck {s : State} (h : ((s.warp s.args.core s.args.slot).laneTx s.args.lane).state = .opened)
    (hi : 16384 ≤ ((s.warp s.args.core s.args.slot).laneTx s.args.lane).issued) :
    exec .txValidateCheck s = (match s.readsHold s.args.core ((s.warp s.args.core s.args.slot).laneTx s.args.lane).reads with
      | (true, u) => .next (u.setWarp s.args.core s.args.slot ((u.warp s.args.core s.args.slot).setTx s.args.lane
          { (u.warp s.args.core s.args.slot).laneTx s.args.lane with issued := 0 }))
      | (false, u) => .next ((u.abortLane s.args.core s.args.slot s.args.lane 1 0 0).moveLane s.args.core s.args.slot s.args.lane
          ((s.warp s.args.core s.args.slot).laneTx s.args.lane).txe)) := by
  have hdue : ¬(((s.warp s.args.core s.args.slot).laneTx s.args.lane).state ≠ .opened ∨ ((s.warp s.args.core s.args.slot).laneTx s.args.lane).issued < 16384) := by
    rw [h]; simp [hi]
  exact if_neg hdue

/-- Settles O43: each step's condition holds, and the step is its effect. -/
theorem warpStepsBetweenIssues : Obligations.WarpStepsBetweenIssues := by
  unfold Obligations.WarpStepsBetweenIssues
  intro s u w e a here
  refine ⟨?_, ?_, ?_, ?_, ?_, ?_, ?_, ?_⟩
  · intro hw he hstate hage hheld hpromise
    have hsplit : e.holdsSplit = false := by unfold Entry.holdsSplit; rw [hheld]; rfl
    have hpr : (promotable e && (s.groupOf a.core a.slot).promise) = true := by
      unfold promotable
      rw [hpromise, hsplit, hstate, decide_eq_true hage]
      rfl
    change execAgePromotion s = _
    simp only [execAgePromotion, show (s.core s.args.core).warp s.args.slot = some w from hw, show w.entry s.args.entry = some e from he]
    exact if_pos hpr
  · intro hw ht hall hmem hsplit hlow
    have hrel : (!w.releasable || w.trapping.isSome) = false := by
      rw [ht, Warp.releasable_of_reconv hall hmem hsplit]
      rfl
    change execReconvRelease s = _
    simp only [execReconvRelease, show (s.core s.args.core).warp s.args.slot = some w from hw, hrel, hlow]
    rfl
  · intro hw he hheld hreplay hpark hroom
    have hlt := Warp.lt_of_entry he
    have hfits : w.splitFits e = true := by
      unfold Warp.splitFits Entry.holdsSplit
      have hne : e.held.isEmpty = false := by rw [List.isEmpty_eq_false_iff]; exact hheld
      have hpk : (e.state != EntryState.parked) = true := by rw [bne_iff_ne]; exact hpark
      rw [hne, hreplay, hpk, decide_eq_true (show w.frontier.length - 1 + e.held.length ≤ 8 by omega)]
      rfl
    change execHeldSplit s = _
    simp only [execHeldSplit, show (s.core s.args.core).warp s.args.slot = some w from hw, show w.entry s.args.entry = some e from he]
    exact if_pos hfits
  · intro p rest i hw hp ht he hs hpark hun hq
    have hwarp := State.warp_of_some hw
    change execTrapEntry s = _
    simp only [execTrapEntry, show s.trapDue s.args.core s.args.slot = some 0 from State.trapDue_head hwarp hp ht he hs hpark hun hq]
    exact congrArg Host.Outcome.next (State.takePending_head hwarp hp he hs)
  · intro hw hf hq ht hin
    have hover : w.over = true := by
      unfold Warp.over
      rw [hf, hq, ht, List.all_eq_true.mpr fun r hr => beq_iff_eq.mpr (hin r hr)]
      rfl
    change execWarpRetire s = _
    simp only [execWarpRetire, show (s.core s.args.core).warp s.args.slot = some w from hw]
    exact if_pos hover
  · intro t hopen hissued
    refine ⟨fun hread => ?_, fun hread => ?_⟩
    · rw [exec_txValidateCheck hopen hissued, show s.readsHold s.args.core t.reads = (true, u) from hread]
    · rw [exec_txValidateCheck hopen hissued, show s.readsHold s.args.core t.reads = (false, u) from hread]
  · intro c k l rest hh hq
    change execTokenGrant s = _
    unfold execTokenGrant
    simp only [show (s.module s.args.module).holder = none from hh, show (s.module s.args.module).tokenQueue = (c, k, l) :: rest from hq]
    rfl
  · intro c k l hh hten
    change execTokenTimeout s = _
    simp only [execTokenTimeout, show (s.module s.args.module).holder = some (c, k, l) from hh]
    exact if_pos hten

end Sys2Proof.Machine
end

section
/-! SUPPORT. What comes back to a core, what leaves it, and waits and parked faults. -/

namespace Sys2Proof.Machine

open Safety

/-! ### Returns and write-backs (R28, R99, R121, R268, R420) -/

/-- No lane travels in a packet of none. -/
theorem InFlight.packet_none (r : InFlight) (all : LaneMask) : r.packet 0#32 all = 0#32 := rfl

/-- The lowest of some lanes travels in their packet. -/
theorem InFlight.packet_ne_zero (r : InFlight) {m all : LaneMask} (hm : m ≠ 0#32) (hsub : ∀ l, m.getLsbD l = true → all.getLsbD l = true) :
    r.packet m all ≠ 0#32 := by
  obtain ⟨l, hl⟩ := Option.isSome_iff_exists.mp (lowestLane_isSome hm)
  have hml := (lowestLane_spec hl).1
  have hlt := lt_of_mem_lanes ((mem_lanes m l).mpr hml)
  unfold InFlight.packet
  simp only [hl]
  intro hzero
  have hbit := congrArg (fun q : LaneMask => q.getLsbD l) hzero
  simp only [BitVec.getLsbD_zero, getLsbD_filterMask _ _ _ hlt, hsub l hml, beq_self_eq_true, Bool.and_self] at hbit
  exact Bool.noConfusion hbit

/-- No lane of no lanes passes. -/
theorem filterMask_zero (p : Nat → Bool) : filterMask 0#32 p = 0#32 := rfl

/-- Lanes that are all performed stay when the unperformed ones are taken off. -/
theorem performed_lanes {m n : LaneMask} (h : m &&& n = 0#32) : m &&& ~~~n = m := by
  have hor : (m &&& n) ||| (m &&& ~~~n) = m := by
    rw [← BitVec.and_or_distrib_left, BitVec.or_not_self, BitVec.and_allOnes]
  rwa [h, BitVec.zero_or] at hor

/-- What the arrival of performed values comes to (R28). -/
theorem exec_valueArrival {s : State} {r : InFlight} {w : Warp} {m : LaneMask} (hw : s.warp s.args.core s.args.slot = w)
    (hm : s.args.lanes &&& r.pend &&& ~~~r.remote = m) (hr : w.record s.args.record = some r) (hne : m ≠ 0#32) (hun : m &&& r.unperformed = 0#32) :
    exec .valueArrival s = .next (s.setWarp s.args.core s.args.slot ((w.deliver r (lanes m)).putRecord s.args.record { r with pend := r.pend &&& ~~~m })) := by
  have hall : m &&& ~~~r.unperformed = m := performed_lanes hun
  have hpend : m &&& r.pend = m := by
    rw [← hm, BitVec.and_assoc, BitVec.and_comm (~~~r.remote), ← BitVec.and_assoc, BitVec.and_assoc s.args.lanes, BitVec.and_self]
  change execValueArrival s = _
  unfold execValueArrival
  simp only [hw, hr, hm, hun, hall, filterMask_zero, InFlight.packet_none, BitVec.or_zero, if_neg hne, lanes_zero, State.settleEach, hpend]

/-- Settles O44: each return that its step stands for is enabled, and comes to its effect. -/
theorem returnsAndWriteBacks : Obligations.ReturnsAndWriteBacks := by
  unfold Obligations.ReturnsAndWriteBacks
  intro s u r a w m
  refine ⟨fun hr hne hun => exec_valueArrival rfl rfl hr hne hun, ?_, ?_, ?_, ?_, ?_, ?_⟩
  · intro hr hne q hpin
    have hq : q ≠ 0#32 := r.packet_ne_zero hne fun l hl => by
      rw [BitVec.getLsbD_and, Bool.and_eq_true] at hl
      exact hl.2
    change execRemoteRequest s = _
    simp only [execRemoteRequest, show (s.warp s.args.core s.args.slot).record s.args.record = some r from hr]
    refine if_neg ?_
    rw [Bool.or_eq_true, decide_eq_true_eq, not_or]
    exact ⟨hq, ne_true_of_eq_false hpin⟩
  · intro hr hne
    change execForwardResponse s = _
    simp only [execForwardResponse, show (s.warp s.args.core s.args.slot).record s.args.record = some r from hr]
    exact if_neg hne
  · intro i e hr hlive hfind rest left
    change execTargetFaultPark s = _
    simp only [execTargetFaultPark, show (s.warp s.args.core s.args.slot).targetFaults[s.args.record]? = some r from hr]
    refine (if_neg hlive).trans ?_
    dsimp only [w, a] at hfind
    simp only [hfind]
    rfl
  · intro o t n va hq hstep
    change execStoreAcknowledgement s = _
    dsimp only [w, a] at hq hstep
    simp only [execStoreAcknowledgement, hq, hstep]
    rfl
  · intro hflag hdirty hpin
    change execDirtyWriteBack s = _
    dsimp only [a] at hflag hpin hdirty
    simp only [execDirtyWriteBack, hflag, if_true]
    refine if_neg ?_
    rw [hpin, Bool.or_false, decide_eq_true_eq]
    exact hdirty
  · intro y hflag hy hdirty hpin
    change execDirtyWriteBack s = _
    dsimp only [a] at hflag hpin hdirty hy
    simp only [execDirtyWriteBack, hflag, Bool.false_eq_true, if_false, hy]
    refine if_neg ?_
    rw [hpin, Bool.or_false, decide_eq_true_eq]
    exact hdirty

/-! ### Waits and parked faults (R120, R280 to R282, R388, R389) -/

/-- Settles O45: each step's condition holds, and the step is its effect. -/
theorem waitsAndParkedFaults : Obligations.WaitsAndParkedFaults := by
  unfold Obligations.WaitsAndParkedFaults
  intro s y e a w now
  refine ⟨?_, ?_, ?_, ?_, ?_, ?_, ?_, rfl, ?_, ?_⟩
  · intro hy hwoken hdone hper
    change execWaitWake s = _
    dsimp only [w, a] at hy
    simp only [execWaitWake, hy]
    refine if_pos ?_
    rw [hwoken, hdone, hper]
    rfl
  · intro hy hdone he hmask hall
    change execWaitWake s = _
    dsimp only [w, a] at hy he hall
    simp only [execWaitWake, hy, hdone, Bool.not_true, Bool.and_false, Bool.false_and, Bool.false_eq_true, if_false]
    refine if_pos ?_
    rw [Bool.true_and, List.any_eq_true]
    exact ⟨e, he, by rw [hmask, hall]; rfl⟩
  · intro hy hdone hwoken hready
    change execWaitWake s = _
    dsimp only [w, a] at hy hready
    simp only [execWaitWake, hy, hdone, hwoken, Bool.false_and, Bool.false_eq_true, if_false, hready, if_true]
    rfl
  · intro n hy hdone hperiod hdue
    change execWaitRecheck s = _
    dsimp only [w, a] at hy
    simp only [execWaitRecheck, hy]
    refine if_pos ?_
    unfold Wait.recheckDue
    simp only [hdone, hperiod]
    exact decide_eq_true hdue
  · intro z hz hfired hhit hno
    change execMonitorFire s = _
    dsimp only [w, a] at hz hhit hno
    have hstay : (z.fired || z.hit != some s.args.cause) = false := by rw [hfired, hhit, bne_self_eq_false]; rfl
    have hnone : (s.warp s.args.core s.args.slot).waits.any (fun v => v.kind == .monitor) = false := by
      rw [List.any_eq_false]
      exact fun v hv heq => hno v hv (beq_iff_eq.mp heq)
    simp only [execMonitorFire, hz, hstay, hnone, Bool.false_eq_true, if_false]
    rfl
  · intro z hz hfired hhit hy hkind
    change execMonitorFire s = _
    dsimp only [w, a] at hz hhit hy
    have hstay : (z.fired || z.hit != some s.args.cause) = false := by rw [hfired, hhit, bne_self_eq_false]; rfl
    have hsome : (s.warp s.args.core s.args.slot).waits.any (fun v => v.kind == .monitor) = true :=
      List.any_eq_true.mpr ⟨y, hy, beq_iff_eq.mpr hkind⟩
    simp only [execMonitorFire, hz, hstay, hsome, Bool.false_eq_true, if_false, if_true]
    rfl
  · intro hy hkind hdone hdue
    change execLmwaitTimeout s = _
    refine if_pos (List.any_eq_true.mpr ⟨y, hy, ?_⟩)
    unfold Wait.lmDue
    rw [hkind, hdone, decide_eq_true (show y.since + 65536 ≤ now from hdue)]
    rfl
  · intro i he hstate hfrec hfault hlanes hroom
    change execFaultRecordFree s = _
    dsimp only [w, a] at he hroom
    simp only [execFaultRecordFree, he, hfault, if_neg hlanes]
    refine if_neg ?_
    rintro (h | h | h)
    · exact h hstate
    · exact h hfrec
    · exact h hroom
  · intro entry t d hheld hdom hon hroom
    change execFaultEntryWrite s = _
    dsimp only [a] at hheld hdom hroom
    simp only [execFaultEntryWrite, hheld, hdom]
    refine if_pos ?_
    rw [hroom, Bool.and_true, bne_iff_ne]
    exact hon

end Sys2Proof.Machine
end

section
/-! SUPPORT. Groups that are placed, saved and restored; tiles, the matrix unit and engines between instructions. -/

namespace Sys2Proof.Machine

open Safety

/-- The step of the operation that heads the unit's queue and whose turn at its accumulator has come. -/
theorem execMatrixStep_turn {s : State} {q : MatOp} {rest : List MatOp} {i : Instr} {f : Form64} {o : AccOp}
    (hq : (s.core s.args.core).matq = q :: rest)
    (hop : (SMap.get ({} : Agr) (s.group s.args.core q.group).agr q.agr).op = some (i, f))
    (hfirst : (s.group s.args.core q.group).accFirst f.rd.toNat = some o) (hagr : o.agr = some q.agr) :
    let c := s.args.core
    let h := s.group c q.group
    let b := SMap.get ({} : Agr) h.agr q.agr
    let t := s.matStep c q.group i f.rd.toNat (h.opTiles f).1 (h.opTiles f).2 b.steps
    let k := t.group c q.group
    execMatrixStep s =
      if b.steps + 1 < stepCount i (tileFmt (h.opTiles f).1) (tileCols (h.opTiles f).1) then
        .next (t.setGroup c q.group { k with agr := SMap.set {} k.agr q.agr { b with steps := b.steps + 1 } })
      else
        let u := t.setGroup c q.group
          { k with agr := SMap.set {} k.agr q.agr {}, accOrder := k.accOrder.filter (fun y => y.agr != some q.agr) }
        .next ((u.setCore c { u.core c with matq := rest }).pumpAcc c q.group f.rd.toNat (k.accOrder.length + 1)) := by
  intro c h b t k
  simp only [execMatrixStep, hq, hop, hfirst, hagr]
  exact if_neg (by simp)

/-- A command that has written, or that proceeds and folds nothing, completes with its work. -/
theorem execEngineComplete_done {s t : State} {k : EngineCmd} {sig : Signature}
    (hk : (s.region s.args.region).copyq[s.args.index]? = some k)
    (hst : k.state = .written ∨ (k.state = .proceeds ∧ (k.txfer = false ∨ tRedop k.dst = 0))) (hw : s.workOf k = .done sig t) :
    execEngineComplete s = .next (t.endCmd s.args.region s.args.index k none sig) := by
  rcases hst with h | ⟨h, hf⟩
  · simp only [execEngineComplete, hk, h, hw]
  · have hc : ¬ (k.txfer && tRedop k.dst != 0) = true := by rcases hf with h | h <;> simp [h]
    simp only [execEngineComplete, hk, h, hw]
    exact if_neg hc

/-- It fails where its work does. -/
theorem execEngineComplete_fail {s t : State} {k : EngineCmd} {f : FaultInfo} {sig : Signature}
    (hk : (s.region s.args.region).copyq[s.args.index]? = some k)
    (hst : k.state = .written ∨ (k.state = .proceeds ∧ (k.txfer = false ∨ tRedop k.dst = 0))) (hw : s.workOf k = .fail f sig t) :
    execEngineComplete s = .next (t.endCmd s.args.region s.args.index k (some f) sig) := by
  rcases hst with h | ⟨h, hf⟩
  · simp only [execEngineComplete, hk, h, hw]
  · have hc : ¬ (k.txfer && tRedop k.dst != 0) = true := by rcases hf with h | h <;> simp [h]
    simp only [execEngineComplete, hk, h, hw]
    exact if_neg hc

/-- Settles O46: each step's condition holds, and the step is its effect. -/
theorem groupsArePlacedSavedAndRestored : Obligations.GroupsArePlacedSavedAndRestored := by
  unfold Obligations.GroupsArePlacedSavedAndRestored
  intro s a r first
  refine ⟨?_, ?_, ?_, ?_, ?_, ?_, ?_, ?_⟩
  · intro w c ws hw hc u taken
    have hfirst : (r.closed[a.index]?).bind (fun w => w.clauses.head?) = some c := by rw [hw]; exact hc
    dsimp only [r, a] at hfirst
    refine ⟨fun hrec hformed => ?_, fun e hrec hformed => ⟨fun hover => ?_, fun core hs ht hchoose => ?_⟩⟩
    · change execGroupPlace s = _
      dsimp only [u, r, a] at hrec hformed
      simp only [execGroupPlace, hfirst, hrec, hformed]
      rfl
    · change execGroupPlace s = _
      dsimp only [u, r, a] at hrec hformed hover
      simp only [execGroupPlace, hfirst, hrec, hformed, Option.isNone_some, Bool.false_eq_true, if_false]
      exact if_pos hover
    · change execGroupPlace s = _
      dsimp only [u, r, a] at hrec hformed hs ht hchoose
      simp only [execGroupPlace, hfirst, hrec, hformed, Option.isNone_some, Bool.false_eq_true, if_false, List.length_map, hchoose]
      exact if_neg (not_or.mpr ⟨Nat.not_lt.mpr hs, Nat.not_lt.mpr ht⟩)
  · intro hne
    exact if_neg (by rw [List.isEmpty_iff]; exact hne)
  · intro d hd hleft hretiring hmore t
    change execSliceExpire s = _
    dsimp only [a] at hd hleft hretiring hmore
    have hlive : (s.core s.args.core).warps.any (fun y => match y.2 with | some w => w.over | none => false) = false := by
      rw [List.any_eq_false]
      intro y hy
      cases hw : y.2 with
      | none => exact Bool.false_ne_true
      | some w => exact ne_true_of_eq_false (hretiring y hy w hw)
    have hnext : ((s.sliceGroups s.args.core d).isEmpty && (nextContender (s.contenders s.args.core) d).all (fun n => n == d)) = false := by
      obtain hgs | ⟨n, hn, hnd⟩ := hmore
      · rw [List.isEmpty_eq_false_iff.mpr hgs, Bool.false_and]
      · rw [hn, Option.all_some, beq_eq_false_iff_ne.mpr hnd, Bool.and_false]
    simp only [execSliceExpire, hd]
    refine if_neg ?_
    rw [hnext, Bool.or_false, Bool.or_eq_true, decide_eq_true_eq, not_or, not_not]
    exact ⟨hleft, ne_true_of_eq_false hlive⟩
  · intro g hg hswap
    refine if_pos ?_
    dsimp only [a] at hg hswap
    rw [hg, hswap]
    rfl
  · intro v hv hret
    dsimp only [a] at hv hret
    refine ⟨fun hst => ?_, fun hst => ?_⟩
    · change execGroupResume s = _
      simp only [execGroupResume, hv]
      exact if_pos ⟨hst, hret⟩
    · change execWakeMessage s = _
      simp only [execWakeMessage, hv]
      exact if_pos ⟨hst, hret⟩
  · intro v w q x t hv hw hq hlate hlane hval y ws at_
    change execLateReturn s = _
    dsimp only [a] at hv hw hq hlane hval
    simp only [execLateReturn, hv, hw, hq, hlate, hlane, hval]
    rfl
  · intro d hdue hout
    change execRoleSwitch s = _
    dsimp only [a] at hdue hout
    simp only [execRoleSwitch, hdue, hout]
    rfl
  · intro hdue hout
    change execRoleSwitch s = _
    dsimp only [a] at hdue hout
    simp only [execRoleSwitch, hdue, hout]
    rfl

/-- Settles O47: each step under its own premise. -/
theorem tilesMatrixAndEnginesStep : Obligations.TilesMatrixAndEnginesStep := by
  unfold Obligations.TilesMatrixAndEnginesStep
  intro s a g r
  refine ⟨?_, ?_, ?_, ?_, ?_, ?_, ?_, ?_, ?_⟩
  · intro h l hg hl hpin
    change execTileLanding s = _
    dsimp only [a] at hg hl hpin
    simp only [execTileLanding, hg, hl]
    refine if_neg fun hc => ?_
    obtain ⟨hload, hany⟩ := (Bool.and_eq_true _ _).mp hc
    obtain ⟨y, hy, hp⟩ := List.any_eq_true.mp hany
    obtain ⟨p, hplace, hpinned⟩ := (Option.any_eq_true _ _).mp hp
    rcases hpin with hl' | hfree
    · simp [hl'] at hload
    · rw [hfree y hy p hplace] at hpinned
      exact absurd hpinned Bool.false_ne_true
  · intro i f hi hsp
    change execMatrixIssue s = _
    dsimp only [a, g] at hi hsp ⊢
    simp only [execMatrixIssue, hi]
    refine if_neg fun hc => ?_
    rcases hsp with h | h <;> simp [h] at hc
  · intro q rest i f o hq h b hop hfirst hagr t k
    dsimp only [a, h, b] at hq hop hfirst
    have step := execMatrixStep_turn (s := s) hq hop hfirst hagr
    refine ⟨fun hlt => ?_, fun hle => ?_⟩
    · exact step.trans (if_pos hlt)
    · exact step.trans (if_neg (Nat.not_lt.mpr hle))
  · intro k hk hst
    change execEngineComplete s = _
    dsimp only [a, r] at hk
    simp only [execEngineComplete, hk, hst]
    rfl
  · intro k sig t hk hst hw
    exact execEngineComplete_done hk hst hw
  · intro k f sig t hk hst hw
    exact execEngineComplete_fail hk hst hw
  · intro k u k' sig t hk hst htx hred hfold hk' hw
    change execEngineComplete s = _
    dsimp only [a, r] at hk hk'
    have hc : (k.txfer && tRedop k.dst != 0) = true := by simp [htx, hred]
    simp only [execEngineComplete, hk, hst, hc, if_true, hfold, hk', hw]
    rfl
  · intro k u hk hst hdec
    change execCollectiveReport s = _
    dsimp only [a, r] at hk hdec
    simp only [execCollectiveReport, hk, hst, hdec]
    rfl
  · intro h t hg ht hvm
    change execTrigFire s = _
    have hf : h.fires s.args.index = some t := by
      dsimp only [a] at ht
      simp only [Group.fires, ht, if_pos hvm]
    dsimp only [a] at hg
    simp only [execTrigFire, hg, hf]
    rfl

end Sys2Proof.Machine
end

section
/-! SUPPORT. The flood network and the memory system between instructions. -/

namespace Sys2Proof.Machine

open Safety

/-- An echo that is not late and whose child's timer has not run out answers its belay. -/
theorem execEchoArrive_answers {s : State} {u slot ch x sc : Nat} {h : Word} {e : EchoVal}
    (hn : s.net[s.args.index]? = some (.echo u slot ch h x sc e))
    (hlive : ((s.takeNet s.args.index).cairn u slot).live = true)
    (hh : ((s.takeNet s.args.index).cairn u slot).handle = some h)
    (ha : SMap.get none ((s.takeNet s.args.index).cairn u slot).answered ch = none)
    (hs : ((s.takeNet s.args.index).cairn u slot).silent.contains ch = false)
    (hd : ((s.takeNet s.args.index).cairn u slot).silentDue ch ((s.takeNet s.args.index).unitClock u) = false) :
    execEchoArrive s = .next ((((s.takeNet s.args.index).setCairn u slot
      { (s.takeNet s.args.index).cairn u slot with
        answered := SMap.set none ((s.takeNet s.args.index).cairn u slot).answered ch (some e) }).spillBelay u)) := by
  have hmark : ¬ (((s.takeNet s.args.index).cairn u slot).handle == some h &&
      ((s.takeNet s.args.index).cairn u slot).silentDue ch ((s.takeNet s.args.index).unitClock u)) = true := by simp [hd]
  simp only [execEchoArrive, hn, if_neg hmark]
  exact if_pos (by rw [hlive, hh, ha, hs, beq_self_eq_true]; rfl)

/-- An echo to a cairn that does not await it is late. -/
theorem execEchoArrive_late {s : State} {u slot ch x sc : Nat} {h : Word} {e : EchoVal}
    (hn : s.net[s.args.index]? = some (.echo u slot ch h x sc e))
    (hq : ((s.takeNet s.args.index).cairn u slot).live = false ∨ ((s.takeNet s.args.index).cairn u slot).handle ≠ some h ∨
      SMap.get none ((s.takeNet s.args.index).cairn u slot).answered ch ≠ none ∨
      ((s.takeNet s.args.index).cairn u slot).silent.contains ch = true) :
    execEchoArrive s = .next ((s.takeNet s.args.index).lateEcho u slot ch h e (unitModule u * 32 + x % 32) sc) := by
  have hmark : ¬ (((s.takeNet s.args.index).cairn u slot).handle == some h &&
      ((s.takeNet s.args.index).cairn u slot).silentDue ch ((s.takeNet s.args.index).unitClock u)) = true := by
    rcases hq with hl | hh | ha | hs
    · simp [Cairn.silentDue, hl]
    · simp [hh]
    · simp [Cairn.silentDue, Option.isNone_eq_false_iff.mpr (Option.isSome_iff_ne_none.mpr ha)]
    · rw [Cairn.silentDue, hs]
      simp
  have hawait : ¬ (((s.takeNet s.args.index).cairn u slot).live && ((s.takeNet s.args.index).cairn u slot).handle == some h &&
      (SMap.get none ((s.takeNet s.args.index).cairn u slot).answered ch).isNone &&
      !((s.takeNet s.args.index).cairn u slot).silent.contains ch) = true := by
    rcases hq with hl | hh | ha | hs
    · simp [hl]
    · simp [hh]
    · simp [Option.isNone_eq_false_iff.mpr (Option.isSome_iff_ne_none.mpr ha)]
    · rw [hs]
      simp
  simp only [execEchoArrive, hn, if_neg hmark]
  exact if_neg hawait

/-- Settles O48: each step under its own premise. -/
theorem floodNetworkSteps : Obligations.FloodNetworkSteps := by
  unfold Obligations.FloodNetworkSteps
  intro s a r k d
  refine ⟨?_, ?_, ?_, ?_, ?_, ?_, ?_, ?_, ?_, ?_, ?_, ?_⟩
  · intro dest pu ps ch m hn ho l
    dsimp only [a] at hn ho
    refine ⟨fun hl => ?_, fun hl => ?_⟩
    · change execFloodMessageArrive s = _
      dsimp only [l, d, a] at hl
      simp only [execFloodMessageArrive, hn, ho, if_pos hl]
      rfl
    · change execFloodMessageArrive s = _
      dsimp only [l, d, a] at hl
      simp only [execFloodMessageArrive, hn, ho, if_neg (Nat.not_lt.mpr hl)]
      rfl
  · intro n dest pu ps ch m t slot hw hf
    change execCairnOpen s = _
    dsimp only [a] at hw hf
    simp only [execCairnOpen, hw, hf]
    rfl
  · intro u slot m hr hst hm
    change execMapReread s = _
    dsimp only [a] at hr
    simp only [execMapReread, hr, hst, hm]
  · intro f p q c hst hm hp hroom hwarps
    change execClauseDispatch s = _
    dsimp only [q, a] at hst hm hwarps
    dsimp only [a] at hp
    have hruns : s.cursorRuns s.args.region s.args.slot f c = true := by
      simp only [State.cursorRuns, Bool.and_eq_true, decide_eq_true_eq]
      exact ⟨hroom, hwarps⟩
    simp only [execClauseDispatch, hst, hm, hp]
    exact if_pos hruns
  · intro w hw hold
    change execGatherTimeoutClose s = _
    dsimp only [r, a] at hw
    simp only [execGatherTimeoutClose, hw]
    exact if_pos hold
  · intro i c hd
    change execSpillClauseDrain s = _
    dsimp only [r, a] at hd
    simp only [execSpillClauseDrain, hd]
    rfl
  · intro u slot ch h x sc e hn q
    refine ⟨fun hlive hh ha hs hd => ?_, fun hq => ?_⟩
    · exact execEchoArrive_answers hn hlive hh ha hs hd
    · exact execEchoArrive_late hn hq
  · intro f hdr hm
    dsimp only [k, a] at hdr hm
    refine ⟨fun hu => ?_, fun hu => ?_⟩
    · change execCairnEcho s = _
      simp only [execCairnEcho, hdr, hm]
      exact if_pos hu
    · change execCairnEcho s = _
      simp only [execCairnEcho, hdr, hm]
      have hout : ¬ (1024 ≤ s.args.unit ∧ s.args.unit < 2048) := by
        dsimp only [a] at hu
        omega
      exact (if_neg hout).trans (by simp only [k, a, hm])
  · exact fun hst => if_pos hst
  · exact fun hdue => if_pos hdue
  · intro f c hm hc
    dsimp only [k, a] at hm hc
    have hbyte : (1024 + 64 * c.2.1) / 8 = 128 + 8 * c.2.1 := by omega
    simp only [State.markSilent, k, a, hm, hc, hbyte]
  · intro dest h cls x y z hn ho mine
    dsimp only [a] at hn ho
    refine ⟨fun n t pu ps ch f hfind => ?_, fun hfind => ⟨fun slot f hslot hm => ?_, fun hslot => ?_⟩⟩
    · change execCancelArrive s = _
      dsimp only [mine, d, a] at hfind
      simp only [execCancelArrive, hn, ho]
      -- the search in the goal and the one in `hfind` agree by unfolding, not as they are written
      generalize hr : List.find? _ _ = r
      obtain rfl := hr.symm.trans hfind
      rfl
    · change execCancelArrive s = _
      dsimp only [mine, d, a] at hfind hslot hm
      simp only [execCancelArrive, hn, ho]
      generalize hr : List.find? _ _ = r
      obtain rfl := hr.symm.trans hfind
      simp only [hslot, hm]
      rfl
    · change execCancelArrive s = _
      dsimp only [mine, d, a] at hfind hslot
      simp only [execCancelArrive, hn, ho]
      generalize hr : List.find? _ _ = r
      obtain rfl := hr.symm.trans hfind
      simp only [hslot]
      rfl

/-- The buckets of a window, filled for the functions below `n`, hold each one's rate. -/
theorem bucketFill_tokens (rate : Nat → Nat) (base f : Nat) : (n : Nat) →
    (SMap.get ({} : Bucket) ((List.range n).foldl (fun (b : SMap Bucket) i =>
      if rate (base + i) = 0 then b else SMap.set {} b (base + i) { tokens := rate (base + i), borrowed := 0 }) []) (base + f)).tokens =
      if f < n then rate (base + f) else 0
  | 0 => rfl
  | n + 1 => by
    rw [List.range_succ, List.foldl_append, List.foldl_cons, List.foldl_nil]
    have ih := bucketFill_tokens rate base f n
    by_cases hz : rate (base + n) = 0
    · rw [if_pos hz, ih]
      rcases Nat.lt_trichotomy f n with h | rfl | h
      · rw [if_pos h, if_pos (Nat.lt_succ_of_lt h)]
      · rw [if_neg (Nat.lt_irrefl f), if_pos (Nat.lt_succ_self f), hz]
      · rw [if_neg (Nat.not_lt.mpr h.le), if_neg (by omega)]
    · rw [if_neg hz, SMap.get_set]
      by_cases hf : f = n
      · subst hf
        rw [if_pos rfl, if_pos (Nat.lt_succ_self f)]
      · rw [if_neg (by omega), ih]
        exact if_congr (by omega) rfl rfl

/-- An address of host memory: bit 51 set, bit 50 clear. -/
theorem hostAddress_bits {pa : Nat} (h1 : 2 ^ 51 ≤ pa) (h2 : pa < 2 ^ 51 + 2 ^ 50) :
    bit pa 51 = true ∧ ¬ (bit pa 50 = true ∨ 2 ^ 52 ≤ pa) := by
  simp only [bit, beq_iff_eq]
  omega

/-- A domain address has bit 51 clear. -/
theorem bit_51_of_lt {pa : Nat} (h : pa < 2 ^ 51) : ¬ bit pa 51 = true := by
  simp only [bit, beq_iff_eq]
  omega

theorem not_isEmpty_of_ne_nil {α : Type} {l : List α} (h : l ≠ []) : ¬ l.isEmpty = true :=
  fun he => h (List.isEmpty_iff.mp he)

/-- A write to host memory is the host's own update. -/
theorem execForeignWrite_host {s u : State} (hd : s.args.data ≠ []) (h1 : 2 ^ 51 ≤ s.args.pa) (h2 : s.args.pa < 2 ^ 51 + 2 ^ 50)
    (hu : s.hostUpdate s.args.module s.args.pa s.args.data s.args.flag s.args.index = some u) : execForeignWrite s = .next u := by
  obtain ⟨h51, hrest⟩ := hostAddress_bits h1 h2
  have hbad : ¬ (bit s.args.pa 50 = true ∨ 2 ^ 52 ≤ s.args.pa ∨ s.args.data.isEmpty = true) := by
    rintro (h | h | h)
    · exact hrest (.inl h)
    · exact hrest (.inr h)
    · exact not_isEmpty_of_ne_nil hd h
  simp only [execForeignWrite, if_pos h51, if_neg hbad, hu]

/-- An access of the host within a page of the window, outside the safe state. -/
theorem execBar2Access_unsafe {s : State} {n : Nat} (hn : n = if s.args.flag then s.args.data.length else s.args.size) (hpos : 0 < n)
    (ho : s.args.offset < 2 ^ 36) (hin : s.args.offset % 4096 + n ≤ 4096) (hs : (s.module (s.args.ctx / 32)).safe = false) :
    execBar2Access s =
      match s.bar2 s.args.ctx ((s.ctxReg s.args.ctx 0x058 + s.args.offset) % 2 ^ 64) (if s.args.flag then some s.args.data else none) n with
      | some (d, u) => .next (if s.args.flag then u else { u with log := u.log ++ [.data (s.args.ctx / 32) d] })
      | none =>
        let u := s.count (s.args.ctx / 32) (0x200 + 8 * (s.args.ctx % 32)) 1
        .next (if s.args.flag then u else { u with log := u.log ++ [.data (s.args.ctx / 32) (List.replicate n 255#8)] }) := by
  subst hn
  simp only [execBar2Access]
  refine (if_neg (by omega)).trans ?_
  exact if_neg (ne_true_of_eq_false hs)

/-- Settles O49: each step under its own premise. -/
theorem memorySystemSteps : Obligations.MemorySystemSteps := by
  unfold Obligations.MemorySystemSteps
  intro s a m
  refine ⟨?_, ?_, ?_, ?_, ?_, ?_, ?_, ?_, ?_, ?_, ?_⟩
  · exact fun hscope hcount hpin => if_pos ⟨hscope.1, hscope.2, hcount, hpin⟩
  · refine ⟨_, rfl, fun f hf => ?_⟩
    exact (bucketFill_tokens (fun x => s.rateAt x s.args.port) (32 * portModule s.args.port) f 32).trans (if_pos hf)
  · intro u e l home size hwalk h54 hal hbad hpa hne hheld
    change execPageMigrate s = _
    dsimp only [a] at hwalk hal hbad hpa hne
    simp only [execPageMigrate, hwalk]
    refine if_neg ?_
    rintro (h | h | h | h | h | h)
    · exact ne_true_of_eq_false h54 h
    · exact h hal
    · exact ne_true_of_eq_false hbad h
    · omega
    · exact hne h
    · exact ne_true_of_eq_false hheld h
  · intro hd
    refine ⟨fun hbad hpa hpin => ?_, ?_⟩
    · refine (if_neg (bit_51_of_lt hpa)).trans (if_neg ?_)
      rintro (h | h | h | h)
      · exact ne_true_of_eq_false hbad h
      · exact absurd hpa (Nat.not_lt.mpr h)
      · exact not_isEmpty_of_ne_nil hd h
      · exact ne_true_of_eq_false hpin h
    intro h1 h2 key n t
    refine ⟨fun hf => ?_, fun hf hi hn hal => ?_, fun u hu => execForeignWrite_host hd h1 h2 hu⟩
    · refine execForeignWrite_host hd h1 h2 ?_
      dsimp only [a] at hf
      simp only [State.hostUpdate, hf]
      rfl
    · refine execForeignWrite_host hd h1 h2 ?_
      dsimp only [a] at hf hi hal
      have hsize : ¬ ((s.args.data.length ≠ 4 ∧ s.args.data.length ≠ 8) ∨ s.args.pa % s.args.data.length ≠ 0) := by
        rintro (h | h)
        · exact hn.elim h.1 h.2
        · exact h hal
      simp only [State.hostUpdate, hf, hi, Bool.not_true, Bool.false_eq_true, if_false, if_true, if_neg hsize]
      rfl
  · intro ho hsafe va
    refine ⟨fun hf hpos hin => ?_, fun hf hpos hin => ?_⟩
    · dsimp only [va, a] at hf
      have step := execBar2Access_unsafe (n := s.args.size) (by simp [hf]) hpos ho hin hsafe
      simp only [hf, Bool.false_eq_true, if_false] at step
      exact ⟨fun b u hb => step.trans (by rw [hb]), fun hb => step.trans (by rw [hb])⟩
    · dsimp only [va, a] at hf
      have step := execBar2Access_unsafe (n := s.args.data.length) (by simp [hf]) hpos ho hin hsafe
      simp only [hf, if_true] at step
      exact ⟨fun b u hb => step.trans (by rw [hb]), fun hb => step.trans (by rw [hb])⟩
  · intro hport hbad hpa hmod
    have hfit (n : Nat) (hpos : 0 < n) (hpin : ¬ (s.args.flag = true ∧ s.pinned (.dom s.args.pa) n = true)) :
        ¬ ((s.module s.args.module).hostPort ≠ .cxl ∨ n = 0 ∨ badPa s.args.pa = true ∨ 2 ^ 51 ≤ s.args.pa ∨
          paModule s.args.pa ≠ s.args.module ∨ (s.args.flag = true ∧ s.pinned (.dom s.args.pa) n = true)) := by
      rintro (h | h | h | h | h | h)
      · exact h hport
      · omega
      · exact ne_true_of_eq_false hbad h
      · exact absurd hpa (Nat.not_lt.mpr h)
      · exact h hmod
      · exact hpin h
    refine ⟨fun hf hpos hpin => ?_, fun hf hpos => ?_⟩
    · change execCxlMemRequest s = _
      have h := hfit s.args.data.length hpos (fun h => ne_true_of_eq_false hpin h.2)
      dsimp only [a] at hf
      simp only [hf] at h
      simp only [execCxlMemRequest, hf, if_true, if_neg h]
      rfl
    · change execCxlMemRequest s = _
      have h := hfit s.args.size hpos (fun h => ne_true_of_eq_false hf h.1)
      dsimp only [a] at hf
      simp only [hf] at h
      simp only [execCxlMemRequest, hf, Bool.false_eq_true, if_false] at h ⊢
      exact if_neg h
  · intro lost
    refine ⟨fun hf => ?_, fun hf hmode => ?_⟩
    · change execPcieCxlLinkTraining s = _
      dsimp only [a] at hf
      simp only [execPcieCxlLinkTraining, hf, Bool.false_eq_true, false_and, if_false]
      rfl
    · change execPcieCxlLinkTraining s = _
      dsimp only [a] at hf hmode
      simp only [execPcieCxlLinkTraining, hf, hmode, and_false, if_false, if_true]
      rfl
  · intro c k timeout hpeer hle hlost htime hmem hwait
    refine if_pos ⟨hpeer, hle, ?_, htime, List.any_eq_true.mpr ⟨(c, k), hmem, hwait⟩⟩
    simpa using hlost
  · intro hi hbad hpa
    change execEccError s = _
    dsimp only [a] at hi
    simp only [execEccError, hi]
    exact if_neg (not_or.mpr ⟨ne_true_of_eq_false hbad, Nat.not_le.mpr hpa⟩)
  · intro hi
    change execEccError s = _
    dsimp only [a] at hi
    simp only [execEccError, hi]
    rfl
  · intro hbad hpa
    refine if_neg (not_or.mpr ⟨ne_true_of_eq_false hbad, ?_⟩)
    dsimp only [a] at hpa
    omega

end Sys2Proof.Machine
end

section
/-! SUPPORT. Host queues, their packets and the vendor instructions of their threads. -/

namespace Sys2Proof.Machine

open Safety

theorem Queue.settle_tail (z : Queue) : z.settle.tail = z.tail := by
  unfold Queue.settle
  split <;> rfl

theorem State.settled_tail {s : State} {q : Nat} {v : DWord} (hlt : (s.queue q).tail.toNat < v.toNat)
    (hs : (s.module (q / 32)).safe = false) : ((s.ringTail q v).queue q).tail = v := by
  simp only [State.ringTail, if_pos (And.intro hlt hs), State.setQueue_queue_self, Queue.settle_tail]

/-- A packet of its type that waits for no earlier one starts. -/
theorem State.process_starts {s u v : State} {p : Packet} {name : String} {type : Nat} {start : (q x : Nat) → Packet → State → Started}
    (hhead : s.headPacket s.args.queue = .packet p u) (hpub : u.publish s.args.queue p = some v) (htype : field p.bytes 0 8 = type)
    (hbar : bit p.bytes 8 = false ∨ v.earlierDone s.args.queue = true) (hres : field p.bytes 9 23 = 0) {t : State}
    (hstart : start s.args.queue (v.queueCtx s.args.queue) p v = .done t) :
    s.process name type start = .next (t.packetDone s.args.queue) := by
  have hwait : ¬ (bit p.bytes 8 && !v.earlierDone s.args.queue) = true := by rcases hbar with h | h <;> simp [h]
  simp only [State.process, hhead, htype, ne_eq, not_true_eq_false, if_false, hpub, if_neg hwait, hres, hstart]

/-- A width of 1, 2, 4 or 8 bytes that divides the offset passes the test of a register write. -/
theorem registerWrite_allowed {n o : Nat} (hn : n ∈ [1, 2, 4, 8]) (ho : o % n = 0) :
    ¬ ((!([1, 2, 4, 8] : List Nat).contains n) = true ∨ o % n ≠ 0) := by
  rintro (h | h)
  · rw [List.contains_iff_mem.mpr hn] at h
    exact Bool.false_ne_true h
  · exact h ho

/-- Settles O50: a packet whose fields are legal starts, and the start's own tests pass. -/
theorem queueStepsAndRegisterWrites : Obligations.QueueStepsAndRegisterWrites := by
  unfold Obligations.QueueStepsAndRegisterWrites
  intro s u p a q z x b taken starts
  refine ⟨rfl, rfl, rfl, rfl, rfl, fun hlt hs => State.settled_tail hlt hs, ?_, ?_, ?_, ?_, ?_, ?_, ?_, ?_, ?_⟩
  · intro hn
    refine ⟨fun m o ht ho => ?_, fun m f o ht ho hf0 hf => ?_, fun m o ht ho => ?_⟩
    · change execRegisterWrite s = _
      dsimp only [a] at ht
      simp only [execRegisterWrite, ht]
      exact if_neg (registerWrite_allowed hn ho)
    · change execRegisterWrite s = _
      dsimp only [a] at ht
      simp only [execRegisterWrite, ht]
      exact (if_neg (registerWrite_allowed hn ho)).trans (if_neg (by omega))
    · change execRegisterWrite s = _
      dsimp only [a] at ht
      simp only [execRegisterWrite, ht]
      exact if_neg (registerWrite_allowed hn ho)
  · rintro v t ⟨hhead, hpub, htype, hbar, hres, hx⟩ hcheck
    change execSeedPacket s = _
    refine State.process_starts hhead hpub htype hbar hres ?_
    rw [hx, hcheck]
  · rintro v t at_ rec ⟨hhead, hpub, htype, hbar, hres, hx⟩ hregion hzero hal hread hkind hsb hrec
    change execCopyPacket s = _
    refine State.process_starts hhead hpub htype hbar hres ?_
    dsimp only [b] at hregion hzero hal hread
    have hfields : ¬ (31 < field p.bytes 128 8 ∨ field p.bytes 136 376 ≠ 0) := by omega
    have hhead : ¬ (field rec 424 4 ≠ 0 ∨ field rec 416 2 ≠ 0) := by omega
    rw [hx]
    simp only [gt_iff_lt, if_neg hfields, hal, ne_eq, not_true_eq_false, if_false]
    dsimp only [q] at hread
    rw [hread]
    simp only [hkind, hsb, hrec]
    rfl
  · rintro v t at_ y ⟨hhead, hpub, htype, hbar, hres, hx⟩ hcmp hzero hal hread hholds
    change execWaitPacket s = _
    refine State.process_starts hhead hpub htype hbar hres ?_
    dsimp only [b, q, a] at hcmp hzero hal hread hholds
    have hfields : ¬ (3 < field p.bytes 192 8 ∨ field p.bytes 200 312 ≠ 0) := by omega
    rw [hx]
    simp only [gt_iff_lt, if_neg hfields, hal, ne_eq, not_true_eq_false, if_false, hread, hholds, if_true]
    rfl
  · rintro v t ⟨hhead, hpub, htype, hbar, hres, hx⟩ hop hzero hal hrel
    change execSignalPacket s = _
    refine State.process_starts hhead hpub htype hbar hres ?_
    dsimp only [b, q, a] at hop hzero hal hrel
    have hfields : ¬ (1 < field p.bytes 192 8 ∨ field p.bytes 200 312 ≠ 0) := by omega
    rw [hx]
    simp only [gt_iff_lt, if_neg hfields, hal, ne_eq, not_true_eq_false, if_false, hrel]
  · rintro v hdone ⟨hhead, hpub, htype, hbar, hres, -⟩ hscope hzero
    refine (if_neg (ne_true_of_eq_false hdone)).trans ?_
    refine State.process_starts hhead hpub htype hbar hres ?_
    dsimp only [b] at hscope hzero
    exact if_neg (by omega)
  · exact fun hdone => if_pos hdone
  · rintro v h ⟨hhead, hpub, htype, hbar, hres, hx⟩ hzero hdom hvalid
    change execCancelPacket s = _
    refine State.process_starts hhead hpub htype hbar hres ?_
    dsimp only [h, b] at hzero hdom hvalid
    rw [hx]
    simp only [hzero, hdom, hvalid]
    rfl
  · intro v htaken htype hpub
    change execInvalidPacketType s = _
    dsimp only [taken, b, q, a] at htaken htype hpub
    have hbad : ¬ (field p.bytes 0 8 ≠ 0 ∧ field p.bytes 0 8 ≤ 6) := by omega
    simp only [execInvalidPacketType, htaken, if_neg hbad, hpub]
    rfl

theorem runQueue_on {s : State} {q : Nat} (hc : s.cur = .queue q) (eff : Nat → State → State) :
    runQueue s eff = .next { eff q s with cur := .idle } := by
  simp only [runQueue, hc]

theorem State.setQueue_setQueue (s : State) (q : Nat) (y z : Queue) : (s.setQueue q y).setQueue q z = s.setQueue q z := by
  simp only [State.setQueue, SMap.set_set]

theorem Queue.putReg_zero (z : Queue) (v : DWord) : z.putReg 0#5 v = z := rfl

/-- Settles O51: the tests before each effect pass. -/
theorem queueThreadInstructions : Obligations.QueueThreadInstructions := by
  unfold Obligations.QueueThreadInstructions
  intro f word s t q hc z x va done
  refine ⟨?_, ?_, ?_, ?_, ?_, ?_⟩
  · intro at_ v hf hal hread
    dsimp only [va, x, z] at hal hread
    have hf3 : ¬ 3 < f.funct3.toNat := Nat.not_lt.mpr hf
    refine ⟨fun hh => ?_, fun hh => ?_⟩
    · change execQwait f s = _
      refine (runQueue_on hc _).trans ?_
      simp only [gt_iff_lt, if_neg hf3, hal, ne_eq, not_true_eq_false, if_false, hread, hh, if_true]
      rfl
    · change execQwait f s = _
      refine (runQueue_on hc _).trans ?_
      simp only [gt_iff_lt, if_neg hf3, hal, ne_eq, not_true_eq_false, if_false, hread, hh, Bool.false_eq_true]
  · intro at_ b u hf hal hnew hread htype hres hcheck
    dsimp only [va, x, z] at hal hread hnew hcheck
    change execQseed f s = _
    refine (runQueue_on hc _).trans ?_
    simp only [hf, hal, hnew, ne_eq, not_true_eq_false, if_false, Bool.false_eq_true, hread, htype, hres, or_self, hcheck]
    rfl
  · intro hf hal hw hs hplaced
    dsimp only [va, z] at hal hw hs
    change execQseed f s = _
    refine (runQueue_on hc _).trans ?_
    simp only [hf, hal, hw, hs, hplaced, ne_eq, not_true_eq_false, if_false, Bool.and_self, if_true, Bool.false_eq_true]
    rfl
  · intro at_ rec hf hal hread hkind hrec
    dsimp only [va, x, z] at hal hread
    change execQeng f s = _
    refine (runQueue_on hc _).trans ?_
    have htx : (field rec 424 4 == 1) = false := by rw [hkind]; rfl
    simp only [hf, hal, ne_eq, not_true_eq_false, if_false, State.vendorRead, hread, htx, Bool.toNat_false, hrec, Bool.false_eq_true]
    rfl
  · intro hf hrd h1 h2
    change execQfence f s = _
    refine (runQueue_on hc _).trans ?_
    have hlegal : ¬ (f.funct3.toNat < 3 ∨ f.rd ≠ 0#5 ∨ f.rs1 ≠ 0#5 ∨ f.rs2 ≠ 0#5) := by
      rintro (h | h | h | h)
      · omega
      · exact h hrd
      · exact h h1
      · exact h h2
    simp only [if_neg hlegal, State.queueNext, State.setQueue_queue_self, Queue.putReg_zero, State.setQueue_setQueue]
    rfl
  · change execIllegalInstructionException word s = _
    exact runQueue_on hc _

/-! ### The mailbox -/

/-- A command that runs outside the safe state, with a request that is not too long, has its effect. -/
theorem State.command_ready {s : State} {name : String} {code : Nat} {safe : Bool} {eff : (m : Nat) → (req : List Byte) → State → State}
    {t : State}
    (h : (s.module s.args.module).mbBusy = true ∧ (s.module s.args.module).mbCode = code ∧
      ((s.module s.args.module).lifecycle = .none ∨ (s.module s.args.module).mbHeld = false) ∧ (s.module s.args.module).mbLen ≤ 3840 ∧
      (s.module s.args.module).safe = false)
    (ht : eff s.args.module (s.module s.args.module).request s = t) : s.command name code safe eff = .next t := by
  subst ht
  obtain ⟨hbusy, hcode, hheld, hlen, hsafe⟩ := h
  have hrun : ¬ ((!(s.module s.args.module).mbBusy) = true ∨ (s.module s.args.module).mbCode ≠ code ∨
      (s.module s.args.module).lifecycle ≠ .none ∧ (s.module s.args.module).mbHeld = true) := by
    rcases hheld with h | h <;> simp [hbusy, hcode, h]
  simp only [State.command, if_neg hrun, if_neg (Nat.not_lt.mpr hlen), hsafe, Bool.false_and, Bool.false_eq_true, if_false]

theorem request_ne_short {q : List Byte} (h : q ≠ []) : ¬ (q.isEmpty = true) := fun he => h (List.isEmpty_iff.mp he)

/-- The summary record of a module within a length: its head of 64 bytes and its sections (R418). -/
def State.summaryRecord (s : State) (m room : Nat) : Nat :=
  let ss := s.sections m
  let need := ss.foldl (fun n y => n + 8 + 8 * y.2.length) 64
  let packed := packSections room ss 64
  let len := 64 + packed.1.length
  let head := 0x51475253 + 2 ^ 32 + packed.2 * 2 ^ 48 + (if len < need then 1 else 0) * 2 ^ 56 + (s.module m).safe.toNat * 2 ^ 57 + len * 2 ^ 64
  ofLe (leBytes 64 head ++ packed.1)

/-- Settles O52: each command's checks pass, and its effect stands. -/
theorem mailboxCommands : Obligations.MailboxCommands := by
  unfold Obligations.MailboxCommands
  intro s m z q n ready ends
  refine ⟨?_, ?_, ?_, ?_, ?_, ?_, ?_, ?_, ?_, ?_, ?_, ?_, ?_⟩
  · intro u r bs y
    have hy : y = _ := State.setModule_module_self _ m _
    exact ⟨congrArg Module.mbBusy hy, congrArg Module.mbResult hy, congrArg Module.mbRlen hy, rfl⟩
  · intro hr hlen hfit k b
    change execStage s = _
    refine State.command_ready hr (if_neg (not_or.mpr ⟨Nat.not_lt.mpr hlen, Nat.not_lt.mpr hfit⟩))
  · intro hr is hne hall
    change execVerify s = _
    refine State.command_ready hr (if_pos ?_)
    rw [Bool.and_eq_true]
    exact ⟨by simpa using hne, List.all_eq_true.mpr hall⟩
  · intro hr hne hn
    change execRaisesvn s = _
    exact State.command_ready hr (if_neg (not_or.mpr ⟨request_ne_short hne, Nat.not_lt.mpr hn⟩))
  · intro hr hlen hn hkey hfree
    change execEnrol s = _
    refine State.command_ready hr ?_
    refine (if_neg (not_or.mpr ⟨Nat.not_lt.mpr hlen, Nat.not_lt.mpr hn⟩)).trans ((if_neg ?_).trans (if_neg ?_))
    · simpa using hkey
    · simpa using hfree
  · intro hr hne hn hkey hen
    change execKeydis s = _
    refine State.command_ready hr ?_
    refine (if_neg (not_or.mpr ⟨request_ne_short hne, Nat.not_lt.mpr hn⟩)).trans ((if_neg ?_).trans (if_neg ?_))
    · simpa using hkey
    · simpa using hen
  · intro k hr hkey hk hen
    change execVendoroff s = _
    refine State.command_ready hr ((if_neg ?_).trans (if_neg ?_))
    · simpa using hkey
    · have hany : (List.range 4).any (s.module s.args.module).enrolled = true := List.any_eq_true.mpr ⟨k, List.mem_range.mpr hk, hen⟩
      rw [hany]
      exact Bool.false_ne_true
  · intro hr hlen h6 h15
    change execExtend s = _
    exact State.command_ready hr
      (if_neg (not_or.mpr ⟨Nat.not_lt.mpr hlen, not_or.mpr ⟨Nat.not_lt.mpr h6, Nat.not_lt.mpr h15⟩⟩))
  · intro hr hlen h500 h3200
    change execSetplim s = _
    exact State.command_ready hr
      (if_neg (not_or.mpr ⟨Nat.not_lt.mpr hlen, not_or.mpr ⟨Nat.not_lt.mpr h500, Nat.not_lt.mpr h3200⟩⟩))
  · intro hr hlen hn hc c
    change execSetpoint s = _
    exact State.command_ready hr
      (if_neg (not_or.mpr ⟨Nat.not_lt.mpr hlen, not_or.mpr ⟨Nat.not_lt.mpr hn, Nat.not_lt.mpr hc⟩⟩))
  · intro hr hlen hn hp p
    change execLinktrain s = _
    exact State.command_ready hr
      (if_neg (not_or.mpr ⟨Nat.not_lt.mpr hlen, not_or.mpr ⟨Nat.not_lt.mpr hn, Nat.not_lt.mpr hp⟩⟩))
  · intro hr hlen hal hroom body need
    refine ⟨s.summaryRecord m (ofLe ((q.drop 8).take 4)), ?_⟩
    change execResync s = _
    refine State.command_ready hr ?_
    refine (if_neg (not_or.mpr ⟨Nat.not_lt.mpr hlen, not_or.mpr ⟨not_not.mpr hal, Nat.not_lt.mpr hroom⟩⟩)).trans ?_
    dsimp only [State.summaryRecord]
  · intro hbusy hcode
    refine if_pos ?_
    rw [Bool.and_eq_true]
    exact ⟨hbusy, by simpa using hcode⟩

end Sys2Proof.Machine
end

section
/-! SUPPORT. The life of a module, and the training of its channels and links. -/

namespace Sys2Proof.Machine

open Safety

theorem State.setModule_setModule (s : State) (m : Nat) (y z : Module) : (s.setModule m y).setModule m z = s.setModule m z := by
  simp only [State.setModule, SMap.set_set]

theorem State.enterSafe_setModule (s : State) (m : Nat) (z : Module) :
    (s.setModule m z).enterSafe m = s.setModule m { z with safe := true, stage := 15 } := by
  simp only [State.enterSafe, State.setModule_module_self, State.setModule_setModule]

/-! ### Power -/

/-- Ending the stretch of the dies leaves their targets. -/
theorem Module.unstretch_target (h : Nat) (ds : List Nat) (z : Module) :
    ((ds.foldl (fun (z : Module) d => z.setDie d { z.die d with stretched := false }) z).die h).target = (z.die h).target := by
  induction ds generalizing z with
  | nil => rfl
  | cons d ds ih =>
    rw [List.foldl_cons, ih]
    simp only [Module.die, Module.setDie, SMap.get_set]
    split
    · next hd => rw [hd]
    · rfl

/-- Ending the stretch of the dies leaves the power limit and the one that follows it. -/
theorem Module.unstretch_limit (ds : List Nat) (z : Module) :
    let y := ds.foldl (fun (z : Module) d => z.setDie d { z.die d with stretched := false }) z
    y.plimNext.getD y.plim = z.plimNext.getD z.plim := by
  induction ds generalizing z with
  | nil => rfl
  | cons d ds ih => exact ih (z.setDie d { z.die d with stretched := false })

theorem Module.setDie_die_self (z : Module) (d : Nat) (x : Die) : (z.setDie d x).die d = x := SMap.get_set_self _ _ _ _

/-- What the ROM leaves of a module as it jumps to an image of the active bank (R401). -/
def Module.romJump (z : Module) (m : Nat) (i : Image) : Module :=
  { ((z.extend 1 (digestBytes (Config.manifestDigest z.manifest))).extend 2 i.digest).extend 3 (digestBytes (Config.fuseDigest m z.keyen)) with
    booted := true, stage := 1, fallback := false, hksvn := i.svn, keyidx := if i.keyidx = 0xFF then 15 else i.keyidx }

/-- Settles O53: each step under its own premise. -/
theorem lifeOfAModule : Obligations.LifeOfAModule := by
  unfold Obligations.LifeOfAModule
  intro s t a m z q f ready
  refine ⟨?_, ?_, ?_, ?_, ?_, ?_, ?_, ?_, ?_, ?_, ?_, ?_, ?_, ?_, ?_, ?_, ?_⟩
  · intro hup hfault hrom
    have hok : ¬ (5 ≤ (s.module s.args.module).railsUp ∨ (s.module s.args.module).railFault.isSome = true ∨
        (2 ≤ (s.module s.args.module).railsUp ∧ (s.module s.args.module).romStarted = false)) := by
      dsimp only [z, m, a] at hup hfault hrom
      rintro (h | h | ⟨h, h'⟩)
      · omega
      · simp [hfault] at h
      · rcases hrom with hr | hr
        · omega
        · simp [hr] at h'
    exact if_neg hok
  · intro hup hfault hrom hr hmem y
    have hok : ¬ (5 ≤ (s.module s.args.module).railsUp ∨ (s.module s.args.module).railFault.isSome = true ∨ s.args.rail = 0 ∨
        (!(stepRails ((s.module s.args.module).railsUp + 1)).contains s.args.rail) = true ∨
        (2 ≤ (s.module s.args.module).railsUp ∧ (s.module s.args.module).romStarted = false)) := by
      dsimp only [z, m, a] at hup hfault hrom hr hmem
      rintro (h | h | h | h | ⟨h, h'⟩)
      · omega
      · simp [hfault] at h
      · exact hr h
      · rw [List.contains_iff_mem.mpr hmem] at h
        exact Bool.false_ne_true h
      · rcases hrom with hr | hr
        · omega
        · simp [hr] at h'
    refine ⟨fun h1 => (if_neg hok).trans (if_pos h1), fun h1 => ?_⟩
    refine ⟨{ cls := 5#8, test := 0#8, inst := BitVec.ofNat 16 s.args.rail, result := 2#8, spares := 0#16, detail := 0#64 }, ?_, rfl, rfl⟩
    refine (if_neg hok).trans ((if_neg h1).trans (congrArg Host.Outcome.next ?_))
    exact State.enterSafe_setModule _ _ _
  · intro hr h7 hgood
    refine if_neg ?_
    rintro (h | h | h)
    · exact hr h
    · exact absurd h7 (Nat.not_le.mpr h)
    · rw [hgood] at h
      exact Bool.false_ne_true h
  · exact fun hgood => if_pos hgood
  · exact fun hup => if_neg hup
  · intro hb hs hst
    have hrun : ¬ ((s.module s.args.module).booted = true ∨ (s.module s.args.module).safe = true ∨ (s.module s.args.module).stage ≠ 0) := by
      rintro (h | h | h)
      · exact ne_true_of_eq_false hb h
      · exact ne_true_of_eq_false hs h
      · exact h hst
    refine ⟨fun hrom hup => ?_, fun i hrom hup hi => ?_, fun hrom hup hi hj => ?_⟩
    · change execRomBoot s = _
      dsimp only [z, m, a] at hrom hup
      simp only [execRomBoot, if_neg hrun, hrom, Bool.not_false, if_true, if_neg (Nat.not_lt.mpr hup)]
      rfl
    · dsimp only [z, m, a] at hrom hup hi
      refine ⟨z.romJump m i, ?_, rfl, rfl, rfl, rfl⟩
      change execRomBoot s = _
      simp only [execRomBoot, if_neg hrun, hrom, Bool.not_true, Bool.false_eq_true, if_false, if_neg (Nat.not_lt.mpr hup), hi]
      rfl
    · change execRomBoot s = _
      dsimp only [z, m, a] at hrom hup hi hj
      simp only [execRomBoot, if_neg hrun, hrom, Bool.not_true, Bool.false_eq_true, if_false, if_neg (Nat.not_lt.mpr hup), hi, hj]
      rfl
  · intro hst
    change execSelfTest s = _
    dsimp only [z, m, a] at hst
    simp only [execSelfTest, hst]
    rfl
  · intro i y hst hclean hi
    change execSelfTest s = _
    dsimp only [y, z, m, a] at hst hclean hi
    have hpass : ¬ (s.args.report.filter (fun e => e.cls == 1#8 || e.cls == 2#8)).any (fun e => e.result == 2#8) = true := by
      rw [List.any_eq_true]
      rintro ⟨e, he, hres⟩
      obtain ⟨hmem, hcls⟩ := List.mem_filter.mp he
      exact hclean e hmem (by simpa using hcls) (by simpa using hres)
    unfold execSelfTest
    dsimp only
    split
    · next h1 => exact absurd (hst.symm.trans h1) (by decide)
    · refine (if_neg hpass).trans ?_
      rw [hi]
    · next h3 => exact absurd (hst.symm.trans h3) (by decide)
    · next h2 _ => exact absurd hst h2
  · exact fun hne => if_neg hne
  · intro hcount hw
    change execPowerSample s = _
    dsimp only [z, m, a] at hcount hw
    refine (if_neg (Nat.not_le.mpr hcount)).trans (congrArg Host.Outcome.next ?_)
    exact congrArg (s.setModule s.args.module) (if_neg (Nat.not_lt.mpr hw))
  · intro hcount
    refine ⟨_, if_neg (not_not.mpr hcount), rfl, rfl, rfl, ?_, fun hover => ?_⟩
    · refine (Module.unstretch_limit _ _).trans ?_
      rw [apply_ite (fun (y : Module) => y.plimNext.getD y.plim), apply_ite (fun (y : Module) => y.plimNext.getD y.plim)]
      exact (if_congr Iff.rfl rfl (ite_self _)).trans (ite_self _)
    · refine (Module.unstretch_target _ _ _).trans ?_
      rw [if_pos hover, Module.setDie_die_self]
      rfl
  · intro hr hl hok
    change execActivate s = _
    refine State.command_ready hr ?_
    obtain ⟨-, -, -, -, hsafe⟩ := hr
    refine (if_neg (not_not.mpr hl)).trans ((if_neg ?_).trans (if_neg (ne_true_of_eq_false hsafe)))
    simpa using hok
  · intro fs hl hack
    have hall : ¬ (!fs.all (fun f => (s.ctx (32 * s.args.module + f)).acked)) = true := by
      rw [List.all_eq_true.mpr hack]
      exact Bool.false_ne_true
    dsimp only [z, m, a] at hl
    refine ⟨fun hf hfr => ?_, fun hf hfr => ?_, fun hf => ?_⟩
    · change execActivationQuiesce s = _
      dsimp only [m, a] at hf hfr
      simp only [execActivationQuiesce, hl, if_neg hall, hf, hfr]
      rfl
    · change execActivationQuiesce s = _
      dsimp only [m, a] at hf hfr
      simp only [execActivationQuiesce, hl, if_neg hall, hf, hfr]
      rfl
    · change execActivationQuiesce s = _
      dsimp only [m, a] at hf
      simp only [execActivationQuiesce, hl, if_neg hall, hf]
      rfl
  · intro hr hne hf hwait
    have hgo : ¬ ((s.module s.args.module).mbBusy && (s.module s.args.module).mbCode == 0x50 && !(s.module s.args.module).safe &&
        s.captureWaits s.args.module (s.module s.args.module).request) = true := by
      dsimp only [q, z, m, a] at hwait
      simp [hwait]
    have hreq : ¬ ((s.module s.args.module).request.isEmpty = true ∨ 31 < ofLe ((s.module s.args.module).request.take 1)) :=
      not_or.mpr ⟨request_ne_short hne, Nat.not_lt.mpr hf⟩
    refine ⟨fun hfz hfr => ?_, fun hfz hfr => ?_, fun hfz => ?_⟩
    · refine (if_neg hgo).trans (State.command_ready hr ((if_neg hreq).trans ?_))
      dsimp only [f, q, z, m, a] at hfz hfr
      simp only [hfz, hfr]
      rfl
    · refine (if_neg hgo).trans (State.command_ready hr ((if_neg hreq).trans ?_))
      dsimp only [f, q, z, m, a] at hfz hfr
      simp only [hfz, hfr]
      rfl
    · refine (if_neg hgo).trans (State.command_ready hr ((if_neg hreq).trans ?_))
      dsimp only [f, q, z, m, a] at hfz
      simp only [hfz]
      rfl
  · intro hr hne hf hpeer hmig hdom hroom
    change execMigrateIn s = _
    refine State.command_ready hr ?_
    refine (if_neg (not_or.mpr ⟨request_ne_short hne, Nat.not_lt.mpr hf⟩)).trans (if_neg ?_)
    dsimp only [f, q, z, m, a] at hpeer hmig hdom hroom
    rintro (h | h | h | h)
    · exact hpeer h
    · rw [hmig] at h
      exact Bool.false_ne_true h
    · rw [hdom] at h
      exact Bool.false_ne_true h
    · simp [hroom] at h
  · refine ⟨_, rfl, ?_, ?_, ?_, ?_⟩ <;> rw [State.setCtx_ctx_self]
  · rfl

/-! ### A lost peer leaves the module's links -/

theorem State.settle_gone_modules (s : State) (c slot i l : Nat) : (s.settle c slot i l .gone).modules = s.modules := by
  unfold State.settle
  dsimp only
  split <;> rfl

theorem State.dropRequests_modules (c slot peer : Nat) : (n : Nat) → (s : State) → (s.dropRequests c slot peer n).modules = s.modules
  | 0, _ => rfl
  | n + 1, s => by
    rw [State.dropRequests, State.dropRequests_modules c slot peer n]
    split
    · rfl
    · refine foldl_keeps (fun (t : State) => t.modules = s.modules) _ (fun t l ht => ?_) _ _ rfl
      split
      · split
        · split
          · exact (State.settle_gone_modules _ _ _ _ _).trans ht
          · exact ht
        · exact ht
      · exact ht

theorem State.losePeer_fabric (s : State) (m peer : Nat) : ((s.losePeer m peer).module m).fabric = (s.module m).fabric := by
  let u := s.setModule m { s.module m with lost := peer :: (s.module m).lost.filter (· != peer) }
  have hmods : (s.losePeer m peer).modules = u.modules :=
    foldl_keeps (fun (t : State) => t.modules = u.modules) _ (fun t y ht => (State.dropRequests_modules _ _ _ _ t).trans ht) _ _ rfl
  have hu : u.module m = { s.module m with lost := peer :: (s.module m).lost.filter (· != peer) } := State.setModule_module_self s m _
  have hmod : (s.losePeer m peer).module m = u.module m := congrArg (fun ms => SMap.get ({} : Module) ms m) hmods
  rw [hmod, hu]

theorem State.leaveLink_fabricOf (s : State) (m n k : Nat) : ((s.leaveLink m n).module m).fabricOf k = (s.module m).fabricOf k := by
  unfold State.leaveLink
  dsimp only
  split
  · rw [Module.fabricOf, State.losePeer_fabric]
    rfl
  · rfl

theorem State.leaveLink_down {s : State} {m n : Nat} (h : ((s.module m).fabricOf n).state ≠ 6) : s.leaveLink m n = s := if_neg h

theorem State.setFabric_fabricOf (s : State) (m n : Nat) (p : FabricPort) : ((s.setFabric m n p).module m).fabricOf n = p := by
  simp only [State.setFabric, State.setModule_module_self, Module.fabricOf, SMap.get_set_self]

/-- What the advance of a port whose link comes up leaves. -/
theorem State.linkUp_facts (s : State) (m n : Nat) (p : FabricPort) :
    let u := (s.setFabric m n p).setModule m
      { (s.setFabric m n p).module m with lost := ((s.setFabric m n p).module m).lost.filter (· != p.pmod) }
    (u.module m).fabricOf n = p ∧ p.pmod ∉ (u.module m).lost := by
  intro u
  have hu : u.module m = _ := State.setModule_module_self _ m _
  constructor
  · rw [hu]
    exact State.setFabric_fabricOf s m n p
  · rw [hu]
    simp

/-- A port whose partner has been agreed is up. -/
def FabricPort.up (p : FabricPort) (k : LinkSeen) : FabricPort :=
  { p with state := 6, skew := k.skew, pvalid := true, pmod := k.partnerModule.toNat, phub := k.partnerHub.toNat,
           pport := k.partnerPort.toNat, retrain := false }

theorem FabricPort.advance_lanes {p : FabricPort} {k : LinkSeen} (h : p.state = 1) (hk : k.lanesOk = 255#8) :
    p.advance k = some { p with state := 2 } := by
  simp only [FabricPort.advance, h, if_pos hk]

theorem FabricPort.advance_codewords {p : FabricPort} {k : LinkSeen} (h : p.state = 4) (hk : 8 ≤ k.codewords) :
    p.advance k = some { p with state := 5 } := by
  simp only [FabricPort.advance, h, if_pos hk]

theorem FabricPort.advance_skew {p : FabricPort} {k : LinkSeen} (h : p.state = 5) (hk : k.skew ≤ 64) : p.advance k = some (p.up k) := by
  simp only [FabricPort.advance, h, if_neg (Nat.not_lt.mpr hk)]
  rfl

/-- A port in state 1 that runs out of time has no partner where it has seen no lane, and fails otherwise. -/
theorem execLinkStateTimeout_lanes {s : State} {k : LinkSeen} (hk : s.args.link = some k)
    (h : ((s.module s.args.module).fabricOf s.args.port).state = 1) (hok : k.lanesOk ≠ 255#8) :
    let p := (s.module s.args.module).fabricOf s.args.port
    execLinkStateTimeout s = .next (s.setFabric s.args.module s.args.port
      { p with state := if k.lanesOk = 0#8 ∧ p.retrain = false then 8 else 7, reached := 1, retrain := false }) := by
  simp only [execLinkStateTimeout, hk]
  refine (if_pos ⟨h, hok⟩).trans ?_
  simp only [FabricPort.fail, h]

/-- A port in state 4 that runs out of time fails. -/
theorem execLinkStateTimeout_codewords {s : State} (h : ((s.module s.args.module).fabricOf s.args.port).state = 4) :
    let p := (s.module s.args.module).fabricOf s.args.port
    execLinkStateTimeout s = .next (s.setFabric s.args.module s.args.port { p with state := 7, reached := 4, retrain := false }) := by
  simp only [execLinkStateTimeout, FabricPort.fail, h]
  rfl

/-- A port that advances to a state below the last one takes its new block. -/
theorem execLinkStateAdvance_trains {s : State} {k : LinkSeen} {p : FabricPort} (hk : s.args.link = some k)
    (hp : ((s.module s.args.module).fabricOf s.args.port).advance k = some p) (h6 : p.state ≠ 6) :
    execLinkStateAdvance s = .next (s.setFabric s.args.module s.args.port p) := by
  simp only [execLinkStateAdvance, hk, Option.bind_some, hp, if_neg h6]

theorem execLinkStateAdvance_up {s : State} {k : LinkSeen} {p : FabricPort} (hk : s.args.link = some k)
    (hp : ((s.module s.args.module).fabricOf s.args.port).advance k = some p) (h6 : p.state = 6) :
    execLinkStateAdvance s = .next ((s.setFabric s.args.module s.args.port p).setModule s.args.module
      { (s.setFabric s.args.module s.args.port p).module s.args.module with
        lost := ((s.setFabric s.args.module s.args.port p).module s.args.module).lost.filter (· != p.pmod) }) := by
  simp only [execLinkStateAdvance, hk, Option.bind_some, hp, if_pos h6]

/-- Settles O54: a run of training and a port of each state. -/
theorem trainingOfChannelsAndLinks : Obligations.TrainingOfChannelsAndLinks := by
  unfold Obligations.TrainingOfChannelsAndLinks
  intro s a m z p l fresh
  refine ⟨?_, ?_, ?_, ?_, ?_, ?_, ?_, ?_⟩
  · intro hst hrun
    have step : execTrainingStart s = .next (s.setPhy m a.channel p.start) := congrArg Host.Outcome.next (if_pos hst)
    have hstart : p.start = if p.first = 0 ∨ p.last > 7 ∨ p.first > p.last then fresh.stop (some 0xF)
        else { fresh with running := true, step := p.first } := if_neg (ne_true_of_eq_false hrun)
    rw [hstart] at step
    refine ⟨fun hok => step.trans ?_, fun hbad => step.trans ?_⟩
    · rw [if_neg (by omega)]
    · rw [if_pos hbad]
      rfl
  · exact fun hrun => congrArg Host.Outcome.next (if_pos hrun)
  · intro r hr hrun hstep y
    have hquiet : ¬ (p.step = 2 ∨ p.step = 5 ∨ p.step = 6 ∨ p.step = 7) := by omega
    have hgo : ¬ (!p.running) = true := by
      rw [hrun]
      exact Bool.false_ne_true
    have step : execTrainingStep s = .next (s.setPhy m a.channel (if (!y.2) = true then y.1.stop (some p.step)
        else if p.aborting = true then y.1.stop (some 0xE) else if p.step = p.last then y.1.stop none else { y.1 with step := p.step + 1 })) := by
      dsimp only [a] at hr
      simp only [execTrainingStep, hr]
      refine (if_neg hgo).trans ?_
      rw [if_neg hquiet]
    refine ⟨fun hy => step.trans ?_, fun hy ha => step.trans ?_, fun hy ha hl => step.trans ?_, fun hy ha hl => step.trans ?_⟩
    · simp only [hy, Bool.not_false, if_true]
    · simp only [hy, ha, Bool.not_true, Bool.false_eq_true, if_false, if_true]
    · simp only [hy, ha, Bool.not_true, Bool.false_eq_true, if_false, if_pos hl]
    · simp only [hy, ha, Bool.not_true, Bool.false_eq_true, if_false, if_neg hl]
  · exact fun hrun => if_pos hrun
  · exact fun hst => congrArg Host.Outcome.next (if_pos hst)
  · intro hst
    change execLinkDown s = _
    dsimp only [l, z, m, a] at hst
    simp only [execLinkDown, State.linkOff, State.leaveLink_down hst]
    rfl
  · intro k hk
    refine ⟨fun hst hok => ?_, fun hst hok => ?_, fun hst hok => ?_, fun hst hok hre => ?_, fun hst hok hre => ?_, fun hst => ?_⟩
    · exact execLinkStateAdvance_trains hk (FabricPort.advance_lanes hst hok) (show (2 : Nat) ≠ 6 by decide)
    · exact execLinkStateAdvance_trains hk (FabricPort.advance_codewords hst hok) (show (5 : Nat) ≠ 6 by decide)
    · have step := execLinkStateAdvance_up hk (FabricPort.advance_skew hst hok) rfl
      obtain ⟨hport, hlost⟩ := State.linkUp_facts s s.args.module s.args.port (l.up k)
      exact ⟨_, step, congrArg FabricPort.state hport, congrArg FabricPort.pmod hport, hlost⟩
    · have h255 : k.lanesOk ≠ 255#8 := by
        rw [hok]
        decide
      refine (execLinkStateTimeout_lanes hk hst h255).trans ?_
      rw [if_pos ⟨hok, hre⟩]
    · refine (execLinkStateTimeout_lanes hk hst hok).trans ?_
      rw [if_neg fun h => hre.elim (fun h0 => h0 h.1) (fun h0 => ne_true_of_eq_false h.2 h0)]
    · exact execLinkStateTimeout_codewords hst
  · intro hst
    refine ⟨_, if_neg (not_not.mpr hst), ?_⟩
    rw [State.setFabric_fabricOf]
    refine ⟨rfl, rfl, ?_⟩
    rw [State.leaveLink_fabricOf]

end Sys2Proof.Machine
end

section
/-! SUPPORT. The attestation responder. -/

namespace Sys2Proof.Machine

open Safety

/-- The connection of the transport that a request has come on. -/
def State.spdmConn (s : State) : Spdm := SMap.get {} (s.module s.args.module).spdm (if s.args.doe then 1 else 0)

/-- A request in its turn is answered. -/
theorem State.spdm_turn {s : State} {name : String} {code : Nat} {turn : Spdm → Bool} {answer : (conn : Spdm) → (certificate msg : List Byte) → SpdmReply}
    {msg : List Byte} (hp : s.spdmPending = some msg) (hlen : 4 ≤ msg.length) (hcode : spdmField msg 1 1 = code)
    (hver : spdmField msg 0 1 = if code = 0x84 then 0x10 else 0x13) (hturn : turn s.spdmConn = true) :
    s.spdm name code turn answer = .next (s.spdmAnswer (answer s.spdmConn (s.module s.args.module).certificate msg)) := by
  have hform : ¬ (msg.length < 4 ∨ spdmField msg 1 1 ≠ code) := not_or.mpr ⟨Nat.not_lt.mpr hlen, not_not.mpr hcode⟩
  simp only [State.spdm, hp, if_neg hform, hver, ne_eq, not_true_eq_false, if_false]
  exact if_pos hturn

/-- A request out of its turn is answered with an error. -/
theorem State.spdm_early {s : State} {name : String} {code : Nat} {turn : Spdm → Bool} {answer : (conn : Spdm) → (certificate msg : List Byte) → SpdmReply}
    {msg : List Byte} (hp : s.spdmPending = some msg) (hlen : 4 ≤ msg.length) (hcode : spdmField msg 1 1 = code)
    (hver : spdmField msg 0 1 = if code = 0x84 then 0x10 else 0x13) (hturn : turn s.spdmConn = false) :
    s.spdm name code turn answer =
      .next (s.spdmAnswer { conn := s.spdmConn, certificate := (s.module s.args.module).certificate, message := spdmError 0x04 0 }) := by
  have hform : ¬ (msg.length < 4 ∨ spdmField msg 1 1 ≠ code) := not_or.mpr ⟨Nat.not_lt.mpr hlen, not_not.mpr hcode⟩
  simp only [State.spdm, hp, if_neg hform, hver, ne_eq, not_true_eq_false, if_false]
  exact if_neg (ne_true_of_eq_false hturn)

theorem bit_div {x i : Nat} (h : bit x i = true) : ¬ x / 2 ^ i % 2 = 0 := by
  simp only [bit, beq_iff_eq] at h
  omega

/-- The body of a response that leads with a word of four bytes starts after eight. -/
theorem spdmMessage_drop (code p1 p2 w : Nat) (v : Nat) (body : List Byte) :
    (spdmMessage code p1 p2 (leBytes 2 w ++ leBytes 2 v ++ body)).drop 8 = body := by
  unfold spdmMessage
  rw [← List.append_assoc, ← List.append_assoc]
  exact List.drop_left' (by simp only [List.length_append, leBytes_length])

/-- Settles O55: each request's own tests pass, and its answer is formed. -/
theorem attestationResponder : Obligations.AttestationResponder := by
  unfold Obligations.AttestationResponder
  intro s msg a z k c asks answers
  refine ⟨?_, ?_, ?_, ?_, ?_, ?_, ?_⟩
  · rintro ⟨hp, hlen, hcode, hver⟩
    have step : execGetVersion s = _ := State.spdm_turn hp hlen hcode hver rfl
    exact ⟨_, step⟩
  · rintro ⟨hp, hlen, hcode, hver⟩ hturn
    have step : execGetCapabilities s = _ := State.spdm_turn hp hlen hcode hver hturn
    exact ⟨_, step⟩
  · rintro ⟨hp, hlen, hcode, hver⟩ hturn hhash hsig
    have step : execNegotiateAlgorithms s = _ := State.spdm_turn hp hlen hcode hver hturn
    have hoffer : ¬ (spdmField msg 8 4 / 2 ^ 7 % 2 = 0 ∨ spdmField msg 12 4 / 2 % 2 = 0) := not_or.mpr ⟨bit_div hhash, bit_div hsig⟩
    rw [if_neg hoffer] at step
    exact ⟨_, step⟩
  · intro hturn
    refine ⟨?_, ?_, ?_, ?_, ?_⟩
    · rintro ⟨hp, hlen, hcode, hver⟩
      have step : execGetDigests s = _ := State.spdm_turn hp hlen hcode hver hturn
      exact ⟨_, step⟩
    · rintro b ⟨hp, hlen, hcode, hver⟩ hchain hoff
      have step : execGetCertificate s = _ := State.spdm_turn hp hlen hcode hver hturn
      have hchain' : spdmChain s.args.module (s.module s.args.module).certificate (spdmField msg 2 1 % 16) = some b := hchain
      simp only [hchain', if_neg (Nat.not_le.mpr hoff)] at step
      refine ⟨_, step, fun hn => ?_⟩
      have hfits : spdmField msg 6 2 ≤ spdmSize - 8 := hn
      rw [spdmMessage_drop, Nat.min_eq_left hfits]
    · rintro b ⟨hp, hlen, hcode, hver⟩ hchain h44
      have step : execChallenge s = _ := State.spdm_turn hp hlen hcode hver hturn
      have hchain' : spdmChain s.args.module (s.module s.args.module).certificate (spdmField msg 2 1 % 16) = some b := hchain
      simp only [hchain', if_neg (Nat.not_lt.mpr h44)] at step
      exact ⟨_, step⟩
    · rintro ⟨hp, hlen, hcode, hver⟩ hunsigned h12 hop
      have step : execGetMeasurements s = _ := State.spdm_turn hp hlen hcode hver hturn
      have hsig : ¬ spdmField msg 2 1 % 2 = 1 := by omega
      have hform : ¬ (msg.length < 4 + 8 ∨ (16 < spdmField msg 3 1 ∧ spdmField msg 3 1 ≠ 0xFF)) := by omega
      simp only [hsig, if_false, false_and, or_false, if_neg hform] at step
      exact ⟨_, step⟩
    · rintro ⟨hp, hlen, hcode, hver⟩ hslot hkey
      have step : execSetCertificate s = _ := State.spdm_turn hp hlen hcode hver hturn
      have hok : ¬ (spdmField msg 2 1 % 16 ≠ 1 ∨ (s.module s.args.module).keyen = false) :=
        not_or.mpr ⟨not_not.mpr hslot, fun h => ne_true_of_eq_false h hkey⟩
      rw [if_neg hok] at step
      exact ⟨_, step⟩
  · rintro ⟨hp, hlen, hcode, hver⟩ hturn
    have step : execGetCapabilities s = _ := State.spdm_early hp hlen hcode hver hturn
    exact step
  · rintro ⟨hp, hlen, hcode, hver⟩ hturn
    have step : execGetDigests s = _ := State.spdm_early hp hlen hcode hver hturn
    exact step
  · intro hp hlen hcode
    change execUnsupportedSpdmRequest s = _
    simp only [execUnsupportedSpdmRequest, hp]
    refine if_neg fun h => hcode ?_
    exact List.contains_iff_mem.mp h.2

end Sys2Proof.Machine
end

section
/-! SUPPORT. The form of memory is kept: the state, atomics, translation, the L1 and faults. -/

namespace Sys2Proof.Machine

open Safety

-- Every lemma here cites those before it: one after another, none holds a thread to wait for them.
set_option Elab.async false

/-! ### What keeps the memory's form

Each result of the model that holds a state has a predicate that says that this state's memory is in its canonical form.
Every function of the model keeps the form: there is a lemma for each, in the order of the definitions, and its proof follows the branches of the function
by the lemmas of the functions that it calls. What writes memory itself rests on the laws `…_wf` of `Memory`. -/

/-- The state that an effect leaves. -/
def Res.canonical : Res → Prop
  | .done o => memoryCanonical o.s
  | .trap o _ _ => memoryCanonical o.s
  | .wait o _ => memoryCanonical o.s
  | .stall s => memoryCanonical s
  | .placed s => memoryCanonical s

/-- The state that the work of an engine leaves. -/
def Work.canonical : Work → Prop
  | .held => True
  | .done _ s => memoryCanonical s
  | .fail _ _ s => memoryCanonical s

/-- The state that a write of a queue thread leaves. -/
def QWrite.canonical : QWrite → Prop
  | .ok s => memoryCanonical s
  | .refused _ s => memoryCanonical s
  | .held => True

/-- The state in which a queue's head is read. -/
def Head.canonical : Head → Prop
  | .packet _ s => memoryCanonical s
  | .lost _ s => memoryCanonical s
  | .nothing => True

/-- The state that the start of a packet leaves. -/
def Started.canonical : Started → Prop
  | .done s => memoryCanonical s
  | .waits s => memoryCanonical s
  | .malformed _ s => memoryCanonical s
  | .untranslated _ s => memoryCanonical s
  | .held => True

/-- The state in which the next step runs. -/
def Plan.canonical : Plan → Prop
  | .run _ s => memoryCanonical s
  | .done s => memoryCanonical s
  | .stop _ => True

/-- A state that may be missing. -/
def optCanonical : Option State → Prop
  | some s => memoryCanonical s
  | none => True

/-- A value and a state that may be missing. -/
def optSndCanonical {α : Type} : Option (α × State) → Prop
  | some (_, s) => memoryCanonical s
  | none => True

/-- A state, or what refuses it. -/
def excCanonical {ε : Type} : Except ε State → Prop
  | .ok s => memoryCanonical s
  | .error _ => True

/-- A fold of steps that keep the form keeps it: otherwise one of them does not. -/
theorem canonical_foldl {α : Type} (f : State → α → State) (l : List α) {s : State} (h : memoryCanonical s) :
    memoryCanonical (l.foldl f s) ∨ ∃ a b, memoryCanonical a ∧ ¬ memoryCanonical (f a b) := by
  by_cases hf : ∀ a b, memoryCanonical a → memoryCanonical (f a b)
  · exact .inl (foldl_keeps memoryCanonical f hf s l h)
  · simp only [not_forall] at hf
    obtain ⟨a, b, ha, hab⟩ := hf
    exact .inr ⟨a, b, ha, hab⟩

theorem makeRoom_optCanonical {s : State} (h : memoryCanonical s) (c line : Nat) : optCanonical (s.makeRoom c line) := by
  cases hm : s.makeRoom c line with
  | none => trivial
  | some t => exact makeRoom_canonical h c line hm

/-! ### Machine/Access.lean -/

theorem State.setCore_canonical {s : State} (h : memoryCanonical s) (c : Nat) (k : Core) : memoryCanonical (s.setCore c k) := by
  unfold State.setCore
  grind [memoryCanonical]

theorem State.setRegion_canonical {s : State} (h : memoryCanonical s) (r : Nat) (k : Region) : memoryCanonical (s.setRegion r k) := by
  unfold State.setRegion
  grind [memoryCanonical]

theorem State.setCairn_canonical {s : State} (h : memoryCanonical s) (u slot : Nat) (k : Cairn) : memoryCanonical (s.setCairn u slot k) := by
  unfold State.setCairn
  grind [memoryCanonical]

theorem State.setHub_canonical {s : State} (h : memoryCanonical s) (h' : Nat) (k : Hub) : memoryCanonical (s.setHub h' k) := by
  unfold State.setHub
  grind [memoryCanonical]

theorem State.setSlice_canonical {s : State} (h : memoryCanonical s) (n : Nat) (k : Slice) : memoryCanonical (s.setSlice n k) := by
  unfold State.setSlice
  grind [memoryCanonical]

theorem State.setCtx_canonical {s : State} (h : memoryCanonical s) (x : Nat) (k : Ctx) : memoryCanonical (s.setCtx x k) := by
  unfold State.setCtx
  grind [memoryCanonical]

theorem State.setQueue_canonical {s : State} (h : memoryCanonical s) (q : Nat) (k : Queue) : memoryCanonical (s.setQueue q k) := by
  unfold State.setQueue
  grind [memoryCanonical]

theorem State.setModule_canonical {s : State} (h : memoryCanonical s) (m : Nat) (k : Module) : memoryCanonical (s.setModule m k) := by
  unfold State.setModule
  grind [memoryCanonical]

theorem State.setPort_canonical {s : State} (h : memoryCanonical s) (p : Nat) (k : Port) : memoryCanonical (s.setPort p k) := by
  unfold State.setPort
  grind [memoryCanonical]

theorem State.setWarp_canonical {s : State} (h : memoryCanonical s) (c slot : Nat) (w : Warp) : memoryCanonical (s.setWarp c slot w) := by
  unfold State.setWarp
  grind [!State.setCore_canonical, memoryCanonical]

theorem State.setGroup_canonical {s : State} (h : memoryCanonical s) (c g : Nat) (x : Group) : memoryCanonical (s.setGroup c g x) := by
  unfold State.setGroup
  grind [!State.setCore_canonical, memoryCanonical]

theorem State.takeFree_canonical {s : State} (h : memoryCanonical s) : memoryCanonical (s.takeFree).2 := by
  unfold State.takeFree
  grind [memoryCanonical]

theorem State.takeBool_canonical {s : State} (h : memoryCanonical s) : memoryCanonical (s.takeBool).2 := by
  unfold State.takeBool
  grind [memoryCanonical]

/-! ### Machine/Translate.lean -/

theorem walkLevels_canonical {s : State} (h : memoryCanonical s) (m va : Nat) (levels : List Nat) (table : Nat) :
    memoryCanonical (walkLevels s m va levels table).1 := by
  fun_induction walkLevels s m va levels table <;> grind [!homeRead_canonical, memoryCanonical]

theorem walkPage_canonical {s : State} (h : memoryCanonical s) (x fuel va : Nat) : memoryCanonical (walkPage x fuel s va).1 := by
  fun_induction walkPage x fuel s va <;> grind [!walkLevels_canonical, !setUsed_canonical, memoryCanonical]

theorem State.walk_canonical {s : State} (h : memoryCanonical s) (x va : Nat) (acc : Acc) (priv : Bool) :
    memoryCanonical (s.walk x va acc priv).2 := by
  unfold State.walk
  grind [!setUsed_canonical, !walkPage_canonical, memoryCanonical]

theorem State.xlatCtx_canonical {s : State} (h : memoryCanonical s) (x va : Nat) (acc : Acc) : memoryCanonical (s.xlatCtx x va acc).2 := by
  unfold State.xlatCtx
  grind [!State.walk_canonical, memoryCanonical]

theorem xlatVia_canonical {s : State} (h : memoryCanonical s) (t : List TlbEntry) (cap x va : Nat) (acc : Acc) (priv : Bool) :
    memoryCanonical (xlatVia s t cap x va acc priv).2.1 := by
  unfold xlatVia
  grind [!setUsed_canonical, !walkPage_canonical, memoryCanonical]

theorem State.xlatCore_canonical {s : State} (h : memoryCanonical s) (c x va : Nat) (acc : Acc) (priv : Bool) :
    memoryCanonical (s.xlatCore c x va acc priv).2 := by
  unfold State.xlatCore
  grind [!State.setCore_canonical, !xlatVia_canonical, memoryCanonical]

theorem State.xlatTile_canonical {s : State} (h : memoryCanonical s) (c x va : Nat) (acc : Acc) (priv : Bool) :
    memoryCanonical (s.xlatTile c x va acc priv).2 := by
  unfold State.xlatTile
  grind [!State.setCore_canonical, !xlatVia_canonical, memoryCanonical]

theorem State.xlatLane_canonical {s : State} (h : memoryCanonical s) (c x ea : Nat) (acc : Acc) (priv : Bool) :
    memoryCanonical (s.xlatLane c x ea acc priv).2 := by
  unfold State.xlatLane
  grind [!State.xlatCore_canonical, memoryCanonical]

/-! ### Machine/Memory.lean -/

theorem State.mapCores_canonical {s : State} (h : memoryCanonical s) (f : Nat → Core → Core) : memoryCanonical (s.mapCores f) := by
  unfold State.mapCores
  grind [memoryCanonical]

theorem State.wakeSaved_canonical {s : State} (h : memoryCanonical s) (p : Warp → Bool) : memoryCanonical (s.wakeSaved p) := by
  unfold State.wakeSaved
  grind [!setSavedState_canonical, !canonical_foldl, memoryCanonical]

theorem State.count_canonical {s : State} (h : memoryCanonical s) (m off n : Nat) : memoryCanonical (s.count m off n) := by
  unfold State.count
  grind [!State.setModule_canonical, memoryCanonical]

theorem State.logWord_canonical {s : State} (h : memoryCanonical s) (e st at_ addr outcome ctx : Nat) :
    memoryCanonical (s.logWord e st at_ addr outcome ctx) := by
  unfold State.logWord
  grind [!State.setModule_canonical, !State.count_canonical, memoryCanonical]

theorem State.meetErrors_canonical {s : State} (h : memoryCanonical s) (c gi ctx : Nat) (reads : Nat → Bool) :
    memoryCanonical (s.meetErrors c gi ctx reads).2 := by
  unfold State.meetErrors
  grind [!State.count_canonical, !State.logWord_canonical, !canonical_foldl, memoryCanonical]

theorem State.healWords_canonical {s : State} (h : memoryCanonical s) (c gi : Nat) (writes : Nat → Bool) :
    memoryCanonical (s.healWords c gi writes) := by
  unfold State.healWords
  grind [memoryCanonical]

theorem State.logError_canonical {s : State} (h : memoryCanonical s) (m : Nat) (p : Place) (outcome ctx : Nat) :
    memoryCanonical (s.logError m p outcome ctx) := by
  unfold State.logError
  grind [!State.logWord_canonical, memoryCanonical]

theorem State.eccRead_canonical {s : State} (h : memoryCanonical s) (m ctx outcome : Nat) (p : Place) (n : Nat) :
    memoryCanonical (s.eccRead m ctx outcome p n).2 := by
  unfold State.eccRead
  grind [!State.count_canonical, !State.logError_canonical, memoryCanonical]

theorem State.l1Check_canonical {s : State} (h : memoryCanonical s) (c ctx pa : Nat) : memoryCanonical (s.l1Check c ctx pa).2 := by
  unfold State.l1Check
  grind [!State.setCore_canonical, !State.logWord_canonical, memoryCanonical]

theorem State.l1Load_canonical {s : State} (h : memoryCanonical s) (c pa n : Nat) (wti : Bool) : memoryCanonical (s.l1Load c pa n wti).2 := by
  unfold State.l1Load
  grind [!State.setCore_canonical, !homeRead_canonical, !makeRoom_optCanonical, memoryCanonical, optCanonical]

theorem State.dropTlb_canonical {s : State} (h : memoryCanonical s) (c x va : Nat) : memoryCanonical (s.dropTlb c x va) := by
  unfold State.dropTlb
  grind [!State.setCore_canonical, memoryCanonical]

theorem State.wtiStore_canonical {s : State} (h : memoryCanonical s) (c slot pa n v : Nat) : memoryCanonical (s.wtiStore c slot pa n v) := by
  unfold State.wtiStore
  grind [!State.setCore_canonical, !homeWrite_canonical, memoryCanonical]

theorem State.xlatMapped_canonical {s : State} (h : memoryCanonical s) (c x va : Nat) (acc : Acc) (priv : Bool) :
    memoryCanonical (s.xlatMapped c x va acc priv).2 := by
  unfold State.xlatMapped
  grind [!State.xlatCore_canonical, memoryCanonical]

theorem State.fillMapped_canonical {s : State} (h : memoryCanonical s) (c gi i j : Nat) : memoryCanonical (s.fillMapped c gi i j).2 := by
  unfold State.fillMapped
  grind [!State.xlatMapped_canonical, !takeSector_canonical, memoryCanonical]

theorem State.flushMapped_canonical {s : State} (h : memoryCanonical s) (c gi i j : Nat) : memoryCanonical (s.flushMapped c gi i j).2 := by
  unfold State.flushMapped
  grind [!homeWrite_canonical, !State.xlatMapped_canonical, !takeSector_canonical, memoryCanonical]

theorem State.flushSectors_canonical {s : State} (h : memoryCanonical s) (c gi i : Nat) (rest : List Nat) :
    memoryCanonical (s.flushSectors c gi i rest).2 := by
  fun_induction State.flushSectors s c gi i rest <;> grind [!State.flushMapped_canonical, memoryCanonical]

theorem State.flushRanges_canonical {s : State} (h : memoryCanonical s) (c gi n : Nat) : memoryCanonical (s.flushRanges c gi n) := by
  fun_induction State.flushRanges s c gi n <;> grind [!State.flushSectors_canonical, memoryCanonical]

theorem State.flushGroups_canonical {s : State} (h : memoryCanonical s) (c : Nat) (rest : List Nat) : memoryCanonical (s.flushGroups c rest) := by
  fun_induction State.flushGroups s c rest <;> grind [!State.flushRanges_canonical, memoryCanonical]

theorem State.fillPieces_canonical {s : State} (h : memoryCanonical s) (c gi : Nat) (rest : List (Nat × Nat)) :
    memoryCanonical (s.fillPieces c gi rest).2 := by
  fun_induction State.fillPieces s c gi rest <;> grind [!State.fillMapped_canonical, memoryCanonical]

theorem State.stashLoad_canonical {s : State} (h : memoryCanonical s) (c gi off n : Nat) : memoryCanonical (s.stashLoad c gi off n).2.2 := by
  unfold State.stashLoad
  grind [!State.fillPieces_canonical, memoryCanonical]

theorem State.markMapped_canonical {s : State} (h : memoryCanonical s) (c gi : Nat) (y : Nat × Nat) : memoryCanonical (s.markMapped c gi y) := by
  unfold State.markMapped
  grind [!State.setCore_canonical, !State.setGroup_canonical, memoryCanonical]

theorem State.stashStore_canonical {s : State} (h : memoryCanonical s) (writer : Option (Nat × Nat)) (c gi off n v : Nat) :
    memoryCanonical (s.stashStore writer c gi off n v) := by
  unfold State.stashStore
  grind [!homeWrite_canonical, !State.markMapped_canonical, !canonical_foldl, memoryCanonical]

theorem State.attach_canonical {s : State} (h : memoryCanonical s) (p : Place) (g : Signature) (scope : Nat) :
    memoryCanonical (s.attach p g scope) := by
  unfold State.attach
  grind [!State.setCore_canonical, !State.setSlice_canonical, !State.setModule_canonical, memoryCanonical]

theorem State.invalidateGroups_canonical {s : State} (h : memoryCanonical s) (c : Nat) (g : Signature) (rest : List Nat) :
    memoryCanonical (s.invalidateGroups c g rest) := by
  fun_induction State.invalidateGroups s c g rest <;> grind [!State.setGroup_canonical, memoryCanonical]

theorem State.applySig_canonical {s : State} (h : memoryCanonical s) (c : Nat) (g : Signature) : memoryCanonical (s.applySig c g) := by
  unfold State.applySig
  grind [!State.setCore_canonical, !State.invalidateGroups_canonical, memoryCanonical]

theorem State.acquire_canonical {s : State} (h : memoryCanonical s) (c : Nat) (p : Place) (scope : Nat) : memoryCanonical (s.acquire c p scope) := by
  unfold State.acquire
  grind [!State.applySig_canonical, memoryCanonical]

theorem State.performAt_canonical {s : State} (h : memoryCanonical s) (c slot : Nat) (o : StoreOp) (p : Place) :
    memoryCanonical (s.performAt c slot o p) := by
  unfold State.performAt
  grind [!homeWrite_canonical, !l1Store_canonical, !homeStore_canonical, !State.wtiStore_canonical, memoryCanonical]

theorem State.performStore_canonical {s : State} (h : memoryCanonical s) (c slot x : Nat) (o : StoreOp) :
    memoryCanonical (s.performStore c slot x o).1 := by
  unfold State.performStore
  grind [!State.setWarp_canonical, !State.takeBool_canonical, !State.dropTlb_canonical, !State.stashStore_canonical, !State.attach_canonical,
    !State.performAt_canonical, memoryCanonical]

theorem State.storeStep_canonical {s : State} (h : memoryCanonical s) (c slot : Nat) (o : StoreOp) (rest : List StoreOp) :
    memoryCanonical (s.storeStep c slot o rest).1 := by
  unfold State.storeStep
  grind [!State.setWarp_canonical, !State.performStore_canonical, memoryCanonical]

theorem State.drainList_canonical {s : State} (h : memoryCanonical s) (c slot : Nat) (m : LaneMask) (va : Nat) (rest : List StoreOp) :
    memoryCanonical (s.drainList c slot m va rest) := by
  fun_induction State.drainList s c slot m va rest <;> grind [!State.setWarp_canonical, !State.storeStep_canonical, memoryCanonical]

theorem State.drain_canonical {s : State} (h : memoryCanonical s) (c slot : Nat) : memoryCanonical (s.drain c slot) := by
  unfold State.drain
  grind [!State.drainList_canonical, memoryCanonical]

theorem State.writeBackAll_canonical {s : State} (h : memoryCanonical s) (c slot : Nat) : memoryCanonical (s.writeBackAll c slot) := by
  unfold State.writeBackAll
  grind [!State.setCore_canonical, !State.setWarp_canonical, !State.takeBool_canonical, !mergeWhere_canonical, !notify_canonical,
    !recallLines_canonical, !State.flushGroups_canonical, !writeBackLines_wf, !canonical_foldl, memoryCanonical]

theorem State.releaseSteps_canonical {s : State} (h : memoryCanonical s) (c slot scope : Nat) : memoryCanonical (s.releaseSteps c slot scope) := by
  unfold State.releaseSteps
  grind [!State.drain_canonical, !State.writeBackAll_canonical, memoryCanonical]

theorem State.rolloverCore_canonical {s : State} (h : memoryCanonical s) (scope c : Nat) : memoryCanonical (s.rolloverCore scope c) := by
  unfold State.rolloverCore
  grind [!State.setCore_canonical, !State.invalidateGroups_canonical, !State.writeBackAll_canonical, memoryCanonical]

/-! ### Machine/Faults.lean -/

theorem State.ctxRead_canonical {s : State} (h : memoryCanonical s) (x va n : Nat) : memoryCanonical (s.ctxRead x va n).2 := by
  unfold State.ctxRead
  grind [!homeRead_canonical, !State.xlatCtx_canonical, memoryCanonical]

theorem State.ctxLoad_canonical {s : State} (h : memoryCanonical s) (x va n : Nat) : memoryCanonical (s.ctxLoad x va n).2 := by
  unfold State.ctxLoad
  grind [!State.xlatCtx_canonical, !State.ctxRead_canonical, memoryCanonical]

theorem State.ctxWrite_canonical {s : State} (h : memoryCanonical s) (x va n v : Nat) : memoryCanonical (s.ctxWrite x va n v).2 := by
  unfold State.ctxWrite
  grind [!State.xlatCtx_canonical, !homeWrite_canonical, memoryCanonical]

theorem State.fcbWrite_canonical {s : State} (h : memoryCanonical s) (x : Nat) (fcb : Word) (byte n v : Nat) :
    memoryCanonical (s.fcbWrite x fcb byte n v) := by
  unfold State.fcbWrite
  grind [!State.ctxWrite_canonical, memoryCanonical]

theorem State.touchPages_canonical {s : State} (h : memoryCanonical s) (x va n : Nat) : memoryCanonical (s.touchPages x va n) := by
  fun_induction State.touchPages s x va n <;> grind [!State.xlatCtx_canonical, memoryCanonical]

theorem State.touch_canonical {s : State} (h : memoryCanonical s) (x va n : Nat) : memoryCanonical (s.touch x va n) := by
  unfold State.touch
  grind [!State.touchPages_canonical, memoryCanonical]

theorem State.touchFcb_canonical {s : State} (h : memoryCanonical s) (x : Nat) (fcb : Word) : memoryCanonical (s.touchFcb x fcb) := by
  unfold State.touchFcb
  grind [!State.touch_canonical, memoryCanonical]

theorem State.touchBlocks_canonical {s : State} (h : memoryCanonical s) (x : Nat) : memoryCanonical (s.touchBlocks x) := by
  unfold State.touchBlocks
  grind [!State.touch_canonical, memoryCanonical]

theorem State.touchEntries_canonical {s : State} (h : memoryCanonical s) (x : Nat) : memoryCanonical (s.touchEntries x) := by
  unfold State.touchEntries
  grind [!State.touch_canonical, memoryCanonical]

theorem State.touchDomain_canonical {s : State} (h : memoryCanonical s) (x d : Nat) : memoryCanonical (s.touchDomain x d) := by
  unfold State.touchDomain
  grind [!State.touch_canonical, memoryCanonical]

theorem State.postEvent_canonical {s : State} (h : memoryCanonical s) (x type queue tag index : Nat) :
    memoryCanonical (s.postEvent x type queue tag index) := by
  unfold State.postEvent
  grind [!State.setCtx_canonical, !State.ctxWrite_canonical, memoryCanonical]

theorem State.writeFaultEntry_canonical {s : State} (h : memoryCanonical s) (x d e entry : Nat) :
    memoryCanonical (s.writeFaultEntry x d e entry) := by
  unfold State.writeFaultEntry
  grind [!State.setCtx_canonical, !State.ctxWrite_canonical, memoryCanonical]

theorem State.holdFault_canonical {s : State} (h : memoryCanonical s) (x d entry : Nat) : memoryCanonical (s.holdFault x d entry) := by
  unfold State.holdFault
  grind [!State.setCtx_canonical, memoryCanonical]

theorem State.postFault_canonical {s : State} (h : memoryCanonical s) (x d record : Nat) (index : BitVec 16) :
    memoryCanonical (s.postFault x d record index) := by
  unfold State.postFault
  grind [!State.setCtx_canonical, !State.touchDomain_canonical, !State.postEvent_canonical, !State.writeFaultEntry_canonical,
    !State.holdFault_canonical, memoryCanonical]

theorem State.recordFault_canonical {s : State} (h : memoryCanonical s) (x : Nat) (fcb handle : Word) (core slot : Nat) (i : FaultInfo) :
    memoryCanonical (s.recordFault x fcb handle core slot i).1 := by
  unfold State.recordFault
  grind [!State.setCtx_canonical, !State.ctxWrite_canonical, !State.touchFcb_canonical, !State.postFault_canonical, memoryCanonical]

theorem State.freeRecordAt_canonical {s : State} (h : memoryCanonical s) (x n : Nat) : memoryCanonical (s.freeRecordAt x n) := by
  unfold State.freeRecordAt
  grind [!State.setCtx_canonical, memoryCanonical]

/-! ### Machine/Ops.lean -/

theorem State.spillBelay_canonical {s : State} (h : memoryCanonical s) (u : Nat) : memoryCanonical (s.spillBelay u) := by
  unfold State.spillBelay
  grind [!spillFree_canonical, memoryCanonical]

theorem State.contribute_canonical {s : State} (h : memoryCanonical s) (cairn clause : Nat) (e : EchoVal) :
    memoryCanonical (s.contribute cairn clause e) := by
  unfold State.contribute
  grind [!State.spillBelay_canonical, memoryCanonical]

theorem State.contributeIdentity_canonical {s : State} (h : memoryCanonical s) (i : Ident) : memoryCanonical (s.contributeIdentity i) := by
  unfold State.contributeIdentity
  grind [!State.contribute_canonical, memoryCanonical]

end Sys2Proof.Machine
end

section
/-! SUPPORT. The form of memory is kept: lanes, operands, maps, loads, stores, atomics and fetching. -/

namespace Sys2Proof.Machine

open Safety

-- Every lemma here cites those before it: one after another, none holds a thread to wait for them.
set_option Elab.async false

/-! ### Machine/Ops.lean -/

theorem State.faultCairn_canonical {s : State} (h : memoryCanonical s) (cairn : Nat) : memoryCanonical (s.faultCairn cairn) := by
  unfold State.faultCairn
  grind [memoryCanonical]

theorem State.completeLanes_canonical {s : State} (h : memoryCanonical s) (c slot : Nat) (m : LaneMask) :
    memoryCanonical (s.completeLanes c slot m) := by
  unfold State.completeLanes
  grind [!State.setWarp_canonical, !State.drain_canonical, memoryCanonical]

theorem State.releaseToken_canonical {s : State} (h : memoryCanonical s) (c slot lane : Nat) : memoryCanonical (s.releaseToken c slot lane) := by
  unfold State.releaseToken
  grind [!State.setModule_canonical, memoryCanonical]

theorem State.abortLane_canonical {s : State} (h : memoryCanonical s) (c slot lane cause fcause ucode : Nat) :
    memoryCanonical (s.abortLane c slot lane cause fcause ucode) := by
  unfold State.abortLane
  grind [!State.setCore_canonical, !State.setWarp_canonical, !State.releaseToken_canonical, memoryCanonical]

theorem State.abortLanes_canonical {s : State} (h : memoryCanonical s) (c slot cause fcause ucode : Nat) (rest : List Nat) :
    memoryCanonical (s.abortLanes c slot cause fcause ucode rest) := by
  fun_induction State.abortLanes s c slot cause fcause ucode rest <;> grind [!State.abortLane_canonical, memoryCanonical]

theorem State.exitEach_canonical {s : State} (h : memoryCanonical s) (c slot : Nat) (rest : List Nat) : memoryCanonical (s.exitEach c slot rest) := by
  fun_induction State.exitEach s c slot rest <;> grind [!State.setCore_canonical, !State.setWarp_canonical, !State.contributeIdentity_canonical,
    !State.releaseToken_canonical, memoryCanonical]

theorem State.sendTrapRecord_canonical {s : State} (h : memoryCanonical s) (c slot : Nat) (m : LaneMask) :
    memoryCanonical (s.sendTrapRecord c slot m) := by
  unfold State.sendTrapRecord
  grind [!State.setWarp_canonical, !State.postFault_canonical, !State.faultCairn_canonical, !canonical_foldl, memoryCanonical]

theorem State.exitLanes_canonical {s : State} (h : memoryCanonical s) (c slot : Nat) (m : LaneMask) : memoryCanonical (s.exitLanes c slot m) := by
  unfold State.exitLanes
  grind [!State.setWarp_canonical, !State.setGroup_canonical, !State.exitEach_canonical, !State.sendTrapRecord_canonical, memoryCanonical]

theorem State.killLanes_canonical {s : State} (h : memoryCanonical s) (c slot : Nat) (m : LaneMask) : memoryCanonical (s.killLanes c slot m) := by
  unfold State.killLanes
  grind [!State.setWarp_canonical, !State.exitLanes_canonical, memoryCanonical]

theorem Out.advance_canonical {o : Out} (h : memoryCanonical o.s) (c slot idx : Nat) (e : Entry) (ps : List SplitPart) :
    memoryCanonical (o.advance c slot idx e ps) := by
  unfold Out.advance
  grind [!State.setWarp_canonical, memoryCanonical]

theorem Out.parkLanes_canonical {o : Out} (h : memoryCanonical o.s) (c slot idx len : Nat) (e : Entry) (ps : List SplitPart) :
    memoryCanonical (o.parkLanes c slot idx len e ps) := by
  unfold Out.parkLanes
  grind [!State.setWarp_canonical, !State.recordFault_canonical, memoryCanonical]

theorem Out.finish_canonical {o : Out} (h : memoryCanonical o.s) (c slot idx len : Nat) : memoryCanonical (o.finish c slot idx len) := by
  unfold Out.finish
  grind [!Out.advance_canonical, !Out.parkLanes_canonical, memoryCanonical]

theorem State.doubleTrap_canonical {s : State} (h : memoryCanonical s) (c slot : Nat) (i : FaultInfo) : memoryCanonical (s.doubleTrap c slot i) := by
  unfold State.doubleTrap
  grind [!State.setWarp_canonical, !State.postFault_canonical, !State.faultCairn_canonical, !State.killLanes_canonical, !canonical_foldl,
    memoryCanonical]

theorem State.takeTrap_canonical {s : State} (h : memoryCanonical s) (c slot idx : Nat) (t : TrapReq) :
    memoryCanonical (s.takeTrap c slot idx t) := by
  unfold State.takeTrap
  grind [!State.setWarp_canonical, !State.setGroup_canonical, !State.ctxWrite_canonical, !State.completeLanes_canonical, !State.doubleTrap_canonical,
    memoryCanonical]

theorem State.trapLanes_canonical {s : State} (h : memoryCanonical s) (c slot : Nat) (m : LaneMask) (t : TrapReq) :
    memoryCanonical (s.trapLanes c slot m t) := by
  unfold State.trapLanes
  grind [!State.setWarp_canonical, !State.takeTrap_canonical, memoryCanonical]

theorem State.takePending_canonical {s : State} (h : memoryCanonical s) (c slot i : Nat) : memoryCanonical (s.takePending c slot i) := by
  unfold State.takePending
  grind [!State.setWarp_canonical, !State.trapLanes_canonical, memoryCanonical]

theorem State.raise_canonical {s : State} (h : memoryCanonical s) (c slot idx : Nat) (t : TrapReq) (mem : Bool) :
    memoryCanonical (s.raise c slot idx t mem) := by
  unfold State.raise
  grind [!State.setWarp_canonical, !State.abortLanes_canonical, !Out.finish_canonical, !State.takeTrap_canonical, !State.trapLanes_canonical,
    memoryCanonical]

theorem State.returnTrap_canonical {s : State} (h : memoryCanonical s) (c slot idx pc : Nat) : memoryCanonical (s.returnTrap c slot idx pc) := by
  unfold State.returnTrap
  grind [!State.setWarp_canonical, !State.doubleTrap_canonical, memoryCanonical]

/-! ### Machine/Operands.lean -/

theorem Iss.note_canonical {s : State} (h : memoryCanonical s) (x : Iss) : memoryCanonical (x.note s) := by
  unfold Iss.note
  grind [!State.setWarp_canonical, memoryCanonical]

theorem Iss.showEmpty_canonical {s : State} (h : memoryCanonical s) (x : Iss) : memoryCanonical (x.showEmpty s) := by
  unfold Iss.showEmpty
  grind [!State.setWarp_canonical, memoryCanonical]

theorem Iss.trap_canonical {s : State} (h : memoryCanonical s) (x : Iss) (cause : Nat) (m : LaneMask) (info : FaultInfo) (mem : Bool) :
    Res.canonical (x.trap s cause m info mem) := by
  unfold Iss.trap
  grind [memoryCanonical, Res.canonical]

theorem Out.finishWait_canonical {o : Out} (h : memoryCanonical o.s) (c slot idx len : Nat) (cause : WaitCause) :
    memoryCanonical (o.finishWait c slot idx len cause) := by
  unfold Out.finishWait
  grind [!State.setWarp_canonical, !Out.finish_canonical, memoryCanonical]

theorem Iss.retry_canonical {s : State} (h : memoryCanonical s) (x : Iss) (w : Warp) : memoryCanonical (x.retry w s) := by
  unfold Iss.retry
  grind [!State.setWarp_canonical, memoryCanonical]

theorem Res.finish_canonical {r : Res} (h : Res.canonical r) (x : Iss) (w : Warp) : memoryCanonical (r.finish x w) := by
  unfold Res.finish
  grind [!Out.finish_canonical, !State.trapLanes_canonical, !State.raise_canonical, !Out.finishWait_canonical, !Iss.retry_canonical, memoryCanonical,
    Res.canonical]

theorem Iss.badReads_canonical {s : State} (h : memoryCanonical s) (x : Iss) : memoryCanonical (x.badReads s).2 := by
  unfold Iss.badReads
  grind [!State.count_canonical, !State.logWord_canonical, !canonical_foldl, memoryCanonical]

theorem Iss.heal_canonical {s : State} (h : memoryCanonical s) (x : Iss) : memoryCanonical (x.heal s) := by
  unfold Iss.heal
  grind [memoryCanonical]

theorem Iss.run_canonical {s : State} (h : memoryCanonical s) (x : Iss) (eff : Iss → State → Res)
    (heff : ∀ x t, memoryCanonical t → Res.canonical (eff x t)) : memoryCanonical (x.run eff s) := by
  unfold Iss.run
  grind [!Iss.note_canonical, !Iss.showEmpty_canonical, !Iss.trap_canonical, !Res.finish_canonical, !Iss.badReads_canonical, !Iss.heal_canonical,
    memoryCanonical, Res.canonical]

theorem State.pageFault_canonical {s : State} (h : memoryCanonical s) (c slot : Nat) (m : LaneMask) (info : FaultInfo) :
    memoryCanonical (s.pageFault c slot m info).1 := by
  unfold State.pageFault
  grind [!State.postFault_canonical, !State.abortLanes_canonical, memoryCanonical]

theorem Iss.withWarp_canonical {s : State} (h : memoryCanonical s) (x : Iss) (w : Warp) : memoryCanonical (x.withWarp s w) := by
  unfold Iss.withWarp
  grind [!State.setWarp_canonical, memoryCanonical]

theorem laneOp_canonical {s : State} (h : memoryCanonical s) (n : Nat) (val : Iss → Warp → Nat → Nat) (x : Iss) :
    Res.canonical (laneOp n val x s) := by
  unfold laneOp
  grind [!Iss.withWarp_canonical, memoryCanonical, Res.canonical]

theorem predOp_canonical {s : State} (h : memoryCanonical s) (val : Iss → Warp → Nat → Bool) (x : Iss) : Res.canonical (predOp val x s) := by
  unfold predOp
  grind [!Iss.withWarp_canonical, memoryCanonical, Res.canonical]

theorem Iss.abortOpen_canonical {s : State} (h : memoryCanonical s) (x : Iss) (cause : Nat) (m : LaneMask) :
    memoryCanonical (x.abortOpen s cause m).1 := by
  unfold Iss.abortOpen
  grind [!State.abortLanes_canonical, memoryCanonical]

theorem Res.join_canonical {r : Res} (h : Res.canonical r) (x : Iss) (go : SMap (Option Nat)) : Res.canonical (r.join x go) := by
  unfold Res.join
  grind [memoryCanonical, Res.canonical]

theorem Iss.closed_canonical {s : State} (h : memoryCanonical s) (x : Iss) (eff : LaneMask → State → Res)
    (heff : ∀ x t, memoryCanonical t → Res.canonical (eff x t)) : Res.canonical (x.closed s eff) := by
  unfold Iss.closed
  grind [!Iss.abortOpen_canonical, !Res.join_canonical, memoryCanonical, Res.canonical]

theorem Iss.release_canonical {s : State} (h : memoryCanonical s) (x : Iss) (scope : Nat) (m : LaneMask) (k : State → Res)
    (hk : ∀ t, memoryCanonical t → Res.canonical (k t)) : Res.canonical (x.release s scope m k) := by
  unfold Iss.release
  grind [!State.releaseSteps_canonical, !Iss.trap_canonical, memoryCanonical, Res.canonical]

/-! ### Machine/Flags.lean -/

theorem State.tscbAcquire_canonical {s : State} (h : memoryCanonical s) (c gi : Nat) (bits : DWord) : memoryCanonical (s.tscbAcquire c gi bits) := by
  unfold State.tscbAcquire
  grind [!State.applySig_canonical, !canonical_foldl, memoryCanonical]

/-! ### Machine/LaneMem.lean -/

theorem State.readMem_canonical {s : State} (h : memoryCanonical s) (c slot : Nat) (p : Place) (wti : Bool) (n : Nat) :
    memoryCanonical (s.readMem c slot p wti n).2 := by
  unfold State.readMem
  grind [!homeRead_canonical, !State.l1Load_canonical, memoryCanonical]

theorem State.enqueue_canonical {s : State} (h : memoryCanonical s) (c slot : Nat) (o : StoreOp) : memoryCanonical (s.enqueue c slot o) := by
  unfold State.enqueue
  grind [!State.setWarp_canonical, memoryCanonical]

theorem State.spillEach_canonical {s : State} (h : memoryCanonical s) (c slot x lane insn len pc : Nat) (rest : List (Nat × Nat)) :
    memoryCanonical (s.spillEach c slot x lane insn len pc rest) := by
  fun_induction State.spillEach s c slot x lane insn len pc rest <;> grind [!State.xlatLane_canonical, !State.enqueue_canonical, memoryCanonical]

theorem State.push_canonical {s : State} (h : memoryCanonical s) (c slot x lane ret insn len pc : Nat) :
    memoryCanonical (s.push c slot x lane ret insn len pc) := by
  unfold State.push
  grind [!State.setWarp_canonical, !State.spillEach_canonical, memoryCanonical]

/-! ### Machine/Maps.lean -/

theorem State.mapRead_canonical {s : State} (h : memoryCanonical s) (x id : Nat) : memoryCanonical (s.mapRead x id).2 := by
  unfold State.mapRead
  grind [!State.ctxLoad_canonical, memoryCanonical]

theorem State.mapEntry_canonical {s : State} (h : memoryCanonical s) (c : Nat) (tile : Bool) (x id : Nat) :
    memoryCanonical (s.mapEntry c tile x id).2 := by
  unfold State.mapEntry
  grind [!State.setCore_canonical, !State.mapRead_canonical, memoryCanonical]

theorem State.owner_canonical {s : State} (h : memoryCanonical s) (x e i : Nat) : memoryCanonical (s.owner x e i).2 := by
  unfold State.owner
  grind [!State.ctxLoad_canonical, memoryCanonical]

theorem State.resolve_canonical {s : State} (h : memoryCanonical s) (x e : Nat) (xs : List Nat) : memoryCanonical (s.resolve x e xs).2 := by
  unfold State.resolve
  grind [!setUsed_canonical, !walkPage_canonical, !State.owner_canonical, memoryCanonical]

/-! ### Machine/Reach.lean -/

theorem State.reachStash_canonical {s : State} (h : memoryCanonical s) (x : Nat) (opened : Bool) (k off n : Nat) (acc : Acc) (ea : Nat)
    (base : FaultInfo) : memoryCanonical (s.reachStash x opened k off n acc ea base).2 := by
  unfold State.reachStash
  grind [!State.stashLoad_canonical, memoryCanonical]

theorem State.reach_canonical {s : State} (h : memoryCanonical s) (c x : Nat) (priv opened : Bool) (ea n align : Nat) (acc : Acc) (base : FaultInfo) :
    memoryCanonical (s.reach c x priv opened ea n align acc base).2 := by
  unfold State.reach
  grind [!State.xlatLane_canonical, !State.reachStash_canonical, memoryCanonical]

theorem State.reachLanes_canonical {s : State} (h : memoryCanonical s) (f : State → Nat → Reach × State)
    (hf : ∀ t y, memoryCanonical t → memoryCanonical (f t y).2) (rest : List Nat) : memoryCanonical (s.reachLanes f rest).2 := by
  fun_induction State.reachLanes s f rest <;> grind [memoryCanonical]

theorem Iss.reachPlain_canonical {s : State} (h : memoryCanonical s) (x : Iss) (w : Warp) (n align : Nat) (acc : Acc) (l : Nat) :
    memoryCanonical (x.reachPlain w n align acc s l).2 := by
  unfold Iss.reachPlain
  grind [!State.reach_canonical, memoryCanonical]

theorem Iss.memory_canonical {s : State} (h : memoryCanonical s) (x : Iss) (unsupported : Bool) (check : Warp → State → Nat → Reach × State)
    (hcheck : ∀ x t z, memoryCanonical t → memoryCanonical (check x t z).2) (eff : List LaneAt → State → Res)
    (heff : ∀ x t, memoryCanonical t → Res.canonical (eff x t)) : Res.canonical (x.memory s unsupported check eff) := by
  unfold Iss.memory
  extract_lets w bad
  split
  next s0 go0 e0 =>
    have h0 : memoryCanonical s0 := by grind [!Iss.abortOpen_canonical]
    split
    next rs s1 e1 =>
      have h1 : memoryCanonical s1 := by grind [!State.reachLanes_canonical]
      split
      · exact h1
      · extract_lets oks remote space
        split
        next s2 go1 e2 =>
          have h2 : memoryCanonical s2 := by grind [!Iss.abortOpen_canonical]
          split
          next s3 go2 e3 =>
            have h3 : memoryCanonical s3 := by grind [!Iss.abortOpen_canonical]
            split
            next s4 go3 park e4 =>
              have h4 : memoryCanonical s4 := by grind [!State.pageFault_canonical]
              have h5 := heff (oks.filter (fun a => !(remote.contains a.lane) && !(space.contains a.lane))) s4 h4
              dsimp only
              generalize eff (oks.filter (fun a => !(remote.contains a.lane) && !(space.contains a.lane))) s4 = r at h5 ⊢
              cases r with
              | done o => exact h5
              | trap o t mem => exact h5
              | wait o cause => exact h5
              | placed u => exact h5
              | stall u =>
                dsimp only
                split <;> exact h5

/-! ### Machine/TxAccess.lean -/

theorem State.txValue_canonical {s : State} (h : memoryCanonical s) (c wa : Nat) : memoryCanonical (s.txValue c wa).2 := by
  unfold State.txValue
  grind [!homeRead_canonical, memoryCanonical]

theorem State.txErrors_canonical {s : State} (h : memoryCanonical s) (c x wa : Nat) : memoryCanonical (s.txErrors c x wa).2 := by
  unfold State.txErrors
  grind [!State.eccRead_canonical, !State.l1Check_canonical, memoryCanonical]

theorem State.pinWord_canonical {s : State} (h : memoryCanonical s) (c wa : Nat) : memoryCanonical (s.pinWord c wa) := by
  unfold State.pinWord
  grind [!State.setModule_canonical, !writeBackWord_canonical, memoryCanonical]

theorem State.txReadWord_canonical {s : State} (h : memoryCanonical s) (c slot x lane wa : Nat) :
    memoryCanonical (s.txReadWord c slot x lane wa).2 := by
  unfold State.txReadWord
  grind [!State.setWarp_canonical, !State.txValue_canonical, !State.txErrors_canonical, !State.pinWord_canonical, memoryCanonical]

theorem State.txRead_canonical {s : State} (h : memoryCanonical s) (c slot x lane pa n : Nat) : memoryCanonical (s.txRead c slot x lane pa n).2 := by
  unfold State.txRead
  grind [!State.txReadWord_canonical, memoryCanonical]

theorem State.txWriteWord_canonical {s : State} (h : memoryCanonical s) (c slot lane wa mask v : Nat) :
    optCanonical (s.txWriteWord c slot lane wa mask v) := by
  unfold State.txWriteWord
  grind [!State.setCore_canonical, !State.setWarp_canonical, !makeRoom_optCanonical, memoryCanonical, optCanonical]

theorem State.txWrite_canonical {s : State} (h : memoryCanonical s) (c slot lane pa n v : Nat) : excCanonical (s.txWrite c slot lane pa n v) := by
  unfold State.txWrite
  grind [!State.txWriteWord_canonical, memoryCanonical, optCanonical, excCanonical]

theorem State.txRmw_canonical {s : State} (h : memoryCanonical s) (c slot x lane pa : Nat) (r : Rmw) (b v : Nat) :
    memoryCanonical (s.txRmw c slot x lane pa r b v).2 := by
  unfold State.txRmw
  grind [!State.txRead_canonical, !State.txWrite_canonical, memoryCanonical, excCanonical]

/-! ### Machine/Loads.lean -/

theorem State.readNow_canonical {s : State} (h : memoryCanonical s) (c slot x lane : Nat) (p : Place) (wti : Bool) (n acq va : Nat) :
    memoryCanonical (s.readNow c slot x lane p wti n acq va).2 := by
  unfold State.readNow
  split <;> grind [!homeRead_canonical, !State.eccRead_canonical, !State.l1Check_canonical, !syncLine_canonical, !State.stashLoad_canonical,
    !State.acquire_canonical, !State.readMem_canonical, memoryCanonical]

theorem State.loadLane_canonical {s : State} (h : memoryCanonical s) (c slot x n acq : Nat) (a : LaneAt) :
    memoryCanonical (s.loadLane c slot x n acq a).2 := by
  unfold State.loadLane
  grind [!State.acquire_canonical, !State.drain_canonical, !State.txRead_canonical, !State.readNow_canonical, memoryCanonical]

theorem Gather.add_canonical (g : Gather) {s : State} (hs : memoryCanonical s) (a : LaneAt) (got : Got) (ext : Nat → Nat)
    (b d : Nat) : memoryCanonical (g.add a got s ext b d).s := by
  unfold Gather.add
  grind [memoryCanonical]

theorem Gather.run_canonical {g : Gather} (h : memoryCanonical g.s) (f : State → LaneAt → Got × State)
    (hf : ∀ t y, memoryCanonical t → memoryCanonical (f t y).2) (ext b d : Nat → Nat) (rest : List LaneAt) : memoryCanonical
    (g.run f ext b d rest).s := by
  induction rest generalizing g with
  | nil => exact h
  | cons a t ih => exact ih (Gather.add_canonical _ (hf g.s a h) a (f g.s a).1 ext (b a.lane) (d a.lane))

theorem State.abortEach_canonical {s : State} (h : memoryCanonical s) (c slot : Nat) (rest : List (Nat × Nat × Nat)) :
    memoryCanonical (s.abortEach c slot rest) := by
  fun_induction State.abortEach s c slot rest <;> grind [!State.abortLane_canonical, memoryCanonical]

theorem Iss.launch_canonical {g : Gather} (h : memoryCanonical g.s) (x : Iss) (acc : Nat) : Res.canonical (x.launch g acc) := by
  unfold Iss.launch
  grind [!State.setWarp_canonical, !State.abortEach_canonical, memoryCanonical, Res.canonical]

theorem State.clearFence_canonical {s : State} (h : memoryCanonical s) (c slot : Nat) (acq rel : Bool) :
    memoryCanonical (s.clearFence c slot acq rel) := by
  unfold State.clearFence
  grind [!State.setWarp_canonical, memoryCanonical]

theorem Iss.loadEff_canonical {s : State} (h : memoryCanonical s) (x : Iss) (n : Nat) (ext : Nat → Nat) (oks : List LaneAt) :
    Res.canonical (x.loadEff n ext oks s) := by
  unfold Iss.loadEff
  grind [!State.loadLane_canonical, !Gather.run_canonical, !Iss.launch_canonical, !State.clearFence_canonical, memoryCanonical, Res.canonical]

theorem State.storeEach_canonical {s : State} (h : memoryCanonical s) (c slot rel insn len pc n : Nat) (data : Nat → Nat) (rest : List LaneAt)
    (more : List (Nat × Nat × Nat)) : memoryCanonical (s.storeEach c slot rel insn len pc n data rest more).1 := by
  fun_induction State.storeEach s c slot rel insn len pc n data rest more <;> grind [!State.attach_canonical, !State.enqueue_canonical,
    !State.txWrite_canonical, memoryCanonical, excCanonical]

theorem Iss.releaseAt_canonical {s : State} (h : memoryCanonical s) (x : Iss) (rel n : Nat) (oks : List LaneAt) (k : State → Res)
    (hk : ∀ t, memoryCanonical t → Res.canonical (k t)) : Res.canonical (x.releaseAt s rel n oks k) := by
  unfold Iss.releaseAt
  grind [!Iss.release_canonical, memoryCanonical, Res.canonical]

theorem Iss.storeDone_canonical {r : State × List (Nat × Nat × Nat)} (h : memoryCanonical r.1) (x : Iss) (rel : Nat) :
    Res.canonical (x.storeDone rel r) := by
  unfold Iss.storeDone
  grind [!State.drain_canonical, !State.abortEach_canonical, memoryCanonical, Res.canonical]

theorem Iss.storeEff_canonical {s : State} (h : memoryCanonical s) (x : Iss) (n : Nat) (data : Nat → Nat) (oks : List LaneAt) :
    Res.canonical (x.storeEff n data oks s) := by
  unfold Iss.storeEff
  grind [!State.clearFence_canonical, !State.storeEach_canonical, !Iss.releaseAt_canonical, !Iss.storeDone_canonical, memoryCanonical, Res.canonical]

theorem Iss.reachMap_canonical {s : State} (h : memoryCanonical s) (x : Iss) (acc : Acc) (w : Warp) (l : Nat) :
    memoryCanonical (x.reachMap acc w s l).2 := by
  unfold Iss.reachMap
  dsimp only
  split <;> grind [!State.xlatLane_canonical, !State.mapEntry_canonical, !State.resolve_canonical, !State.reach_canonical, memoryCanonical]

theorem Iss.mapped_canonical {s : State} (h : memoryCanonical s) {eff : Res} (heff : Res.canonical eff) (x : Iss) :
    Res.canonical (x.mapped s eff) := by
  unfold Iss.mapped
  grind [!Iss.showEmpty_canonical, !Iss.trap_canonical, memoryCanonical, Res.canonical]

theorem Iss.loadMapped_canonical {s : State} (h : memoryCanonical s) (x : Iss) (size fmt : Nat → Nat) (oks : List LaneAt) :
    Res.canonical (x.loadMapped size fmt oks s) := by
  unfold Iss.loadMapped
  split
  · exact h
  · split
    · exact h
    · refine Iss.launch_canonical ?_ x 0
      refine foldl_keeps (fun g : Gather => memoryCanonical g.s) _ (fun g a hg => ?_) _ _ (State.clearFence_canonical h _ _ _ _)
      exact Gather.add_canonical _ (State.loadLane_canonical hg _ _ _ _ _ _) _ _ _ _ _

/-! ### Machine/Atomics.lean -/

theorem State.homeRmw_canonical {s : State} (h : memoryCanonical s) (c slot x lane : Nat) (r : Rmw) (p : Place) (b d va : Nat) :
    memoryCanonical (s.homeRmw c slot x lane r p b d va).2 := by
  unfold State.homeRmw
  grind [!recall_canonical, !homeRead_canonical, !State.eccRead_canonical, !syncLine_canonical, !homeStore_canonical, memoryCanonical]

theorem State.l1Rmw_canonical {s : State} (h : memoryCanonical s) (c slot x lane : Nat) (r : Rmw) (pa b d va : Nat) :
    memoryCanonical (s.l1Rmw c slot x lane r pa b d va).2 := by
  unfold State.l1Rmw
  grind [!State.setCore_canonical, !State.setSlice_canonical, !recall_canonical, !homeRead_canonical, !State.eccRead_canonical,
    !makeRoom_optCanonical, !State.l1Check_canonical, !State.homeRmw_canonical, memoryCanonical, optCanonical]

theorem State.stashRmw_canonical {s : State} (h : memoryCanonical s) (c slot x lane : Nat) (r : Rmw) (k off b d va : Nat) :
    memoryCanonical (s.stashRmw c slot x lane r k off b d va).2 := by
  unfold State.stashRmw
  split <;> grind [!State.eccRead_canonical, !State.stashLoad_canonical, !State.stashStore_canonical, memoryCanonical]

theorem State.rmwNow_canonical {s : State} (h : memoryCanonical s) (c slot x lane : Nat) (r : Rmw) (p : Place) (home : Bool) (acq rel b d va : Nat) :
    memoryCanonical (s.rmwNow c slot x lane r p home acq rel b d va).2 := by
  unfold State.rmwNow
  grind [!State.attach_canonical, !State.acquire_canonical, !State.homeRmw_canonical, !State.l1Rmw_canonical, !State.stashRmw_canonical,
    memoryCanonical]

theorem State.noteHostRmw_canonical {s : State} (h : memoryCanonical s) (p : Place) (n : Nat) (sysatom : Bool) :
    memoryCanonical (s.noteHostRmw p n sysatom) := by
  unfold State.noteHostRmw
  grind [!State.setModule_canonical, memoryCanonical]

theorem Iss.reachRmw_canonical {s : State} (h : memoryCanonical s) (x : Iss) (r : Rmw) (w : Warp) (l : Nat) :
    memoryCanonical (x.reachRmw r w s l).2 := by
  unfold Iss.reachRmw
  grind [!Iss.reachPlain_canonical, memoryCanonical]

theorem State.rmwLane_canonical {s : State} (h : memoryCanonical s) (c slot x : Nat) (r : Rmw) (home : Bool) (acq rel : Nat) (b d : Nat → Nat)
    (a : LaneAt) : memoryCanonical (s.rmwLane c slot x r home acq rel b d a).2 := by
  unfold State.rmwLane
  grind [!State.attach_canonical, !State.acquire_canonical, !State.txRmw_canonical, !State.rmwNow_canonical, !State.noteHostRmw_canonical,
    memoryCanonical]

theorem Gather.runAtomic_canonical {g : Gather} (h : memoryCanonical g.s) (r : Rmw) (mates : LaneAt → List Nat)
    (f : State → LaneAt → (Nat → Nat) → Got × State) (hf : ∀ t y z, memoryCanonical t → memoryCanonical (f t y z).2) (b d : Nat → Nat)
    (rest : List LaneAt) : memoryCanonical (g.runAtomic r mates f b d rest).s := by
  induction rest generalizing g with
  | nil => exact h
  | cons a t ih =>
    refine ih (Gather.add_canonical _ ?_ a _ id (b a.lane) (d a.lane))
    split
    · split
      · exact h
      · exact hf _ _ _ h
    · exact hf _ _ _ h

theorem Iss.rmwEff_canonical {s : State} (h : memoryCanonical s) (x : Iss) (r : Rmw) (b d : Nat → Nat) (oks : List LaneAt) :
    Res.canonical (x.rmwEff r b d oks s) := by
  unfold Iss.rmwEff
  grind [!State.drain_canonical, !Iss.launch_canonical, !State.clearFence_canonical, !Iss.releaseAt_canonical, !State.rmwLane_canonical,
    !Gather.runAtomic_canonical, memoryCanonical, Res.canonical]

theorem State.addPartial_canonical {s : State} (h : memoryCanonical s) (c op : Nat) (fl : Bool) (ty pa b : Nat) :
    memoryCanonical (s.addPartial c op fl ty pa b) := by
  unfold State.addPartial
  grind [!State.setSlice_canonical, memoryCanonical]

theorem State.redLane_canonical {s : State} (h : memoryCanonical s) (c slot x : Nat) (r : Rmw) (home : Bool) (rel : Nat) (b : Nat → Nat)
    (a : LaneAt) : memoryCanonical (s.redLane c slot x r home rel b a).2 := by
  unfold State.redLane
  grind [!State.setWarp_canonical, !State.takeBool_canonical, !recall_canonical, !syncLine_canonical, !State.dropTlb_canonical,
    !State.attach_canonical, !State.rmwNow_canonical, !State.noteHostRmw_canonical, !State.rmwLane_canonical, !State.addPartial_canonical,
    memoryCanonical]

theorem Iss.redEff_canonical {s : State} (h : memoryCanonical s) (x : Iss) (r : Rmw) (b : Nat → Nat) (oks : List LaneAt) :
    Res.canonical (x.redEff r b oks s) := by
  unfold Iss.redEff
  grind [!State.drain_canonical, !Iss.launch_canonical, !State.clearFence_canonical, !Iss.releaseAt_canonical, !Gather.runAtomic_canonical,
    !State.redLane_canonical, memoryCanonical, Res.canonical]

/-! ### Machine/Fetch.lean -/

theorem State.fetchParcel_canonical {s : State} (h : memoryCanonical s) (c x va : Nat) (priv : Bool) :
    memoryCanonical (s.fetchParcel c x va priv).2 := by
  unfold State.fetchParcel
  grind [!State.setCore_canonical, !State.takeBool_canonical, !homeRead_canonical, !State.xlatLane_canonical, memoryCanonical]

theorem State.fetchMore_canonical {s : State} (h : memoryCanonical s) (c x : Nat) (priv : Bool) (n va w shift : Nat) :
    memoryCanonical (s.fetchMore c x priv n va w shift).2 := by
  fun_induction State.fetchMore s c x priv n va w shift <;> grind [!State.fetchParcel_canonical, memoryCanonical]

theorem State.fetch_canonical {s : State} (h : memoryCanonical s) (c x pc : Nat) (priv : Bool) : memoryCanonical (s.fetch c x pc priv).2 := by
  unfold State.fetch
  grind [!State.fetchParcel_canonical, !State.fetchMore_canonical, memoryCanonical]

theorem State.queueOrigins_canonical {s : State} (h : memoryCanonical s) (c : Nat) : memoryCanonical (s.queueOrigins c) := by
  unfold State.queueOrigins
  grind [!State.setRegion_canonical, memoryCanonical]

theorem State.tickCore_canonical {s : State} (h : memoryCanonical s) (c : Nat) : memoryCanonical (s.tickCore c) := by
  unfold State.tickCore
  grind [!State.setCore_canonical, !State.queueOrigins_canonical, memoryCanonical]

end Sys2Proof.Machine
end

section
/-! SUPPORT. The form of memory is kept: arrivals, save areas, control flow, waits and transactions. -/

namespace Sys2Proof.Machine

open Safety

-- Every lemma here cites those before it: one after another, none holds a thread to wait for them.
set_option Elab.async false

/-! ### Machine/Arrivals.lean -/

theorem State.performLane_canonical {s : State} (h : memoryCanonical s) (c slot : Nat) (r : InFlight) (p : Place) (l : Nat) :
    memoryCanonical (s.performLane c slot r p l).2 := by
  unfold State.performLane
  grind [!State.readNow_canonical, !State.rmwNow_canonical, memoryCanonical]

theorem State.settle_canonical {s : State} (h : memoryCanonical s) (c slot i l : Nat) (got : Got) : memoryCanonical (s.settle c slot i l got) := by
  unfold State.settle
  grind [!State.setWarp_canonical, !State.dropTlb_canonical, memoryCanonical]

theorem State.settleEach_canonical {s : State} (h : memoryCanonical s) (c slot i : Nat) (f : State → InFlight → Nat → Got × State)
    (hf : ∀ t y z, memoryCanonical t → memoryCanonical (f t y z).2) (rest : List Nat) : memoryCanonical (s.settleEach c slot i f rest) := by
  fun_induction State.settleEach s c slot i f rest <;> grind [!State.settle_canonical, memoryCanonical]

theorem State.packetLane_canonical {s : State} (h : memoryCanonical s) (c slot : Nat) (m : LaneMask) (r : InFlight) (p : Place) (l : Nat) :
    memoryCanonical (s.packetLane c slot m r p l).2 := by
  unfold State.packetLane
  grind [!State.performLane_canonical, !canonical_foldl, memoryCanonical]

theorem State.requestLane_canonical {s : State} (h : memoryCanonical s) (c slot i : Nat) (m : LaneMask) (r : InFlight) (l : Nat) :
    memoryCanonical (s.requestLane c slot i m r l) := by
  unfold State.requestLane
  grind [!State.setWarp_canonical, !State.settle_canonical, !State.packetLane_canonical, memoryCanonical]

theorem State.requestEach_canonical {s : State} (h : memoryCanonical s) (c slot i : Nat) (m : LaneMask) (rest : List Nat) :
    memoryCanonical (s.requestEach c slot i m rest) := by
  fun_induction State.requestEach s c slot i m rest <;> grind [!State.requestLane_canonical, memoryCanonical]

theorem State.forwardLane_canonical {s : State} (h : memoryCanonical s) (c slot i : Nat) (r : InFlight) (l : Nat) :
    memoryCanonical (s.forwardLane c slot i r l) := by
  unfold State.forwardLane
  grind [!State.setWarp_canonical, !State.settle_canonical, memoryCanonical]

theorem State.forwardEach_canonical {s : State} (h : memoryCanonical s) (c slot i : Nat) (rest : List Nat) :
    memoryCanonical (s.forwardEach c slot i rest) := by
  fun_induction State.forwardEach s c slot i rest <;> grind [!State.forwardLane_canonical, memoryCanonical]

theorem State.parkTarget_canonical {s : State} (h : memoryCanonical s) (c slot : Nat) (r : InFlight) (idx : Nat) (e : Entry) :
    memoryCanonical (s.parkTarget c slot r idx e) := by
  unfold State.parkTarget
  grind [!State.setWarp_canonical, !State.recordFault_canonical, memoryCanonical]

/-! ### Machine/Areas.lean -/

theorem State.writePieces_canonical {s : State} (h : memoryCanonical s) (x base : Nat) (ps : List Piece3) :
    memoryCanonical (s.writePieces x base ps) := by
  unfold State.writePieces
  grind [!State.ctxWrite_canonical, !canonical_foldl, memoryCanonical]

theorem State.zeroBlocks_canonical {s : State} (h : memoryCanonical s) (x base n : Nat) : memoryCanonical (s.zeroBlocks x base n) := by
  fun_induction State.zeroBlocks s x base n <;> grind [!State.ctxWrite_canonical, memoryCanonical]

theorem State.writeArea_canonical {s : State} (h : memoryCanonical s) (v : Saved) : memoryCanonical (s.writeArea v) := by
  unfold State.writeArea
  grind [!State.writePieces_canonical, !State.zeroBlocks_canonical, memoryCanonical]

theorem State.dropArea_canonical {s : State} (h : memoryCanonical s) (x base : Nat) : memoryCanonical (s.dropArea x base) := by
  unfold State.dropArea
  grind [!State.setCtx_canonical, !State.mapCores_canonical, memoryCanonical]

theorem State.putGroupAt_canonical {s : State} (h : memoryCanonical s) (c n : Nat) (g : Group) (ps : List Piece3) :
    memoryCanonical (s.putGroupAt c n g ps) := by
  unfold State.putGroupAt
  grind [!State.setCore_canonical, !State.setGroup_canonical, !State.writePieces_canonical, memoryCanonical]

/-! ### Machine/Control.lean -/

theorem transfer_canonical {s : State} (h : memoryCanonical s) (target : Iss → Warp → Nat → Nat) (x : Iss) : Res.canonical (transfer target x s) := by
  unfold transfer
  grind [memoryCanonical, Res.canonical]

theorem Iss.badTargets_canonical {s : State} (h : memoryCanonical s) (x : Iss) : ∀ r ∈ (x.badTargets s), Res.canonical r := by
  unfold Iss.badTargets
  grind [!Iss.trap_canonical, memoryCanonical, Res.canonical]

theorem Iss.pushEach_canonical {s : State} (h : memoryCanonical s) (x : Iss) (cx ret : Nat) (rest : List Nat) :
    memoryCanonical (x.pushEach s cx ret rest) := by
  fun_induction Iss.pushEach x s cx ret rest <;> grind [!State.push_canonical, memoryCanonical]

theorem Iss.withSpill_canonical {s : State} (h : memoryCanonical s) (x : Iss) (acc : Acc) (idx : Warp → Nat → List Nat)
    (eff : LaneMask → State × SMap (Option Nat) × LaneMask) (heff : ∀ x, memoryCanonical (eff x).1) : Res.canonical (x.withSpill s acc idx eff) := by
  unfold Iss.withSpill
  grind [!Iss.trap_canonical, !State.pageFault_canonical, memoryCanonical, Res.canonical]

theorem callTo_canonical {s : State} (h : memoryCanonical s) (target : Iss → Warp → Nat → Nat) (x : Iss) : Res.canonical (callTo target x s) := by
  unfold callTo
  grind [!Iss.pushEach_canonical, !Iss.withSpill_canonical, memoryCanonical, Res.canonical]

theorem State.refillLoad_canonical {s : State} (h : memoryCanonical s) (c slot x lane va : Nat) :
    memoryCanonical (s.refillLoad c slot x lane va).2 := by
  unfold State.refillLoad
  grind [!State.xlatLane_canonical, !State.dropTlb_canonical, !State.readNow_canonical, memoryCanonical]

theorem State.refillEach_canonical {s : State} (h : memoryCanonical s) (c slot x lane : Nat) (rest more : List Nat) :
    memoryCanonical (s.refillEach c slot x lane rest more).2 := by
  fun_induction State.refillEach s c slot x lane rest more <;> grind [!State.refillLoad_canonical, memoryCanonical]

theorem State.heldReturns_canonical {s : State} (h : memoryCanonical s) (c slot x lane : Nat) : memoryCanonical (s.heldReturns c slot x lane).2 := by
  unfold State.heldReturns
  grind [!State.refillEach_canonical, memoryCanonical]

theorem Iss.popEach_canonical {s : State} (h : memoryCanonical s) (x : Iss) (cx : Nat) (rest : List Nat) :
    memoryCanonical (x.popEach s cx rest).2 := by
  fun_induction Iss.popEach x s cx rest <;> grind [!State.heldReturns_canonical, memoryCanonical]

theorem State.popLane_canonical {s : State} (h : memoryCanonical s) (c slot : Nat) (p : Nat × Except Got (List Nat)) :
    memoryCanonical (s.popLane c slot p) := by
  unfold State.popLane
  grind [!State.setWarp_canonical, memoryCanonical]

theorem retEff_canonical {s : State} (h : memoryCanonical s) (x : Iss) : Res.canonical (retEff x s) := by
  unfold retEff
  grind [!State.exitLanes_canonical, !Iss.trap_canonical, !State.pageFault_canonical, !Iss.popEach_canonical, !State.popLane_canonical,
    !canonical_foldl, memoryCanonical, Res.canonical]

theorem Iss.waitAt_canonical {s : State} (h : memoryCanonical s) (x : Iss) (cause : WaitCause) (merge : Bool) :
    memoryCanonical (x.waitAt s cause merge) := by
  unfold Iss.waitAt
  grind [!State.setWarp_canonical, memoryCanonical]

/-! ### Machine/Waits.lean -/

theorem State.endWait_canonical {s : State} (h : memoryCanonical s) (c slot idx : Nat) : memoryCanonical (s.endWait c slot idx) := by
  unfold State.endWait
  grind [!State.setWarp_canonical, memoryCanonical]

theorem State.endWaits_canonical {s : State} (h : memoryCanonical s) (c slot : Nat) : memoryCanonical (s.endWaits c slot) := by
  unfold State.endWaits
  grind [!State.endWait_canonical, !canonical_foldl, memoryCanonical]

theorem Iss.entryWait_canonical {s : State} (h : memoryCanonical s) (x : Iss) (m : LaneMask) (kind : WaitKind) :
    memoryCanonical (x.entryWait s m kind) := by
  unfold Iss.entryWait
  grind [!State.setWarp_canonical, memoryCanonical]

theorem State.waitRead_canonical {s : State} (h : memoryCanonical s) (c slot lane : Nat) (p : Place) (n va : Nat) :
    memoryCanonical (s.waitRead c slot lane p n va).2.2 := by
  unfold State.waitRead
  grind [!homeRead_canonical, !State.eccRead_canonical, !syncLine_canonical, !State.readNow_canonical, memoryCanonical]

theorem State.compareWait_canonical {s : State} (h : memoryCanonical s) (c slot : Nat) (y : Wait) (got : Got) :
    memoryCanonical (s.compareWait c slot y got).2 := by
  unfold State.compareWait
  grind [!State.acquire_canonical, memoryCanonical]

theorem State.waitFault_canonical {s : State} (h : memoryCanonical s) (c slot : Nat) (y : Wait) (got : Got) :
    memoryCanonical (s.waitFault c slot y got) := by
  unfold State.waitFault
  grind [!State.setWarp_canonical, !State.dropTlb_canonical, memoryCanonical]

theorem Iss.waitEach_canonical {s : State} (h : memoryCanonical s) (x : Iss) (kind : LaneAt → WaitKind) (n : Nat) (rest : List LaneAt) :
    memoryCanonical (x.waitEach s kind n rest) := by
  fun_induction Iss.waitEach x s kind n rest <;> grind [!State.setWarp_canonical, !State.waitRead_canonical, !State.compareWait_canonical,
    !State.waitFault_canonical, memoryCanonical]

theorem Iss.waitvEff_canonical {s : State} (h : memoryCanonical s) (x : Iss) (oks : List LaneAt) : Res.canonical (x.waitvEff oks s) := by
  unfold Iss.waitvEff
  grind [!State.setWarp_canonical, !State.drain_canonical, !State.clearFence_canonical, !Iss.waitEach_canonical, memoryCanonical, Res.canonical]

theorem State.recheck_canonical {s : State} (h : memoryCanonical s) (c slot : Nat) (y : Wait) : memoryCanonical (s.recheck c slot y) := by
  unfold State.recheck
  grind [!State.setWarp_canonical, !State.endWaits_canonical, !State.waitRead_canonical, !State.compareWait_canonical, !State.waitFault_canonical,
    memoryCanonical]

theorem State.fillLine_canonical {s : State} (h : memoryCanonical s) (c line : Nat) (wti : Bool) (n : Nat) :
    memoryCanonical (s.fillLine c line wti n) := by
  fun_induction State.fillLine s c line wti n <;> grind [!State.l1Load_canonical, memoryCanonical]

theorem Iss.lmonEff_canonical {s : State} (h : memoryCanonical s) (x : Iss) (oks : List LaneAt) : Res.canonical (x.lmonEff oks s) := by
  unfold Iss.lmonEff
  grind [!State.setWarp_canonical, !Iss.trap_canonical, !State.waitFault_canonical, !State.fillLine_canonical, memoryCanonical, Res.canonical]

theorem State.endMonitor_canonical {s : State} (h : memoryCanonical s) (c slot : Nat) : memoryCanonical (s.endMonitor c slot) := by
  unfold State.endMonitor
  grind [!State.setWarp_canonical, !State.endWaits_canonical, memoryCanonical]

theorem State.sequence_canonical {s : State} (h : memoryCanonical s) (c x scope : Nat) : memoryCanonical (s.sequence c x scope).2 := by
  unfold State.sequence
  grind [!State.setRegion_canonical, !State.setHub_canonical, memoryCanonical]

theorem Iss.fenceEnd_canonical {s : State} (h : memoryCanonical s) (x : Iss) (m : LaneMask) : Res.canonical (x.fenceEnd s m) := by
  unfold Iss.fenceEnd
  grind [!State.setWarp_canonical, !Iss.trap_canonical, memoryCanonical, Res.canonical]

theorem Iss.fenceBody_canonical {s : State} (h : memoryCanonical s) (x : Iss) : memoryCanonical (x.fenceBody s) := by
  unfold Iss.fenceBody
  grind [!State.setWarp_canonical, !State.applySig_canonical, !State.sequence_canonical, memoryCanonical]

theorem Iss.fenceEff_canonical {s : State} (h : memoryCanonical s) (x : Iss) (m : LaneMask) : Res.canonical (x.fenceEff m s) := by
  unfold Iss.fenceEff
  grind [!Iss.release_canonical, !Iss.fenceEnd_canonical, !Iss.fenceBody_canonical, memoryCanonical, Res.canonical]

theorem State.putBar_canonical {s : State} (h : memoryCanonical s) (writer : Option (Nat × Nat)) (c gi b o : Nat) :
    memoryCanonical (s.putBar writer c gi b o) := by
  unfold State.putBar
  grind [!State.stashStore_canonical, memoryCanonical]

theorem State.wakeBarrier_canonical {s : State} (h : memoryCanonical s) (c gi b : Nat) (flip : Bool) (rest : List Nat) :
    memoryCanonical (s.wakeBarrier c gi b flip rest) := by
  fun_induction State.wakeBarrier s c gi b flip rest <;> grind [!State.setWarp_canonical, !State.applySig_canonical, !State.endWaits_canonical,
    !State.putBar_canonical, memoryCanonical]

theorem State.flipTest_canonical {s : State} (h : memoryCanonical s) (c gi b : Nat) : memoryCanonical (s.flipTest c gi b) := by
  unfold State.flipTest
  grind [!State.putBar_canonical, !State.wakeBarrier_canonical, memoryCanonical]

theorem Iss.barrier_canonical {s : State} (h : memoryCanonical s) (x : Iss) (parity : Bool)
    (eff : LaneMask → (b : Nat) → (p : Bool) → (o : Nat) → State → Res) (heff : ∀ x b p o t, memoryCanonical t → Res.canonical (eff x b p o t)) :
    Res.canonical (x.barrier s parity eff) := by
  unfold Iss.barrier
  grind [!State.eccRead_canonical, !State.stashLoad_canonical, !State.drain_canonical, !Iss.trap_canonical, !Iss.closed_canonical, memoryCanonical,
    Res.canonical]

theorem State.barAcquire_canonical {s : State} (h : memoryCanonical s) (c gi b : Nat) : memoryCanonical (s.barAcquire c gi b) := by
  unfold State.barAcquire
  grind [!State.applySig_canonical, memoryCanonical]

/-! ### Machine/Transactions.lean -/

theorem State.moveLanes_canonical {s : State} (h : memoryCanonical s) (c slot : Nat) (m : LaneMask) (pc : Nat) :
    memoryCanonical (s.moveLanes c slot m pc) := by
  unfold State.moveLanes
  grind [!State.setWarp_canonical, memoryCanonical]

theorem State.moveLane_canonical {s : State} (h : memoryCanonical s) (c slot lane pc : Nat) : memoryCanonical (s.moveLane c slot lane pc) := by
  unfold State.moveLane
  grind [!State.moveLanes_canonical, memoryCanonical]

theorem Iss.txb_canonical {s : State} (h : memoryCanonical s) (x : Iss) (go : SMap (Option Nat)) (m : LaneMask) : Res.canonical (x.txb s go m) := by
  unfold Iss.txb
  grind [!State.setModule_canonical, !State.setWarp_canonical, memoryCanonical, Res.canonical]

theorem State.lockAndCompare_canonical {s : State} (h : memoryCanonical s) (c slot lane : Nat) (t : LaneTx) (rest : List Nat) :
    memoryCanonical (s.lockAndCompare c slot lane t rest).2 := by
  fun_induction State.lockAndCompare s c slot lane t rest <;> grind [!State.takeBool_canonical, !homeRead_canonical, memoryCanonical]

theorem State.writeLog_canonical {s : State} (h : memoryCanonical s) (c slot : Nat) (rest : List TxWord) :
    memoryCanonical (s.writeLog c slot rest) := by
  fun_induction State.writeLog s c slot rest <;> grind [!State.setCore_canonical, !homeWrite_canonical, !State.attach_canonical, memoryCanonical]

theorem State.commitLane_canonical {s : State} (h : memoryCanonical s) (c slot lane : Nat) : memoryCanonical (s.commitLane c slot lane).2 := by
  unfold State.commitLane
  grind [!State.setCore_canonical, !State.setWarp_canonical, !State.applySig_canonical, !State.releaseSteps_canonical, !State.releaseToken_canonical,
    !State.abortLane_canonical, !State.lockAndCompare_canonical, !State.writeLog_canonical, !canonical_foldl, memoryCanonical]

theorem State.commitEach_canonical {s : State} (h : memoryCanonical s) (c slot : Nat) (rest : List Nat) :
    memoryCanonical (s.commitEach c slot rest).2 := by
  fun_induction State.commitEach s c slot rest <;> grind [!State.commitLane_canonical, memoryCanonical]

theorem State.readsHold_canonical {s : State} (h : memoryCanonical s) (c : Nat) (rest : List TxWord) : memoryCanonical (s.readsHold c rest).2 := by
  fun_induction State.readsHold s c rest <;> grind [!State.txValue_canonical, memoryCanonical]

end Sys2Proof.Machine
end

section
/-! SUPPORT. The form of memory is kept: traps, floods and tiles. -/

namespace Sys2Proof.Machine

open Safety

-- Every lemma here cites those before it: one after another, none holds a thread to wait for them.
set_option Elab.async false

/-! ### Machine/System.lean -/

theorem trapInstr_canonical {s : State} (h : memoryCanonical s) (cause : Nat) (x : Iss) : Res.canonical (trapInstr cause x s) := by
  unfold trapInstr
  grind [!Iss.trap_canonical, memoryCanonical, Res.canonical]

theorem State.tlbi_canonical {s : State} (h : memoryCanonical s) (c scope : Nat) (t : TlbiKind) : memoryCanonical (s.tlbi c scope t) := by
  unfold State.tlbi
  grind [!State.mapCores_canonical, memoryCanonical]

theorem State.drainIn_canonical {s : State} (h : memoryCanonical s) (c scope : Nat) : memoryCanonical (s.drainIn c scope) := by
  unfold State.drainIn
  grind [!State.drain_canonical, !canonical_foldl, memoryCanonical]

theorem State.workDone_canonical {s : State} (h : memoryCanonical s) (cairn : Nat) : memoryCanonical (s.workDone cairn) := by
  unfold State.workDone
  grind [memoryCanonical]

theorem State.exitMaps_canonical {s : State} (h : memoryCanonical s) (c gi : Nat) : memoryCanonical (s.exitMaps c gi) := by
  unfold State.exitMaps
  grind [!State.flushMapped_canonical, !State.postFault_canonical, !canonical_foldl, memoryCanonical]

theorem State.seedDone_canonical {s : State} (h : memoryCanonical s) (q : Option (Nat × Nat)) : memoryCanonical (s.seedDone q) := by
  unfold State.seedDone
  grind [!State.setQueue_canonical, memoryCanonical]

/-! ### Machine/Rope.lean -/

theorem State.fcbRelease_canonical {s : State} (h : memoryCanonical s) (x : Nat) (fcb : Word) (byte n v : Nat) (g : Signature) (scope : Nat) :
    memoryCanonical (s.fcbRelease x fcb byte n v g scope) := by
  unfold State.fcbRelease
  grind [!State.xlatCtx_canonical, !State.attach_canonical, !State.fcbWrite_canonical, memoryCanonical]

theorem State.fcbAcquire_canonical {s : State} (h : memoryCanonical s) (c x : Nat) (fcb : Word) (scope : Nat) :
    memoryCanonical (s.fcbAcquire c x fcb scope) := by
  unfold State.fcbAcquire
  grind [!State.xlatCtx_canonical, !State.acquire_canonical, memoryCanonical]

/-! ### Machine/Floods.lean -/

theorem State.cairnFault_canonical {s : State} (h : memoryCanonical s) (u slot cause kind level acc mapid : Nat) :
    memoryCanonical (s.cairnFault u slot cause kind level acc mapid) := by
  unfold State.cairnFault
  grind [!State.touchFcb_canonical, !State.postFault_canonical, !State.faultCairn_canonical, memoryCanonical]

theorem State.sendChildren_canonical {s : State} (h : memoryCanonical s) (u slot : Nat) (f : FloodMsg) (rest : List Child) (i : Nat) :
    memoryCanonical (s.sendChildren u slot f rest i) := by
  fun_induction State.sendChildren s u slot f rest i <;> grind [!State.setCairn_canonical, !State.postFault_canonical, memoryCanonical]

theorem State.openChildren_canonical {s : State} (h : memoryCanonical s) (u slot : Nat) (f : FloodMsg) (cs : List Child) :
    memoryCanonical (s.openChildren u slot f cs) := by
  unfold State.openChildren
  grind [!State.setCairn_canonical, !State.sendChildren_canonical, memoryCanonical]

theorem State.readMap_canonical {s : State} (h : memoryCanonical s) (u slot : Nat) (f : FloodMsg) : memoryCanonical (s.readMap u slot f).2 := by
  unfold State.readMap
  grind [!State.setCairn_canonical, !State.mapRead_canonical, !State.cairnFault_canonical, memoryCanonical]

theorem State.openCairn_canonical {s : State} (h : memoryCanonical s) (u slot : Nat) (f : FloodMsg) : memoryCanonical (s.openCairn u slot f) := by
  unfold State.openCairn
  grind [!State.setCairn_canonical, !State.openChildren_canonical, !State.readMap_canonical, memoryCanonical]

theorem State.takeNet_canonical {s : State} (h : memoryCanonical s) (i : Nat) : memoryCanonical (s.takeNet i) := by
  unfold State.takeNet
  grind [memoryCanonical]

theorem State.setWaitList_canonical {s : State} (h : memoryCanonical s) (u cls : Nat) (l : List (Nat × NetMsg)) :
    memoryCanonical (s.setWaitList u cls l) := by
  unfold State.setWaitList
  grind [!State.setRegion_canonical, !State.setHub_canonical, memoryCanonical]

theorem State.closeWarp_canonical {s : State} (h : memoryCanonical s) (region : Nat) (w : OpenWarp) (flush : Bool) :
    memoryCanonical (s.closeWarp region w flush) := by
  unfold State.closeWarp
  grind [!State.setRegion_canonical, memoryCanonical]

theorem State.gather_canonical {s : State} (h : memoryCanonical s) (region : Nat) (c : Clause) : memoryCanonical (s.gather region c) := by
  unfold State.gather
  grind [!State.setRegion_canonical, !State.closeWarp_canonical, memoryCanonical]

theorem State.accept_canonical {s : State} (h : memoryCanonical s) (cairn : Nat) (c : Clause) : memoryCanonical (s.accept cairn c).2 := by
  unfold State.accept
  grind [memoryCanonical]

theorem State.spillClause_canonical {s : State} (h : memoryCanonical s) (r : Nat) (c : Clause) : memoryCanonical (s.spillClause r c) := by
  unfold State.spillClause
  grind [!State.setRegion_canonical, !ringWrite_canonical, memoryCanonical]

theorem State.finishFlood_canonical {s : State} (h : memoryCanonical s) (c slot : Nat) (h' : Word) (value status scope : Nat) :
    memoryCanonical (s.finishFlood c slot h' value status scope) := by
  unfold State.finishFlood
  grind [!State.setWarp_canonical, !State.endWaits_canonical, !State.fcbAcquire_canonical, memoryCanonical]

theorem State.finishAll_canonical {s : State} (h : memoryCanonical s) (h' : Word) (value status scope : Nat) :
    memoryCanonical (s.finishAll h' value status scope) := by
  unfold State.finishAll
  grind [!State.finishFlood_canonical, !canonical_foldl, memoryCanonical]

theorem State.finishSaved_canonical {s : State} (h : memoryCanonical s) (h' : Word) (value status scope : Nat) :
    memoryCanonical (s.finishSaved h' value status scope) := by
  unfold State.finishSaved
  grind [!State.mapCores_canonical, !State.fcbAcquire_canonical, !canonical_foldl, memoryCanonical]

theorem State.complete_canonical {s : State} (h : memoryCanonical s) (u slot : Nat) (f : FloodMsg) : memoryCanonical (s.complete u slot f) := by
  unfold State.complete
  grind [!State.setRegion_canonical, !State.setCairn_canonical, !State.wakeSaved_canonical, !State.fcbWrite_canonical, !State.fcbRelease_canonical,
    !State.finishAll_canonical, !State.finishSaved_canonical, memoryCanonical]

theorem State.lateEcho_canonical {s : State} (h : memoryCanonical s) (u slot child : Nat) (h' : Word) (e : EchoVal) (x scope : Nat) :
    memoryCanonical (s.lateEcho u slot child h' e x scope) := by
  unfold State.lateEcho
  grind [!State.count_canonical, !State.fcbWrite_canonical, !State.fcbRelease_canonical, memoryCanonical]

theorem State.markSilent_canonical {s : State} (h : memoryCanonical s) (u slot i : Nat) : memoryCanonical (s.markSilent u slot i) := by
  unfold State.markSilent
  grind [!State.setCairn_canonical, !State.fcbWrite_canonical, memoryCanonical]

theorem State.cancelWarps_canonical {s : State} (h : memoryCanonical s) (cairn deferc : Nat) : memoryCanonical (s.cancelWarps cairn deferc) := by
  unfold State.cancelWarps
  grind [!State.setWarp_canonical, !State.abortLane_canonical, !State.killLanes_canonical, !canonical_foldl, memoryCanonical]

theorem State.cancelSaved_canonical {s : State} (h : memoryCanonical s) (cairn deferc : Nat) : memoryCanonical (s.cancelSaved cairn deferc) := by
  unfold State.cancelSaved
  grind [!State.setCore_canonical, !State.contributeIdentity_canonical, !State.dropArea_canonical, !State.workDone_canonical, !canonical_foldl,
    memoryCanonical]

theorem State.dropClauses_canonical {s : State} (h : memoryCanonical s) (region cairn : Nat) : memoryCanonical (s.dropClauses region cairn) := by
  unfold State.dropClauses
  grind [!State.setRegion_canonical, !canonical_foldl, memoryCanonical]

theorem State.cancelChildren_canonical {s : State} (h : memoryCanonical s) (u slot : Nat) (h' : Word) (cls : Nat) :
    memoryCanonical (s.cancelChildren u slot h' cls) := by
  unfold State.cancelChildren
  grind [memoryCanonical]

theorem State.cancelNested_canonical {s : State} (h : memoryCanonical s) (region x : Nat) (fcb : Word) :
    memoryCanonical (s.cancelNested region x fcb) := by
  unfold State.cancelNested
  grind [!canonical_foldl, memoryCanonical]

theorem State.cancelCairn_canonical {s : State} (h : memoryCanonical s) (u slot : Nat) (f : FloodMsg) : memoryCanonical (s.cancelCairn u slot f) := by
  unfold State.cancelCairn
  grind [!State.setCairn_canonical, !State.fcbWrite_canonical, !State.cancelWarps_canonical, !State.cancelSaved_canonical,
    !State.dropClauses_canonical, !State.cancelChildren_canonical, !State.cancelNested_canonical, memoryCanonical]

/-! ### Machine/FloodInstr.lean -/

theorem State.readWord8_canonical {s : State} (h : memoryCanonical s) (c slot lane va pc : Nat) :
    memoryCanonical (s.readWord8 c slot lane va pc).2 := by
  unfold State.readWord8
  grind [!State.dropTlb_canonical, !State.reach_canonical, !State.readNow_canonical, memoryCanonical]

theorem State.readRecord_canonical {s : State} (h : memoryCanonical s) (c slot lane pc n va : Nat) :
    memoryCanonical (s.readRecord c slot lane pc n va).2 := by
  fun_induction State.readRecord s c slot lane pc n va <;> grind [!State.readWord8_canonical, memoryCanonical]

theorem Iss.checkFlood_canonical {s : State} (h : memoryCanonical s) (x : Iss) (l : Nat) (d : Desc) (args : Nat) :
    memoryCanonical (x.checkFlood s l d args).2 := by
  unfold Iss.checkFlood
  grind [!State.mapRead_canonical, memoryCanonical]

theorem Iss.emission_canonical {s : State} (h : memoryCanonical s) (x : Iss) (l : Nat) : memoryCanonical (x.emission s l).2 := by
  unfold Iss.emission
  grind [!State.readRecord_canonical, !Iss.checkFlood_canonical, memoryCanonical]

theorem Iss.emit_canonical {s : State} (h : memoryCanonical s) (x : Iss) (l : Nat) (d : Desc) (args : Nat) : memoryCanonical (x.emit s l d args) := by
  unfold Iss.emit
  grind [!State.setRegion_canonical, !State.setCairn_canonical, !State.setWarp_canonical, !State.ctxWrite_canonical, !State.touchFcb_canonical,
    !State.touchDomain_canonical, !State.openChildren_canonical, memoryCanonical]

theorem Iss.emitEach_canonical {r : Emitted} (h : memoryCanonical r.s) (x : Iss) (rest : List Nat) : memoryCanonical (x.emitEach r rest).s := by
  fun_induction Iss.emitEach x r rest <;> grind [!Iss.emission_canonical, !Iss.emit_canonical, memoryCanonical]

theorem Iss.floodEff_canonical {s : State} (h : memoryCanonical s) (x : Iss) (m : LaneMask) : Res.canonical (x.floodEff m s) := by
  unfold Iss.floodEff
  grind [!Iss.release_canonical, !State.clearFence_canonical, !Iss.emitEach_canonical, memoryCanonical, Res.canonical]

theorem Iss.echoEach_canonical {s : State} (h : memoryCanonical s) (x : Iss) (rest : List Nat) : memoryCanonical (x.echoEach s rest) := by
  fun_induction Iss.echoEach x s rest <;> grind [!State.setWarp_canonical, !State.touchFcb_canonical, !State.contribute_canonical, memoryCanonical]

theorem Iss.echoEff_canonical {s : State} (h : memoryCanonical s) (x : Iss) (m : LaneMask) : Res.canonical (x.echoEff m s) := by
  unfold Iss.echoEff
  grind [!Iss.trap_canonical, !Iss.release_canonical, !Iss.echoEach_canonical, memoryCanonical, Res.canonical]

theorem Iss.touchHandles_canonical {s : State} (h : memoryCanonical s) (x : Iss) (m : LaneMask) : memoryCanonical (x.touchHandles s m) := by
  unfold Iss.touchHandles
  grind [!State.touchFcb_canonical, !canonical_foldl, memoryCanonical]

theorem Iss.waitfLane_canonical {s : State} (h : memoryCanonical s) (x : Iss) (l : Nat) : memoryCanonical (x.waitfLane s l) := by
  unfold Iss.waitfLane
  grind [!State.setWarp_canonical, !State.fcbAcquire_canonical, memoryCanonical]

theorem Iss.waitfEff_canonical {s : State} (h : memoryCanonical s) (x : Iss) (m : LaneMask) : Res.canonical (x.waitfEff m s) := by
  unfold Iss.waitfEff
  grind [!State.setWarp_canonical, !Iss.trap_canonical, !Iss.touchHandles_canonical, !Iss.waitfLane_canonical, !canonical_foldl, memoryCanonical,
    Res.canonical]

theorem Iss.testfEach_canonical {s : State} (h : memoryCanonical s) (x : Iss) (r : InFlight) (rest : List Nat) :
    memoryCanonical (x.testfEach s r rest).1 := by
  fun_induction Iss.testfEach x s r rest <;> grind [!State.fcbAcquire_canonical, memoryCanonical]

theorem Iss.launchRead_canonical {s : State} (h : memoryCanonical s) (x : Iss) (r : InFlight) : Res.canonical (x.launchRead s r) := by
  unfold Iss.launchRead
  grind [!State.setWarp_canonical, memoryCanonical, Res.canonical]

theorem Iss.cancelfEff_canonical {s : State} (h : memoryCanonical s) (x : Iss) (m : LaneMask) : Res.canonical (x.cancelfEff m s) := by
  unfold Iss.cancelfEff
  grind [!Iss.trap_canonical, !Iss.touchHandles_canonical, memoryCanonical, Res.canonical]

theorem Iss.clauseEach_canonical {s : State} (h : memoryCanonical s) (x : Iss) (rest : List Nat) : memoryCanonical (x.clauseEach s rest).2 := by
  fun_induction Iss.clauseEach x s rest <;> grind [!State.touchFcb_canonical, !State.touchBlocks_canonical, !State.gather_canonical,
    !State.accept_canonical, !State.spillClause_canonical, memoryCanonical]

theorem Iss.clauseEff_canonical {s : State} (h : memoryCanonical s) (x : Iss) (m : LaneMask) : Res.canonical (x.clauseEff m s) := by
  unfold Iss.clauseEff
  grind [!Iss.release_canonical, !Iss.clauseEach_canonical, memoryCanonical, Res.canonical]

/-! ### Machine/Tiles.lean -/

theorem Iss.tensor_canonical {s : State} (h : memoryCanonical s) (x : Iss) (l va : Nat) : memoryCanonical (x.tensor s l va).2 := by
  unfold Iss.tensor
  grind [!State.mapEntry_canonical, !State.readRecord_canonical, memoryCanonical]

end Sys2Proof.Machine
end

section
/-! SUPPORT. The form of memory is kept: tile transfers and engines. -/

namespace Sys2Proof.Machine

open Safety

-- Every lemma here cites those before it: one after another, none holds a thread to wait for them.
set_option Elab.async false

/-- The same for folds that carry a value beside the state. -/
theorem canonical_foldl_snd {α β : Type} (f : β × State → α → β × State) (l : List α) {p : β × State} (h : memoryCanonical p.2) :
    memoryCanonical (l.foldl f p).2 ∨ ∃ a b, memoryCanonical a.2 ∧ ¬ memoryCanonical (f a b).2 := by
  by_cases hf : ∀ a b, memoryCanonical a.2 → memoryCanonical (f a b).2
  · exact .inl (foldl_keeps (fun a => memoryCanonical a.2) f hf p l h)
  · simp only [not_forall] at hf
    obtain ⟨a, b, ha, hab⟩ := hf
    exact .inr ⟨a, b, ha, hab⟩

/-! ### Machine/Tiles.lean -/

theorem State.owe_canonical {s : State} (h : memoryCanonical s) (c n windex : Nat) (p : PendingTrap) : memoryCanonical (s.owe c n windex p) := by
  unfold State.owe
  grind [!State.setCore_canonical, !State.setWarp_canonical, memoryCanonical]

theorem Iss.waitEngine_canonical {s : State} (h : memoryCanonical s) (x : Iss) (m : LaneMask) (w : EngineWait) :
    Res.canonical (x.waitEngine s m w) := by
  unfold Iss.waitEngine
  grind [!Iss.entryWait_canonical, memoryCanonical, Res.canonical]

theorem Iss.tileTurn_canonical {s : State} (h : memoryCanonical s) (x : Iss) (m : LaneMask) (t : Nat) (y : EngineWait) (free : Bool)
    (eff : State → Res) (heff : ∀ t, memoryCanonical t → Res.canonical (eff t)) : Res.canonical (x.tileTurn s m t y free eff) := by
  unfold Iss.tileTurn
  grind [!State.setGroup_canonical, !Iss.waitEngine_canonical, memoryCanonical, Res.canonical]

theorem Iss.withGroup_canonical {s : State} (h : memoryCanonical s) (x : Iss) (f : Group → Group) : memoryCanonical (x.withGroup s f) := by
  unfold Iss.withGroup
  grind [!State.setGroup_canonical, memoryCanonical]

theorem Iss.reserve_canonical {s : State} (h : memoryCanonical s) (x : Iss) (m : LaneMask) (rec : Nat) : Res.canonical (x.reserve s m rec) := by
  unfold Iss.reserve
  grind [!Iss.trap_canonical, !Iss.withGroup_canonical, memoryCanonical, Res.canonical]

theorem Iss.parkAll_canonical {s : State} (h : memoryCanonical s) (x : Iss) (m : LaneMask) (i : FaultInfo) : Res.canonical (x.parkAll s m i) := by
  unfold Iss.parkAll
  grind [!State.pageFault_canonical, memoryCanonical, Res.canonical]

theorem Iss.withRecord_canonical {s : State} (h : memoryCanonical s) (x : Iss) (m : LaneMask) (n va : Nat) (eff : Nat → State → Res)
    (heff : ∀ x t, memoryCanonical t → Res.canonical (eff x t)) : Res.canonical (x.withRecord s m n va eff) := by
  unfold Iss.withRecord
  grind [!Iss.trap_canonical, !State.readRecord_canonical, !Iss.parkAll_canonical, memoryCanonical, Res.canonical]

theorem State.mapLine_canonical {s : State} (h : memoryCanonical s) (x d e t acc : Nat) (org : List Nat) (p n q : Nat) :
    memoryCanonical (s.mapLine x d e t acc org p n q).2 := by
  fun_induction State.mapLine s x d e t acc org p n q <;> grind [!State.resolve_canonical, memoryCanonical]

theorem State.freeScales_canonical {s : State} (h : memoryCanonical s) (t p : Nat) : memoryCanonical (s.freeScales t p).2 := by
  unfold State.freeScales
  grind [!State.takeFree_canonical, !canonical_foldl, !canonical_foldl_snd, memoryCanonical]

theorem State.tileSpans_canonical {s : State} (h : memoryCanonical s) (x d t acc : Nat) (map : Option Nat) (org : List Nat) (n p : Nat) :
    memoryCanonical (s.tileSpans x d t acc map org n p).2 := by
  fun_induction State.tileSpans s x d t acc map org n p <;> grind [!State.mapLine_canonical, !State.freeScales_canonical, memoryCanonical]

theorem State.enginePlace_canonical {s : State} (h : memoryCanonical s) (tile : Bool) (c x : Nat) (priv : Bool) (va n : Nat) (acc : Acc)
    (shard : Bool) (base : FaultInfo) : memoryCanonical (s.enginePlace tile c x priv va n acc shard base).2 := by
  unfold State.enginePlace
  grind [!State.walk_canonical, !State.xlatTile_canonical, !State.dropTlb_canonical, !State.reachStash_canonical, memoryCanonical]

theorem State.placeSpans_canonical {s : State} (h : memoryCanonical s) (c x : Nat) (priv : Bool) (acc : Acc) (rest : List Span) :
    memoryCanonical (s.placeSpans c x priv acc rest).2 := by
  fun_induction State.placeSpans s c x priv acc rest <;> grind [!State.enginePlace_canonical, memoryCanonical]

theorem Iss.command_canonical {s : State} (h : memoryCanonical s) (x : Iss) (eff : LaneMask → State → Res)
    (heff : ∀ x t, memoryCanonical t → Res.canonical (eff x t)) : Res.canonical (x.command s eff) := by
  unfold Iss.command
  grind [!Iss.closed_canonical, !Iss.release_canonical, memoryCanonical, Res.canonical]

theorem Iss.launchTile_canonical {s : State} (h : memoryCanonical s) (x : Iss) (m : LaneMask) (load : Bool) (t : Nat) (runs : List TileRun) :
    Res.canonical (x.launchTile s m load t runs) := by
  unfold Iss.launchTile
  grind [!State.meetErrors_canonical, !State.owe_canonical, !Iss.withGroup_canonical, !canonical_foldl, memoryCanonical, Res.canonical]

theorem Iss.tileEff_canonical {s : State} (h : memoryCanonical s) (x : Iss) (load : Bool) (m : LaneMask) : Res.canonical (x.tileEff load m s) := by
  unfold Iss.tileEff
  dsimp only
  repeat' split
  all_goals grind [!Iss.showEmpty_canonical, !Iss.trap_canonical, !Iss.tensor_canonical, !Iss.parkAll_canonical, !State.tileSpans_canonical,
    !State.placeSpans_canonical, !Iss.launchTile_canonical, memoryCanonical, Res.canonical]

theorem State.freeBytes_canonical {s : State} (h : memoryCanonical s) (n : Nat) : memoryCanonical (s.freeBytes n).2 := by
  fun_induction State.freeBytes s n <;> grind [!State.takeFree_canonical, memoryCanonical]

theorem State.engineRead_canonical {s : State} (h : memoryCanonical s) (m x : Nat) (p : Place) (n : Nat) :
    memoryCanonical (s.engineRead m x p n).2.2 := by
  unfold State.engineRead
  grind [!homeRead_canonical, !State.eccRead_canonical, !State.freeBytes_canonical, memoryCanonical]

theorem State.engineWrite_canonical {s : State} (h : memoryCanonical s) (x : Nat) (p : Place) (n v : Nat) :
    memoryCanonical (s.engineWrite x p n v) := by
  unfold State.engineWrite
  grind [!homeWrite_canonical, !State.stashStore_canonical, memoryCanonical]

theorem State.landPart_canonical {s : State} (h : memoryCanonical s) (m x base : Nat) (acc : List (Nat × Nat) × SMap Byte) (r : TileRun) :
    memoryCanonical (s.landPart m x base acc r).2 := by
  unfold State.landPart
  grind [!State.engineRead_canonical, memoryCanonical]

theorem State.landRun_canonical {s : State} (h : memoryCanonical s) (m x base : Nat) (acc : List (Nat × Nat) × SMap Byte) (r : TileRun) :
    memoryCanonical (s.landRun m x base acc r).2 := by
  unfold State.landRun
  grind [!State.landPart_canonical, !canonical_foldl, !canonical_foldl_snd, memoryCanonical]

theorem State.storeRun_canonical {s : State} (h : memoryCanonical s) (m x : Nat) (g : Signature) (r : TileRun) :
    memoryCanonical (s.storeRun m x g r).2 := by
  unfold State.storeRun
  grind [!State.engineRead_canonical, !State.engineWrite_canonical, memoryCanonical]

theorem State.setTscb_canonical {s : State} (h : memoryCanonical s) (c n : Nat) (mask : DWord) (sig : Signature) :
    memoryCanonical (s.setTscb c n mask sig) := by
  unfold State.setTscb
  grind [!State.putGroupAt_canonical, !canonical_foldl, memoryCanonical]

theorem State.lowerBytes_canonical {s : State} (h : memoryCanonical s) (o n : Nat) : memoryCanonical (s.lowerBytes o n).2 := by
  unfold State.lowerBytes
  grind [!State.takeFree_canonical, memoryCanonical]

theorem State.landBarrier_canonical {s : State} (h : memoryCanonical s) (c gi b n : Nat) (sig : Signature) :
    memoryCanonical (s.landBarrier c gi b n sig) := by
  unfold State.landBarrier
  grind [!State.setCore_canonical, !State.setGroup_canonical, !setSavedState_canonical, !State.writePieces_canonical, !State.putBar_canonical,
    !State.flipTest_canonical, !State.lowerBytes_canonical, memoryCanonical]

theorem State.mapGroupWarps_canonical {s : State} (h : memoryCanonical s) (c gi : Nat) (f : Warp → Warp) :
    memoryCanonical (s.mapGroupWarps c gi f) := by
  unfold State.mapGroupWarps
  grind [!State.setCore_canonical, !State.setWarp_canonical, !canonical_foldl, memoryCanonical]

theorem State.landedTrds_canonical {s : State} (h : memoryCanonical s) (c gi t : Nat) (buf : SMap Byte) :
    memoryCanonical (s.landedTrds c gi t buf) := by
  unfold State.landedTrds
  grind [!State.meetErrors_canonical, !State.mapGroupWarps_canonical, memoryCanonical]

theorem State.land_canonical {s : State} (h : memoryCanonical s) (c gi idx n : Nat) (g : Group) (l : Landing) :
    memoryCanonical (s.land c gi idx n g l) := by
  unfold State.land
  grind [!State.healWords_canonical, !State.putGroupAt_canonical, !State.owe_canonical, !State.landRun_canonical, !State.storeRun_canonical,
    !State.setTscb_canonical, !State.landBarrier_canonical, !State.landedTrds_canonical, !canonical_foldl, !canonical_foldl_snd, memoryCanonical]

/-! ### Machine/Engines.lean -/

theorem State.placeRuns_canonical {s : State} (h : memoryCanonical s) (f : State → (va n : Nat) → Except Miss Place × State)
    (hf : ∀ t va n, memoryCanonical t → memoryCanonical (f t va n).2) (rest : List Span) : memoryCanonical (s.placeRuns f rest).2 := by
  fun_induction State.placeRuns s f rest <;> grind [memoryCanonical]

theorem State.readRuns_canonical {s : State} (h : memoryCanonical s) (m x : Nat) (rs : List TileRun) : memoryCanonical (s.readRuns m x rs).2.2 := by
  refine foldl_keeps (fun (a : Bool × Nat × State) => memoryCanonical a.2.2) _ (fun a r ha => ?_) _ _ h
  split
  · exact ha
  · exact State.engineRead_canonical ha _ _ _ _

theorem State.writeRuns_canonical {s : State} (h : memoryCanonical s) (m x v : Nat) (rs : List TileRun) :
    memoryCanonical (s.writeRuns m x v rs).2 := by
  unfold State.writeRuns
  grind [!State.storeRun_canonical, !canonical_foldl, !canonical_foldl_snd, memoryCanonical]

theorem Miss.work_canonical {s : State} (h : memoryCanonical s) (e : Miss) (sig : Signature) : Work.canonical (e.work sig s) := by
  unfold Miss.work
  grind [memoryCanonical, Work.canonical]

theorem State.convert_canonical {s : State} (h : memoryCanonical s) (rec data scales : Nat) : memoryCanonical (s.convert rec data scales).2.2 := by
  unfold State.convert
  grind [memoryCanonical]

theorem State.overlapped_canonical {s : State} (h : memoryCanonical s) (rec v : Nat) (same : Bool) : memoryCanonical (s.overlapped rec v same).2 := by
  unfold State.overlapped
  grind [memoryCanonical]

theorem EngineCmd.at_canonical {s : State} (h : memoryCanonical s) (k : EngineCmd) (acc : Acc) (va n : Nat) :
    memoryCanonical (k.at_ acc s va n).2 := by
  unfold EngineCmd.at_
  grind [!State.enginePlace_canonical, memoryCanonical]

theorem State.runCopy_canonical {s : State} (h : memoryCanonical s) (k : EngineCmd) : Work.canonical (s.runCopy k) := by
  unfold State.runCopy
  grind [!State.placeRuns_canonical, !State.readRuns_canonical, !State.writeRuns_canonical, !Miss.work_canonical, !State.convert_canonical,
    !State.overlapped_canonical, !EngineCmd.at_canonical, memoryCanonical, Work.canonical]

theorem EngineCmd.rankPlace_canonical {s : State} (h : memoryCanonical s) (k : EngineCmd) (rank va n : Nat) :
    memoryCanonical (k.rankPlace rank s va n).2 := by
  unfold EngineCmd.rankPlace
  dsimp only
  repeat' split
  all_goals grind [!State.walk_canonical, memoryCanonical]

theorem State.notifyRank_canonical {s : State} (h : memoryCanonical s) (k : EngineCmd) (g : Signature) (rank : Nat) :
    excCanonical (s.notifyRank k g rank) := by
  unfold State.notifyRank
  grind [!homeRead_canonical, !homeWrite_canonical, !State.attach_canonical, !EngineCmd.rankPlace_canonical, memoryCanonical, excCanonical]

theorem State.writeRanks_canonical {s : State} (h : memoryCanonical s) (k : EngineCmd) (v : Nat) (write : Bool) (sig : Signature) (rest : List Nat) :
    Work.canonical (s.writeRanks k v write sig rest) := by
  fun_induction State.writeRanks s k v write sig rest <;> grind [!State.placeRuns_canonical, !State.writeRuns_canonical, !Miss.work_canonical,
    !EngineCmd.rankPlace_canonical, !State.notifyRank_canonical, memoryCanonical, Work.canonical, excCanonical]

theorem State.readSource_canonical {s : State} (h : memoryCanonical s) (k : EngineCmd) : memoryCanonical (s.readSource k).2 := by
  unfold State.readSource
  grind [!State.placeRuns_canonical, !State.readRuns_canonical, !EngineCmd.at_canonical, memoryCanonical]

theorem State.reduceLines_canonical {s : State} (h : memoryCanonical s) (code : Nat) (on : Bool) (ls : List Nat) :
    memoryCanonical (s.reduceLines code on ls) := by
  unfold State.reduceLines
  grind [!State.setSlice_canonical, !mergeWhere_canonical, !recall_canonical, !canonical_foldl, memoryCanonical]

theorem State.putCmd_canonical {s : State} (h : memoryCanonical s) (r i : Nat) (k : EngineCmd) : memoryCanonical (s.putCmd r i k) := by
  unfold State.putCmd
  grind [!State.setRegion_canonical, memoryCanonical]

theorem State.writeStatus_canonical {s : State} (h : memoryCanonical s) (k : EngineCmd) (cause : Nat) (sig : Signature) :
    memoryCanonical (s.writeStatus k cause sig) := by
  unfold State.writeStatus
  grind [!State.attach_canonical, !State.engineWrite_canonical, !EngineCmd.at_canonical, memoryCanonical]

theorem State.completeCmd_canonical {s : State} (h : memoryCanonical s) (k : EngineCmd) (fail : Option FaultInfo) (sig : Signature) :
    memoryCanonical (s.completeCmd k fail sig) := by
  unfold State.completeCmd
  dsimp only
  repeat' split
  all_goals grind [!State.setQueue_canonical, !State.postFault_canonical, !State.setTscb_canonical, !State.landBarrier_canonical,
    !State.writeStatus_canonical, memoryCanonical]

theorem State.acceptCmd_canonical {s : State} (h : memoryCanonical s) (r : Nat) (k : EngineCmd) : memoryCanonical (s.acceptCmd r k) := by
  unfold State.acceptCmd
  grind [!State.setRegion_canonical, !State.completeCmd_canonical, memoryCanonical]

theorem Iss.withCommand_canonical {s : State} (h : memoryCanonical s) (x : Iss) (m : LaneMask) (kind : Option Nat)
    (eff : (va rec : Nat) → State → Res) (heff : ∀ va rec t, memoryCanonical t → Res.canonical (eff va rec t)) : Res.canonical
    (x.withCommand s m kind eff) := by
  unfold Iss.withCommand
  grind [!Iss.trap_canonical, !Iss.withRecord_canonical, memoryCanonical, Res.canonical]

theorem Iss.withGroupRecord_canonical {s : State} (h : memoryCanonical s) (x : Iss) (m : LaneMask) (va rec grp : Nat) (grecBad : Bool)
    (eff : EngineCmd → State → Res) (heff : ∀ x t, memoryCanonical t → Res.canonical (eff x t)) : Res.canonical
    (x.withGroupRecord s m va rec grp grecBad eff) := by
  unfold Iss.withGroupRecord
  grind [!Iss.trap_canonical, !Iss.tensor_canonical, !Iss.parkAll_canonical, !Iss.withRecord_canonical, memoryCanonical, Res.canonical]

theorem State.takeSeq_canonical {s : State} (h : memoryCanonical s) (k : EngineCmd) (grp : Nat) : memoryCanonical (s.takeSeq k grp).2 := by
  unfold State.takeSeq
  grind [!homeRead_canonical, !syncLine_canonical, !homeStore_canonical, !EngineCmd.at_canonical, memoryCanonical]

theorem State.writeFolds_canonical {s : State} (h : memoryCanonical s) (ks : List (Nat × Nat × EngineCmd)) : optCanonical (s.writeFolds ks) := by
  unfold State.writeFolds
  extract_lets aside s0 one
  have hone (a : Option State) (y : Nat × Nat × EngineCmd) (ha : optCanonical a) : optCanonical (one a y) := by
    cases a with
    | none => trivial
    | some t =>
      have hw (k : EngineCmd) := State.writeRanks_canonical (s := t) ha k
      grind [!State.putCmd_canonical, Work.canonical, optCanonical]
  have hall := foldl_keeps optCanonical one hone (some s0) ks h
  clear_value one
  split
  · trivial
  next t ht =>
    rw [ht] at hall
    have hset := foldl_keeps memoryCanonical (fun (s : State) (y : Nat × List (Nat × Nat × Nat × Nat × Nat)) =>
      if y.2.isEmpty then s else s.setSlice y.1
        { s.slice y.1 with partials := y.2 }) (fun a y ha => by grind [!State.setSlice_canonical]) t aside hall
    exact foldl_keeps memoryCanonical _ (fun a y ha => by grind [!State.reduceLines_canonical]) _ ks hset

theorem State.workOf_canonical {s : State} (h : memoryCanonical s) (k : EngineCmd) : Work.canonical (s.workOf k) := by
  unfold State.workOf
  grind [!Miss.work_canonical, !State.runCopy_canonical, !State.writeRanks_canonical, !State.readSource_canonical, !canonical_foldl, memoryCanonical,
    Work.canonical]

theorem State.endCmd_canonical {s : State} (h : memoryCanonical s) (r i : Nat) (k : EngineCmd) (fail : Option FaultInfo) (sig : Signature) :
    memoryCanonical (s.endCmd r i k fail sig) := by
  unfold State.endCmd
  grind [!State.setRegion_canonical, !State.completeCmd_canonical, memoryCanonical]

theorem State.foldSources_canonical {s : State} (h : memoryCanonical s) (rest : List EngineCmd) (acc : Option Nat) :
    memoryCanonical (s.foldSources rest acc).2 := by
  fun_induction State.foldSources s rest acc <;> grind [!State.readSource_canonical, memoryCanonical]

theorem State.putCmds_canonical {s : State} (h : memoryCanonical s) (f : EngineCmd → EngineCmd) (ks : List (Nat × Nat × EngineCmd)) :
    memoryCanonical (s.putCmds f ks) := by
  unfold State.putCmds
  grind [!State.putCmd_canonical, !canonical_foldl, memoryCanonical]

theorem State.decide_canonical {s : State} (h : memoryCanonical s) (members : Nat) (ks : List (Nat × Nat × EngineCmd)) :
    optCanonical (s.decide members ks) := by
  unfold State.decide
  grind [!State.reduceLines_canonical, !State.foldSources_canonical, !State.putCmds_canonical, !canonical_foldl, memoryCanonical, optCanonical]

theorem State.fire_canonical {s : State} (h : memoryCanonical s) (c : Nat) (k : EngineCmd) : memoryCanonical (s.fire c k) := by
  unfold State.fire
  grind [!State.completeCmd_canonical, !State.acceptCmd_canonical, !State.takeSeq_canonical, memoryCanonical]

theorem State.reissue_canonical {s : State} (h : memoryCanonical s) (c slot : Nat) (y : Wait) : memoryCanonical (s.reissue c slot y) := by
  unfold State.reissue
  grind [!State.setWarp_canonical, memoryCanonical]

/-! ### Machine/Matrix.lean -/

theorem State.touchUnfold_canonical {s : State} (h : memoryCanonical s) (c gi r : Nat) : memoryCanonical (s.touchUnfold c gi r) := by
  unfold State.touchUnfold
  grind [!State.stashLoad_canonical, memoryCanonical]

theorem State.chunk_canonical {s : State} (h : memoryCanonical s) (c gi a ta tb kc row n : Nat) :
    memoryCanonical (s.chunk c gi a ta tb kc row n) := by
  unfold State.chunk
  grind [!State.setGroup_canonical, !canonical_foldl, memoryCanonical]

end Sys2Proof.Machine
end

section
/-! SUPPORT. The form of memory is kept: matrix operations, retirement, roles, placement and saving. -/

namespace Sys2Proof.Machine

open Safety

-- Every lemma here cites those before it: one after another, none holds a thread to wait for them.
set_option Elab.async false

/-! ### Machine/Matrix.lean -/

theorem State.stepErrors_canonical {s : State} (h : memoryCanonical s) (c gi : Nat) (i : Instr) (a ta tb n : Nat) :
    memoryCanonical (s.stepErrors c gi i a ta tb n).2 := by
  unfold State.stepErrors
  grind [!State.meetErrors_canonical, !State.eccRead_canonical, !canonical_foldl, !canonical_foldl_snd, memoryCanonical]

theorem State.stepFails_canonical {s : State} (h : memoryCanonical s) (c gi ag : Nat) : memoryCanonical (s.stepFails c gi ag) := by
  unfold State.stepFails
  grind [!State.postFault_canonical, !State.owe_canonical, memoryCanonical]

theorem State.matStep_canonical {s : State} (h : memoryCanonical s) (c gi : Nat) (i : Instr) (a ta tb n : Nat) :
    memoryCanonical (s.matStep c gi i a ta tb n) := by
  unfold State.matStep
  grind [!State.touchUnfold_canonical, !State.chunk_canonical, !State.stepErrors_canonical, !State.stepFails_canonical, !canonical_foldl,
    memoryCanonical]

theorem Iss.putAgr_canonical {s : State} (h : memoryCanonical s) (x : Iss) (c : Nat) (a : Agr) : memoryCanonical (x.putAgr s c a) := by
  unfold Iss.putAgr
  grind [!Iss.withGroup_canonical, memoryCanonical]

theorem proposeEff_canonical {s : State} (h : memoryCanonical s) (x : Iss) : Res.canonical (proposeEff x s) := by
  unfold proposeEff
  grind [!Iss.trap_canonical, !Iss.putAgr_canonical, memoryCanonical, Res.canonical]

theorem State.endSigned_canonical {s : State} (h : memoryCanonical s) (c gi ag : Nat) (bad : Bool) : memoryCanonical (s.endSigned c gi ag bad) := by
  unfold State.endSigned
  grind [!State.setWarp_canonical, !State.endWaits_canonical, !canonical_foldl, memoryCanonical]

theorem State.pumpAcc_canonical {s : State} (h : memoryCanonical s) (c gi a n : Nat) : memoryCanonical (s.pumpAcc c gi a n) := by
  fun_induction State.pumpAcc s c gi a n <;> grind [!State.setWarp_canonical, !State.setGroup_canonical, !State.meetErrors_canonical,
    !canonical_foldl, memoryCanonical]

theorem Iss.accWrite_canonical {s : State} (h : memoryCanonical s) (x : Iss) (reads writes : Nat → Nat → Bool) (eff : LaneMask → Group → SMap Word) :
    Res.canonical (x.accWrite s reads writes eff) := by
  unfold Iss.accWrite
  grind [!State.meetErrors_canonical, !State.healWords_canonical, !State.owe_canonical, !Iss.waitEngine_canonical, !Iss.withGroup_canonical,
    !State.pumpAcc_canonical, memoryCanonical, Res.canonical]

theorem Iss.accRead_canonical {s : State} (h : memoryCanonical s) (x : Iss) (cell : Warp → Nat → Nat) : Res.canonical (x.accRead s cell) := by
  unfold Iss.accRead
  grind [!Iss.launchRead_canonical, !Iss.withGroup_canonical, !State.pumpAcc_canonical, memoryCanonical, Res.canonical]

/-! ### Machine/Retire.lean -/

theorem State.finishStores_canonical {s : State} (h : memoryCanonical s) (c gi n : Nat) : memoryCanonical (s.finishStores c gi n) := by
  fun_induction State.finishStores s c gi n <;> grind [!State.land_canonical, memoryCanonical]

theorem State.retireGroup_canonical {s : State} (h : memoryCanonical s) (c gi : Nat) : memoryCanonical (s.retireGroup c gi) := by
  unfold State.retireGroup
  grind [!State.setCore_canonical, !State.exitMaps_canonical, !State.seedDone_canonical, !State.finishStores_canonical, memoryCanonical]

theorem State.retireWarp_canonical {s : State} (h : memoryCanonical s) (c slot : Nat) : memoryCanonical (s.retireWarp c slot) := by
  unfold State.retireWarp
  grind [!State.setCore_canonical, !State.workDone_canonical, !State.retireGroup_canonical, memoryCanonical]

/-! ### Machine/Roles.lean -/

theorem Iss.arrive_canonical {s : State} (h : memoryCanonical s) (x : Iss) : memoryCanonical (x.arrive s) := by
  unfold Iss.arrive
  grind [!State.setWarp_canonical, !Out.finish_canonical, !State.raise_canonical, !Iss.entryWait_canonical, !State.readRecord_canonical,
    memoryCanonical]

theorem State.switchRole_canonical {s : State} (h : memoryCanonical s) (c gi d : Nat) : memoryCanonical (s.switchRole c gi d) := by
  unfold State.switchRole
  grind [!State.setWarp_canonical, !State.setGroup_canonical, !State.touchFcb_canonical, !State.touchBlocks_canonical, !canonical_foldl,
    memoryCanonical]

theorem State.refuseRole_canonical {s : State} (h : memoryCanonical s) (c gi : Nat) : memoryCanonical (s.refuseRole c gi) := by
  unfold State.refuseRole
  grind [!State.setWarp_canonical, !State.trapLanes_canonical, !canonical_foldl, memoryCanonical]

/-! ### Machine/Placement.lean -/

theorem State.refuseGroup_canonical {s : State} (h : memoryCanonical s) (core : Nat) (ws : List ClosedWarp) (cause : Nat) :
    memoryCanonical (s.refuseGroup core ws cause) := by
  unfold State.refuseGroup
  grind [!State.postFault_canonical, !State.contributeIdentity_canonical, !State.faultCairn_canonical, !State.workDone_canonical,
    !State.seedDone_canonical, !canonical_foldl, memoryCanonical]

theorem State.startSlice_canonical {s : State} (h : memoryCanonical s) (c d : Nat) : memoryCanonical (s.startSlice c d) := by
  unfold State.startSlice
  grind [!State.setCore_canonical, memoryCanonical]

theorem State.takeSlice_canonical {s : State} (h : memoryCanonical s) (c d : Nat) : memoryCanonical (s.takeSlice c d) := by
  unfold State.takeSlice
  grind [!State.startSlice_canonical, memoryCanonical]

theorem State.placeGroup_canonical {s : State} (h : memoryCanonical s) (core : Nat) (a : Allot) (dom : Nat) (ws : List ClosedWarp) :
    memoryCanonical (s.placeGroup core a dom ws) := by
  unfold State.placeGroup
  grind [!State.setCore_canonical, !State.setWarp_canonical, !State.applySig_canonical, !State.takeSlice_canonical, !canonical_foldl, memoryCanonical]

/-! ### Machine/Saving.lean -/

theorem State.interruptTx_canonical {s : State} (h : memoryCanonical s) (c slot : Nat) : memoryCanonical (s.interruptTx c slot) := by
  unfold State.interruptTx
  grind [!State.abortLanes_canonical, !State.moveLanes_canonical, !canonical_foldl, memoryCanonical]

theorem State.leaveTokenQueue_canonical {s : State} (h : memoryCanonical s) (c slot : Nat) : memoryCanonical (s.leaveTokenQueue c slot) := by
  unfold State.leaveTokenQueue
  grind [!State.setWarp_canonical, !State.releaseToken_canonical, !canonical_foldl, memoryCanonical]

theorem State.haltWarp_canonical {s : State} (h : memoryCanonical s) (c slot : Nat) : memoryCanonical (s.haltWarp c slot) := by
  unfold State.haltWarp
  grind [!State.setWarp_canonical, !State.drain_canonical, !State.endWaits_canonical, !State.interruptTx_canonical, !State.leaveTokenQueue_canonical,
    memoryCanonical]

theorem State.haltGroup_canonical {s : State} (h : memoryCanonical s) (c gi : Nat) : memoryCanonical (s.haltGroup c gi) := by
  unfold State.haltGroup
  grind [!State.setCore_canonical, !State.haltWarp_canonical, !canonical_foldl, memoryCanonical]

theorem State.lateLane_canonical {s : State} (h : memoryCanonical s) (c x : Nat) (r : InFlight) (l : Nat) :
    memoryCanonical (s.lateLane c x r l).2 := by
  unfold State.lateLane
  grind [!State.dropTlb_canonical, !State.rmwNow_canonical, memoryCanonical]

theorem State.reissueLane_canonical {s : State} (h : memoryCanonical s) (c slot i l : Nat) : memoryCanonical (s.reissueLane c slot i l) := by
  unfold State.reissueLane
  grind [!State.setWarp_canonical, !State.reach_canonical, !State.performLane_canonical, !State.settle_canonical, !State.fcbAcquire_canonical,
    memoryCanonical]

theorem State.reissueRecord_canonical {s : State} (h : memoryCanonical s) (c slot i : Nat) : memoryCanonical (s.reissueRecord c slot i) := by
  unfold State.reissueRecord
  grind [!State.setWarp_canonical, !State.reissueLane_canonical, !canonical_foldl, memoryCanonical]

theorem State.reissueAll_canonical {s : State} (h : memoryCanonical s) (c slot n : Nat) : memoryCanonical (s.reissueAll c slot n) := by
  fun_induction State.reissueAll s c slot n <;> grind [!State.reissueRecord_canonical, memoryCanonical]

theorem State.restoreLane_canonical {s : State} (h : memoryCanonical s) (c slot : Nat) (r : InFlight) (l : Nat) :
    memoryCanonical (s.restoreLane c slot r l) := by
  unfold State.restoreLane
  grind [!State.setWarp_canonical, !State.enqueue_canonical, !State.reach_canonical, memoryCanonical]

theorem State.reissueKept_canonical {s : State} (h : memoryCanonical s) (c slot : Nat) (r : InFlight) : memoryCanonical (s.reissueKept c slot r) := by
  unfold State.reissueKept
  grind [!State.setWarp_canonical, !State.reissueLane_canonical, !State.restoreLane_canonical, !canonical_foldl, memoryCanonical]

theorem State.replayEntry_canonical {s : State} (h : memoryCanonical s) (c slot idx : Nat) (e : Entry) :
    memoryCanonical (s.replayEntry c slot idx e) := by
  unfold State.replayEntry
  grind [!State.setWarp_canonical, !State.reissueKept_canonical, memoryCanonical]

theorem State.killEntry_canonical {s : State} (h : memoryCanonical s) (c slot idx : Nat) (e : Entry) :
    memoryCanonical (s.killEntry c slot idx e) := by
  unfold State.killEntry
  grind [!State.setWarp_canonical, !State.faultCairn_canonical, !State.exitLanes_canonical, !State.killLanes_canonical, !Out.finish_canonical,
    !State.fetch_canonical, !canonical_foldl, memoryCanonical]

theorem State.decideEntry_canonical {s : State} (h : memoryCanonical s) (c slot idx : Nat) (e : Entry) (replay : Bool) :
    memoryCanonical (s.decideEntry c slot idx e replay) := by
  unfold State.decideEntry
  grind [!State.freeRecordAt_canonical, !State.replayEntry_canonical, !State.killEntry_canonical, memoryCanonical]

theorem State.decideWarp_canonical {s : State} (h : memoryCanonical s) (c slot n : Nat) : memoryCanonical (s.decideWarp c slot n) := by
  fun_induction State.decideWarp s c slot n <;> grind [!State.decideEntry_canonical, memoryCanonical]

theorem State.seat_canonical {s : State} (h : memoryCanonical s) (c : Nat) (v : Saved) : memoryCanonical (s.seat c v).1 := by
  unfold State.seat
  grind [!State.setCore_canonical, !State.setWarp_canonical, !State.dropArea_canonical, !State.takeSlice_canonical, !canonical_foldl, memoryCanonical]

theorem State.restore_canonical {s : State} (h : memoryCanonical s) (c : Nat) (v : Saved) (at_ : List (Warp × Nat)) :
    memoryCanonical (s.restore c v at_) := by
  unfold State.restore
  grind [!State.setWarp_canonical, !State.endWaits_canonical, !State.pumpAcc_canonical, !State.reissueAll_canonical, !State.decideWarp_canonical,
    !canonical_foldl, memoryCanonical]

theorem State.killGroup_canonical {s : State} (h : memoryCanonical s) (c gi : Nat) : memoryCanonical (s.killGroup c gi) := by
  unfold State.killGroup
  grind [!State.postFault_canonical, !State.faultCairn_canonical, !State.killLanes_canonical, !canonical_foldl, memoryCanonical]

theorem State.bringBack_canonical {s : State} (h : memoryCanonical s) (c : Nat) (v : Saved) : memoryCanonical (s.bringBack c v) := by
  unfold State.bringBack
  grind [!State.ctxRead_canonical, !State.seat_canonical, !State.restore_canonical, !State.killGroup_canonical, memoryCanonical]

theorem State.refuseSave_canonical {s : State} (h : memoryCanonical s) (c gi st : Nat) : memoryCanonical (s.refuseSave c gi st) := by
  unfold State.refuseSave
  grind [!State.setGroup_canonical, !State.count_canonical, memoryCanonical]

theorem State.resumeInPlace_canonical {s : State} (h : memoryCanonical s) (c gi : Nat) : memoryCanonical (s.resumeInPlace c gi) := by
  unfold State.resumeInPlace
  grind [!State.setCore_canonical, !State.setWarp_canonical, !State.reissueAll_canonical, !canonical_foldl, memoryCanonical]

theorem State.finishSave_canonical {s : State} (h : memoryCanonical s) (c gi : Nat) : memoryCanonical (s.finishSave c gi) := by
  unfold State.finishSave
  grind [!State.setCore_canonical, !State.writeArea_canonical, memoryCanonical]

theorem State.saveGroup_canonical {s : State} (h : memoryCanonical s) (c gi st : Nat) : memoryCanonical (s.saveGroup c gi st) := by
  unfold State.saveGroup
  grind [!State.setCtx_canonical, !State.setGroup_canonical, !State.haltGroup_canonical, !State.refuseSave_canonical, !State.resumeInPlace_canonical,
    !State.finishSave_canonical, memoryCanonical]

theorem State.saveGroups_canonical {s : State} (h : memoryCanonical s) (c st : Nat) (rest : List Nat) : memoryCanonical (s.saveGroups c st rest) := by
  fun_induction State.saveGroups s c st rest <;> grind [!State.saveGroup_canonical, memoryCanonical]

end Sys2Proof.Machine
end

section
/-! SUPPORT. The form of memory is kept: queues, hubs, training, boot and cache control. -/

namespace Sys2Proof.Machine

open Safety

-- Every lemma here cites those before it: one after another, none holds a thread to wait for them.
set_option Elab.async false

/-! ### Machine/Queues.lean -/

theorem State.queuePlace_canonical {s : State} (h : memoryCanonical s) (q x va n : Nat) (acc : Acc) :
    memoryCanonical (s.queuePlace q x va n acc).2 := by
  unfold State.queuePlace
  grind [!State.enginePlace_canonical, memoryCanonical]

theorem State.queueRead_canonical {s : State} (h : memoryCanonical s) (q x va n : Nat) : memoryCanonical (s.queueRead q x va n).2 := by
  unfold State.queueRead
  grind [!State.engineRead_canonical, !State.queuePlace_canonical, memoryCanonical]

theorem State.loseStore_canonical {s : State} (h : memoryCanonical s) (q x va n v : Nat) : optCanonical (s.loseStore q x va n v) := by
  unfold State.loseStore
  grind [!State.setQueue_canonical, !State.takeBool_canonical, !State.engineWrite_canonical, !State.queuePlace_canonical,
    memoryCanonical, optCanonical]

theorem State.queueRelease_canonical {s : State} (h : memoryCanonical s) (q x va n v : Nat) (add : Bool) :
    QWrite.canonical (s.queueRelease q x va n v add) := by
  unfold State.queueRelease
  grind [!State.attach_canonical, !State.engineRead_canonical, !State.engineWrite_canonical, !State.queuePlace_canonical, !State.loseStore_canonical,
    memoryCanonical, QWrite.canonical, optCanonical]

theorem State.queueAcquire_canonical {s : State} (h : memoryCanonical s) (q : Nat) (p : Place) : memoryCanonical (s.queueAcquire q p) := by
  unfold State.queueAcquire
  grind [!State.setQueue_canonical, memoryCanonical]

theorem State.enableQueue_canonical {s : State} (h : memoryCanonical s) (q : Nat) : memoryCanonical (s.enableQueue q) := by
  unfold State.enableQueue
  grind [!State.setQueue_canonical, memoryCanonical]

theorem State.haltQueue_canonical {s : State} (h : memoryCanonical s) (q : Nat) : memoryCanonical (s.haltQueue q) := by
  unfold State.haltQueue
  grind [!State.setQueue_canonical, memoryCanonical]

theorem State.clearQueue_canonical {s : State} (h : memoryCanonical s) (q : Nat) : memoryCanonical (s.clearQueue q) := by
  unfold State.clearQueue
  grind [!State.setQueue_canonical, memoryCanonical]

theorem State.ringTail_canonical {s : State} (h : memoryCanonical s) (q : Nat) (v : DWord) : memoryCanonical (s.ringTail q v) := by
  unfold State.ringTail
  grind [!State.setQueue_canonical, memoryCanonical]

theorem State.stopQueue_canonical {s : State} (h : memoryCanonical s) (q : Nat) (p : Packet) (kind cause : Nat) :
    memoryCanonical (s.stopQueue q p kind cause) := by
  unfold State.stopQueue
  grind [!State.setQueue_canonical, !State.postEvent_canonical, memoryCanonical]

theorem State.headPacket_canonical {s : State} (h : memoryCanonical s) (q : Nat) : Head.canonical (s.headPacket q) := by
  unfold State.headPacket
  grind [!State.queueRead_canonical, memoryCanonical, Head.canonical]

theorem State.publish_canonical {s : State} (h : memoryCanonical s) (q : Nat) (p : Packet) : optCanonical (s.publish q p) := by
  unfold State.publish
  grind [!State.setQueue_canonical, !State.queueRelease_canonical, memoryCanonical, QWrite.canonical, optCanonical]

theorem State.packetDone_canonical {s : State} (h : memoryCanonical s) (q : Nat) : memoryCanonical (s.packetDone q) := by
  unfold State.packetDone
  grind [!State.setQueue_canonical, memoryCanonical]

theorem Miss.started_canonical {s : State} (h : memoryCanonical s) (e : Miss) : Started.canonical (e.started s) := by
  unfold Miss.started
  grind [memoryCanonical, Started.canonical]

theorem State.seedCheck_canonical {s : State} (h : memoryCanonical s) (x b : Nat) : memoryCanonical (s.seedCheck x b).2 := by
  unfold State.seedCheck
  grind [!State.ctxLoad_canonical, !State.touchBlocks_canonical, !State.touchEntries_canonical, !State.touchDomain_canonical, memoryCanonical]

theorem State.seedThread_canonical {s : State} (h : memoryCanonical s) (q x index b : Nat) : memoryCanonical (s.seedThread q x index b) := by
  unfold State.seedThread
  grind [!State.setRegion_canonical, !State.setQueue_canonical, memoryCanonical]

theorem State.issueCmd_canonical {s : State} (h : memoryCanonical s) (q region index : Nat) (k : EngineCmd) :
    memoryCanonical (s.issueCmd q region index k) := by
  unfold State.issueCmd
  grind [!State.setQueue_canonical, !State.acceptCmd_canonical, memoryCanonical]

theorem State.endFence_canonical {s : State} (h : memoryCanonical s) (q : Nat) : memoryCanonical (s.endFence q) := by
  unfold State.endFence
  grind [!State.setQueue_canonical, memoryCanonical]

theorem State.queueTrap_canonical {s : State} (h : memoryCanonical s) (q cause tval : Nat) : memoryCanonical (s.queueTrap q cause tval) := by
  unfold State.queueTrap
  grind [!State.setQueue_canonical, memoryCanonical]

theorem State.queueNext_canonical {s : State} (h : memoryCanonical s) (q : Nat) (rd : BitVec 5) (v : Nat) : memoryCanonical (s.queueNext q rd v) := by
  unfold State.queueNext
  grind [!State.setQueue_canonical, memoryCanonical]

theorem State.queueStall_canonical {s : State} (h : memoryCanonical s) (q : Nat) : memoryCanonical (s.queueStall q) := by
  unfold State.queueStall
  grind [!State.setQueue_canonical, memoryCanonical]

theorem Miss.vendor_canonical {s : State} (h : memoryCanonical s) (e : Miss) (q va : Nat) : memoryCanonical (e.vendor q va s) := by
  unfold Miss.vendor
  grind [!State.queueTrap_canonical, !State.queueStall_canonical, memoryCanonical]

theorem State.vendorRead_canonical {s : State} (h : memoryCanonical s) (q x va n : Nat) (next : Nat → State → State)
    (hnext : ∀ x t, memoryCanonical t → memoryCanonical (next x t)) : memoryCanonical (s.vendorRead q x va n next) := by
  unfold State.vendorRead
  grind [!State.queueRead_canonical, !Miss.vendor_canonical, memoryCanonical]

theorem State.vendorTensor_canonical {s : State} (h : memoryCanonical s) (x d : Nat) : memoryCanonical (s.vendorTensor x d).2 := by
  unfold State.vendorTensor
  grind [!State.mapRead_canonical, memoryCanonical]

theorem State.vendorTxfer_canonical {s : State} (h : memoryCanonical s) (q x va rec region : Nat) (rd : BitVec 5) :
    memoryCanonical (s.vendorTxfer q x va rec region rd) := by
  have hq : ∀ {s : State}, memoryCanonical s → ∀ c, memoryCanonical (s.queueNext q rd c) :=
    fun hs c => State.queueNext_canonical hs q rd c
  unfold State.vendorTxfer
  dsimp only
  split
  · exact hq h _
  split
  · exact hq h _
  split
  · exact hq h _
  refine State.vendorRead_canonical h _ _ _ _ _ (fun src t ht => ?_)
  have ht1 := State.vendorTensor_canonical ht x src
  split
  next e => exact hq (by simpa [e] using ht1) _
  next e =>
  refine State.vendorRead_canonical (by simpa [e] using ht1) _ _ _ _ _ (fun dst t2 ht2 => ?_)
  have ht3 := State.vendorTensor_canonical ht2 x dst
  split
  next e => exact hq (by simpa [e] using ht3) _
  next e =>
  have ht4 := by simpa [e] using ht3
  split
  · exact hq ht4 _
  split
  · exact hq ht4 _
  split
  · exact hq ht4 _
  refine State.vendorRead_canonical ht4 _ _ _ _ _ (fun g t5 ht5 => ?_)
  split
  · exact hq ht5 _
  grind [!State.takeSeq_canonical, !State.issueCmd_canonical, !State.queueNext_canonical, !Miss.vendor_canonical, memoryCanonical]

/-! ### Machine/Hubs.lean -/

theorem State.rolloverRest_canonical {s : State} (h : memoryCanonical s) (scope c : Nat) : memoryCanonical (s.rolloverRest scope c) := by
  unfold State.rolloverRest
  grind [!State.setRegion_canonical, !State.setHub_canonical, !canonical_foldl, memoryCanonical]

theorem State.moveSidebands_canonical {s : State} (h : memoryCanonical s) (pa size : Nat) (dest : Place) :
    memoryCanonical (s.moveSidebands pa size dest) := by
  unfold State.moveSidebands
  grind [!State.setSlice_canonical, !State.attach_canonical, !canonical_foldl, memoryCanonical]

theorem State.leaveForward_canonical {s : State} (h : memoryCanonical s) (x pa size : Nat) (dest : Place) :
    memoryCanonical (s.leaveForward x pa size dest) := by
  unfold State.leaveForward
  grind [!State.setHub_canonical, memoryCanonical]

theorem State.writePpn_canonical {s : State} (h : memoryCanonical s) (m : Nat) (l : Leaf) (dest : Nat) : memoryCanonical (s.writePpn m l dest) := by
  unfold State.writePpn
  grind [!homeWrite_canonical, !canonical_foldl, memoryCanonical]

theorem State.wakePage_canonical {s : State} (h : memoryCanonical s) (pa size : Nat) : memoryCanonical (s.wakePage pa size) := by
  unfold State.wakePage
  grind [!State.mapCores_canonical, !State.wakeSaved_canonical, memoryCanonical]

theorem State.hostUpdate_canonical {s : State} (h : memoryCanonical s) (m pa : Nat) (data : List Byte) (locked : Bool) (index : Nat) :
    optCanonical (s.hostUpdate m pa data locked index) := by
  unfold State.hostUpdate
  grind [!State.setModule_canonical, !writeBytes_wf, memoryCanonical, optCanonical]

theorem State.bar2Place_canonical {s : State} (h : memoryCanonical s) (x va : Nat) (acc : Acc) : optSndCanonical (s.bar2Place x va acc) := by
  unfold State.bar2Place
  grind [!State.xlatCtx_canonical, memoryCanonical, optSndCanonical]

theorem State.bar2At_canonical {s : State} (h : memoryCanonical s) (m : Nat) (q : Place) (write : Option (List Byte)) (n : Nat) :
    memoryCanonical (s.bar2At m q write n).2 := by
  unfold State.bar2At
  grind [!homeRead_canonical, !homeWrite_canonical, !foreignWrite_canonical, memoryCanonical]

theorem State.bar2_canonical {s : State} (h : memoryCanonical s) (x va : Nat) (write : Option (List Byte)) (n : Nat) :
    optSndCanonical (s.bar2 x va write n) := by
  unfold State.bar2
  grind [!State.bar2Place_canonical, !State.bar2At_canonical, memoryCanonical, optSndCanonical]

theorem State.dropRequests_canonical {s : State} (h : memoryCanonical s) (c slot peer n : Nat) : memoryCanonical (s.dropRequests c slot peer n) := by
  fun_induction State.dropRequests s c slot peer n <;> grind [!State.settle_canonical, !canonical_foldl, memoryCanonical]

theorem State.losePeer_canonical {s : State} (h : memoryCanonical s) (m peer : Nat) : memoryCanonical (s.losePeer m peer) := by
  unfold State.losePeer
  grind [!State.setModule_canonical, !State.dropRequests_canonical, !canonical_foldl, memoryCanonical]

theorem State.hitWord_canonical {s : State} (h : memoryCanonical s) (key : Nat) (double : Bool) : memoryCanonical (s.hitWord key double) := by
  unfold State.hitWord
  grind [memoryCanonical]

theorem State.hitUnit_canonical {s : State} (h : memoryCanonical s) (m st at_ addr : Nat) (double : Bool) :
    memoryCanonical (s.hitUnit m st at_ addr double) := by
  unfold State.hitUnit
  grind [!State.count_canonical, !State.logWord_canonical, memoryCanonical]

/-! ### Machine/Training.lean -/

theorem State.setPhy_canonical {s : State} (h : memoryCanonical s) (m n : Nat) (p : Phy) : memoryCanonical (s.setPhy m n p) := by
  unfold State.setPhy
  grind [!State.setModule_canonical, memoryCanonical]

theorem State.startTraining_canonical {s : State} (h : memoryCanonical s) (m n : Nat) : memoryCanonical (s.startTraining m n) := by
  unfold State.startTraining
  grind [!State.setPhy_canonical, memoryCanonical]

theorem State.abortTraining_canonical {s : State} (h : memoryCanonical s) (m n : Nat) : memoryCanonical (s.abortTraining m n) := by
  unfold State.abortTraining
  grind [!State.setPhy_canonical, memoryCanonical]

theorem State.setFabric_canonical {s : State} (h : memoryCanonical s) (m n : Nat) (p : FabricPort) : memoryCanonical (s.setFabric m n p) := by
  unfold State.setFabric
  grind [!State.setModule_canonical, memoryCanonical]

theorem State.leaveLink_canonical {s : State} (h : memoryCanonical s) (m n : Nat) : memoryCanonical (s.leaveLink m n) := by
  unfold State.leaveLink
  grind [!State.losePeer_canonical, memoryCanonical]

theorem State.linkOff_canonical {s : State} (h : memoryCanonical s) (m n : Nat) : memoryCanonical (s.linkOff m n) := by
  unfold State.linkOff
  grind [!State.setFabric_canonical, !State.leaveLink_canonical, memoryCanonical]

theorem State.linkOn_canonical {s : State} (h : memoryCanonical s) (m n : Nat) : memoryCanonical (s.linkOn m n) := by
  unfold State.linkOn
  grind [!State.setFabric_canonical, memoryCanonical]

/-! ### Machine/Boot.lean -/

theorem State.enterSafe_canonical {s : State} (h : memoryCanonical s) (m : Nat) : memoryCanonical (s.enterSafe m) := by
  unfold State.enterSafe
  grind [!State.setModule_canonical, memoryCanonical]

theorem State.dropUnits_canonical {s : State} (h : memoryCanonical s) (m : Nat) : memoryCanonical (s.dropUnits m) := by
  unfold State.dropUnits
  grind [memoryCanonical]

theorem State.loadFirmware_canonical {s : State} (h : memoryCanonical s) (m : Nat) (i : Image) : memoryCanonical (s.loadFirmware m i) := by
  unfold State.loadFirmware
  grind [!State.setQueue_canonical, !State.setModule_canonical, !writeBytes_wf, !canonical_foldl, memoryCanonical]

/-! ### Machine/Caches.lean -/

theorem Iss.domainOf_canonical {s : State} (h : memoryCanonical s) (x : Iss) (w : Warp) (l : Nat) : memoryCanonical (x.domainOf w s l).2 := by
  unfold Iss.domainOf
  grind [!State.xlatLane_canonical, memoryCanonical]

theorem Iss.prefEach_canonical {s : State} (h : memoryCanonical s) (x : Iss) (w : Warp) (rest : List Nat) :
    memoryCanonical (x.prefEach w s rest) := by
  fun_induction Iss.prefEach x w s rest <;> grind [!State.l1Load_canonical, !Iss.domainOf_canonical, memoryCanonical]

theorem State.invalidateSector_canonical {s : State} (h : memoryCanonical s) (c pa : Nat) : memoryCanonical (s.invalidateSector c pa) := by
  unfold State.invalidateSector
  grind [!State.setCore_canonical, memoryCanonical]

theorem State.cctlLane_canonical {s : State} (h : memoryCanonical s) (c op pa : Nat) : memoryCanonical (s.cctlLane c op pa) := by
  unfold State.cctlLane
  grind [!State.setCore_canonical, !writeBackSector_canonical, !State.invalidateSector_canonical, memoryCanonical]

theorem Iss.cctlEach_canonical {s : State} (h : memoryCanonical s) (x : Iss) (w : Warp) (op : Nat) (rest : List Nat) :
    memoryCanonical (x.cctlEach w op s rest) := by
  fun_induction Iss.cctlEach x w op s rest <;> grind [!Iss.domainOf_canonical, !State.cctlLane_canonical, memoryCanonical]

theorem State.invalidateAll_canonical {s : State} (h : memoryCanonical s) (c : Nat) : memoryCanonical (s.invalidateAll c) := by
  unfold State.invalidateAll
  grind [!State.setCore_canonical, memoryCanonical]

theorem State.flushInterval_canonical {s : State} (h : memoryCanonical s) (c gi soff len n : Nat) :
    memoryCanonical (s.flushInterval c gi soff len n).2 := by
  fun_induction State.flushInterval s c gi soff len n <;> grind [!State.flushSectors_canonical, memoryCanonical]

theorem State.zeroUnfilled_canonical {s : State} (h : memoryCanonical s) (c base : Nat) (r : MapRange) (soff len : Nat) :
    memoryCanonical (s.zeroUnfilled c base r soff len) := by
  unfold State.zeroUnfilled
  grind [!State.setCore_canonical, !writeMasked_wf, !canonical_foldl, memoryCanonical]

theorem State.unmapInterval_canonical {s : State} (h : memoryCanonical s) (c gi soff len : Nat) :
    memoryCanonical (s.unmapInterval c gi soff len) := by
  unfold State.unmapInterval
  grind [!State.setGroup_canonical, !State.zeroUnfilled_canonical, !canonical_foldl, memoryCanonical]

theorem Iss.flushFrame_canonical {s : State} (h : memoryCanonical s) (x : Iss) (after : State → Nat → Nat → Nat → State)
    (hafter : ∀ t y z u, memoryCanonical t → memoryCanonical (after t y z u)) : Res.canonical (x.flushFrame s after) := by
  unfold Iss.flushFrame
  grind [!State.drain_canonical, !Iss.trap_canonical, !Iss.closed_canonical, !State.flushInterval_canonical, memoryCanonical, Res.canonical]

end Sys2Proof.Machine
end

section
/-! SUPPORT. The form of memory is kept: the mailbox, resolving, the life of a module, registers and the plan of a step. -/

namespace Sys2Proof.Machine

open Safety

-- Every lemma here cites those before it: one after another, none holds a thread to wait for them.
set_option Elab.async false

/-! ### Machine/Mailbox.lean -/

theorem State.reply_canonical {s : State} (h : memoryCanonical s) (m result : Nat) (bytes : List Byte) :
    memoryCanonical (s.reply m result bytes) := by
  unfold State.reply
  grind [!State.setModule_canonical, !canonical_foldl, memoryCanonical]

/-! ### Machine/Resolve.lean -/

theorem State.resolveFault_canonical {s : State} (h : memoryCanonical s) (x n : Nat) : memoryCanonical (s.resolveFault x n) := by
  unfold State.resolveFault
  grind [!State.setCore_canonical, !State.count_canonical, !State.ctxRead_canonical, !State.decideEntry_canonical, memoryCanonical]

/-! ### Machine/Lifecycle.lean -/

theorem State.holdSaved_canonical {s : State} (h : memoryCanonical s) (m : Nat) (who : Nat → Bool) (b : Bool) :
    memoryCanonical (s.holdSaved m who b) := by
  unfold State.holdSaved
  grind [!State.mapCores_canonical, memoryCanonical]

theorem State.pauseQueue_canonical {s : State} (h : memoryCanonical s) (q : Nat) : memoryCanonical (s.pauseQueue q) := by
  unfold State.pauseQueue
  grind [!State.setQueue_canonical, memoryCanonical]

theorem State.resumeQueue_canonical {s : State} (h : memoryCanonical s) (q : Nat) : memoryCanonical (s.resumeQueue q) := by
  unfold State.resumeQueue
  grind [!State.setQueue_canonical, memoryCanonical]

theorem State.freezeGroups_canonical {s : State} (h : memoryCanonical s) (rest : List (Nat × Nat)) : memoryCanonical (s.freezeGroups rest).1 := by
  fun_induction State.freezeGroups s rest <;> grind [!State.setGroup_canonical, !State.count_canonical, !State.saveGroup_canonical, memoryCanonical]

theorem State.freeze_canonical {s : State} (h : memoryCanonical s) (m : Nat) (who : Nat → Bool) : memoryCanonical (s.freeze m who).1 := by
  unfold State.freeze
  grind [!State.holdSaved_canonical, !State.pauseQueue_canonical, !State.freezeGroups_canonical, !canonical_foldl, memoryCanonical]

theorem State.thaw_canonical {s : State} (h : memoryCanonical s) (m : Nat) (who : Nat → Bool) : memoryCanonical (s.thaw m who) := by
  unfold State.thaw
  grind [!State.setGroup_canonical, !State.holdSaved_canonical, !State.resumeQueue_canonical, !canonical_foldl, memoryCanonical]

theorem State.pauseFunction_canonical {s : State} (h : memoryCanonical s) (x : Nat) : memoryCanonical (s.pauseFunction x) := by
  unfold State.pauseFunction
  grind [!State.setCtx_canonical, !State.postEvent_canonical, memoryCanonical]

theorem State.resumeFunction_canonical {s : State} (h : memoryCanonical s) (x : Nat) : memoryCanonical (s.resumeFunction x) := by
  unfold State.resumeFunction
  grind [!State.setCtx_canonical, !State.postEvent_canonical, memoryCanonical]

theorem State.resetModule_canonical {s : State} (h : memoryCanonical s) (m : Nat) : memoryCanonical (s.resetModule m) := by
  unfold State.resetModule
  grind [!State.setModule_canonical, !State.dropUnits_canonical, memoryCanonical]

theorem State.startImages_canonical {s : State} (h : memoryCanonical s) (m : Nat) : memoryCanonical (s.startImages m) := by
  unfold State.startImages
  grind [!State.setModule_canonical, !State.loadFirmware_canonical, memoryCanonical]

theorem State.endActivation_canonical {s : State} (h : memoryCanonical s) (m result : Nat) (fs : List Nat) :
    memoryCanonical (s.endActivation m result fs) := by
  unfold State.endActivation
  grind [!State.setModule_canonical, !State.reply_canonical, !State.thaw_canonical, !State.resumeFunction_canonical, !canonical_foldl,
    memoryCanonical]

theorem State.moveQueue_canonical {s : State} (h : memoryCanonical s) (qs : Nat × Nat) : memoryCanonical (s.moveQueue qs) := by
  unfold State.moveQueue
  grind [!State.setQueue_canonical, !State.resumeQueue_canonical, memoryCanonical]

theorem State.moveSaved_canonical {s : State} (h : memoryCanonical s) (m x y : Nat) (qs : List (Nat × Nat)) (c : Nat) (v : Saved) :
    memoryCanonical (s.moveSaved m x y qs c v) := by
  unfold State.moveSaved
  grind [!State.setCore_canonical, memoryCanonical]

theorem State.migrate_canonical {s : State} (h : memoryCanonical s) (a m f : Nat) : memoryCanonical (s.migrate a m f) := by
  unfold State.migrate
  grind [!State.setCtx_canonical, !State.postEvent_canonical, !State.moveQueue_canonical, !State.moveSaved_canonical, !canonical_foldl,
    memoryCanonical]

theorem State.discardWarp_canonical {s : State} (h : memoryCanonical s) (c slot : Nat) : memoryCanonical (s.discardWarp c slot) := by
  unfold State.discardWarp
  grind [!State.setWarp_canonical, !State.abortLane_canonical, !State.killLanes_canonical, !State.retireWarp_canonical, !canonical_foldl,
    memoryCanonical]

theorem State.discardGroup_canonical {s : State} (h : memoryCanonical s) (c gi : Nat) : memoryCanonical (s.discardGroup c gi) := by
  unfold State.discardGroup
  grind [!State.setGroup_canonical, !State.discardWarp_canonical, !canonical_foldl, memoryCanonical]

theorem State.discardSaved_canonical {s : State} (h : memoryCanonical s) (c : Nat) (v : Saved) : memoryCanonical (s.discardSaved c v) := by
  unfold State.discardSaved
  grind [!State.setCore_canonical, !State.contributeIdentity_canonical, !State.dropArea_canonical, !State.workDone_canonical,
    !State.seedDone_canonical, !canonical_foldl, memoryCanonical]

theorem State.dropQueued_canonical {s : State} (h : memoryCanonical s) (x : Nat) : memoryCanonical (s.dropQueued x) := by
  unfold State.dropQueued
  grind [!State.setRegion_canonical, !canonical_foldl, memoryCanonical]

/-! ### Machine/Moves.lean -/

theorem v2sEff_canonical {s : State} (h : memoryCanonical s) (x : Iss) : Res.canonical (v2sEff x s) := by
  unfold v2sEff
  grind [!Iss.withWarp_canonical, memoryCanonical, Res.canonical]

theorem lxchEff_canonical {s : State} (h : memoryCanonical s) (x : Iss) : Res.canonical (lxchEff x s) := by
  unfold lxchEff
  grind [!Iss.withWarp_canonical, memoryCanonical, Res.canonical]

theorem srrEff_canonical {s : State} (h : memoryCanonical s) (x : Iss) : Res.canonical (srrEff x s) := by
  unfold srrEff
  grind [!Iss.withWarp_canonical, !State.tscbAcquire_canonical, memoryCanonical, Res.canonical]

theorem srwEff_canonical {s : State} (h : memoryCanonical s) (x : Iss) : Res.canonical (srwEff x s) := by
  unfold srwEff
  grind [!Iss.withWarp_canonical, memoryCanonical, Res.canonical]

/-! ### Machine/Registers.lean -/

theorem State.corrupt_canonical {s : State} (h : memoryCanonical s) (m : Nat) (rest : List Nat) : memoryCanonical (s.corrupt m rest) := by
  fun_induction State.corrupt s m rest <;> grind [!State.setModule_canonical, !State.takeFree_canonical, memoryCanonical]

theorem State.writeMailbox_canonical {s : State} (h : memoryCanonical s) (m off size : Nat) (v : DWord) :
    memoryCanonical (s.writeMailbox m off size v) := by
  unfold State.writeMailbox
  grind [!State.setModule_canonical, !State.corrupt_canonical, !canonical_foldl, memoryCanonical]

theorem State.writeQctl_canonical {s : State} (h : memoryCanonical s) (q w : Nat) : memoryCanonical (s.writeQctl q w) := by
  unfold State.writeQctl
  grind [!State.enableQueue_canonical, !State.haltQueue_canonical, !State.clearQueue_canonical, memoryCanonical]

theorem State.writeQueuePage_canonical {s : State} (h : memoryCanonical s) (q off size : Nat) (v : DWord) :
    memoryCanonical (s.writeQueuePage q off size v) := by
  unfold State.writeQueuePage
  grind [!State.setQueue_canonical, !State.ringTail_canonical, !State.writeQctl_canonical, memoryCanonical]

theorem State.spreadQfunc_canonical {s : State} (h : memoryCanonical s) (m : Nat) : memoryCanonical (s.spreadQfunc m) := by
  unfold State.spreadQfunc
  grind [!State.setQueue_canonical, !canonical_foldl, memoryCanonical]

theorem State.writeModuleBlock_canonical {s : State} (h : memoryCanonical s) (m off size : Nat) (v : DWord) :
    memoryCanonical (s.writeModuleBlock m off size v) := by
  unfold State.writeModuleBlock
  grind [!State.setModule_canonical, !State.spreadQfunc_canonical, memoryCanonical]

theorem State.writeCounter_canonical {s : State} (h : memoryCanonical s) (m off size : Nat) (v : DWord) :
    memoryCanonical (s.writeCounter m off size v) := by
  unfold State.writeCounter
  grind [!State.setModule_canonical, memoryCanonical]

theorem State.writeCtxBlock_canonical {s : State} (h : memoryCanonical s) (x off size : Nat) (v : DWord) :
    memoryCanonical (s.writeCtxBlock x off size v) := by
  unfold State.writeCtxBlock
  grind [!State.setCtx_canonical, !State.resolveFault_canonical, memoryCanonical]

theorem State.writePf_canonical {s : State} (h : memoryCanonical s) (m off size : Nat) (v : DWord) : memoryCanonical (s.writePf m off size v) := by
  unfold State.writePf
  grind [!State.writeMailbox_canonical, !State.writeQueuePage_canonical, !State.writeModuleBlock_canonical, !State.writeCounter_canonical,
    !State.writeCtxBlock_canonical, memoryCanonical]

theorem State.writeVf_canonical {s : State} (h : memoryCanonical s) (m f off size : Nat) (v : DWord) :
    memoryCanonical (s.writeVf m f off size v) := by
  unfold State.writeVf
  repeat' split
  all_goals grind [!State.writeQueuePage_canonical, !State.writeCtxBlock_canonical]

theorem State.writePhy_canonical {s : State} (h : memoryCanonical s) (m n off size : Nat) (v : DWord) :
    memoryCanonical (s.writePhy m n off size v) := by
  unfold State.writePhy
  grind [!State.setPhy_canonical, !State.startTraining_canonical, !State.abortTraining_canonical, memoryCanonical]

theorem State.writeFabric_canonical {s : State} (h : memoryCanonical s) (m n off size : Nat) (v : DWord) :
    memoryCanonical (s.writeFabric m n off size v) := by
  unfold State.writeFabric
  grind [!State.setFabric_canonical, !State.linkOff_canonical, !State.linkOn_canonical, memoryCanonical]

theorem State.writeControl_canonical {s : State} (h : memoryCanonical s) (m a size : Nat) (v : DWord) :
    memoryCanonical (s.writeControl m a size v) := by
  unfold State.writeControl
  grind [!State.writePhy_canonical, !State.writeFabric_canonical, memoryCanonical]

/-! ### Machine/Spdm.lean -/

theorem State.spdmAnswer_canonical {s : State} (h : memoryCanonical s) (r : SpdmReply) : memoryCanonical (s.spdmAnswer r) := by
  unfold State.spdmAnswer
  grind [!State.setModule_canonical, !State.reply_canonical, memoryCanonical]

/-! ### Machine/Agenda.lean -/

theorem State.fetchPark_canonical {s : State} (h : memoryCanonical s) (c slot idx va kind level : Nat) :
    memoryCanonical (s.fetchPark c slot idx va kind level) := by
  unfold State.fetchPark
  grind [!Out.finish_canonical, !State.pageFault_canonical, memoryCanonical]

theorem State.fetchTrap_canonical {s : State} (h : memoryCanonical s) (c slot idx va kind level : Nat) :
    memoryCanonical (s.fetchTrap c slot idx va kind level) := by
  unfold State.fetchTrap
  grind [!State.raise_canonical, memoryCanonical]

theorem State.planCore_canonical {s : State} (h : memoryCanonical s) (c : Nat) : Plan.canonical (s.planCore c) := by
  unfold State.planCore
  split
  · exact h
  split
  · exact h
  split
  · exact State.tickCore_canonical h c
  next slot _ _ =>
  split
  · exact State.tickCore_canonical h c
  next e _ =>
  have hfe := State.fetch_canonical h c (s.ctxOf c slot) e.pc.toNat (s.warp c slot).privileged
  split <;> rename_i hr <;> rw [hr] at hfe
  · exact hfe
  · exact State.fetchPark_canonical hfe _ _ _ _ _ _
  · exact State.fetchTrap_canonical hfe _ _ _ _ _ _

theorem State.planQueue_canonical {s : State} (h : memoryCanonical s) (q : Nat) : Plan.canonical (s.planQueue q) := by
  unfold State.planQueue
  grind [memoryCanonical, Plan.canonical]

theorem State.ownPlan_canonical {s : State} (h : memoryCanonical s) : Plan.canonical (s.ownPlan) := by
  unfold State.ownPlan
  grind [!State.tickCore_canonical, !State.planCore_canonical, memoryCanonical, Plan.canonical]

theorem State.plan_canonical {s : State} (h : memoryCanonical s) : Plan.canonical (s.plan) := by
  unfold State.plan
  grind [!State.planCore_canonical, !State.planQueue_canonical, !State.ownPlan_canonical, memoryCanonical, Plan.canonical]

end Sys2Proof.Machine
end

section
/-! SUPPORT. The form of memory is kept: core instructions and the steps of warps and floods. -/

namespace Sys2Proof.Machine

open Safety

-- Every lemma here cites those before it: one after another, none holds a thread to wait for them.
set_option Elab.async false

/-! ### Instructions

An instruction, an event or a command leaves a next state whose memory is in its canonical form. -/

/-- The next state, where there is one. -/
def outcomeCanonical : Host.Outcome State Fault Refusal → Prop
  | .next t => memoryCanonical t
  | .fault _ => True
  | .refused _ => True

theorem runCore_canonical {s : State} (h : memoryCanonical s) (i : Instr) {eff : Iss → State → Res}
    (heff : ∀ x t, memoryCanonical t → Res.canonical (eff x t)) : outcomeCanonical (runCore i eff s) := by
  unfold runCore
  split
  · exact Iss.run_canonical h _ eff heff
  · trivial

theorem runQueue_canonical {s : State} (h : memoryCanonical s) {eff : (q : Nat) → State → State}
    (heff : ∀ q t, memoryCanonical t → memoryCanonical (eff q t)) : outcomeCanonical (runQueue s eff) := by
  unfold runQueue
  split
  · exact heff _ _ h
  · trivial

theorem State.command_canonical {s : State} (h : memoryCanonical s) (name : String) (code : Nat) (safe : Bool)
    {eff : (m : Nat) → (req : List Byte) → State → State} (heff : ∀ m req t, memoryCanonical t → memoryCanonical (eff m req t)) :
    outcomeCanonical (s.command name code safe eff) := by
  unfold State.command
  dsimp only
  split
  · trivial
  split
  · exact State.reply_canonical h _ _ _
  split
  · exact State.reply_canonical h _ _ _
  split
  · exact State.reply_canonical h _ _ _
  · exact heff _ _ _ h

theorem State.spdm_canonical {s : State} (h : memoryCanonical s) (name : String) (code : Nat) (turn : Spdm → Bool)
    (answer : (conn : Spdm) → (certificate msg : List Byte) → SpdmReply) : outcomeCanonical (s.spdm name code turn answer) := by
  have ha := fun r => State.spdmAnswer_canonical h r
  unfold State.spdm
  grind [outcomeCanonical]

theorem State.process_canonical {s : State} (h : memoryCanonical s) (name : String) (type : Nat)
    {start : (q x : Nat) → Packet → State → Started} (hstart : ∀ q x p t, memoryCanonical t → Started.canonical (start q x p t)) :
    outcomeCanonical (s.process name type start) := by
  unfold State.process
  dsimp only
  have hhead := State.headPacket_canonical h s.args.queue
  split
  next p t e =>
    rw [e] at hhead
    have hpub := State.publish_canonical hhead s.args.queue p
    split
    · trivial
    split
    · trivial
    next t' e' =>
    rw [e'] at hpub
    split
    · split
      · exact hpub
      · trivial
    split
    · exact State.stopQueue_canonical hpub _ _ _ _
    have hst := hstart s.args.queue (t'.queueCtx s.args.queue) p t' hpub
    split <;> rename_i e2
    · rw [e2] at hst; exact State.packetDone_canonical hst _
    · rw [e2] at hst
      split
      · exact State.setQueue_canonical hst _ _
      · trivial
    · rw [e2] at hst; exact State.stopQueue_canonical hst _ _ _ _
    · rw [e2] at hst; exact State.stopQueue_canonical hst _ _ _ _
    · split
      · exact hpub
      · trivial
  · trivial

/-! ### Machine/Loads.lean -/

theorem execLd_canonical {s : State} (h : memoryCanonical s) (f : Form64) : outcomeCanonical (execLd f s) := by
  unfold execLd
  refine runCore_canonical h _ (fun x s hs => ?_)
  grind [!Iss.reachPlain_canonical, !Iss.memory_canonical, !Iss.loadEff_canonical, memoryCanonical, Res.canonical]

theorem execSt_canonical {s : State} (h : memoryCanonical s) (f : Form64) : outcomeCanonical (execSt f s) := by
  unfold execSt
  refine runCore_canonical h _ (fun x s hs => ?_)
  grind [!Iss.reachPlain_canonical, !Iss.memory_canonical, !Iss.storeEff_canonical, memoryCanonical, Res.canonical]

theorem execLdx_canonical {s : State} (h : memoryCanonical s) (f : Form64) : outcomeCanonical (execLdx f s) := by
  unfold execLdx
  refine runCore_canonical h _ (fun x s hs => ?_)
  grind [!Iss.memory_canonical, !Iss.reachMap_canonical, !Iss.mapped_canonical, !Iss.loadMapped_canonical, memoryCanonical, Res.canonical]

theorem execStx_canonical {s : State} (h : memoryCanonical s) (f : Form64) : outcomeCanonical (execStx f s) := by
  unfold execStx
  refine runCore_canonical h _ (fun x s hs => Iss.mapped_canonical hs ?_ x)
  refine Iss.memory_canonical hs _ _ _ (fun w t z ht => Iss.reachMap_canonical ht x _ w z) _ (fun oks t ht => ?_)
  split
  · exact ht
  · refine Iss.releaseAt_canonical ht _ _ _ _ _ (fun t ht => Iss.storeDone_canonical ?_ _ _)
    exact foldl_keeps (fun r : State × List (Nat × Nat × Nat) => memoryCanonical r.1) _
      (fun r a hr => State.storeEach_canonical hr _ _ _ _ _ _ _ _ _ _) _ _ (State.clearFence_canonical ht _ _ _ _)

/-! ### Machine/Atomics.lean -/

theorem execAtom_canonical {s : State} (h : memoryCanonical s) (f : Form64) : outcomeCanonical (execAtom f s) := by
  unfold execAtom
  refine runCore_canonical h _ (fun x s hs => ?_)
  grind [!Iss.memory_canonical, !Iss.reachRmw_canonical, !Iss.rmwEff_canonical, memoryCanonical, Res.canonical]

theorem execAtomc_canonical {s : State} (h : memoryCanonical s) (f : Form64) : outcomeCanonical (execAtomc f s) := by
  unfold execAtomc
  refine runCore_canonical h _ (fun x s hs => ?_)
  grind [!Iss.memory_canonical, !Iss.reachRmw_canonical, !Iss.rmwEff_canonical, memoryCanonical, Res.canonical]

theorem execClaim_canonical {s : State} (h : memoryCanonical s) (f : Form64) : outcomeCanonical (execClaim f s) := by
  unfold execClaim
  refine runCore_canonical h _ (fun x s hs => ?_)
  grind [!Iss.memory_canonical, !Iss.reachRmw_canonical, !Iss.rmwEff_canonical, memoryCanonical, Res.canonical]

theorem execRed_canonical {s : State} (h : memoryCanonical s) (f : Form64) : outcomeCanonical (execRed f s) := by
  unfold execRed
  refine runCore_canonical h _ (fun x s hs => ?_)
  grind [!Iss.memory_canonical, !Iss.reachRmw_canonical, !Iss.redEff_canonical, memoryCanonical, Res.canonical]

/-! ### Machine/Arrivals.lean -/

theorem execValueArrival_canonical {s : State} (h : memoryCanonical s) : outcomeCanonical (execValueArrival s) := by
  unfold execValueArrival
  grind [!State.setWarp_canonical, !State.settleEach_canonical, !State.packetLane_canonical, outcomeCanonical, memoryCanonical]

theorem execRemoteRequest_canonical {s : State} (h : memoryCanonical s) : outcomeCanonical (execRemoteRequest s) := by
  unfold execRemoteRequest
  grind [!State.requestEach_canonical, outcomeCanonical, memoryCanonical]

theorem execForwardResponse_canonical {s : State} (h : memoryCanonical s) : outcomeCanonical (execForwardResponse s) := by
  unfold execForwardResponse
  grind [!State.forwardEach_canonical, outcomeCanonical, memoryCanonical]

theorem execTargetFaultPark_canonical {s : State} (h : memoryCanonical s) : outcomeCanonical (execTargetFaultPark s) := by
  unfold execTargetFaultPark
  grind [!State.setWarp_canonical, !State.postFault_canonical, !State.parkTarget_canonical, outcomeCanonical, memoryCanonical]

theorem execDirtyWriteBack_canonical {s : State} (h : memoryCanonical s) : outcomeCanonical (execDirtyWriteBack s) := by
  unfold execDirtyWriteBack
  grind [!State.flushMapped_canonical, !writeBackSector_canonical, outcomeCanonical, memoryCanonical]

/-! ### Machine/Control.lean -/

theorem execBra_canonical {s : State} (h : memoryCanonical s) (f : Form64) : outcomeCanonical (execBra f s) := by
  unfold execBra
  refine runCore_canonical h _ (fun x s hs => ?_)
  grind [!transfer_canonical, memoryCanonical, Res.canonical]

theorem execBrx_canonical {s : State} (h : memoryCanonical s) (f : Form64) : outcomeCanonical (execBrx f s) := by
  unfold execBrx
  refine runCore_canonical h _ (fun x s hs => ?_)
  cases hb : x.badTargets s with
  | none => exact transfer_canonical hs _ _
  | some r => exact Iss.badTargets_canonical hs x r hb

theorem execCall_canonical {s : State} (h : memoryCanonical s) (f : Form64) : outcomeCanonical (execCall f s) := by
  unfold execCall
  refine runCore_canonical h _ (fun x s hs => ?_)
  grind [!callTo_canonical, memoryCanonical, Res.canonical]

theorem execCallx_canonical {s : State} (h : memoryCanonical s) (f : Form64) : outcomeCanonical (execCallx f s) := by
  unfold execCallx
  refine runCore_canonical h _ (fun x s hs => ?_)
  cases hb : x.badTargets s with
  | none => exact callTo_canonical hs _ _
  | some r => exact Iss.badTargets_canonical hs x r hb

theorem execRet_canonical {s : State} (h : memoryCanonical s) (f : Form64) : outcomeCanonical (execRet f s) := by
  unfold execRet
  refine runCore_canonical h _ (fun x s hs => ?_)
  grind [!retEff_canonical, memoryCanonical, Res.canonical]

theorem execReconv_canonical {s : State} (h : memoryCanonical s) (f : Form64) : outcomeCanonical (execReconv f s) := by
  unfold execReconv
  refine runCore_canonical h _ (fun x s hs => ?_)
  grind [!Iss.waitAt_canonical, memoryCanonical, Res.canonical]

theorem execReconvRelease_canonical {s : State} (h : memoryCanonical s) : outcomeCanonical (execReconvRelease s) := by
  unfold execReconvRelease
  grind [!State.setWarp_canonical, outcomeCanonical, memoryCanonical]

theorem execHeldSplit_canonical {s : State} (h : memoryCanonical s) : outcomeCanonical (execHeldSplit s) := by
  unfold execHeldSplit
  grind [!State.setWarp_canonical, outcomeCanonical, memoryCanonical]

theorem execAgePromotion_canonical {s : State} (h : memoryCanonical s) : outcomeCanonical (execAgePromotion s) := by
  unfold execAgePromotion
  grind [!State.setWarp_canonical, outcomeCanonical, memoryCanonical]

theorem execYield_canonical {s : State} (h : memoryCanonical s) (f : Form64) : outcomeCanonical (execYield f s) := by
  unfold execYield
  refine runCore_canonical h _ (fun x s hs => ?_)
  grind [!State.setWarp_canonical, memoryCanonical, Res.canonical]

theorem execPrio_canonical {s : State} (h : memoryCanonical s) (f : Form64) : outcomeCanonical (execPrio f s) := by
  unfold execPrio
  refine runCore_canonical h _ (fun x s hs => ?_)
  grind [!State.setWarp_canonical, memoryCanonical, Res.canonical]

theorem execLoop_canonical {s : State} (h : memoryCanonical s) (f : Form64) : outcomeCanonical (execLoop f s) := by
  unfold execLoop
  refine runCore_canonical h _ (fun x s hs => ?_)
  grind [!Iss.withWarp_canonical, memoryCanonical, Res.canonical]

theorem execNop_canonical {s : State} (h : memoryCanonical s) (f : Form64) : outcomeCanonical (execNop f s) := by
  unfold execNop
  refine runCore_canonical h _ (fun x s hs => ?_)
  grind [memoryCanonical, Res.canonical]

theorem execExit_canonical {s : State} (h : memoryCanonical s) (f : Form64) : outcomeCanonical (execExit f s) := by
  unfold execExit
  refine runCore_canonical h _ (fun x s hs => ?_)
  grind [!State.exitLanes_canonical, memoryCanonical, Res.canonical]

/-! ### Machine/Waits.lean -/

theorem execWaitv_canonical {s : State} (h : memoryCanonical s) (f : Form64) : outcomeCanonical (execWaitv f s) := by
  unfold execWaitv
  refine runCore_canonical h _ (fun x s hs => ?_)
  grind [!Iss.reachPlain_canonical, !Iss.memory_canonical, !Iss.waitvEff_canonical, memoryCanonical, Res.canonical]

theorem execWaitRecheck_canonical {s : State} (h : memoryCanonical s) : outcomeCanonical (execWaitRecheck s) := by
  unfold execWaitRecheck
  grind [!State.recheck_canonical, outcomeCanonical, memoryCanonical]

theorem execLmon_canonical {s : State} (h : memoryCanonical s) (f : Form64) : outcomeCanonical (execLmon f s) := by
  unfold execLmon
  refine runCore_canonical h _ (fun x s hs => ?_)
  grind [!Iss.reachPlain_canonical, !Iss.memory_canonical, !Iss.lmonEff_canonical, memoryCanonical, Res.canonical]

theorem execLmwait_canonical {s : State} (h : memoryCanonical s) (f : Form64) : outcomeCanonical (execLmwait f s) := by
  unfold execLmwait
  refine runCore_canonical h _ (fun x s hs => ?_)
  grind [!State.setWarp_canonical, !Iss.closed_canonical, !Iss.entryWait_canonical, memoryCanonical, Res.canonical]

theorem execMonitorFire_canonical {s : State} (h : memoryCanonical s) : outcomeCanonical (execMonitorFire s) := by
  unfold execMonitorFire
  grind [!State.setWarp_canonical, !State.endMonitor_canonical, outcomeCanonical, memoryCanonical]

theorem execLmwaitTimeout_canonical {s : State} (h : memoryCanonical s) : outcomeCanonical (execLmwaitTimeout s) := by
  unfold execLmwaitTimeout
  grind [!State.setWarp_canonical, !State.endWaits_canonical, outcomeCanonical, memoryCanonical]

theorem execFence_canonical {s : State} (h : memoryCanonical s) (f : Form64) : outcomeCanonical (execFence f s) := by
  unfold execFence
  refine runCore_canonical h _ (fun x s hs => ?_)
  grind [!Iss.closed_canonical, !Iss.fenceEff_canonical, memoryCanonical, Res.canonical]

theorem execBarInit_canonical {s : State} (h : memoryCanonical s) (f : Form64) : outcomeCanonical (execBarInit f s) := by
  unfold execBarInit
  refine runCore_canonical h _ (fun x s hs => ?_)
  grind [!State.setGroup_canonical, !Iss.trap_canonical, !State.putBar_canonical, !State.wakeBarrier_canonical, !Iss.barrier_canonical,
    memoryCanonical, Res.canonical]

theorem execBarExp_canonical {s : State} (h : memoryCanonical s) (f : Form64) : outcomeCanonical (execBarExp f s) := by
  unfold execBarExp
  refine runCore_canonical h _ (fun x s hs => ?_)
  grind [!Iss.trap_canonical, !State.putBar_canonical, !Iss.barrier_canonical, memoryCanonical, Res.canonical]

theorem execBarArv_canonical {s : State} (h : memoryCanonical s) (f : Form64) : outcomeCanonical (execBarArv f s) := by
  unfold execBarArv
  refine runCore_canonical h _ (fun x s hs => ?_)
  grind [!Iss.release_canonical, !State.putBar_canonical, !State.flipTest_canonical, !Iss.barrier_canonical, memoryCanonical, Res.canonical]

theorem execBarWait_canonical {s : State} (h : memoryCanonical s) (f : Form64) : outcomeCanonical (execBarWait f s) := by
  unfold execBarWait
  refine runCore_canonical h _ (fun x s hs => ?_)
  grind [!Iss.entryWait_canonical, !State.putBar_canonical, !Iss.barrier_canonical, !State.barAcquire_canonical, memoryCanonical, Res.canonical]

theorem execBarTest_canonical {s : State} (h : memoryCanonical s) (f : Form64) : outcomeCanonical (execBarTest f s) := by
  unfold execBarTest
  refine runCore_canonical h _ (fun x s hs => ?_)
  grind [!State.setWarp_canonical, !Iss.barrier_canonical, !State.barAcquire_canonical, memoryCanonical, Res.canonical]

/-! ### Machine/Transactions.lean -/

theorem execTxb_canonical {s : State} (h : memoryCanonical s) (f : Form64) : outcomeCanonical (execTxb f s) := by
  unfold execTxb
  refine runCore_canonical h _ (fun x s hs => ?_)
  grind [!Iss.abortOpen_canonical, !Iss.txb_canonical, memoryCanonical, Res.canonical]

theorem execTxe_canonical {s : State} (h : memoryCanonical s) (f : Form64) : outcomeCanonical (execTxe f s) := by
  unfold execTxe
  refine runCore_canonical h _ (fun x s hs => ?_)
  grind [!State.setWarp_canonical, !State.drain_canonical, !State.commitEach_canonical, memoryCanonical, Res.canonical]

theorem execTxa_canonical {s : State} (h : memoryCanonical s) (f : Form64) : outcomeCanonical (execTxa f s) := by
  unfold execTxa
  refine runCore_canonical h _ (fun x s hs => ?_)
  grind [!State.abortLanes_canonical, memoryCanonical, Res.canonical]

theorem execTxValidateCheck_canonical {s : State} (h : memoryCanonical s) : outcomeCanonical (execTxValidateCheck s) := by
  unfold execTxValidateCheck
  grind [!State.setWarp_canonical, !State.abortLane_canonical, !State.moveLane_canonical, !State.readsHold_canonical, outcomeCanonical,
    memoryCanonical]

theorem execTokenGrant_canonical {s : State} (h : memoryCanonical s) : outcomeCanonical (execTokenGrant s) := by
  unfold execTokenGrant
  grind [!State.setModule_canonical, !State.setWarp_canonical, outcomeCanonical, memoryCanonical]

theorem execTokenTimeout_canonical {s : State} (h : memoryCanonical s) : outcomeCanonical (execTokenTimeout s) := by
  unfold execTokenTimeout
  dsimp only
  repeat' split
  all_goals grind [!State.abortLane_canonical, !State.moveLane_canonical, outcomeCanonical, memoryCanonical]

/-! ### Machine/System.lean -/

theorem execSyscall_canonical {s : State} (h : memoryCanonical s) (f : Form64) : outcomeCanonical (execSyscall f s) := by
  unfold execSyscall
  refine runCore_canonical h _ (fun x s hs => ?_)
  grind [!trapInstr_canonical, memoryCanonical, Res.canonical]

theorem execTrap_canonical {s : State} (h : memoryCanonical s) (f : Form64) : outcomeCanonical (execTrap f s) := by
  unfold execTrap
  refine runCore_canonical h _ (fun x s hs => ?_)
  grind [!trapInstr_canonical, memoryCanonical, Res.canonical]

theorem execBpt_canonical {s : State} (h : memoryCanonical s) (f : Form64) : outcomeCanonical (execBpt f s) := by
  unfold execBpt
  refine runCore_canonical h _ (fun x s hs => ?_)
  grind [!trapInstr_canonical, memoryCanonical, Res.canonical]

theorem execEret_canonical {s : State} (h : memoryCanonical s) (f : Form64) : outcomeCanonical (execEret f s) := by
  unfold execEret
  refine runCore_canonical h _ (fun x s hs => ?_)
  grind [!State.completeLanes_canonical, !State.returnTrap_canonical, !Iss.waitAt_canonical, memoryCanonical, Res.canonical]

theorem execTlbi_canonical {s : State} (h : memoryCanonical s) (f : Form64) : outcomeCanonical (execTlbi f s) := by
  unfold execTlbi
  refine runCore_canonical h _ (fun x s hs => ?_)
  grind [!State.setWarp_canonical, !Iss.trap_canonical, !Iss.closed_canonical, !Iss.release_canonical, !Iss.entryWait_canonical,
    !State.tlbi_canonical, !State.drainIn_canonical, memoryCanonical, Res.canonical]

theorem execIllegalOpcode_canonical {s : State} (h : memoryCanonical s) (len : Nat) (word : DWord) :
    outcomeCanonical (execIllegalOpcode len word s) := by
  unfold execIllegalOpcode
  grind [!State.raise_canonical, outcomeCanonical, memoryCanonical]

theorem execTrapEntry_canonical {s : State} (h : memoryCanonical s) : outcomeCanonical (execTrapEntry s) := by
  unfold execTrapEntry
  grind [!State.takePending_canonical, outcomeCanonical, memoryCanonical]

/-! ### Machine/Floods.lean -/

theorem execFloodMessageArrive_canonical {s : State} (h : memoryCanonical s) : outcomeCanonical (execFloodMessageArrive s) := by
  unfold execFloodMessageArrive
  grind [!spillFree_canonical, !State.takeNet_canonical, !State.setWaitList_canonical, outcomeCanonical, memoryCanonical]

theorem execCairnOpen_canonical {s : State} (h : memoryCanonical s) : outcomeCanonical (execCairnOpen s) := by
  unfold execCairnOpen
  grind [!State.setCairn_canonical, !State.openCairn_canonical, !State.setWaitList_canonical, outcomeCanonical, memoryCanonical]

theorem execMapReread_canonical {s : State} (h : memoryCanonical s) : outcomeCanonical (execMapReread s) := by
  unfold execMapReread
  split <;> grind [!State.mapEntry_canonical, !State.openCairn_canonical, outcomeCanonical, memoryCanonical]

theorem execClauseDispatch_canonical {s : State} (h : memoryCanonical s) : outcomeCanonical (execClauseDispatch s) := by
  unfold execClauseDispatch
  grind [!State.setCairn_canonical, !State.touchBlocks_canonical, !State.gather_canonical, !State.accept_canonical, outcomeCanonical, memoryCanonical]

theorem execGatherTimeoutClose_canonical {s : State} (h : memoryCanonical s) : outcomeCanonical (execGatherTimeoutClose s) := by
  unfold execGatherTimeoutClose
  grind [!State.closeWarp_canonical, outcomeCanonical, memoryCanonical]

theorem execSpillClauseDrain_canonical {s : State} (h : memoryCanonical s) : outcomeCanonical (execSpillClauseDrain s) := by
  unfold execSpillClauseDrain
  grind [!State.setRegion_canonical, !homeRead_canonical, !State.gather_canonical, outcomeCanonical, memoryCanonical]

theorem execCairnEcho_canonical {s : State} (h : memoryCanonical s) : outcomeCanonical (execCairnEcho s) := by
  unfold execCairnEcho
  grind [!State.setCairn_canonical, !State.complete_canonical, outcomeCanonical, memoryCanonical]

theorem execCairnFree_canonical {s : State} (h : memoryCanonical s) : outcomeCanonical (execCairnFree s) := by
  unfold execCairnFree
  grind [!State.setCairn_canonical, outcomeCanonical, memoryCanonical]

theorem execSilenceExpire_canonical {s : State} (h : memoryCanonical s) : outcomeCanonical (execSilenceExpire s) := by
  unfold execSilenceExpire
  grind [!State.markSilent_canonical, outcomeCanonical, memoryCanonical]

theorem execEchoArrive_canonical {s : State} (h : memoryCanonical s) : outcomeCanonical (execEchoArrive s) := by
  unfold execEchoArrive
  grind [!State.setCairn_canonical, !State.spillBelay_canonical, !State.takeNet_canonical, !State.lateEcho_canonical, !State.markSilent_canonical,
    outcomeCanonical, memoryCanonical]

theorem execCancelArrive_canonical {s : State} (h : memoryCanonical s) : outcomeCanonical (execCancelArrive s) := by
  unfold execCancelArrive
  grind [!State.takeNet_canonical, !State.setWaitList_canonical, !State.cancelCairn_canonical, outcomeCanonical, memoryCanonical]

/-! ### Machine/FloodInstr.lean -/

theorem execFlood_canonical {s : State} (h : memoryCanonical s) (f : Form64) : outcomeCanonical (execFlood f s) := by
  unfold execFlood
  refine runCore_canonical h _ (fun x s hs => ?_)
  grind [!Iss.closed_canonical, !Iss.floodEff_canonical, memoryCanonical, Res.canonical]

theorem execEcho_canonical {s : State} (h : memoryCanonical s) (f : Form64) : outcomeCanonical (execEcho f s) := by
  unfold execEcho
  refine runCore_canonical h _ (fun x s hs => ?_)
  grind [!Iss.closed_canonical, !Iss.echoEff_canonical, memoryCanonical, Res.canonical]

theorem execWaitf_canonical {s : State} (h : memoryCanonical s) (f : Form64) : outcomeCanonical (execWaitf f s) := by
  unfold execWaitf
  refine runCore_canonical h _ (fun x s hs => ?_)
  grind [!Iss.closed_canonical, !Iss.waitfEff_canonical, memoryCanonical, Res.canonical]

theorem execTestf_canonical {s : State} (h : memoryCanonical s) (f : Form64) : outcomeCanonical (execTestf f s) := by
  unfold execTestf
  refine runCore_canonical h _ (fun x s hs => ?_)
  grind [!Iss.trap_canonical, !Iss.touchHandles_canonical, !Iss.testfEach_canonical, !Iss.launchRead_canonical, memoryCanonical, Res.canonical]

theorem execCancelf_canonical {s : State} (h : memoryCanonical s) (f : Form64) : outcomeCanonical (execCancelf f s) := by
  unfold execCancelf
  refine runCore_canonical h _ (fun x s hs => ?_)
  grind [!Iss.closed_canonical, !Iss.cancelfEff_canonical, memoryCanonical, Res.canonical]

theorem execFinfo_canonical {s : State} (h : memoryCanonical s) (f : Form64) : outcomeCanonical (execFinfo f s) := by
  unfold execFinfo
  refine runCore_canonical h _ (fun x s hs => ?_)
  grind [!Iss.trap_canonical, !Iss.withWarp_canonical, !Iss.touchHandles_canonical, !Iss.launchRead_canonical, memoryCanonical, Res.canonical]

theorem execClause_canonical {s : State} (h : memoryCanonical s) (f : Form64) : outcomeCanonical (execClause f s) := by
  unfold execClause
  refine runCore_canonical h _ (fun x s hs => ?_)
  grind [!Iss.closed_canonical, !Iss.clauseEff_canonical, memoryCanonical, Res.canonical]

end Sys2Proof.Machine
end

section
/-! SUPPORT. The form of memory is kept: instructions and steps of tiles, engines, groups and queues. -/

namespace Sys2Proof.Machine

open Safety

-- Every lemma here cites those before it: one after another, none holds a thread to wait for them.
set_option Elab.async false

/-! ### Machine/Tiles.lean -/

theorem execTres_canonical {s : State} (h : memoryCanonical s) (f : Form64) : outcomeCanonical (execTres f s) := by
  unfold execTres
  refine runCore_canonical h _ (fun x s hs => ?_)
  grind [!Iss.trap_canonical, !Iss.tileTurn_canonical, !Iss.reserve_canonical, !Iss.withRecord_canonical, memoryCanonical, Res.canonical]

theorem execTrel_canonical {s : State} (h : memoryCanonical s) (f : Form64) : outcomeCanonical (execTrel f s) := by
  unfold execTrel
  refine runCore_canonical h _ (fun x s hs => ?_)
  grind [!Iss.trap_canonical, !Iss.tileTurn_canonical, !Iss.withGroup_canonical, memoryCanonical, Res.canonical]

theorem execTld_canonical {s : State} (h : memoryCanonical s) (f : Form64) : outcomeCanonical (execTld f s) := by
  unfold execTld
  refine runCore_canonical h _ (fun x s hs => ?_)
  grind [!Iss.tileTurn_canonical, !Iss.command_canonical, !Iss.tileEff_canonical, memoryCanonical, Res.canonical]

theorem execTst_canonical {s : State} (h : memoryCanonical s) (f : Form64) : outcomeCanonical (execTst f s) := by
  unfold execTst
  refine runCore_canonical h _ (fun x s hs => ?_)
  grind [!Iss.tileTurn_canonical, !Iss.command_canonical, !Iss.tileEff_canonical, memoryCanonical, Res.canonical]

theorem execTwr_canonical {s : State} (h : memoryCanonical s) (f : Form64) : outcomeCanonical (execTwr f s) := by
  unfold execTwr
  refine runCore_canonical h _ (fun x s hs => ?_)
  grind [!State.healWords_canonical, !Iss.showEmpty_canonical, !Iss.trap_canonical, !Iss.tileTurn_canonical, !Iss.withGroup_canonical,
    !canonical_foldl, memoryCanonical, Res.canonical]

theorem execTrd_canonical {s : State} (h : memoryCanonical s) (f : Form64) : outcomeCanonical (execTrd f s) := by
  unfold execTrd
  refine runCore_canonical h _ (fun x s hs => ?_)
  grind [!State.meetErrors_canonical, !Iss.trap_canonical, !Iss.launchRead_canonical, !Iss.tileTurn_canonical, memoryCanonical, Res.canonical]

theorem execTileLanding_canonical {s : State} (h : memoryCanonical s) : outcomeCanonical (execTileLanding s) := by
  unfold execTileLanding
  grind [!State.land_canonical, outcomeCanonical, memoryCanonical]

/-! ### Machine/Engines.lean -/

theorem execCopy_canonical {s : State} (h : memoryCanonical s) (f : Form64) : outcomeCanonical (execCopy f s) := by
  unfold execCopy
  refine runCore_canonical h _ (fun x s hs => ?_)
  grind [!Iss.command_canonical, !State.acceptCmd_canonical, !Iss.withCommand_canonical, memoryCanonical, Res.canonical]

theorem execTxfer_canonical {s : State} (h : memoryCanonical s) (f : Form64) : outcomeCanonical (execTxfer f s) := by
  unfold execTxfer
  refine runCore_canonical h _ (fun x s hs => ?_)
  grind [!Iss.trap_canonical, !Iss.parkAll_canonical, !Iss.command_canonical, !State.acceptCmd_canonical, !Iss.withCommand_canonical,
    !Iss.withGroupRecord_canonical, !State.takeSeq_canonical, memoryCanonical, Res.canonical]

theorem execTrig_canonical {s : State} (h : memoryCanonical s) (f : Form64) : outcomeCanonical (execTrig f s) := by
  unfold execTrig
  refine runCore_canonical h _ (fun x s hs => ?_)
  grind [!Iss.waitEngine_canonical, !Iss.withGroup_canonical, !Iss.command_canonical, !Iss.withCommand_canonical, !Iss.withGroupRecord_canonical,
    memoryCanonical, Res.canonical]

theorem execScbset_canonical {s : State} (h : memoryCanonical s) (f : Form64) : outcomeCanonical (execScbset f s) := by
  unfold execScbset
  refine runCore_canonical h _ (fun x s hs => ?_)
  grind [!Iss.release_canonical, !State.setTscb_canonical, memoryCanonical, Res.canonical]

theorem execScbclr_canonical {s : State} (h : memoryCanonical s) (f : Form64) : outcomeCanonical (execScbclr f s) := by
  unfold execScbclr
  refine runCore_canonical h _ (fun x s hs => ?_)
  grind [!Iss.withGroup_canonical, memoryCanonical, Res.canonical]

theorem execEngineComplete_canonical {s : State} (h : memoryCanonical s) : outcomeCanonical (execEngineComplete s) := by
  unfold execEngineComplete
  dsimp only
  split <;> grind [!State.writeFolds_canonical, !State.workOf_canonical, !State.endCmd_canonical, outcomeCanonical, memoryCanonical, Work.canonical,
    optCanonical]

theorem execCollectiveReport_canonical {s : State} (h : memoryCanonical s) : outcomeCanonical (execCollectiveReport s) := by
  unfold execCollectiveReport
  grind [!State.putCmd_canonical, !State.decide_canonical, outcomeCanonical, memoryCanonical, optCanonical]

theorem execTrigFire_canonical {s : State} (h : memoryCanonical s) : outcomeCanonical (execTrigFire s) := by
  unfold execTrigFire
  grind [!State.applySig_canonical, !State.putGroupAt_canonical, !State.fire_canonical, !canonical_foldl, outcomeCanonical, memoryCanonical]

theorem execWaitWake_canonical {s : State} (h : memoryCanonical s) : outcomeCanonical (execWaitWake s) := by
  unfold execWaitWake
  grind [!State.endWaits_canonical, !State.recheck_canonical, !State.reissue_canonical, outcomeCanonical, memoryCanonical]

/-! ### Machine/Matrix.lean -/

theorem execMma_canonical {s : State} (h : memoryCanonical s) (f : Form64) : outcomeCanonical (execMma f s) := by
  unfold execMma
  refine runCore_canonical h _ (fun x s hs => ?_)
  grind [!proposeEff_canonical, memoryCanonical, Res.canonical]

theorem execMmaq_canonical {s : State} (h : memoryCanonical s) (f : Form64) : outcomeCanonical (execMmaq f s) := by
  unfold execMmaq
  refine runCore_canonical h _ (fun x s hs => ?_)
  grind [!proposeEff_canonical, memoryCanonical, Res.canonical]

theorem execMmas_canonical {s : State} (h : memoryCanonical s) (f : Form64) : outcomeCanonical (execMmas f s) := by
  unfold execMmas
  refine runCore_canonical h _ (fun x s hs => ?_)
  grind [!proposeEff_canonical, memoryCanonical, Res.canonical]

theorem execDmma_canonical {s : State} (h : memoryCanonical s) (f : Form64) : outcomeCanonical (execDmma f s) := by
  unfold execDmma
  refine runCore_canonical h _ (fun x s hs => ?_)
  grind [!proposeEff_canonical, memoryCanonical, Res.canonical]

theorem execMagree_canonical {s : State} (h : memoryCanonical s) (f : Form64) : outcomeCanonical (execMagree f s) := by
  unfold execMagree
  refine runCore_canonical h _ (fun x s hs => ?_)
  grind [!Iss.trap_canonical, !Iss.waitEngine_canonical, !Iss.putAgr_canonical, !canonical_foldl, memoryCanonical, Res.canonical]

theorem execMsign_canonical {s : State} (h : memoryCanonical s) (f : Form64) : outcomeCanonical (execMsign f s) := by
  unfold execMsign
  refine runCore_canonical h _ (fun x s hs => ?_)
  grind [!Iss.trap_canonical, !Iss.waitEngine_canonical, !Iss.putAgr_canonical, memoryCanonical, Res.canonical]

theorem execMatrixIssue_canonical {s : State} (h : memoryCanonical s) : outcomeCanonical (execMatrixIssue s) := by
  unfold execMatrixIssue
  grind [!State.setCore_canonical, !State.setGroup_canonical, !State.postFault_canonical, !State.endSigned_canonical, outcomeCanonical,
    memoryCanonical]

theorem execMatrixStep_canonical {s : State} (h : memoryCanonical s) : outcomeCanonical (execMatrixStep s) := by
  unfold execMatrixStep
  grind [!State.setCore_canonical, !State.setGroup_canonical, !State.matStep_canonical, !State.pumpAcc_canonical, outcomeCanonical, memoryCanonical]

theorem execAccz_canonical {s : State} (h : memoryCanonical s) (f : Form64) : outcomeCanonical (execAccz f s) := by
  unfold execAccz
  refine runCore_canonical h _ (fun x s hs => ?_)
  grind [!Iss.accWrite_canonical, memoryCanonical, Res.canonical]

theorem execAccwr_canonical {s : State} (h : memoryCanonical s) (f : Form64) : outcomeCanonical (execAccwr f s) := by
  unfold execAccwr
  refine runCore_canonical h _ (fun x s hs => ?_)
  grind [!Iss.accWrite_canonical, !canonical_foldl, memoryCanonical, Res.canonical]

theorem execAccscl_canonical {s : State} (h : memoryCanonical s) (f : Form64) : outcomeCanonical (execAccscl f s) := by
  unfold execAccscl
  refine runCore_canonical h _ (fun x s hs => ?_)
  grind [!Iss.accWrite_canonical, !canonical_foldl, memoryCanonical, Res.canonical]

theorem execAccrd_canonical {s : State} (h : memoryCanonical s) (f : Form64) : outcomeCanonical (execAccrd f s) := by
  unfold execAccrd
  refine runCore_canonical h _ (fun x s hs => ?_)
  grind [!Iss.accRead_canonical, memoryCanonical, Res.canonical]

theorem execAccrmax_canonical {s : State} (h : memoryCanonical s) (f : Form64) : outcomeCanonical (execAccrmax f s) := by
  unfold execAccrmax
  refine runCore_canonical h _ (fun x s hs => ?_)
  grind [!Iss.accRead_canonical, memoryCanonical, Res.canonical]

/-! ### Machine/Retire.lean -/

theorem execWarpRetire_canonical {s : State} (h : memoryCanonical s) : outcomeCanonical (execWarpRetire s) := by
  unfold execWarpRetire
  grind [!State.retireWarp_canonical, outcomeCanonical, memoryCanonical]

/-! ### Machine/Roles.lean -/

theorem execRole_canonical {s : State} (h : memoryCanonical s) (f : Form64) : outcomeCanonical (execRole f s) := by
  unfold execRole
  refine runCore_canonical h _ (fun x s hs => ?_)
  grind [!State.setWarp_canonical, !Iss.closed_canonical, !Iss.waitAt_canonical, !Iss.arrive_canonical, memoryCanonical, Res.canonical]

theorem execRoleSwitch_canonical {s : State} (h : memoryCanonical s) : outcomeCanonical (execRoleSwitch s) := by
  unfold execRoleSwitch
  grind [!State.switchRole_canonical, !State.refuseRole_canonical, outcomeCanonical, memoryCanonical]

/-! ### Machine/Placement.lean -/

theorem execGroupPlace_canonical {s : State} (h : memoryCanonical s) : outcomeCanonical (execGroupPlace s) := by
  unfold execGroupPlace
  grind [!State.setRegion_canonical, !State.touchFcb_canonical, !State.touchBlocks_canonical, !State.touchEntries_canonical,
    !State.refuseGroup_canonical, !State.placeGroup_canonical, outcomeCanonical, memoryCanonical]

/-! ### Machine/Saving.lean -/

theorem execLateReturn_canonical {s : State} (h : memoryCanonical s) : outcomeCanonical (execLateReturn s) := by
  unfold execLateReturn
  dsimp only
  split <;> grind [!State.setCore_canonical, !State.writePieces_canonical, !State.lateLane_canonical, outcomeCanonical, memoryCanonical]

theorem execGroupResume_canonical {s : State} (h : memoryCanonical s) : outcomeCanonical (execGroupResume s) := by
  unfold execGroupResume
  grind [!State.bringBack_canonical, outcomeCanonical, memoryCanonical]

theorem execWakeMessage_canonical {s : State} (h : memoryCanonical s) : outcomeCanonical (execWakeMessage s) := by
  unfold execWakeMessage
  grind [!State.bringBack_canonical, outcomeCanonical, memoryCanonical]

theorem execStoreAcknowledgement_canonical {s : State} (h : memoryCanonical s) : outcomeCanonical (execStoreAcknowledgement s) := by
  unfold execStoreAcknowledgement
  grind [!State.setWarp_canonical, !State.storeStep_canonical, !State.finishSave_canonical, outcomeCanonical, memoryCanonical]

theorem execPreemptRequest_canonical {s : State} (h : memoryCanonical s) : outcomeCanonical (execPreemptRequest s) := by
  unfold execPreemptRequest
  grind [!State.saveGroups_canonical, outcomeCanonical, memoryCanonical]

theorem execSliceExpire_canonical {s : State} (h : memoryCanonical s) : outcomeCanonical (execSliceExpire s) := by
  unfold execSliceExpire
  grind [!State.startSlice_canonical, !State.saveGroups_canonical, outcomeCanonical, memoryCanonical]

theorem execSwapOut_canonical {s : State} (h : memoryCanonical s) : outcomeCanonical (execSwapOut s) := by
  unfold execSwapOut
  grind [!State.saveGroup_canonical, outcomeCanonical, memoryCanonical]

/-! ### Machine/Queues.lean -/

theorem execQctlEnable_canonical {s : State} (h : memoryCanonical s) : outcomeCanonical (execQctlEnable s) := by
  unfold execQctlEnable
  grind [!State.enableQueue_canonical, outcomeCanonical, memoryCanonical]

theorem execQctlStop_canonical {s : State} (h : memoryCanonical s) : outcomeCanonical (execQctlStop s) := by
  unfold execQctlStop
  grind [!State.haltQueue_canonical, outcomeCanonical, memoryCanonical]

theorem execQctlClear_canonical {s : State} (h : memoryCanonical s) : outcomeCanonical (execQctlClear s) := by
  unfold execQctlClear
  grind [!State.clearQueue_canonical, outcomeCanonical, memoryCanonical]

theorem execTailDoorbell_canonical {s : State} (h : memoryCanonical s) : outcomeCanonical (execTailDoorbell s) := by
  unfold execTailDoorbell
  grind [!State.ringTail_canonical, outcomeCanonical, memoryCanonical]

theorem execSeedPacket_canonical {s : State} (h : memoryCanonical s) : outcomeCanonical (execSeedPacket s) := by
  unfold execSeedPacket
  refine State.process_canonical h _ _ (fun q x p s hs => ?_)
  grind [!State.seedCheck_canonical, !State.seedThread_canonical, memoryCanonical, Started.canonical]

theorem execCopyPacket_canonical {s : State} (h : memoryCanonical s) : outcomeCanonical (execCopyPacket s) := by
  unfold execCopyPacket
  refine State.process_canonical h _ _ (fun q x p s hs => ?_)
  grind [!State.queueRead_canonical, !Miss.started_canonical, !State.issueCmd_canonical, memoryCanonical, Started.canonical]

theorem execWaitPacket_canonical {s : State} (h : memoryCanonical s) : outcomeCanonical (execWaitPacket s) := by
  unfold execWaitPacket
  refine State.process_canonical h _ _ (fun q x p s hs => ?_)
  grind [!State.queueRead_canonical, !State.queueAcquire_canonical, !Miss.started_canonical, memoryCanonical, Started.canonical]

theorem execSignalPacket_canonical {s : State} (h : memoryCanonical s) : outcomeCanonical (execSignalPacket s) := by
  unfold execSignalPacket
  refine State.process_canonical h _ _ (fun q x p s hs => ?_)
  grind [!State.queueRelease_canonical, memoryCanonical, QWrite.canonical, Started.canonical]

theorem execFencePacket_canonical {s : State} (h : memoryCanonical s) : outcomeCanonical (execFencePacket s) := by
  unfold execFencePacket
  dsimp only
  split
  · exact State.endFence_canonical h _
  · refine State.process_canonical h _ _ (fun q x p s hs => ?_)
    grind [!State.setQueue_canonical, Started.canonical]

theorem execCancelPacket_canonical {s : State} (h : memoryCanonical s) : outcomeCanonical (execCancelPacket s) := by
  unfold execCancelPacket
  refine State.process_canonical h _ _ (fun q x p s hs => ?_)
  grind [memoryCanonical, Started.canonical]

theorem execInvalidPacketType_canonical {s : State} (h : memoryCanonical s) : outcomeCanonical (execInvalidPacketType s) := by
  unfold execInvalidPacketType
  grind [!State.stopQueue_canonical, !State.headPacket_canonical, !State.publish_canonical, outcomeCanonical, memoryCanonical, Head.canonical,
    optCanonical]

theorem execQwait_canonical {s : State} (h : memoryCanonical s) (f : FormR) : outcomeCanonical (execQwait f s) := by
  unfold execQwait
  refine runQueue_canonical h (fun q s hs => ?_)
  grind [!State.queueRead_canonical, !State.queueAcquire_canonical, !State.queueTrap_canonical, !State.queueNext_canonical,
    !State.queueStall_canonical, !Miss.vendor_canonical, memoryCanonical]

theorem execQseed_canonical {s : State} (h : memoryCanonical s) (f : FormR) : outcomeCanonical (execQseed f s) := by
  unfold execQseed
  refine runQueue_canonical h (fun q s hs => ?_)
  grind [!State.setQueue_canonical, !State.queueRead_canonical, !State.seedCheck_canonical, !State.seedThread_canonical, !State.queueTrap_canonical,
    !State.queueNext_canonical, !Miss.vendor_canonical, memoryCanonical]

theorem execQeng_canonical {s : State} (h : memoryCanonical s) (f : FormR) : outcomeCanonical (execQeng f s) := by
  unfold execQeng
  refine runQueue_canonical h (fun q s hs => ?_)
  grind [!State.issueCmd_canonical, !State.queueTrap_canonical, !State.queueNext_canonical, !State.vendorRead_canonical, !State.vendorTxfer_canonical,
    memoryCanonical]

theorem execQfence_canonical {s : State} (h : memoryCanonical s) (f : FormR) : outcomeCanonical (execQfence f s) := by
  unfold execQfence
  refine runQueue_canonical h (fun q s hs => ?_)
  grind [!State.setQueue_canonical, !State.queueTrap_canonical, !State.queueNext_canonical, memoryCanonical]

theorem execIllegalInstructionException_canonical {s : State} (h : memoryCanonical s) (word : Word) :
    outcomeCanonical (execIllegalInstructionException word s) := by
  unfold execIllegalInstructionException
  refine runQueue_canonical h (fun q s hs => ?_)
  grind [!State.queueTrap_canonical, memoryCanonical]

/-! ### Machine/Hubs.lean -/

theorem execSignatureRollover_canonical {s : State} (h : memoryCanonical s) : outcomeCanonical (execSignatureRollover s) := by
  unfold execSignatureRollover
  grind [!State.rolloverCore_canonical, !State.rolloverRest_canonical, !canonical_foldl, outcomeCanonical, memoryCanonical]

theorem execBucketWindow_canonical {s : State} (h : memoryCanonical s) : outcomeCanonical (execBucketWindow s) := by
  unfold execBucketWindow
  grind [!State.setPort_canonical, !canonical_foldl, outcomeCanonical, memoryCanonical]

theorem execPageMigrate_canonical {s : State} (h : memoryCanonical s) : outcomeCanonical (execPageMigrate s) := by
  unfold execPageMigrate
  grind [!recallRange_canonical, !walkPage_canonical, !State.tlbi_canonical, !State.drainIn_canonical, !flushPage_canonical,
    !State.moveSidebands_canonical, !State.leaveForward_canonical, !State.writePpn_canonical, !State.wakePage_canonical, !movePage_wf,
    outcomeCanonical, memoryCanonical]

theorem execForeignWrite_canonical {s : State} (h : memoryCanonical s) : outcomeCanonical (execForeignWrite s) := by
  unfold execForeignWrite
  grind [!foreignWrite_canonical, !State.hostUpdate_canonical, outcomeCanonical, memoryCanonical, optCanonical]

theorem execBar2Access_canonical {s : State} (h : memoryCanonical s) : outcomeCanonical (execBar2Access s) := by
  unfold execBar2Access
  grind [!State.count_canonical, !State.bar2_canonical, outcomeCanonical, memoryCanonical, optSndCanonical]

theorem execCxlMemRequest_canonical {s : State} (h : memoryCanonical s) : outcomeCanonical (execCxlMemRequest s) := by
  unfold execCxlMemRequest
  grind [!homeRead_canonical, !foreignWrite_canonical, outcomeCanonical, memoryCanonical]

theorem execPcieCxlLinkTraining_canonical {s : State} (h : memoryCanonical s) : outcomeCanonical (execPcieCxlLinkTraining s) := by
  unfold execPcieCxlLinkTraining
  grind [!State.setModule_canonical, outcomeCanonical, memoryCanonical]

theorem execHubTimeout_canonical {s : State} (h : memoryCanonical s) : outcomeCanonical (execHubTimeout s) := by
  unfold execHubTimeout
  grind [!State.losePeer_canonical, outcomeCanonical, memoryCanonical]

theorem execScrubStep_canonical {s : State} (h : memoryCanonical s) : outcomeCanonical (execScrubStep s) := by
  unfold execScrubStep
  grind [!State.eccRead_canonical, outcomeCanonical, memoryCanonical]

theorem execEccError_canonical {s : State} (h : memoryCanonical s) : outcomeCanonical (execEccError s) := by
  unfold execEccError
  grind [!State.setCore_canonical, !State.count_canonical, !State.hitWord_canonical, !State.hitUnit_canonical, outcomeCanonical, memoryCanonical]

/-! ### Machine/Training.lean -/

theorem execTrainingStart_canonical {s : State} (h : memoryCanonical s) : outcomeCanonical (execTrainingStart s) := by
  unfold execTrainingStart
  grind [!State.startTraining_canonical, outcomeCanonical, memoryCanonical]

theorem execTrainingAbort_canonical {s : State} (h : memoryCanonical s) : outcomeCanonical (execTrainingAbort s) := by
  unfold execTrainingAbort
  grind [!State.abortTraining_canonical, outcomeCanonical, memoryCanonical]

theorem execTrainingStep_canonical {s : State} (h : memoryCanonical s) : outcomeCanonical (execTrainingStep s) := by
  unfold execTrainingStep
  grind [!State.setPhy_canonical, !destroyChannel_canonical, outcomeCanonical, memoryCanonical]

theorem execTrainingStepTimeout_canonical {s : State} (h : memoryCanonical s) : outcomeCanonical (execTrainingStepTimeout s) := by
  unfold execTrainingStepTimeout
  grind [!State.setPhy_canonical, outcomeCanonical, memoryCanonical]

theorem execLinkStart_canonical {s : State} (h : memoryCanonical s) : outcomeCanonical (execLinkStart s) := by
  unfold execLinkStart
  grind [!State.linkOn_canonical, outcomeCanonical, memoryCanonical]

theorem execLinkDown_canonical {s : State} (h : memoryCanonical s) : outcomeCanonical (execLinkDown s) := by
  unfold execLinkDown
  grind [!State.linkOff_canonical, outcomeCanonical, memoryCanonical]

theorem execLinkStateAdvance_canonical {s : State} (h : memoryCanonical s) : outcomeCanonical (execLinkStateAdvance s) := by
  unfold execLinkStateAdvance
  grind [!State.setModule_canonical, !State.setFabric_canonical, outcomeCanonical, memoryCanonical]

end Sys2Proof.Machine
end

section
/-! SUPPORT. The form of memory is kept: instructions and steps of caches, the mailbox, registers, boot and links. -/

namespace Sys2Proof.Machine

open Safety

-- Every lemma here cites those before it: one after another, none holds a thread to wait for them.
set_option Elab.async false

/-! ### Machine/Training.lean -/

theorem execLinkStateTimeout_canonical {s : State} (h : memoryCanonical s) : outcomeCanonical (execLinkStateTimeout s) := by
  unfold execLinkStateTimeout
  grind [!State.setFabric_canonical, outcomeCanonical, memoryCanonical]

theorem execLinkLoss_canonical {s : State} (h : memoryCanonical s) : outcomeCanonical (execLinkLoss s) := by
  unfold execLinkLoss
  grind [!State.setFabric_canonical, !State.leaveLink_canonical, outcomeCanonical, memoryCanonical]

/-! ### Machine/Boot.lean -/

theorem execRailStep_canonical {s : State} (h : memoryCanonical s) : outcomeCanonical (execRailStep s) := by
  unfold execRailStep
  grind [!State.setModule_canonical, outcomeCanonical, memoryCanonical]

theorem execRailWindowMiss_canonical {s : State} (h : memoryCanonical s) : outcomeCanonical (execRailWindowMiss s) := by
  unfold execRailWindowMiss
  grind [!State.setModule_canonical, !State.enterSafe_canonical, outcomeCanonical, memoryCanonical]

theorem execRailLoss_canonical {s : State} (h : memoryCanonical s) : outcomeCanonical (execRailLoss s) := by
  unfold execRailLoss
  grind [!State.setModule_canonical, outcomeCanonical, memoryCanonical]

theorem execPowerDown_canonical {s : State} (h : memoryCanonical s) : outcomeCanonical (execPowerDown s) := by
  unfold execPowerDown
  grind [!State.setModule_canonical, !State.dropUnits_canonical, !dropMemory_canonical, outcomeCanonical, memoryCanonical]

theorem execInputLoss_canonical {s : State} (h : memoryCanonical s) : outcomeCanonical (execInputLoss s) := by
  unfold execInputLoss
  grind [!State.setModule_canonical, !State.dropUnits_canonical, !dropMemory_canonical, outcomeCanonical, memoryCanonical]

theorem execDvfsChange_canonical {s : State} (h : memoryCanonical s) : outcomeCanonical (execDvfsChange s) := by
  unfold execDvfsChange
  grind [!State.setModule_canonical, outcomeCanonical, memoryCanonical]

theorem execPowerSample_canonical {s : State} (h : memoryCanonical s) : outcomeCanonical (execPowerSample s) := by
  unfold execPowerSample
  grind [!State.setModule_canonical, !canonical_foldl, outcomeCanonical, memoryCanonical]

theorem execPowerWindow_canonical {s : State} (h : memoryCanonical s) : outcomeCanonical (execPowerWindow s) := by
  unfold execPowerWindow
  grind [!State.setModule_canonical, !canonical_foldl, outcomeCanonical, memoryCanonical]

theorem execRomBoot_canonical {s : State} (h : memoryCanonical s) : outcomeCanonical (execRomBoot s) := by
  unfold execRomBoot
  grind [!State.setModule_canonical, !State.enterSafe_canonical, outcomeCanonical, memoryCanonical]

theorem execSelfTest_canonical {s : State} (h : memoryCanonical s) : outcomeCanonical (execSelfTest s) := by
  unfold execSelfTest
  grind [!State.setModule_canonical, !State.enterSafe_canonical, !State.loadFirmware_canonical, outcomeCanonical, memoryCanonical]

/-! ### Machine/Caches.lean -/

theorem execPref_canonical {s : State} (h : memoryCanonical s) (f : Form64) : outcomeCanonical (execPref f s) := by
  unfold execPref
  refine runCore_canonical h _ (fun x s hs => ?_)
  grind [!Iss.prefEach_canonical, memoryCanonical, Res.canonical]

theorem execCctl_canonical {s : State} (h : memoryCanonical s) (f : Form64) : outcomeCanonical (execCctl f s) := by
  unfold execCctl
  refine runCore_canonical h _ (fun x s hs => ?_)
  grind [!State.drain_canonical, !Iss.closed_canonical, !Iss.release_canonical, !Iss.cctlEach_canonical, !State.invalidateAll_canonical,
    memoryCanonical, Res.canonical]

theorem execMaps_canonical {s : State} (h : memoryCanonical s) (f : Form64) : outcomeCanonical (execMaps f s) := by
  unfold execMaps
  refine runCore_canonical h _ (fun x s hs => ?_)
  grind [!State.setGroup_canonical, !State.drain_canonical, !Iss.trap_canonical, !Iss.closed_canonical, memoryCanonical, Res.canonical]

theorem execUnmaps_canonical {s : State} (h : memoryCanonical s) (f : Form64) : outcomeCanonical (execUnmaps f s) := by
  unfold execUnmaps
  refine runCore_canonical h _ (fun x s hs => ?_)
  grind [!State.unmapInterval_canonical, !Iss.flushFrame_canonical, memoryCanonical, Res.canonical]

theorem execFlushs_canonical {s : State} (h : memoryCanonical s) (f : Form64) : outcomeCanonical (execFlushs f s) := by
  unfold execFlushs
  refine runCore_canonical h _ (fun x s hs => ?_)
  grind [!Iss.flushFrame_canonical, memoryCanonical, Res.canonical]

/-! ### Machine/Mailbox.lean -/

theorem execBadcmd_canonical {s : State} (h : memoryCanonical s) : outcomeCanonical (execBadcmd s) := by
  unfold execBadcmd
  grind [!State.reply_canonical, outcomeCanonical, memoryCanonical]

theorem execStage_canonical {s : State} (h : memoryCanonical s) : outcomeCanonical (execStage s) := by
  unfold execStage
  refine State.command_canonical h _ _ _ (fun m req s hs => ?_)
  grind [!State.setModule_canonical, !State.reply_canonical, !canonical_foldl, memoryCanonical]

theorem execVerify_canonical {s : State} (h : memoryCanonical s) : outcomeCanonical (execVerify s) := by
  unfold execVerify
  refine State.command_canonical h _ _ _ (fun m req s hs => ?_)
  grind [!State.setModule_canonical, !State.reply_canonical, memoryCanonical]

theorem execRaisesvn_canonical {s : State} (h : memoryCanonical s) : outcomeCanonical (execRaisesvn s) := by
  unfold execRaisesvn
  refine State.command_canonical h _ _ _ (fun m req s hs => ?_)
  grind [!State.setModule_canonical, !State.reply_canonical, memoryCanonical]

theorem execEnrol_canonical {s : State} (h : memoryCanonical s) : outcomeCanonical (execEnrol s) := by
  unfold execEnrol
  refine State.command_canonical h _ _ _ (fun m req s hs => ?_)
  grind [!State.setModule_canonical, !State.reply_canonical, memoryCanonical]

theorem execKeydis_canonical {s : State} (h : memoryCanonical s) : outcomeCanonical (execKeydis s) := by
  unfold execKeydis
  refine State.command_canonical h _ _ _ (fun m req s hs => ?_)
  grind [!State.setModule_canonical, !State.reply_canonical, memoryCanonical]

theorem execVendoroff_canonical {s : State} (h : memoryCanonical s) : outcomeCanonical (execVendoroff s) := by
  unfold execVendoroff
  refine State.command_canonical h _ _ _ (fun m req s hs => ?_)
  grind [!State.setModule_canonical, !State.reply_canonical, memoryCanonical]

theorem execExtend_canonical {s : State} (h : memoryCanonical s) : outcomeCanonical (execExtend s) := by
  unfold execExtend
  refine State.command_canonical h _ _ _ (fun m req s hs => ?_)
  grind [!State.setModule_canonical, !State.reply_canonical, memoryCanonical]

theorem execSetplim_canonical {s : State} (h : memoryCanonical s) : outcomeCanonical (execSetplim s) := by
  unfold execSetplim
  refine State.command_canonical h _ _ _ (fun m req s hs => ?_)
  grind [!State.setModule_canonical, !State.reply_canonical, memoryCanonical]

theorem execSetpoint_canonical {s : State} (h : memoryCanonical s) : outcomeCanonical (execSetpoint s) := by
  unfold execSetpoint
  refine State.command_canonical h _ _ _ (fun m req s hs => ?_)
  grind [!State.setModule_canonical, !State.reply_canonical, memoryCanonical]

theorem execLinktrain_canonical {s : State} (h : memoryCanonical s) : outcomeCanonical (execLinktrain s) := by
  unfold execLinktrain
  refine State.command_canonical h _ _ _ (fun m req s hs => ?_)
  grind [!State.linkOff_canonical, !State.linkOn_canonical, !State.reply_canonical, memoryCanonical]

theorem execResync_canonical {s : State} (h : memoryCanonical s) : outcomeCanonical (execResync s) := by
  unfold execResync
  refine State.command_canonical h _ _ _ (fun m req s hs => ?_)
  grind [!homeWrite_canonical, !State.reply_canonical, !canonical_foldl, memoryCanonical]

/-! ### Machine/Resolve.lean -/

theorem execFdresolve_canonical {s : State} (h : memoryCanonical s) : outcomeCanonical (execFdresolve s) := by
  unfold execFdresolve
  grind [!State.resolveFault_canonical, outcomeCanonical, memoryCanonical]

theorem execFaultRecordFree_canonical {s : State} (h : memoryCanonical s) : outcomeCanonical (execFaultRecordFree s) := by
  unfold execFaultRecordFree
  grind [!State.setWarp_canonical, !State.recordFault_canonical, outcomeCanonical, memoryCanonical]

theorem execFaultEntryWrite_canonical {s : State} (h : memoryCanonical s) : outcomeCanonical (execFaultEntryWrite s) := by
  unfold execFaultEntryWrite
  grind [!State.setCtx_canonical, !State.writeFaultEntry_canonical, outcomeCanonical, memoryCanonical]

/-! ### Machine/Lifecycle.lean -/

theorem execActivate_canonical {s : State} (h : memoryCanonical s) : outcomeCanonical (execActivate s) := by
  unfold execActivate
  refine State.command_canonical h _ _ _ (fun m req s hs => ?_)
  grind [!State.setModule_canonical, !State.reply_canonical, !State.pauseFunction_canonical, !State.resetModule_canonical, !canonical_foldl,
    memoryCanonical]

theorem execAckPaused_canonical {s : State} (h : memoryCanonical s) : outcomeCanonical (execAckPaused s) := by
  unfold execAckPaused
  grind [!State.setCtx_canonical, outcomeCanonical, memoryCanonical]

theorem execActivationQuiesce_canonical {s : State} (h : memoryCanonical s) : outcomeCanonical (execActivationQuiesce s) := by
  unfold execActivationQuiesce
  grind [!State.freeze_canonical, !State.startImages_canonical, !State.endActivation_canonical, outcomeCanonical, memoryCanonical]

theorem execMigrateOut_canonical {s : State} (h : memoryCanonical s) : outcomeCanonical (execMigrateOut s) := by
  unfold execMigrateOut
  dsimp only
  split
  · trivial
  · refine State.command_canonical h _ _ _ (fun m req s hs => ?_)
    grind [!State.setCtx_canonical, !State.reply_canonical, !State.freeze_canonical, !State.thaw_canonical, !State.resumeFunction_canonical,
      memoryCanonical]

theorem execMigrateIn_canonical {s : State} (h : memoryCanonical s) : outcomeCanonical (execMigrateIn s) := by
  unfold execMigrateIn
  refine State.command_canonical h _ _ _ (fun m req s hs => ?_)
  grind [!State.reply_canonical, !State.migrate_canonical, memoryCanonical]

theorem execFunctionReset_canonical {s : State} (h : memoryCanonical s) : outcomeCanonical (execFunctionReset s) := by
  unfold execFunctionReset
  grind [!State.setCtx_canonical, !State.setQueue_canonical, !State.cancelCairn_canonical, !State.discardGroup_canonical,
    !State.discardSaved_canonical, !State.dropQueued_canonical, !canonical_foldl, outcomeCanonical, memoryCanonical]

theorem execModuleReset_canonical {s : State} (h : memoryCanonical s) : outcomeCanonical (execModuleReset s) := by
  unfold execModuleReset
  grind [!State.resetModule_canonical, outcomeCanonical, memoryCanonical]

/-! ### Machine/Moves.lean -/

theorem execV2s_canonical {s : State} (h : memoryCanonical s) (f : Form64) : outcomeCanonical (execV2s f s) := by
  unfold execV2s
  refine runCore_canonical h _ (fun x s hs => ?_)
  grind [!v2sEff_canonical, memoryCanonical, Res.canonical]

theorem execLxch_canonical {s : State} (h : memoryCanonical s) (f : Form64) : outcomeCanonical (execLxch f s) := by
  unfold execLxch
  refine runCore_canonical h _ (fun x s hs => ?_)
  grind [!lxchEff_canonical, memoryCanonical, Res.canonical]

theorem execSrr_canonical {s : State} (h : memoryCanonical s) (f : Form64) : outcomeCanonical (execSrr f s) := by
  unfold execSrr
  refine runCore_canonical h _ (fun x s hs => ?_)
  grind [!srrEff_canonical, memoryCanonical, Res.canonical]

theorem execSrw_canonical {s : State} (h : memoryCanonical s) (f : Form64) : outcomeCanonical (execSrw f s) := by
  unfold execSrw
  refine runCore_canonical h _ (fun x s hs => ?_)
  grind [!srwEff_canonical, memoryCanonical, Res.canonical]

/-! ### Machine/Registers.lean -/

theorem execRegisterWrite_canonical {s : State} (h : memoryCanonical s) : outcomeCanonical (execRegisterWrite s) := by
  unfold execRegisterWrite
  grind [!State.writePf_canonical, !State.writeVf_canonical, !State.writeControl_canonical, outcomeCanonical, memoryCanonical]

/-! ### Machine/Spdm.lean -/

theorem execGetVersion_canonical {s : State} (h : memoryCanonical s) : outcomeCanonical (execGetVersion s) :=
  State.spdm_canonical h _ _ _ _

theorem execGetCapabilities_canonical {s : State} (h : memoryCanonical s) : outcomeCanonical (execGetCapabilities s) :=
  State.spdm_canonical h _ _ _ _

theorem execNegotiateAlgorithms_canonical {s : State} (h : memoryCanonical s) : outcomeCanonical (execNegotiateAlgorithms s) :=
  State.spdm_canonical h _ _ _ _

theorem execGetDigests_canonical {s : State} (h : memoryCanonical s) : outcomeCanonical (execGetDigests s) :=
  State.spdm_canonical h _ _ _ _

theorem execGetCertificate_canonical {s : State} (h : memoryCanonical s) : outcomeCanonical (execGetCertificate s) :=
  State.spdm_canonical h _ _ _ _

theorem execSetCertificate_canonical {s : State} (h : memoryCanonical s) : outcomeCanonical (execSetCertificate s) :=
  State.spdm_canonical h _ _ _ _

theorem execChallenge_canonical {s : State} (h : memoryCanonical s) : outcomeCanonical (execChallenge s) :=
  State.spdm_canonical h _ _ _ _

theorem execGetMeasurements_canonical {s : State} (h : memoryCanonical s) : outcomeCanonical (execGetMeasurements s) :=
  State.spdm_canonical h _ _ _ _

theorem execUnsupportedSpdmRequest_canonical {s : State} (h : memoryCanonical s) : outcomeCanonical (execUnsupportedSpdmRequest s) := by
  unfold execUnsupportedSpdmRequest
  grind [!State.spdmAnswer_canonical, outcomeCanonical, memoryCanonical]

end Sys2Proof.Machine
end

section
/-! SUPPORT. A step keeps the form of memory: its plan does, and so does the instruction that it runs. -/

namespace Sys2Proof.Machine

open Safety

/-- An instruction keeps the form: those that compute registers or a predicate write no memory, and every other one by its own lemma. -/
theorem exec_canonical {s : State} (h : memoryCanonical s) : ∀ i : Instr, outcomeCanonical (exec i s)
  | .mov16 _ | .movi16 _ | .iadd16 _ | .isub16 _ | .imul16 _ | .and16 _ | .or16 _ | .xor16 _ | .shl16 _ | .shr16 _ | .sar16 _ | .fadd16 _
    | .fsub16 _ | .fmul16 _ | .fmin16 _ | .fmax16 _ | .iadd32 _ | .isub32 _ | .imul32 _ | .imulhi32 _ | .imulhn32 _ | .imini32 _ | .imaxi32 _
    | .iminn32 _ | .imaxn32 _ | .and32 _ | .or32 _ | .xor32 _ | .shl32 _ | .shr32 _ | .sar32 _ | .rot32 _ | .fadd32 _ | .fsub32 _ | .fmul32 _
    | .fmin32 _ | .fmax32 _ | .pfadd32 _ | .pfmul32 _ | .pfmin32 _ | .pfmax32 _ | .dadd32 _ | .dmul32 _ | .dmin32 _ | .dmax32 _ | .mov32 _
    | .ineg32 _ | .iabs32 _ | .not32 _ | .popc32 _ | .clz32 _ | .ctz32 _ | .brev32 _ | .frcp32 _ | .frsq32 _ | .fsqrt32 _ | .fexp232 _
    | .flog232 _ | .iadd64 _ | .isum _ | .isub64 _ | .ineg64 _ | .iabs64 _ | .imul64 _ | .imulh64 _ | .imad _ | .imadw _ | .imin64 _ | .imax64 _
    | .isad _ | .and64 _ | .or64 _ | .xor64 _ | .not64 _ | .blut _ | .shl64 _ | .shr64 _ | .sar64 _ | .shf _ | .rot64 _ | .popc64 _ | .clz64 _
    | .ctz64 _ | .brev64 _ | .bxtr _ | .bins _ | .bsel _ | .lea _ | .isel _ | .pgath _ | .lpeer _ | .mov64 _ | .movi64 _ | .movw _ | .s2v _
    | .fadd64 _ | .fsub64 _ | .fmul64 _ | .ffma _ | .fmin64 _ | .fmax64 _ | .fsel _ | .fclass _ | .frnd _ | .frcp64 _ | .frsq64 _ | .fsqrt64 _
    | .fexp264 _ | .flog264 _ | .fsin _ | .fcos _ | .ftanh _ | .pfadd64 _ | .pfmul64 _ | .pffma _ | .pfmin64 _ | .pfmax64 _ | .dadd64 _
    | .dmul64 _ | .dfma _ | .dmin64 _ | .dmax64 _ | .cvt _ | .cvtq _ | .cvtd _ | .pack _ | .unpk _ | .txst _ =>
      runCore_canonical h _ (fun x _ ht => laneOp_canonical ht _ _ x)
  | .icmp _ | .pset _ | .plut _ | .pmov _ | .fcmp _ | .dcmp _ => runCore_canonical h _ (fun x _ ht => predOp_canonical ht _ x)
  | .bra f => execBra_canonical h f
  | .brx f => execBrx_canonical h f
  | .call f => execCall_canonical h f
  | .callx f => execCallx_canonical h f
  | .ret f => execRet_canonical h f
  | .reconv f => execReconv_canonical h f
  | .prio f => execPrio_canonical h f
  | .yield f => execYield_canonical h f
  | .loop f => execLoop_canonical h f
  | .nop f => execNop_canonical h f
  | .exit f => execExit_canonical h f
  | .v2s f => execV2s_canonical h f
  | .lxch f => execLxch_canonical h f
  | .srr f => execSrr_canonical h f
  | .srw f => execSrw_canonical h f
  | .ld f => execLd_canonical h f
  | .st f => execSt_canonical h f
  | .ldx f => execLdx_canonical h f
  | .stx f => execStx_canonical h f
  | .pref f => execPref_canonical h f
  | .cctl f => execCctl_canonical h f
  | .maps f => execMaps_canonical h f
  | .unmaps f => execUnmaps_canonical h f
  | .flushs f => execFlushs_canonical h f
  | .atom f => execAtom_canonical h f
  | .atomc f => execAtomc_canonical h f
  | .red f => execRed_canonical h f
  | .waitv f => execWaitv_canonical h f
  | .lmon f => execLmon_canonical h f
  | .lmwait f => execLmwait_canonical h f
  | .fence f => execFence_canonical h f
  | .barInit f => execBarInit_canonical h f
  | .barExp f => execBarExp_canonical h f
  | .barArv f => execBarArv_canonical h f
  | .barWait f => execBarWait_canonical h f
  | .barTest f => execBarTest_canonical h f
  | .claim f => execClaim_canonical h f
  | .tres f => execTres_canonical h f
  | .trel f => execTrel_canonical h f
  | .tld f => execTld_canonical h f
  | .tst f => execTst_canonical h f
  | .twr f => execTwr_canonical h f
  | .trd f => execTrd_canonical h f
  | .magree f => execMagree_canonical h f
  | .msign f => execMsign_canonical h f
  | .mma f => execMma_canonical h f
  | .mmaq f => execMmaq_canonical h f
  | .mmas f => execMmas_canonical h f
  | .dmma f => execDmma_canonical h f
  | .accz f => execAccz_canonical h f
  | .accrd f => execAccrd_canonical h f
  | .accwr f => execAccwr_canonical h f
  | .accrmax f => execAccrmax_canonical h f
  | .accscl f => execAccscl_canonical h f
  | .copy f => execCopy_canonical h f
  | .txfer f => execTxfer_canonical h f
  | .trig f => execTrig_canonical h f
  | .scbset f => execScbset_canonical h f
  | .scbclr f => execScbclr_canonical h f
  | .flood f => execFlood_canonical h f
  | .echo f => execEcho_canonical h f
  | .waitf f => execWaitf_canonical h f
  | .testf f => execTestf_canonical h f
  | .cancelf f => execCancelf_canonical h f
  | .finfo f => execFinfo_canonical h f
  | .clause f => execClause_canonical h f
  | .role f => execRole_canonical h f
  | .txb f => execTxb_canonical h f
  | .txe f => execTxe_canonical h f
  | .txa f => execTxa_canonical h f
  | .syscall f => execSyscall_canonical h f
  | .eret f => execEret_canonical h f
  | .trap f => execTrap_canonical h f
  | .bpt f => execBpt_canonical h f
  | .tlbi f => execTlbi_canonical h f
  | .qwait f => execQwait_canonical h f
  | .qseed f => execQseed_canonical h f
  | .qeng f => execQeng_canonical h f
  | .qfence f => execQfence_canonical h f
  | .illegalOpcode len word => execIllegalOpcode_canonical h len word
  | .illegalInstructionException word => execIllegalInstructionException_canonical h word
  | .agePromotion => execAgePromotion_canonical h
  | .reconvRelease => execReconvRelease_canonical h
  | .heldSplit => execHeldSplit_canonical h
  | .valueArrival => execValueArrival_canonical h
  | .targetFaultPark => execTargetFaultPark_canonical h
  | .warpRetire => execWarpRetire_canonical h
  | .groupPlace => execGroupPlace_canonical h
  | .preemptRequest => execPreemptRequest_canonical h
  | .groupResume => execGroupResume_canonical h
  | .lateReturn => execLateReturn_canonical h
  | .sliceExpire => execSliceExpire_canonical h
  | .swapOut => execSwapOut_canonical h
  | .wakeMessage => execWakeMessage_canonical h
  | .roleSwitch => execRoleSwitch_canonical h
  | .matrixIssue => execMatrixIssue_canonical h
  | .matrixStep => execMatrixStep_canonical h
  | .floodMessageArrive => execFloodMessageArrive_canonical h
  | .cairnOpen => execCairnOpen_canonical h
  | .clauseDispatch => execClauseDispatch_canonical h
  | .gatherTimeoutClose => execGatherTimeoutClose_canonical h
  | .spillClauseDrain => execSpillClauseDrain_canonical h
  | .cancelArrive => execCancelArrive_canonical h
  | .echoArrive => execEchoArrive_canonical h
  | .cairnEcho => execCairnEcho_canonical h
  | .cairnFree => execCairnFree_canonical h
  | .silenceExpire => execSilenceExpire_canonical h
  | .mapReread => execMapReread_canonical h
  | .signatureRollover => execSignatureRollover_canonical h
  | .waitWake => execWaitWake_canonical h
  | .waitRecheck => execWaitRecheck_canonical h
  | .monitorFire => execMonitorFire_canonical h
  | .lmwaitTimeout => execLmwaitTimeout_canonical h
  | .bucketWindow => execBucketWindow_canonical h
  | .remoteRequest => execRemoteRequest_canonical h
  | .forwardResponse => execForwardResponse_canonical h
  | .pageMigrate => execPageMigrate_canonical h
  | .foreignWrite => execForeignWrite_canonical h
  | .bar2Access => execBar2Access_canonical h
  | .hubTimeout => execHubTimeout_canonical h
  | .txValidateCheck => execTxValidateCheck_canonical h
  | .tokenGrant => execTokenGrant_canonical h
  | .tokenTimeout => execTokenTimeout_canonical h
  | .tileLanding => execTileLanding_canonical h
  | .engineComplete => execEngineComplete_canonical h
  | .collectiveReport => execCollectiveReport_canonical h
  | .trigFire => execTrigFire_canonical h
  | .trapEntry => execTrapEntry_canonical h
  | .faultRecordFree => execFaultRecordFree_canonical h
  | .faultEntryWrite => execFaultEntryWrite_canonical h
  | .scrubStep => execScrubStep_canonical h
  | .tailDoorbell => execTailDoorbell_canonical h
  | .qctlEnable => execQctlEnable_canonical h
  | .qctlStop => execQctlStop_canonical h
  | .qctlClear => execQctlClear_canonical h
  | .fdresolve => execFdresolve_canonical h
  | .ackPaused => execAckPaused_canonical h
  | .registerWrite => execRegisterWrite_canonical h
  | .seedPacket => execSeedPacket_canonical h
  | .copyPacket => execCopyPacket_canonical h
  | .waitPacket => execWaitPacket_canonical h
  | .signalPacket => execSignalPacket_canonical h
  | .fencePacket => execFencePacket_canonical h
  | .cancelPacket => execCancelPacket_canonical h
  | .stage => execStage_canonical h
  | .verify => execVerify_canonical h
  | .activate => execActivate_canonical h
  | .activationQuiesce => execActivationQuiesce_canonical h
  | .raisesvn => execRaisesvn_canonical h
  | .enrol => execEnrol_canonical h
  | .keydis => execKeydis_canonical h
  | .vendoroff => execVendoroff_canonical h
  | .extend => execExtend_canonical h
  | .setplim => execSetplim_canonical h
  | .setpoint => execSetpoint_canonical h
  | .migrateOut => execMigrateOut_canonical h
  | .migrateIn => execMigrateIn_canonical h
  | .resync => execResync_canonical h
  | .linktrain => execLinktrain_canonical h
  | .getVersion => execGetVersion_canonical h
  | .getCapabilities => execGetCapabilities_canonical h
  | .negotiateAlgorithms => execNegotiateAlgorithms_canonical h
  | .getDigests => execGetDigests_canonical h
  | .getCertificate => execGetCertificate_canonical h
  | .challenge => execChallenge_canonical h
  | .getMeasurements => execGetMeasurements_canonical h
  | .setCertificate => execSetCertificate_canonical h
  | .railStep => execRailStep_canonical h
  | .railWindowMiss => execRailWindowMiss_canonical h
  | .inputLoss => execInputLoss_canonical h
  | .romBoot => execRomBoot_canonical h
  | .selfTest => execSelfTest_canonical h
  | .powerSample => execPowerSample_canonical h
  | .powerWindow => execPowerWindow_canonical h
  | .dvfsChange => execDvfsChange_canonical h
  | .trainingStart => execTrainingStart_canonical h
  | .trainingAbort => execTrainingAbort_canonical h
  | .trainingStep => execTrainingStep_canonical h
  | .trainingStepTimeout => execTrainingStepTimeout_canonical h
  | .linkStart => execLinkStart_canonical h
  | .linkDown => execLinkDown_canonical h
  | .linkStateAdvance => execLinkStateAdvance_canonical h
  | .linkStateTimeout => execLinkStateTimeout_canonical h
  | .linkLoss => execLinkLoss_canonical h
  | .functionReset => execFunctionReset_canonical h
  | .moduleReset => execModuleReset_canonical h
  | .storeAcknowledgement => execStoreAcknowledgement_canonical h
  | .dirtyWriteBack => execDirtyWriteBack_canonical h
  | .eccError => execEccError_canonical h
  | .powerDown => execPowerDown_canonical h
  | .railLoss => execRailLoss_canonical h
  | .pcieCxlLinkTraining => execPcieCxlLinkTraining_canonical h
  | .cxlMemRequest => execCxlMemRequest_canonical h
  | .invalidPacketType => execInvalidPacketType_canonical h
  | .badcmd => execBadcmd_canonical h
  | .unsupportedSpdmRequest => execUnsupportedSpdmRequest_canonical h

theorem step_canonical {s : State} (h : memoryCanonical s) : outcomeCanonical (step s) := by
  have hp := State.plan_canonical h
  unfold step
  split <;> rename_i e <;> rw [e] at hp
  · exact exec_canonical hp _
  · exact hp
  · trivial

/-- Settles O58: the plan of a step and the instruction that it runs keep memory in its canonical form, since every function of the model does. -/
theorem everyStepKeepsMemoryCanonical : Obligations.EveryStepKeepsMemoryCanonical := by
  unfold Obligations.EveryStepKeepsMemoryCanonical
  intro s t h ht
  have hs := step_canonical h
  rw [ht] at hs
  exact hs

end Sys2Proof.Machine
end
